-- ==== Sys2Proof/Word.lean ====
section
/-! DEFINITION. The words the manual treats as bits, and their plainest arithmetic. -/

namespace Sys2Proof

/-- A manager register, a general register of an engine, a domain time (01 R5, 05 Registers). -/
abbrev Word := BitVec 64
/-- One byte. -/
abbrev Byte := BitVec 8
/-- A block register of an engine (05 Registers). -/
abbrev Block := BitVec 128
/-- The material of one key record part, and a key register (06, 08 R207). -/
abbrev Key256 := BitVec 256

/-- Bits hi down to lo of a word, as a number. -/
def bits {w : Nat} (v : BitVec w) (hi lo : Nat) : Nat := v.toNat / 2 ^ lo % 2 ^ (hi + 1 - lo)

/-- One bit of a word. -/
def bit {w : Nat} (v : BitVec w) (i : Nat) : Bool := v.getLsbD i

/-- A word with bits hi down to lo replaced by the low bits of n. -/
def setBits {w : Nat} (v : BitVec w) (hi lo n : Nat) : BitVec w :=
  let m := 2 ^ (hi + 1 - lo)
  BitVec.ofNat w (v.toNat - v.toNat / 2 ^ lo % m * 2 ^ lo + n % m * 2 ^ lo)

/-- A field value placed at its lowest bit. -/
def fld (n lo : Nat) : Nat := n * 2 ^ lo

/-- A truth value as a number. -/
def b2n (b : Bool) : Nat := if b then 1 else 0

/-- Quotient rounded up (the manual's ceil). -/
def ceilDiv (a b : Nat) : Nat := (a + b - 1) / b

end Sys2Proof
end

