-- ==== Sys2Proof/Operand.lean ====
section
/-! DEFINITION. The kinds of operand that the commands carry: names of the manual's fixed sets, and the data that a
command brings from outside the module (an order read from host memory, an envelope, a card's answer). -/

namespace Sys2Proof

/-- A room (01, 64 rooms). -/
abbrev Room := Fin 64
/-- An engine (05, 512 engines); engine e sits in room e / 8 as local engine e % 8. -/
abbrev EngIx := Fin 512
/-- A local engine of a room. -/
abbrev LocIx := Fin 8
/-- A big-number engine (09). -/
abbrev BnIx := Fin 16
/-- A slice (03). -/
abbrev Slice := Fin 1024
/-- A local queue pair of a slice (03). -/
abbrev PairIx := Fin 4
/-- A deadline class c0 to c7 (04 R100). -/
abbrev Class := Fin 8
/-- A general register x0 to x31. -/
abbrev XReg := Fin 32
/-- A block register b0 to b15. -/
abbrev BReg := Fin 16
/-- A key register k0 to k7. -/
abbrev KReg := Fin 8
/-- A member number of a domain (10 R265). -/
abbrev Member := Fin 262144

/-- Life-cycle state (01 SYS_MODE.LC). -/
inductive LifeCycle | blank | test | production | analysis | retired
deriving DecidableEq, Repr

/-- Time status (01 SYS_MODE.TIME). -/
inductive TimeStatus | locked | holdover | free
deriving DecidableEq, Repr

/-- Domain status (01 SYS_MODE.DOMAIN). -/
inductive DomainStatus | unenrolled | member | degraded | isolated
deriving DecidableEq, Repr

/-- The status codes of 03 R98. -/
inductive Status
  | done | authFail | busy | noContext | spoof | policy | noKey | locked | poison | aborted | malformed
  | deadlineFault | quorum | timeUntrusted | rejectLimit | guardOverflow | notReady | quota | doorFault
deriving DecidableEq, Repr

/-- What reading a protected word finds (16 R434). -/
inductive Ecc | ok | corrected | uncorrectable
deriving DecidableEq, Repr

/-- What a word that the scrubber reads belongs to, where the manual gives no map from the word to it (16 R435): an order
whose staging granule or stream context it is part of, a pair key of the CU caches, a change in the journal buffer, or an
on-die node of level 2, 3 or 4 over a record index. -/
inductive ScrubHolds
  | other
  | order (o : Nat)
  | pair (number : Nat)
  | change (ix : Nat)
  | node (level : Fin 3) (ix : Nat)
deriving DecidableEq, Repr

/-- A PCI Express read: its data, or one of the failures of 03 R97. -/
inductive HostRead (α : Type) | ok (data : α) | failed
deriving DecidableEq, Repr

/-- One submission-queue entry as read from host memory: 64 bytes as one little-endian number. -/
abbrev OrderWord := BitVec 512

/-- What the cellar path finds when it reads a record (08 R219): the record line and its leaf node, or the line found
in the key cache with its own check. -/
inductive CellarRead
  | clean          -- every word and MAC checks
  | corrected      -- a correctable SECDED error in the record line, or in the cached line, corrected and written back
  | leafCorrected  -- a correctable SECDED error in the leaf node, corrected and written back
  | lineError      -- uncorrectable SECDED error in the record line
  | lineMac        -- MAC failure of the record line
  | leafError      -- uncorrectable error in the leaf node
  | leafMac        -- MAC failure of the leaf node
  | nodeError (level : Fin 3)  -- uncorrectable error in an on-die node of level 2, 3 or 4
  | cacheError (refetch : CellarRead)  -- uncorrectable error in the key-cache line; what the refetch from the cellar finds
deriving DecidableEq, Repr

/-- What the restore of a start finds in vault flash (08 R224, 16 R448, R450). -/
structure RestoreIn where
  /-- The newer image copy is complete; the other copy, where it holds an image, is. -/
  newer    : Bool := true
  older    : Bool := true
  /-- Journal pages, from the mark, before the first of which neither copy is valid, where there is one. -/
  gap      : Option Nat := none
  /-- Blocks of 64 records whose page of the current image is not valid. -/
  badPages : List Nat := []
deriving DecidableEq, Repr

/-- Where KEYLOAD takes its part index from (06 R169, PR). -/
inductive PartSel | imm (n : Fin 64) | reg (r : Fin 32)
deriving DecidableEq, Repr

/-- The key source of an AES instruction (06, KSRC). -/
inductive AesKey | reg (k : KReg) | pair (j : KReg)
deriving DecidableEq, Repr

/-- Size of a frame load or store (05). -/
inductive Size | b | h | w | d
deriving DecidableEq, Repr

/-- The algorithms of the shared hash unit (06). -/
inductive HashAlg
  | sha224 | sha256 | sha384 | sha512 | sha512t256 | sha3x224 | sha3x256 | sha3x384 | sha3x512 | shake128 | shake256
deriving DecidableEq, Repr

/-- A doorframe of an engine: beside its load and store path, or beside its DMA path (05). -/
inductive DoorKind | ls | dma
deriving DecidableEq, Repr

/-- An operation described by BNSET (09): a service operation on a parameter set, or a slot program of the constant
section (first instruction, count minus 1). -/
inductive BnSet
  | service (op : Fin 256) (set : Fin 64)
  | slots (first : Fin 8192) (countM1 : Fin 4096)
deriving DecidableEq, Repr

/-- The condition flag of a SKIP (09): 0 EQ, 1 LT, 2 REJ, 3 GUARD, 4 SHORT; values 5 to 7 name no flag. -/
abbrev SkipFlag := Fin 8

/-- A ticket (12 R353): 272 bytes as one little-endian number, and whether its signature verifies under the key whose
SHA-256 it names (an outcome of ECDSA P-384, which the command carries). -/
structure Ticket where
  raw   : BitVec 2176
  sigOk : Bool
deriving DecidableEq, Repr

/-- A custodian register entry as a TICKET envelope carries it (12 R362, R363). -/
structure RegEntry where
  ix     : Fin 64
  kindB  : Bool
  pub    : BitVec 768
  name   : BitVec 128
  serial : BitVec 32
  /-- Its ECDSA P-384 signature under the DATK, and whether it verifies. -/
  sig    : BitVec 768 := 0
  sigOk  : Bool := true
deriving DecidableEq, Repr

/-- The header fields of an envelope that its row does not fix (10 R280), and its tag. The body comes decrypted: the bytes sent
and the bytes meant determine each other, and the tag is checked over the bytes sent (R281). -/
structure EnvHdr where
  sender    : Member
  recipient : Member
  /-- Magic, format, mode, lengths and reserved bytes are right (R282 order 1). -/
  formOk    : Bool
  domain    : BitVec 128
  seq       : Word
  sendTime  : Word
  locked    : Bool
  pairId    : BitVec 32
  /-- The 16 bytes of the tag field (R281). -/
  tag       : BitVec 128
  /-- The stair position or host ring it came by is no part of the checks; 0 host, else port + 1. -/
  via       : Fin 3
deriving DecidableEq, Repr

/-- A member certificate (10 R266), byte fields as little-endian numbers. -/
structure Cert where
  domain   : BitVec 128 := 0
  device   : BitVec 128 := 0
  member   : Member := 0
  serial   : BitVec 32 := 0
  joinTime : Word := 0
  sponsor  : Member := 0
  /-- DAK public key, X25519 public value, ML-KEM-768 encapsulation key. -/
  dak      : BitVec 768 := 0
  x        : BitVec 256 := 0
  ek       : BitVec 9472 := 0
  /-- The ECDSA and the ML-DSA-65 signature. -/
  ecdsa    : BitVec 768 := 0
  mldsa    : BitVec 26472 := 0
  /-- Both verify under the DATK: an outcome of signature verification, which the command carries. -/
  sigsOk   : Bool := true
deriving DecidableEq, Repr

/-- What a JOIN_ACK carries (10 R279): its clear part, and its sealed part. -/
structure JoinBody where
  eS     : BitVec 256
  ctC    : BitVec 8704
  cert   : Cert
  domain : BitVec 128
  /-- The DATK private keys: ECDSA P-384 scalar and ML-DSA-65 private key. -/
  datkP  : BitVec 384
  datkQ  : BitVec 32256
  jk     : Key256
  cfg    : Word
  watch  : Word
deriving DecidableEq, Repr

/-- A roster entry as a ROSTER_SYNC carries it (10 R267): 0 free, 1 active, 2 removed. -/
structure RosterEntry where
  device   : BitVec 128
  state    : Fin 3
  serial   : BitVec 32
  joinTime : Word
  digest   : BitVec 384
deriving DecidableEq, Repr

/-- A custody position byte (11): active holder or share holder, with its index. -/
structure Pos where
  active : Bool
  ix     : Fin 64
deriving DecidableEq, Repr

/-- The leading 16 bytes of a custody envelope (11, Custody envelopes). -/
structure CuHdr where
  group : Word
  gen   : BitVec 32
  pos   : Pos
  /-- Recipient position, FFh for every role member. -/
  dest  : Byte := 0xFF
deriving DecidableEq, Repr

/-- The scalars of one share (11 R311): the two halves of s and of t. -/
structure ShareVal where
  sLo : Nat
  sHi : Nat
  tLo : Nat
  tHi : Nat
deriving DecidableEq, Repr

/-- One generation in a SHARE envelope (11 kind 27h). -/
structure ShareGen where
  gen    : BitVec 32
  val    : ShareVal
  /-- Its commitment block (R311): k points of half lo, then k of half hi, each in its 32-byte encoding. -/
  block  : List (BitVec 256)
deriving DecidableEq, Repr

/-- A group descriptor (11, Creation), field by field. -/
structure GroupDesc where
  group  : Word
  h : Nat
  n : Nat
  k : Nat
  f : Nat
  e : Nat
  rb : Nat    -- seconds
  gexp : Nat
  holders : List Member   -- A1 to Ah
  shares  : List Member   -- S1 to Sn
deriving DecidableEq, Repr

/-- State of one position in GROUP_STATE (11 kind 20h). -/
inductive PosState | none | confirmed | pending | lost | rebuilding
deriving DecidableEq, Repr

/-- The body of a GROUP_STATE (11 kind 20h). -/
structure GroupStateBody where
  version : BitVec 32
  /-- The 256 bytes of the descriptor. -/
  desc    : BitVec 2048
  states  : List PosState     -- positions A1.. then S1..
  rc      : Word
  target  : Option Pos
deriving DecidableEq, Repr

/-- A backup in the restore ring (11 R337, R340), its record lines decrypted. -/
structure Backup where
  formOk : Bool
  group  : Word
  member : Member
  bkGen  : BitVec 32
  handle : Word
  /-- Domain time of emission, nonce, GCM tag. -/
  time   : Word := 0
  nonce  : BitVec 96 := 0
  tag    : BitVec 128 := 0
  /-- The record lines of the chain, 64 bytes each as R207 lays them out. -/
  lines  : List (BitVec 512)
deriving DecidableEq, Repr

/-- What one identity memory answers in a scan (18 R489): no acknowledgement, or the record of its first read and the one
that a second read brings when the first is refused. -/
inductive DevRead
  | nak
  | record (first second : BitVec 512)
deriving DecidableEq, Repr

/-- What one discovery scan meets (18 R490, R492). -/
structure ScanIn where
  /-- Bus clears made, and timeouts, in this scan. -/
  clears   : Nat
  timeouts : Nat
  /-- SDA stayed low after the third clear. -/
  stuck    : Bool
  /-- Devices 0 to 7; one that is not listed does not acknowledge. -/
  devs     : List DevRead
  /-- Tamper-clock cycle at which the scan ends, for an event of LID_ID. -/
  now      : Nat
deriving DecidableEq, Repr

/-- What the start sequence meets outside the module's own state (18 R482). -/
structure StartIn where
  /-- The plain header pages of image copies 0 and 1 decode (08 R225). -/
  headers  : Bool × Bool := (true, true)
  /-- The PROFILE_SEL balls as sampled (14 R415). -/
  psel     : Fin 4
  /-- Code of the test that source r fails in its start-up test (15 R423), 0 where it passes; an unlisted one passes. -/
  hearth   : List (Fin 16)
  scan     : ScanIn
  /-- Attic SRAM's header words read without an uncorrectable error (17 R472); it counts on a warm start only. -/
  atticOk  : Bool
  /-- Pages found torn in blocks that the directory names open (16 R453). -/
  torn     : Nat
deriving DecidableEq, Repr

/-- A T=1 block from a card, or a card's answer to a command, as the slot uses it (12). -/
inductive CardAnswer
  | ident (pub : BitVec 768) (half : Fin 256)
  | verifyOk
  | verifyFail
  | signature (sig : BitVec 768)
  /-- The card's ephemeral public value, and the half under AES key wrap. -/
  | half (data : BitVec 1096)
  | written
  | refused
  | badEdc
  | unsupported
deriving DecidableEq, Repr

/-- An answer-to-reset, the parameters the slot uses (12 R347 to R349). -/
structure Atr where
  /-- The class indicator: none, or which of A, B, C it includes. -/
  classInd : Option (Bool × Bool × Bool)
  offersT1 : Bool
  /-- TA2 present: specific mode, with its Fi and Di codes. -/
  ta2      : Option (Fin 16 × Fin 16)
  ta1      : Fin 16 × Fin 16
  ifsc     : Option (Fin 256)
  cwi      : Option (Fin 16)
  bwi      : Option (Fin 16)
  needsCrc : Bool
deriving DecidableEq, Repr

/-- One module of a SCAN frame (10 R297): identity, member number, enrolled bit. -/
structure ScanHop where
  device   : BitVec 128
  member   : Member
  enrolled : Bool
deriving DecidableEq, Repr

/-- A DATA frame (10 R293): its header, payload and CRC. -/
structure Frame where
  src   : Fin 256
  dst   : Fin 256
  hops  : Fin 256
  seq   : BitVec 32
  tag   : BitVec 16
  frag  : Fin 256
  frags : Fin 256
  payload : List Byte := []
  crc   : BitVec 32 := 0
deriving DecidableEq, Repr

/-- A report of a health test that fails (15 R420), by its code 1h to 5h. -/
abbrev TestCode := Fin 16

end Sys2Proof
end

