-- ==== Sys2Proof/Syntax.lean ====
section
/-! DEFINITION. The commands of the block: one constructor for each row of spec/opcode_table.json, in the table's
order, with the row's operands. A command that stands for something the module reads from outside (an order, an image, an
envelope, a card's answer) carries what is read. -/

namespace Sys2Proof

/-- The commands. Each constructor's docstring gives its row's name, its rule and the table's own summary. -/
inductive Instr where
  /-- REGISTER_WRITE (R4). A manager write to a register that has no behaviour of its own sets its RW fields or clears W1C bits; a refused or unassigned access is counted in SYS_ACC. -/
  | registerWrite (off : Nat) (size : Nat) (val : Word)
  /-- PWR_OK_RISE (R478). PWR_OK rises and, once PERST_N is also high, a power-up start begins. -/
  | pwrOkRise
  /-- PWR_OK_FALL (R368). Main power is withdrawn: the shutters change to battery sample periods and any start in progress is abandoned. -/
  | pwrOkFall (now : Nat)
  /-- PERST_FALL (R479). PERST_N falls: fetching stops, orders are aborted without PCIe writes, the journal buffer is programmed, and the main domain is held in reset. -/
  | perstFall
  /-- PERST_RISE (R478). PERST_N rises and a power-up or host start begins. -/
  | perstRise
  /-- MANAGER_RESET (R478). A write of 5A5Ah to SYS_RESET.CONFIRM begins a manager warm start after the preparation of R479. -/
  | managerReset
  /-- START (R482). The start sequence runs through clocks, OTP and BBRAM, zeroing, hearth tests, discovery, resumption, root check, vault-flash scan, attic load, profile load and routine reload. -/
  | start (i : StartIn)
  /-- CELLAR_RESTORE_DONE (R224). The cellar restore finishes (image, journal replay, chain deletion, generation advance, re-encryption) and READY rises. -/
  | cellarRestoreDone (i : RestoreIn)
  /-- LINK_UP (R10). The PCIe link reaches L0; capacities are recomputed and pending MSI-X messages may be sent. -/
  | linkUp (width : Fin 5) (speed : Fin 6)
  /-- LINK_DOWN (R10). The PCIe link goes down; completion writes that cannot be issued are discarded from then on. -/
  | linkDown
  /-- BUS_MASTER_ENABLE_CHANGE (R10). Bus mastering on a function is enabled or disabled, gating completion writes and MSI-X messages. -/
  | busMasterEnableChange (pf1 : Bool) (on : Bool)
  /-- POWER_STATE_CHANGE (R69). PF0 enters or leaves D3hot, stopping or resuming fetches for PF0 slices. -/
  | powerStateChange (d3hot : Bool)
  /-- MSIX_UNMASK (R95). An MSI-X vector is unmasked and a pending message is sent. -/
  | msixUnmask (pf1 : Bool) (vec : Fin 2048)
  /-- L1_ENTRY (R68). After every slice has been idle for PCH_L1_CFG.IDLE beats with ASPM L1 enabled, the module initiates L1 entry. -/
  | l1Entry
  /-- SLICE_ENABLE (R70). Setting SLT_BIND.ENABLE enables the slice unless another enabled slice holds the same PASID. -/
  | sliceEnable (s : Slice)
  /-- SLICE_DISABLE (R72). Clearing SLT_BIND.ENABLE stops fetching, aborts unpassed orders, and lets accepted orders finish. -/
  | sliceDisable (s : Slice)
  /-- SLICE_REBIND (R71). A write changing SLT_BIND PASID, TENANT or GEN takes effect only when the slice is disabled and inactive. -/
  | sliceRebind (s : Slice) (pasid : BitVec 20) (tenant : BitVec 16) (gen : BitVec 6)
  /-- QUEUE_CREATE (R75). PCH_QCMD create checks and creates a queue pair from its slice table words. -/
  | queueCreate (s : Slice) (q : PairIx)
  /-- QUEUE_DELETE (R76). PCH_QCMD delete stops fetching from a pair and aborts its unpassed orders. -/
  | queueDelete (s : Slice) (q : PairIx)
  /-- QUEUE_DELETE_DONE (R76). When the last accepted order of a deleted pair completes, both queues are freed and the command reports DONE. -/
  | queueDeleteDone (s : Slice) (q : PairIx)
  /-- SLICE_ABORT (R77). PCH_QCMD abort completes every fetched and accepted order of the slice with ABORTED at once. -/
  | sliceAbort (s : Slice)
  /-- SQ_TAIL_WRITE (R79). A doorbell write advances an SQ tail, after the PASID and index checks. -/
  | sqTailWrite (s : Slice) (pasid : Option (BitVec 20)) (off size : Nat) (val : Word)
  /-- CQ_HEAD_WRITE (R79). A doorbell write releases CQ entries up to the new head. -/
  | cqHeadWrite (s : Slice) (pasid : Option (BitVec 20)) (off size : Nat) (val : Word)
  /-- SQ_BATCH_FETCH (R84). The porch fetches a batch of up to 32 unconsumed SQ entries into an ingress bank when R81 leaves room. -/
  | sqBatchFetch (s : Slice) (q : PairIx) (entries : List (HostRead OrderWord))
  /-- ORDER_DISPATCH (R87). The reader takes the next order from a bank and runs the porch checks, the order-level checks and admission. -/
  | orderDispatch (ch : Fin 8) (ce ue : BitVec 8)
  /-- PARK_RELEASE (R109). When TB_NOW reaches a parked order's not-before time, the order is decided by the porter. -/
  | parkRelease (o : Nat)
  /-- CHARGE_RELEASE (R101). At the first multiple of the release step at or after an order's deadline, its charges are released. -/
  | chargeRelease (o : Nat)
  /-- BUSY_HINT_CLEAR (R107). The passing of a BUSY completion's retry beat clears the class bit of BUSY_HINT. -/
  | busyHintClear (s : Slice) (c : Class)
  /-- GRANT (R102). ADM_CMD grant checks the written grant under R103 and installs or refuses it. -/
  | grant (s : Slice) (c : Class)
  /-- GRANT_RELEASE (R103). ADM_CMD release removes the grant of a slice and class from the next admission decision. -/
  | grantRelease (s : Slice) (c : Class)
  /-- BE_CFG_WRITE (R104). A write to ADM_BE_CFG is clamped and ignored when it would leave a room over capacity. -/
  | beCfgWrite (val : Word)
  /-- PHASE_START (R125). A room starts an engine phase of a queued order on an in-service engine, allocating a frame and loading the order map. -/
  | phaseStart (o : Nat) (e : EngIx)
  /-- PREEMPT (R112). At the next bundle boundary the room preempts the running order with the latest deadline and saves its state. -/
  | preempt (r : Room)
  /-- ORDER_RESUME (R145). A preempted order resumes on an engine of its room with its registers restored. -/
  | orderResume (o : Nat) (e : EngIx)
  /-- PHASE_OVERRUN (R114). An order exceeding its phase bound is stopped and completed with DEADLINE_FAULT. -/
  | phaseOverrun (o : Nat)
  /-- DEADLINE_WATCHDOG (R115). An order without its completion by D minus 1, or a phase past its window, is stopped with DEADLINE_FAULT. -/
  | deadlineWatchdog (o : Nat)
  /-- ENGINE_TAKE_OUT (R147). RM_ENG_CTL takes an engine out of service, faulting the room's frame-holding orders and lowering capacity. -/
  | engineTakeOut (r : Room) (i : LocIx)
  /-- ENGINE_RETURN (R147). RM_ENG_CTL returns an engine, which runs its self-test. -/
  | engineReturn (r : Room) (i : LocIx)
  /-- ENGINE_SELFTEST_DONE (R147). A returned engine passes self-test and re-enters service, and capacity is recomputed. -/
  | engineSelftestDone (r : Room) (i : LocIx)
  /-- INPUT_DMA_COMPLETE (R97). An order's input read completes, or fails and ends the order with ABORTED. -/
  | inputDmaComplete (o : Nat) (data : HostRead (List Byte)) (bursts : List Nat)
  /-- INPUT_READ_TIMEOUT (R117). An input read not completed by the last w beats of the engine window counts as a completion timeout. -/
  | inputReadTimeout (o : Nat)
  /-- COMPLETION_WRITE (R83). The porch issues an order's output writes, completion write and interrupt, or discards them while the link is down. -/
  | completionWrite (o : Nat) (bursts : List Nat)
  /-- IRQ_COAL_TIMEOUT (R95). The oldest unsignalled completion of a pair waits COAL_TIME beats and the pair's vector is sent. -/
  | irqCoalTimeout (s : Slice) (q : PairIx)
  /-- NOP (R137). No operation. -/
  | nop (e : EngIx)
  /-- ADD (R132). rd receives rs1 plus rs2 modulo 2^64. -/
  | add (e : EngIx) (rd rs1 rs2 : XReg)
  /-- SUB (R132). rd receives rs1 minus rs2 modulo 2^64. -/
  | sub (e : EngIx) (rd rs1 rs2 : XReg)
  /-- AND (R132). rd receives rs1 AND rs2. -/
  | and (e : EngIx) (rd rs1 rs2 : XReg)
  /-- OR (R132). rd receives rs1 OR rs2. -/
  | or (e : EngIx) (rd rs1 rs2 : XReg)
  /-- XOR (R132). rd receives rs1 XOR rs2. -/
  | xor (e : EngIx) (rd rs1 rs2 : XReg)
  /-- ANDN (R132). rd receives rs1 AND NOT rs2. -/
  | andn (e : EngIx) (rd rs1 rs2 : XReg)
  /-- SLL (R132). rd receives rs1 shifted left by rs2[5:0]. -/
  | sll (e : EngIx) (rd rs1 rs2 : XReg)
  /-- SRL (R132). rd receives rs1 shifted right logically by rs2[5:0]. -/
  | srl (e : EngIx) (rd rs1 rs2 : XReg)
  /-- SRA (R132). rd receives rs1 shifted right arithmetically by rs2[5:0]. -/
  | sra (e : EngIx) (rd rs1 rs2 : XReg)
  /-- ROL (R132). rd receives rs1 rotated left by rs2[5:0]. -/
  | rol (e : EngIx) (rd rs1 rs2 : XReg)
  /-- ROR (R132). rd receives rs1 rotated right by rs2[5:0]. -/
  | ror (e : EngIx) (rd rs1 rs2 : XReg)
  /-- SLT (R132). rd receives 1 if rs1 is less than rs2 signed, else 0. -/
  | slt (e : EngIx) (rd rs1 rs2 : XReg)
  /-- SLTU (R132). rd receives 1 if rs1 is less than rs2 unsigned, else 0. -/
  | sltu (e : EngIx) (rd rs1 rs2 : XReg)
  /-- MUL (R132). rd receives the low 64 bits of rs1 times rs2. -/
  | mul (e : EngIx) (rd rs1 rs2 : XReg)
  /-- MULH (R132). rd receives the high 64 bits of the signed product. -/
  | mulh (e : EngIx) (rd rs1 rs2 : XReg)
  /-- MULHU (R132). rd receives the high 64 bits of the unsigned product. -/
  | mulhu (e : EngIx) (rd rs1 rs2 : XReg)
  /-- DIVU (R133). rd receives the unsigned quotient, or all ones on division by zero. -/
  | divu (e : EngIx) (rd rs1 rs2 : XReg)
  /-- REMU (R133). rd receives the unsigned remainder, or rs1 on division by zero. -/
  | remu (e : EngIx) (rd rs1 rs2 : XReg)
  /-- SEL (R132). rd receives rs1 when rd is nonzero, else rs2. -/
  | sel (e : EngIx) (rd rs1 rs2 : XReg)
  /-- POPC (R132). rd receives the number of 1 bits in rs1. -/
  | popc (e : EngIx) (rd rs1 : XReg)
  /-- CLZ (R132). rd receives the leading zeros of rs1. -/
  | clz (e : EngIx) (rd rs1 : XReg)
  /-- BSWAP (R132). rd receives rs1 with its bytes reversed. -/
  | bswap (e : EngIx) (rd rs1 : XReg)
  /-- ADDI (R132). rd receives rs1 plus sign-extended imm16. -/
  | addi (e : EngIx) (rd rs1 : XReg) (imm : BitVec 16)
  /-- ANDI (R132). rd receives rs1 AND zero-extended imm16. -/
  | andi (e : EngIx) (rd rs1 : XReg) (imm : BitVec 16)
  /-- ORI (R132). rd receives rs1 OR zero-extended imm16. -/
  | ori (e : EngIx) (rd rs1 : XReg) (imm : BitVec 16)
  /-- XORI (R132). rd receives rs1 XOR zero-extended imm16. -/
  | xori (e : EngIx) (rd rs1 : XReg) (imm : BitVec 16)
  /-- SHI (R132). rd receives rs1 shifted or rotated by an immediate amount. -/
  | shi (e : EngIx) (rd rs1 : XReg) (imm : BitVec 16)
  /-- MOVZ (R132). rd receives imm16 at a selected halfword with other bits zero. -/
  | movz (e : EngIx) (rd : XReg) (hw : Fin 4) (imm : BitVec 16)
  /-- MOVK (R132). A selected halfword of rd is replaced by imm16. -/
  | movk (e : EngIx) (rd : XReg) (hw : Fin 4) (imm : BitVec 16)
  /-- LI32 (R132). rd receives a sign-extended 32-bit immediate. -/
  | li32 (e : EngIx) (rd : XReg) (imm : BitVec 32)
  /-- LD (R128). Load 1, 2, 4 or 8 bytes from the frame window into rd. -/
  | ld (e : EngIx) (sz : Size) (rd rs1 : XReg) (imm : BitVec 16) (ecc : Ecc)
  /-- ST (R436). Store 1, 2, 4 or 8 bytes of a register to the frame window. -/
  | st (e : EngIx) (sz : Size) (rs rs1 : XReg) (imm : BitVec 16) (ecc : Ecc)
  /-- LDQ (R128). Move 16 bytes from the frame into a block register. -/
  | ldq (e : EngIx) (bq : BReg) (rs1 : XReg) (imm : BitVec 16) (ecc : Ecc)
  /-- STQ (R173). Move 16 bytes from a block register to the frame, refusing a sealed one. -/
  | stq (e : EngIx) (bq : BReg) (rs1 : XReg) (imm : BitVec 16)
  /-- LDL (R128). Move 64 bytes from the frame into four block registers. -/
  | ldl (e : EngIx) (m : Fin 4) (rs1 : XReg) (imm : BitVec 16) (ecc : Ecc)
  /-- STL (R173). Move 64 bytes from four block registers to the frame, refusing sealed ones. -/
  | stl (e : EngIx) (m : Fin 4) (rs1 : XReg) (imm : BitVec 16)
  /-- LDG (R129). Load 8 bytes from a global address checked by the doorframe. -/
  | ldg (e : EngIx) (rd rs1 : XReg) (imm : BitVec 16)
  /-- STG (R152). Store 8 bytes to a global address, posted. -/
  | stg (e : EngIx) (rs rs1 : XReg) (imm : BitVec 16)
  /-- LDGL (R129). Move 64 bytes from a global address into block registers. -/
  | ldgl (e : EngIx) (m : Fin 4) (rs1 : XReg) (imm : BitVec 16)
  /-- STGL (R129). Move 64 bytes from block registers to a global address. -/
  | stgl (e : EngIx) (m : Fin 4) (rs1 : XReg) (imm : BitVec 16)
  /-- DMA_I (R134). Issue a DMA transfer from a window address into the frame, checked piecewise. -/
  | dmaI (e : EngIx) (rf ra rl : XReg) (lmaxM1 : BitVec 10)
  /-- DMA_O (R134). Issue a DMA transfer from the frame to a window address, checked piecewise. -/
  | dmaO (e : EngIx) (rf ra rl : XReg) (lmaxM1 : BitVec 10)
  /-- DMA_TRANSFER_DONE (R136). A frame's oldest outstanding DMA transfer completes. -/
  | dmaTransferDone (r : Room) (f : Fin 128) (ecc : Ecc)
  /-- DMAWAIT (R133). Wait until every DMA transfer of the frame is complete. -/
  | dmawait (e : EngIx)
  /-- FENCE_M (R152). Wait until every DMA transfer is complete and every STG acknowledged. -/
  | fenceM (e : EngIx)
  /-- FENCE_D (R160). Make staged supervisor regions 4 to 11 of both doorframes active. -/
  | fenceD (e : EngIx)
  /-- TIME (R33). rd receives TB_NOW. -/
  | time (e : EngIx) (rd : XReg)
  /-- RUNT (R31). rd receives TB_RUN. -/
  | runt (e : EngIx) (rd : XReg)
  /-- DLN (R32). rd receives the order's deadline beat in run count. -/
  | dln (e : EngIx) (rd : XReg)
  /-- LEFT (R100). rd receives the beats left to the end of the current phase window. -/
  | left (e : EngIx) (rd : XReg)
  /-- DFR (R158). rd receives the staged descriptor of a named doorframe region. -/
  | dfr (e : EngIx) (rd rs1 : XReg)
  /-- DFW (R157). Stage a region descriptor in a supervisor region, returning a result code. -/
  | dfw (e : EngIx) (rd rs1 : XReg) (target : DoorKind) (ix : Fin 16)
  /-- BEQ (R132). Branch forward when rs1 equals rs2. -/
  | beq (e : EngIx) (rs1 rs2 : XReg) (off : BitVec 16)
  /-- BNE (R132). Branch forward when rs1 differs from rs2. -/
  | bne (e : EngIx) (rs1 rs2 : XReg) (off : BitVec 16)
  /-- BLT (R132). Branch forward when rs1 is less than rs2 signed. -/
  | blt (e : EngIx) (rs1 rs2 : XReg) (off : BitVec 16)
  /-- BGE (R132). Branch forward when rs1 is at least rs2 signed. -/
  | bge (e : EngIx) (rs1 rs2 : XReg) (off : BitVec 16)
  /-- BLTU (R132). Branch forward when rs1 is less than rs2 unsigned. -/
  | bltu (e : EngIx) (rs1 rs2 : XReg) (off : BitVec 16)
  /-- BGEU (R132). Branch forward when rs1 is at least rs2 unsigned. -/
  | bgeu (e : EngIx) (rs1 rs2 : XReg) (off : BitVec 16)
  /-- J (R137). Continue at an absolute forward bundle. -/
  | j (e : EngIx) (target : BitVec 26)
  /-- CALL (R137). Push the return bundle and continue at the target. -/
  | call (e : EngIx) (target : BitVec 26)
  /-- RET (R137). Pop the return stack and continue there. -/
  | ret (e : EngIx)
  /-- LOOP (R137). Run the following body a fixed or register-clamped number of times. -/
  | loop (e : EngIx) (rs : XReg) (bodyM1 : BitVec 12) (count : BitVec 16)
  /-- EXIT (R142). End the phase and routine with a status and inline result, clearing registers and releasing the frame. -/
  | exit (e : EngIx) (status : BitVec 16) (rs : XReg)
  /-- YIELD (R143). End the first phase, release the frame and hand the big-number operation to the engines. -/
  | yield (e : EngIx) (target : BitVec 26)
  /-- KEYLOAD (R166). Load a part of a keyed record into a key register after the slice, liveness, part, key-level, policy and integrity checks. -/
  | keyload (e : EngIx) (kd : KReg) (rs : XReg) (use : Fin 8) (part : PartSel) (rd0 rdP : CellarRead)
  /-- KEYCLR (R169). Clear one key register and its tag. -/
  | keyclr (e : EngIx) (k : KReg)
  /-- KEYINFO (R168). rd receives the tag of a key register. -/
  | keyinfo (e : EngIx) (rd : XReg) (k : KReg)
  /-- KEYPUT (R210). Create or extend a record from a sealed register pair and a template after the key store checks. -/
  | keyput (e : EngIx) (rd rs : XReg) (j : KReg) (rd0 : CellarRead) (pick : Nat)
  /-- AES_E (R174). Forward AES cipher on one or four blocks with dummy rounds and lane shuffling. -/
  | aesE (e : EngIx) (bd bs : BReg) (key : AesKey) (s q : Bool)
  /-- AES_D (R174). Inverse AES cipher on one or four blocks. -/
  | aesD (e : EngIx) (bd bs : BReg) (key : AesKey) (s q : Bool)
  /-- AES_KD (R175). Forward AES on a block built from a register and key words of a custody-export key. -/
  | aesKd (e : EngIx) (bd bs : BReg) (kk : KReg) (w : Fin 4) (ks : KReg) (s : Bool)
  /-- GHMUL (R178). bd receives the GCM field product of bs1 and bs2. -/
  | ghmul (e : EngIx) (bd bs1 bs2 : BReg)
  /-- GHACC (R178). bd receives (bd XOR bs1) times bs2 in the GCM field. -/
  | ghacc (e : EngIx) (bd bs1 bs2 : BReg)
  /-- PVMUL (R178). bd receives the POLYVAL product of bs1 and bs2. -/
  | pvmul (e : EngIx) (bd bs1 bs2 : BReg)
  /-- XTSDBL (R178). bd receives bs1 multiplied by alpha as IEEE 1619 gives. -/
  | xtsdbl (e : EngIx) (bd bs1 : BReg)
  /-- BXOR (R179). bd receives bs1 XOR bs2. -/
  | bxor (e : EngIx) (bd bs1 bs2 : BReg) (q : Bool)
  /-- BAND (R179). bd receives bs1 AND bs2. -/
  | band (e : EngIx) (bd bs1 bs2 : BReg) (q : Bool)
  /-- BMOV (R179). bd receives bs1. -/
  | bmov (e : EngIx) (bd bs1 : BReg) (q : Bool)
  /-- BZERO (R179). bd receives zero. -/
  | bzero (e : EngIx) (bd : BReg) (q : Bool)
  /-- BINC32 (R179). bd receives bs1 with its big-endian 32-bit counter increased. -/
  | binc32 (e : EngIx) (bd bs1 : BReg) (imm : BitVec 9)
  /-- BCTR4 (R179). Four registers receive bs1 with its counter increased by 1 to 4. -/
  | bctr4 (e : EngIx) (bd bs1 : BReg)
  /-- BMRG (R179). bd receives the low half of bs1 and the high half of bs2. -/
  | bmrg (e : EngIx) (bd bs1 bs2 : BReg)
  /-- BREV (R179). bd receives bs1 with its bytes reversed. -/
  | brev (e : EngIx) (bd bs1 : BReg) (q : Bool)
  /-- BSEAL (R179). bd receives bs1, sealed. -/
  | bseal (e : EngIx) (bd bs1 : BReg) (q : Bool)
  /-- BINC128 (R179). bd receives bs1 increased as a big-endian 128-bit integer. -/
  | binc128 (e : EngIx) (bd bs1 : BReg) (imm : BitVec 9)
  /-- BINC32L (R179). bd receives bs1 with its little-endian 32-bit counter increased. -/
  | binc32l (e : EngIx) (bd bs1 : BReg) (imm : BitVec 9)
  /-- BGET (R173). A general register receives half of a block register, refusing a sealed one. -/
  | bget (e : EngIx) (x : XReg) (ba : BReg) (h : Bool)
  /-- BPUT (R172). Half of a block register receives a general register. -/
  | bput (e : EngIx) (x : XReg) (ba : BReg) (h : Bool)
  /-- BCEQ (R173). x receives 1 when two block registers are equal, in constant time. -/
  | bceq (e : EngIx) (x : XReg) (ba bb : BReg)
  /-- BCEQH (R173). x receives 1 when halves of two block registers are equal, in constant time. -/
  | bceqh (e : EngIx) (x : XReg) (ba bb : BReg) (h : Bool)
  /-- HINIT (R180). Write an algorithm's initial value into the hash state in the frame. -/
  | hinit (e : EngIx) (rs : XReg) (alg : HashAlg)
  /-- HABS (R181). Compress or absorb a block into the hash state in the engine's next wheel slot. -/
  | habs (e : EngIx) (rs rb : XReg) (alg : HashAlg) (ecc : Ecc)
  /-- HKEY (R182). Absorb a padded key block from a key register into the hash state. -/
  | hkey (e : EngIx) (rs : XReg) (alg : HashAlg) (k : KReg) (pad : Bool) (ecc : Ecc)
  /-- HPERM (R181). Apply Keccak-f[1600] to the state for squeezing. -/
  | hperm (e : EngIx) (rs : XReg) (alg : HashAlg) (ecc : Ecc)
  /-- HEARTH (R184). Return the 64 oldest raw bits of the engine's hearth share. -/
  | hearth (e : EngIx) (rd rc : XReg)
  /-- BNSET (R244). Describe the service operation or slot program of the big-number hand-off. -/
  | bnset (e : EngIx) (op : BnSet)
  /-- BNARG (R244). Record a handle argument with its use for the big-number operation. -/
  | bnarg (e : EngIx) (rs : XReg) (n : Fin 4) (use : Fin 8)
  /-- BNIN (R244). Describe an input operand from the frame or the input window. -/
  | bnin (e : EngIx) (ra : XReg) (slot : Fin 1024) (window : Bool) (big : Bool) (len8M1 : BitVec 9)
  /-- BNOUT (R244). Describe an output operand written to the output window on DONE. -/
  | bnout (e : EngIx) (ra : XReg) (slot : Fin 1024) (big : Bool) (len8M1 : BitVec 9)
  /-- BN_OPERATION_START (R248). A big-number engine starts a queued operation, checking its handle arguments and reading its set and inputs. -/
  | bnOperationStart (b : BnIx) (reads : List CellarRead) (ecc : Ecc) (word : Fin 32768)
  /-- BN_OPERATION_END (R261). An operation ends; outputs are written on DONE, the work area cleared and the second phase queued. -/
  | bnOperationEnd (b : BnIx)
  /-- BN_OVERRUN (R262). An operation past BN_LEN times 998 cycles is stopped and its order completed with DEADLINE_FAULT. -/
  | bnOverrun (b : BnIx)
  /-- ECDSA_SIGN (R250). Service operation signing a digest under a scalar pulled by handle. -/
  | ecdsaSign (b : BnIx) (attempts : Fin 3)
  /-- ECDSA_VERIFY (R248). Service operation verifying an ECDSA signature. -/
  | ecdsaVerify (b : BnIx)
  /-- EC_KEYGEN (R249). Service operation generating an EC key record from a template. -/
  | ecKeygen (b : BnIx) (attempts : Fin 3) (pick : Nat)
  /-- RSA_CRT_PRIV (R248). Service operation performing an RSA CRT secret-key operation. -/
  | rsaCrtPriv (b : BnIx)
  /-- RSA_KEYGEN (R249). Service operation generating an RSA secret-key record. -/
  | rsaKeygen (b : BnIx) (attempts : Nat) (pick : Nat)
  /-- MLKEM_DECAPS (R248). Service operation performing ML-KEM-768 decapsulation. -/
  | mlkemDecaps (b : BnIx)
  /-- MLDSA_SIGN (R202). Service operation performing ML-DSA-65 signing with bounded attempts. -/
  | mldsaSign (b : BnIx) (attempts : Nat)
  /-- HYBRID_OPEN (R231). Service operation computing a transport key and creating its record. -/
  | hybridOpen (b : BnIx) (pick : Nat)
  /-- SLOT_PROGRAM_START (R253). A big-number engine starts running a slot program from the constant section. -/
  | slotProgramStart (b : BnIx)
  /-- PSEL (R253). Select the active modulus and constants from a parameter set. -/
  | psel (b : BnIx) (set : Fin 64) (lm : Fin 1024)
  /-- PSETM (R254). Set the active modulus from a slot. -/
  | psetm (b : BnIx) (a : Fin 1024)
  /-- PULL (R248). Pull parts of a key argument into a slot and mark it SECRET. -/
  | pull (b : BnIx) (d : Fin 1024) (arg : Fin 4) (part : Fin 1024) (countM1 : Fin 64)
  /-- SDEF (R236). Write a slot descriptor. -/
  | sdef (b : BnIx) (d : Fin 1024) (desc : BitVec 46)
  /-- MMUL (R255). Montgomery multiplication modulo m. -/
  | mmul (b : BnIx) (d a x : Fin 1024)
  /-- MADD (R255). Modular addition. -/
  | madd (b : BnIx) (d a x : Fin 1024)
  /-- MSUB (R255). Modular subtraction. -/
  | msub (b : BnIx) (d a x : Fin 1024)
  /-- TOM (R255). Convert into the Montgomery domain. -/
  | tom (b : BnIx) (d a : Fin 1024)
  /-- FROMM (R255). Convert out of the Montgomery domain. -/
  | fromm (b : BnIx) (d a : Fin 1024)
  /-- MRED (R255). Barrett reduction of a double-length value. -/
  | mred (b : BnIx) (d a : Fin 1024)
  /-- MEXP (R255). Modular exponentiation by a constant-time ladder. -/
  | mexp (b : BnIx) (d a x : Fin 1024)
  /-- MINV (R255). Modular inverse by exponentiation. -/
  | minv (b : BnIx) (d a : Fin 1024)
  /-- BN_MUL (R255). Unreduced multiplication into a double-length slot. -/
  | bnMul (b : BnIx) (d a x : Fin 1024)
  /-- SUMP (R257). Sum of products modulo m, setting GUARD on overflow. -/
  | sump (b : BnIx) (d a x : Fin 1024) (le : Fin 1024) (terms : BitVec 16)
  /-- VRED (R257). Reduce each element of a vector modulo m in place. -/
  | vred (b : BnIx) (d : Fin 1024) (le : Fin 1024) (elems : BitVec 16)
  /-- MOV (R253). Copy one slot to another. -/
  | mov (b : BnIx) (d a : Fin 1024)
  /-- ZERO (R253). Zero a slot. -/
  | zero (b : BnIx) (d : Fin 1024)
  /-- CMP (R253). Set EQ and LT from two slots. -/
  | cmp (b : BnIx) (a x : Fin 1024)
  /-- RNDM (R252). Draw DRBG bits masked to the modulus length and set REJ. -/
  | rndm (b : BnIx) (d : Fin 1024)
  /-- NTT (R253). Forward number-theoretic transform. -/
  | ntt (b : BnIx) (d a : Fin 1024)
  /-- INTT (R253). Inverse number-theoretic transform. -/
  | intt (b : BnIx) (d a : Fin 1024)
  /-- PMUL (R253). Pointwise product modulo q. -/
  | pmul (b : BnIx) (d a x : Fin 1024)
  /-- PADD (R253). Pointwise sum or difference modulo q. -/
  | padd (b : BnIx) (d a x : Fin 1024) (diff : Bool)
  /-- KECCAK (R253). Apply Keccak-f[1600] to a slot. -/
  | keccak (b : BnIx) (d : Fin 1024)
  /-- SAMPLE (R253). Sample uniform coefficients below q from bytes. -/
  | sample (b : BnIx) (d a : Fin 1024)
  /-- SKIP (R253). Skip instructions when a flag condition holds. -/
  | skip (b : BnIx) (cond : SkipFlag) (neg : Bool) (n : BitVec 16)
  /-- BN_LOOP (R253). Repeat the following instructions a fixed number of times. -/
  | bnLoop (b : BnIx) (bodyM1 : Fin 1024) (timesM1 : BitVec 16)
  /-- END (R247). End the slot program with a status. -/
  | bnEnd (b : BnIx) (status : BitVec 16)
  /-- ECHO (R9). Library routine returning TB_NOW inline. -/
  | echo (e : EngIx)
  /-- REKEY_SLOT (R203). Library routine returning a spread not-before time for a subject handle. -/
  | rekeySlot (e : EngIx)
  /-- REKEY_STEP (R522). Library routine deriving and creating new records for up to 16 subjects. -/
  | rekeyStep (e : EngIx) (rdKey : CellarRead) (picks : List Nat)
  /-- TRANSPORT_OPEN (R231). Library routine creating a transport key record from a hybrid exchange. -/
  | transportOpen (e : EngIx)
  /-- ATTEST (R233). Library routine writing a signed attestation response. -/
  | attest (e : EngIx) (rd0 : CellarRead)
  /-- HEARTH_RAW (R433). Library routine copying unread captured raw bits to its output. -/
  | hearthRaw (e : EngIx)
  /-- DOOR_REGION_WRITE (R157). A manager write to RM_DOOR_n stages a room region or is refused. -/
  | doorRegionWrite (r : Room) (n : Fin 4) (desc : Word)
  /-- DOOR_SYNC (R161). A write to RM_DOOR_SYNC.SYNC requests regions 12 to 15 be made active. -/
  | doorSync (r : Room)
  /-- DOOR_SYNC_APPLY (R161). A doorframe applies staged room regions at its engine's next boundary or wait cycle. -/
  | doorSyncApply (e : EngIx) (k : DoorKind)
  /-- ROUTINE_LOAD (R195). SYS_LD_CMD load reads, checks, places and commits an image. -/
  | routineLoad (len : BitVec 32) (image : HostRead (List Byte)) (sigOk : Bool)
  /-- ROUTINE_CHECK (R195). SYS_LD_CMD check runs every load test without committing. -/
  | routineCheck (len : BitVec 32) (image : HostRead (List Byte)) (sigOk : Bool)
  /-- ROUTINE_UNLOAD (R198). SYS_LD_CMD unload empties a routine's directory entry. -/
  | routineUnload (rn : Fin 4096)
  /-- CHAIN_EXPIRY (R212). A chain still incomplete one second after part 0 is deleted. -/
  | chainExpiry (ix : Nat)
  /-- RECORD_RESTORE (R220). A poisoned block of records is restored from the newest copy and written back. -/
  | recordRestore (block : Nat)
  /-- JOURNAL_PROGRAM (R457). A journal page is programmed when 56 changes are pending or the oldest has waited 256 beats. -/
  | journalProgram
  /-- IMAGE_COMPLETE (R223). The last page of a new image becomes durable; the image becomes current and the journal is released. -/
  | imageComplete
  /-- KS_DELETE (R226). KS_CMD delete removes a chain and invalidates its cached lines. -/
  | ksDelete
  /-- KS_PURGE (R226). KS_CMD purge deletes every record of a slice with a stale slice generation. -/
  | ksPurge (s : Slice)
  /-- KS_RESTRICT (R226). KS_CMD restrict clears policy bits in every part of a chain. -/
  | ksRestrict (clear : Byte)
  /-- KS_NEW_IMAGE (R226). KS_CMD begins a new cellar image. -/
  | ksNewImage
  /-- KS_ROTATE_TRANSPORT (R226). KS_CMD increments KS_TGEN.GEN, rotating the transport identity. -/
  | ksRotateTransport
  /-- GEN_BASE_WRITE (R225). A write raises KS_GEN_BASE.BASE while FRESH is 1, and is otherwise ignored. -/
  | genBaseWrite (val : Word)
  /-- WAYS_WRITE (R218). A write to SLT_KS_WAYS.MIN_WAYS is ignored when the sum would exceed 14. -/
  | waysWrite (s : Slice) (val : Word)
  /-- SLOT_DESCRIPTOR_WRITE (R236). A manager write of a larder slot descriptor, refused on overlap and zeroing a SECRET slot. -/
  | slotDescriptorWrite (b : BnIx) (n : Fin 1024) (desc : Word)
  /-- LARDER_WINDOW_WRITE (R239). A manager write to a slot-area word, ignored while an order holds the area or the slot is SECRET. -/
  | larderWindowWrite (b : BnIx) (w : Fin 16384) (val : Word)
  /-- PSET_LOAD (R258). BN_PSET_CMD load reads and checks a parameter set descriptor. -/
  | psetLoad (set : Fin 64) (nocheck : Bool) (len : BitVec 32) (desc : HostRead (List Byte))
  /-- PSET_CHECK_DONE (R258). The checker datapath finishes a parameter set's checks and installs or refuses it. -/
  | psetCheckDone
  /-- PSET_ERASE (R258). BN_PSET_CMD erase empties a loaded parameter set. -/
  | psetErase (set : Fin 64)
  /-- BN_ENGINE_TAKE_OUT (R264). BN_ENG_CTL takes a big-number engine out, faulting its orders and moving its units. -/
  | bnEngineTakeOut (b : BnIx)
  /-- BN_ENGINE_RETURN (R264). BN_ENG_CTL returns a big-number engine, which runs its self-test. -/
  | bnEngineReturn (b : BnIx)
  /-- BN_SELFTEST_DONE (R264). A returned big-number engine passes self-test, re-enters service and receives unplaced units. -/
  | bnSelftestDone (b : BnIx)
  /-- FOUND (R272). CU_CMD found creates a domain, its keys and ES, writes the halves to two cards and becomes a member. -/
  | found (ok : Bool)
  /-- JOIN (R274). CU_CMD join checks the candidate's conditions, derives JK and sends JOIN_REQ. -/
  | join (sponsor : HostRead (Option Cert)) (halves : Option (Key256 × Key256))
  /-- REMOVE (R292). CU_CMD remove sends a ROSTER_DEL with two held tickets. -/
  | remove
  /-- CHALLENGE (R290). CU_CMD challenge sends a CHAL with a nonce to a member. -/
  | challenge (nonce : HostRead (BitVec 256))
  /-- JOIN_REQ_RESEND (R278). JOIN_REQ is sent again every 16 s, failing with REJECT_LIMIT after the fourth. -/
  | joinReqResend
  /-- INTERNAL_ORDER_RESUBMIT (R275). The CU block resubmits an internal stage order at its BUSY retry beat. -/
  | internalOrderResubmit
  /-- IN_RING_TAIL_WRITE (R288). Host software advances CU_IN_PTR.TAIL and the module consumes inbound envelopes in order. -/
  | inRingTailWrite (tail : BitVec 12)
  /-- OUT_RING_HEAD_WRITE (R287). Host software advances CU_OUT_PTR.HEAD, freeing slots for held outbound envelopes. -/
  | outRingHeadWrite (head : BitVec 12)
  /-- HELLO (R284). A HELLO is received and answered with HELLO_ACK. -/
  | hello (h : EnvHdr) (cert : Cert) (x : BitVec 256)
  /-- HELLO_ACK (R284). A HELLO_ACK is received, verified and answered with HELLO_FIN. -/
  | helloAck (h : EnvHdr) (cert : Cert) (x : BitVec 256) (ct : BitVec 8704) (confirm : BitVec 256)
  /-- HELLO_FIN (R284). A HELLO_FIN is received and the pair key stored. -/
  | helloFin (h : EnvHdr) (ct : BitVec 8704) (confirm : BitVec 256)
  /-- JOIN_REQ (R279). A sponsor receives a JOIN_REQ and issues a certificate with JOIN_ACK or refuses with JOIN_NAK. -/
  | joinReq (h : EnvHdr) (cert : Cert) (x : BitVec 256) (ct : BitVec 8704) (t1 t2 : Ticket)
  /-- JOIN_ACK (R275). A candidate opens a JOIN_ACK and installs the domain state. -/
  | joinAck (h : EnvHdr) (body : JoinBody)
  /-- JOIN_NAK (R279). A candidate receives a JOIN_NAK and reports its status. -/
  | joinNak (h : EnvHdr) (status : BitVec 16) (detail : Byte)
  /-- ROSTER_ADD (R292). A ROSTER_ADD certificate is verified, applied and passed on once. -/
  | rosterAdd (h : EnvHdr) (cert : Cert)
  /-- ROSTER_DEL (R292). A ROSTER_DEL with two tickets frees an entry and is passed on once. -/
  | rosterDel (h : EnvHdr) (number : Member) (serial : BitVec 32) (t1 t2 : Ticket)
  /-- ROSTER_SYNC (R275). A ROSTER_SYNC of 96 entries is received and stored. -/
  | rosterSync (h : EnvHdr) (first : Nat) (entries : List RosterEntry)
  /-- ROSTER_SYNC_SEND (R275). The sponsor sends the next ROSTER_SYNC envelope at most 256 per second. -/
  | rosterSyncSend
  /-- BEAT (R303). A BEAT is received, keeping the peer present or marking it absent when LOCKED. -/
  | beat (h : EnvHdr) (mode now : Word) (serial : BitVec 32)
  /-- LEAVE (R303). A verified LEAVE marks its sender absent at once. -/
  | leave (h : EnvHdr) (serial : BitVec 32)
  /-- CHAL (R290). A CHAL is answered with a signed RESP within the rate limit. -/
  | chal (h : EnvHdr) (nonce : BitVec 256) (answerTo : Member)
  /-- RESP (R290). A RESP to a challenge is received. -/
  | resp (h : EnvHdr) (nonce : BitVec 256) (sigsOk : Bool)
  /-- TICKET (R363). A TICKET envelope offers relayed tickets to the hold test and stores a register entry. -/
  | ticket (h : EnvHdr) (tickets : List Ticket) (entry : Option RegEntry)
  /-- PAIR_KEY_AGE_EXPIRY (R283). A pair key reaching 2^16 s starts a new handshake. -/
  | pairKeyAgeExpiry (m : Member)
  /-- PREVIOUS_PAIR_KEY_EXPIRY (R283). One second after a new pair key, the previous key stops being accepted. -/
  | previousPairKeyExpiry (m : Member)
  /-- BEAT_SEND (R302). Every INTERVAL seconds a BEAT is sent to every watched peer. -/
  | beatSend
  /-- PEER_ABSENCE_TIMEOUT (R304). A watched peer silent for MISS times INTERVAL is counted absent and reported to custody logic. -/
  | peerAbsenceTimeout (m : Member)
  /-- ISOLATION_TIMEOUT (R17). A member with no verified envelope for the isolation time becomes isolated. -/
  | isolationTimeout
  /-- STAIR_DATA (R295). A DATA frame is delivered, reassembled or forwarded out of the other port. -/
  | stairData (port : Bool) (f : Frame)
  /-- STAIR_ACK (R294). An ACK frame releases acknowledged DATA frames. -/
  | stairAck (port : Bool) (seq : BitVec 32)
  /-- STAIR_SCAN (R297). A SCAN frame is extended and passed on, or returns and yields the ring map. `last`: its origin has no active link behind it; `farPort`: the port of the peer that sent it. -/
  | stairScan (port : Bool) (origin : ScanHop) (hops : List ScanHop) (last : Bool) (farPort : Bool)
  /-- SCAN_PERIODIC (R297). A SCAN is sent out of both ports every 64 s and at link state changes. -/
  | scanPeriodic
  /-- STAIR_RETRANSMIT_TIMEOUT (R294). Unacknowledged frames are sent again after 4 beats; 16 repeats take the link down. -/
  | stairRetransmitTimeout (port : Bool)
  /-- REASSEMBLY_TIMEOUT (R295). A fragment set incomplete after 1,024 beats is discarded. -/
  | reassemblyTimeout (src : Fin 256) (tag : BitVec 16)
  /-- STAIR_LINK_DOWN (R296). A link goes down and its unacknowledged frames are rerouted the other way round. -/
  | stairLinkDown (port : Bool)
  /-- LINK_TRAINED (R299). A stair port finishes training and reaches ACTIVE, or retries. -/
  | linkTrained (port : Bool) (ok : Bool)
  /-- DOZE_IDLE_TIMEOUT (R300). A port idle for DOZE_IDLE beats sends DOZE_REQ. -/
  | dozeIdleTimeout (port : Bool)
  /-- DOZE_REQ (R300). A DOZE_REQ is answered with DOZE_ACK or DOZE_NAK. -/
  | dozeReq (port : Bool)
  /-- DOZE_ACK (R300). A DOZE_ACK is received; both transmitters stop and the port enters DOZE. -/
  | dozeAck (port : Bool)
  /-- DOZE_NAK (R300). A DOZE_NAK is received and the port stays active. -/
  | dozeNak (port : Bool)
  /-- WAKE_REQUEST (R301). A frame to send or a training pattern requests wake from DOZE, latched after agreement. -/
  | wakeRequest (port : Bool)
  /-- DOZE_RESIDENCY_END (R301). After the 8-beat minimum residency a latched wake retrains the port. -/
  | dozeResidencyEnd (port : Bool)
  /-- ST_CFG_WRITE (R299). A write to ST_CFG enables or disables ports and doze. -/
  | stCfgWrite (val : Word)
  /-- SCHED_ENTRY_FIRE (R58). A schedule entry fires at the first beat TB_NOW reaches its target, or is held in FREE. -/
  | schedEntryFire (n : Fin 16)
  /-- SCHED_HELD_ENTRY_FIRE (R59). A held custody entry fires at the first beat after the time status leaves FREE. -/
  | schedHeldEntryFire (n : Fin 16)
  /-- ROOM_APPLY_GENERATION (R19). A room applies the new profile generation at its first scheduling point and sets its applied bit, ending the switch when all are set. -/
  | roomApplyGeneration (r : Room)
  /-- SCHED_CANCEL (R63). A write of CANCEL empties a pending or held profile entry. -/
  | schedCancel (n : Fin 16)
  /-- CUSTODY_SCHED_RETRY (R310). Custody logic retries a refused schedule placement at the next beat. -/
  | custodySchedRetry (kind : Fin 3)
  /-- DEAL_CUTOFF (R320). At X minus RB/2 each holder sends PREPARED to the coordinator. -/
  | dealCutoff (g : Fin 4096)
  /-- DECISION_CUTOFF (R321). At X minus RB/4 the coordinator computes D and P and sends DECIDE. -/
  | decisionCutoff (g : Fin 4096)
  /-- DECIDE_RESEND (R320). Every 16 s the coordinator resends DECIDE to unacknowledged members of P. -/
  | decideResend (g : Fin 4096)
  /-- SETTLEMENT (R322). At X plus G the coordinator sends SETTLE or REVERT and marks unconfirmed positions lost. -/
  | settlement (g : Fin 4096)
  /-- RECON_CUTOFF (R331). At RC plus RB minus 2 s a reconstruction without k shares fails and is rescheduled. -/
  | reconCutoff (g : Fin 4096)
  /-- POSITION_LOSS_TIMEOUT (R332). A member absent for 2^E s without a break has its position marked lost. -/
  | positionLossTimeout (g : Fin 4096) (p : Pos)
  /-- GROUP_STATE (R318). A GROUP_STATE of a higher version from the coordinator is accepted. -/
  | groupState (h : EnvHdr) (c : CuHdr) (body : GroupStateBody)
  /-- DEAL (R320). A DEAL is verified against its commitments and kept pending. -/
  | deal (h : EnvHdr) (c : CuHdr) (full : Bool) (v : ShareVal) (block : List (BitVec 256))
  /-- PREPARED (R321). The coordinator records a holder's verified dealers. -/
  | prepared (h : EnvHdr) (c : CuHdr) (dealers : List (Fin 32 × BitVec 256))
  /-- DECIDE (R320). A holder stores its new share on COMMIT and acknowledges, or discards on ABORT. -/
  | decide (h : EnvHdr) (c : CuHdr) (commit : Bool) (p d : BitVec 32) (digest : BitVec 256)
  /-- ACK (R322). The coordinator records an acknowledgement of COMMIT. -/
  | ack (h : EnvHdr) (c : CuHdr) (kind : Byte)
  /-- SETTLE (R322). A holder erases the old generation on SETTLE or the new one on REVERT. -/
  | settle (h : EnvHdr) (c : CuHdr) (ok : Bool)
  /-- SHARE_REQ (R327). A helper answers a SHARE_REQ with every generation it holds. -/
  | shareReq (h : EnvHdr) (c : CuHdr) (rc : Word) (target : Pos)
  /-- SHARE (R329). A target verifies a share and interpolates on the k-th verified share of one generation. -/
  | share (h : EnvHdr) (c : CuHdr) (rc : Word) (target : Pos) (gens : List ShareGen)
  /-- RECON_DONE (R327). The coordinator marks a rebuilt position confirmed or records a failure. -/
  | reconDone (h : EnvHdr) (c : CuHdr) (target : Pos) (done : Bool) (status : BitVec 16)
  /-- ACCEPT (R334). A creator records a named member's ACCEPT or REFUSE. -/
  | accept (h : EnvHdr) (c : CuHdr) (yes : Bool) (status : BitVec 16)
  /-- GROUP_DEL (R336). A member deletes the group's key, shares and records. -/
  | groupDel (h : EnvHdr) (c : CuHdr) (t1 t2 : Ticket)
  /-- GROUP_CREATE (R334). CU_GCMD create draws K, deals the sharing and awaits acceptances. -/
  | groupCreate (d : HostRead (BitVec 2048))
  /-- GROUP_CREATE_DEADLINE (R334). RB seconds after creation the command completes with DONE or QUORUM. -/
  | groupCreateDeadline
  /-- GROUP_CHANGE (R335). CU_GCMD change queues new parameters for the next switch. -/
  | groupChange (g : Fin 4096) (d : HostRead (BitVec 2048))
  /-- GROUP_REPLACE (R333). CU_GCMD replace names a replacement member for a lost position. -/
  | groupReplace (g : Fin 4096) (m : Member) (p : Byte)
  /-- GROUP_BIND (R315). CU_GCMD bind binds or unbinds a group to a local slice. -/
  | groupBind (g : Fin 4096)
  /-- GROUP_DELETE (R336). CU_GCMD delete sends GROUP_DEL to every role member. -/
  | groupDelete (g : Fin 4096)
  /-- GROUP_SWEEP (R339). CU_GCMD sweep emits a backup of every chain of a group and clears BK_LAG. -/
  | groupSweep (g : Fin 4096)
  /-- BACKUP_RING_HEAD_WRITE (R339). Host software advances CU_BK_PTR.HEAD, freeing slots for pending backups. -/
  | backupRingHeadWrite (head : BitVec 12)
  /-- RESTORE_RING_TAIL_WRITE (R340). Host software advances CU_RS_PTR.TAIL and each backup is checked and restored. -/
  | restoreRingTailWrite (tail : BitVec 12) (backups : List Backup) (picks : List Nat)
  /-- CARD_INSERT (R344). SLn_DET rises and the debounce of the slot begins. -/
  | cardInsert (n : Fin 4)
  /-- SLOT_DEBOUNCE_DONE (R346). After debounce with the seal intact the slot is activated. -/
  | slotDebounceDone (n : Fin 4)
  /-- ANSWER_TO_RESET (R347). A card's answer-to-reset is received; class is checked and PPS sent. -/
  | answerToReset (n : Fin 4) (a : Atr)
  /-- ATR_TIMEOUT (R346). No answer-to-reset begins in its window; the slot is deactivated. -/
  | atrTimeout (n : Fin 4)
  /-- CLASS_RETRY (R347). After 10 ms the slot is activated again at a higher class. -/
  | classRetry (n : Fin 4)
  /-- PPS_RESPONSE (R348). The card's PPS answer sets the protocol parameters or forces a fallback activation. -/
  | ppsResponse (n : Fin 4) (confirmed : Bool)
  /-- CARD_BLOCK_RECEIVE (R349). A T=1 block from the card is received and processed. -/
  | cardBlockReceive (n : Fin 4) (a : CardAnswer)
  /-- CARD_BLOCK_TIMEOUT (R350). A block not completed within BWT plus CWT triggers recovery or deactivation. -/
  | cardBlockTimeout (n : Fin 4)
  /-- CARD_REMOVE (R351). SLn_DET falls and the slot is deactivated within 80 µs. -/
  | cardRemove (n : Fin 4)
  /-- SEAL_BREAK (R345). SLn_WP reads low; the carrier is treated as opened and the slot refused. -/
  | sealBreak (n : Fin 4)
  /-- SLOT_OVERCURRENT (R515). Slot VCC current above 1.5 times its class limit for 10 µs deactivates the slot. -/
  | slotOvercurrent (n : Fin 4)
  /-- SIGN (R364). SL_CMD sign has a card sign a ticket and holds it when it targets this module. -/
  | sign (n : Fin 4) (buf : HostRead (BitVec 1408 × BitVec 128))
  /-- HOLD (R355). SL_CMD hold offers a ticket to the hold test. -/
  | hold (t : HostRead Ticket)
  /-- RELAY (R364). SL_CMD relay sends a ticket in a TICKET envelope. -/
  | relay (m : Member) (t : HostRead Ticket)
  /-- CUST_ADD (R360). SL_CMD adds a custodian, copying a half from a donor card. -/
  | custAdd (n donor : Fin 4) (buf : HostRead (Fin 256 × Fin 256 × BitVec 128 × BitVec 128 × BitVec 128))
  /-- CUST_DEL (R361). SL_CMD removes a custodian register entry. -/
  | custDel (buf : HostRead (Fin 256 × Fin 256 × BitVec 128))
  /-- SIGNKEY_SET (R366). SL_CMD writes an operator signing key pair into a slot. -/
  | signkeySet (buf : HostRead (BitVec 16512))
  /-- SIGNKEY_REVOKE (R366). SL_CMD empties an operator signing key slot and unloads its routines. -/
  | signkeyRevoke (buf : HostRead (Fin 256))
  /-- DROP (R357). SL_CMD drop drops every held ticket. -/
  | drop
  /-- POWER_OFF (R351). SL_CMD deactivates a slot. -/
  | powerOff (n : Fin 4)
  /-- POWER_ON (R344). SL_CMD activates a slot under its conditions. -/
  | powerOn (n : Fin 4)
  /-- TICKET_EXPIRY (R357). A held ticket is dropped at its not-after. -/
  | ticketExpiry (t : Fin 16)
  /-- CONSUMED_ENTRY_LAPSE (R356). A consumed-list entry is dropped when its ticket would have lapsed. -/
  | consumedEntryLapse (digest : BitVec 256)
  /-- TAMPER_EVENT (R367). A tamper source sees its condition; an alarm on N events within W takes the response under E1. -/
  | tamperEvent (sources : List (Fin 24)) (now : Nat)
  /-- E2_EVALUATION (R373). After its random delay E2 evaluates an alarm or grant, raising SPLIT or refusing. -/
  | e2Evaluation (agrees : Bool) (now : Nat)
  /-- ALARM_LEVEL_EXIT (R369). A source leaves alarm level after W cycles without an event. -/
  | alarmLevelExit (s : Fin 24) (now : Nat)
  /-- ALARM_PULSE_END (R383). The 1 ms ALARM_OUT_N pulse of a warn or interrupt alarm ends. -/
  | alarmPulseEnd
  /-- TAMPER_CLOCK_FAIL (R372). Fewer than 8 tamper-clock edges in 2 µs is treated as a lock alarm limited by life-cycle. -/
  | tamperClockFail
  /-- TAMPER_CLOCK_TRIM (R371). Once per second the tamper clock is trimmed against CORE_CLK. -/
  | tamperClockTrim
  /-- UNLOCK (R390). TP_CMD unlock checks the tickets and sources and grants the unlock. -/
  | unlock
  /-- POLICY_OVERRIDE (R386). TP_CMD policy replaces the policy in force with an override. -/
  | policyOverride (block : HostRead (List Byte))
  /-- INJECT (R378). TP_CMD inject adds one event to a source in BLANK and TEST. -/
  | inject (s : Fin 32) (now : Nat)
  /-- VBAT_RETENTION_LOST (R509). VBAT below 2.3 V without main power latches retention lost. -/
  | vbatRetentionLost
  /-- TRANSITION (R400). LC_CMD transition checks token and tickets, burns marks, wipes and resets. -/
  | transition (target : Fin 8)
  /-- DEBUG (R405). LC_CMD debug opens the JTAG port with the DEBUG token. -/
  | lcDebug
  /-- PROFILE_WRITE (R411). LC_CMD profile write checks and commits a profile block to a slot. -/
  | profileWrite (slot : Fin 4) (block : HostRead (List Byte))
  /-- SWITCH (R417). LC_CMD switch places a profile switch entry in the schedule. -/
  | switch (slot : Fin 4)
  /-- FIX_PROFILE_SEL (R416). LC_CMD burns the PROFILE_SEL fix for a slot. -/
  | fixProfileSel (slot : Fin 4)
  /-- HEALTH_TEST_FAIL (R426). A hearth health test fails and the source is taken out of service. -/
  | healthTestFail (r : Room) (code : TestCode)
  /-- SOURCE_TAKE_OUT (R428). A write to NS_OUT takes a source out of service. -/
  | sourceTakeOut (r : Room)
  /-- SOURCE_RETURN (R428). A write to NS_RETURN runs the start-up test on an out-of-service source. -/
  | sourceReturn (r : Room)
  /-- SOURCE_RETEST_DONE (R428). A source's retest ends and it re-enters service or stays out. -/
  | sourceRetestDone (r : Room) (fail : TestCode)
  /-- SOURCE_RETEST_TIMER (R423). During a first start failed sources are retested once per second until eight are in service. -/
  | sourceRetestTimer
  /-- NS_CFG_WRITE (R422). A write to NS_CFG is accepted only in BLANK and TEST when at least as strict as the defaults. -/
  | nsCfgWrite (val : Word)
  /-- CAPTURE_START (R429). NS_CAP_CTL start begins a raw capture of a room. -/
  | captureStart (r : Room)
  /-- CAPTURE_ABORT (R431). NS_CAP_CTL abort ends a capture at a 64-bit boundary. -/
  | captureAbort
  /-- CAPTURE_DONE (R431). The capture buffer fills and the room returns to service or stays out. -/
  | captureDone
  /-- CAPTURE_DATA_READ (R432). A read of NS_CAP_DATA returns and consumes the next 64 captured bits. -/
  | captureDataRead
  /-- SCRUB_READ (R440). The scrubber reads an SRAM word in an idle bank cycle. -/
  | scrubRead (cls : Fin 10) (word : Nat) (holds : ScrubHolds) (ecc : Ecc)
  /-- PROGRAM_STORE_REWRITE (R435). A poisoned program-store word is rewritten from the routine area. -/
  | programStoreRewrite (word : Nat)
  /-- VF_PROGRAM_DONE (R455). A vault-flash page program completes, or fails and its block is retired. -/
  | vfProgramDone (block : Nat) (ok : Bool)
  /-- VF_ERASE_DONE (R455). A vault-flash block erase completes, or fails and the block is retired. -/
  | vfEraseDone (block : Nat) (ok : Bool)
  /-- VF_PAGE_REFRESH (R456). A page needing more than 24 corrections is rewritten, or a new image begun. -/
  | vfPageRefresh (area : Fin 9) (corrections : Nat)
  /-- ATTIC_REPORT (R464). A report is taken from an input queue and written or suppressed by its token bucket. -/
  | atticReport
  /-- BUCKET_REFILL (R465). A bucket gains a token and a SUMMARY is written for suppressed reports. -/
  | bucketRefill (code : Fin 1024)
  /-- QUEUE_ROOM_LOST_ENTRY (R468). When the general queue has room again a LOST entry is written. -/
  | queueRoomLostEntry
  /-- MIRROR_PROGRAM (R471). A mirror page is programmed when complete or one second after its first new entry. -/
  | mirrorProgram (page : Nat)
  /-- ATTIC_READ (R474). A write to EV_READ_SEQ loads an entry into EV_DATA. -/
  | atticRead (seq : BitVec 32)
  /-- ATTIC_READ_DONE (R474). An entry held only in the mirror has been loaded and BUSY clears. -/
  | atticReadDone
  /-- COPY (R475). EV_CMD copy writes a range of entries to host memory. -/
  | copy
  /-- CLEAR (R477). EV_CMD clear checks tickets, burns the counter and clears the circulating region. -/
  | clear
  /-- RATE_WRITE (R467). A write to EV_RATE sets a code's bucket and resets its count. -/
  | rateWrite (val : Word)
  /-- TIMEPULSE_EDGE (R40). A rising TIMEPULSE edge is timestamped and accepted or rejected, adjusting trim and phase. -/
  | timepulseEdge (off : Nat)
  /-- TB_LABEL_WRITE (R41). A write to TB_LABEL.SEC arms a label and discards a pending step. -/
  | tbLabelWrite (sec : BitVec 44)
  /-- HOLDOVER_TIMEOUT (R46). 1.5 s without an accepted edge enters HOLDOVER. -/
  | holdoverTimeout
  /-- FREE_ENTRY (R48). The uncertainty reaching LIMIT enters FREE and completes parked orders with TIME_UNTRUSTED. -/
  | freeEntry
  /-- STEP_APPROVAL_TIMEOUT (R44). No approval within 300 s discards the pending step. -/
  | stepApprovalTimeout
  /-- ACQ_WINDOW_CLOSE (R52). The window after a qualifying edge closes without a next edge; the edge counts as rejected. -/
  | acqWindowClose
  /-- TIME_FLOOR_WRITE (R53). At each whole second that is a multiple of 64 the seconds are written to BBRAM as the time floor. -/
  | timeFloorWrite
  /-- DISCOVERY_SCAN (R490). The sideband scan reads every identity memory, clearing the bus and failing on stuck lines. -/
  | discoveryScan (i : ScanIn)
  /-- SCAN_COMMAND (R490). A write of 1 to ID_CMD.SCAN starts a discovery scan. -/
  | scanCommand
  /-- STG_ACKNOWLEDGED (R152). A posted STG write is acknowledged after crossing the hall, freeing its outstanding slot and letting a waiting FENCE.M proceed. -/
  | stgAcknowledged (e : EngIx)
  /-- RAW_BIT (R424). A hearth source samples one raw bit, runs its health tests and hands the bit to the next non-full share or reseed pool, or to the capture buffer. -/
  | rawBit (r : Room) (b : Bool) (fail : TestCode)
  /-- TAMPER_CLOCK_RETURN (R372). The tamper clock returns after a failure, the pending lock flag and lock count are written into BBRAM and TCLK_OK is set again. -/
  | tamperClockReturn
  /-- PPS_TIMEOUT (R348). A card that gives no PPS answer within 9,600 etu has its slot deactivated and activated once more with Fi 372 and Di 1. -/
  | ppsTimeout (n : Fin 4)
  /-- NODE_REENCRYPTION_DONE (R214). The background re-encryption of a counter node's 64 children under a new major counter finishes and the old major stops being valid. -/
  | nodeReencryptionDone (level : Fin 4) (node : Nat)
  /-- LOADER_COMMAND_DONE (R194). The loader finishes reading, verifying and bounding an image, then commits or refuses it, switches the directory entry and clears SYS_LD_STS.BUSY. -/
  | loaderCommandDone
  /-- ATTIC_COPY_DONE (R475). An attic copy to host memory finishes or is aborted, clearing EV_CMD_STS.BUSY and setting EV_EVT.CMD_DONE. -/
  | atticCopyDone (readOk : Bool)
  /-- HANDSHAKE_STEP_RELEASE (R286). A handshake step waiting beyond the 256 per second limit is run in arrival order when the rate allows. -/
  | handshakeStepRelease
deriving DecidableEq, Repr

end Sys2Proof
end

