-- ==== Sys2Proof/Decode.lean ====
section
/-! DEFINITION. What command a word spells by the bits of spec/opcode_table.json. The table gives no row any bits, so no
word spells a command (assumption row 1). -/

namespace Sys2Proof

/-- The command of a word: none, because no row of the table has bits. -/
def decodeTableWord (nbits w : Nat) : Option Instr :=
  match nbits, w with
  | _, _ => none

end Sys2Proof
end

