-- ==== Sys2Proof/Machine/Tab.lean ====
section
/-! DEFINITION. Sparse tables: a list of (key, value) pairs in one canonical form, keys strictly rising, no entry equal
to the value an unlisted key reads as. Every memory and every numbered collection of the block is such a table. -/

namespace Sys2Proof

/-- A sparse table keyed by a number. A byte memory is a table of bytes: its entries are the host's cells. -/
abbrev Tab (α : Type) := List (Nat × α)

/-- The entry of a key, if one is listed. -/
def tfind {α : Type} (t : Tab α) (k : Nat) : Option α :=
  match t with
  | [] => none
  | (j, v) :: r => if k = j then some v else if k < j then none else tfind r k

/-- The table with the key listed with this value. -/
def tins {α : Type} (t : Tab α) (k : Nat) (v : α) : Tab α :=
  match t with
  | [] => [(k, v)]
  | (j, w) :: r => if k = j then (k, v) :: r else if k < j then (k, v) :: (j, w) :: r else (j, w) :: tins r k v

/-- The table without the key. -/
def tdel {α : Type} (t : Tab α) (k : Nat) : Tab α :=
  match t with
  | [] => []
  | (j, w) :: r => if k = j then r else if k < j then (j, w) :: r else (j, w) :: tdel r k

/-- The value of a key, d where none is listed. -/
def tget {α : Type} (d : α) (t : Tab α) (k : Nat) : α := (tfind t k).getD d

/-- The table whose key reads as v, where an unlisted key reads as d. -/
def tput {α : Type} [DecidableEq α] (d : α) (t : Tab α) (k : Nat) (v : α) : Tab α :=
  if v = d then tdel t k else tins t k v

/-- Keys above a bound strictly rise, and no entry is the value an unlisted key reads as. -/
def twfFrom {α : Type} [DecidableEq α] (d : Nat → α) (lo : Nat) (t : Tab α) : Bool :=
  match t with
  | [] => true
  | (j, v) :: r => decide (lo ≤ j) && decide (v ≠ d j) && twfFrom d (j + 1) r

/-- The canonical form of a table whose unlisted keys read as d. -/
def twf {α : Type} [DecidableEq α] (d : α) (t : Tab α) : Bool := twfFrom (fun _ => d) 0 t

/-- The table with every entry of keys in [lo, lo + n) removed. -/
def tclear {α : Type} (t : Tab α) (lo n : Nat) : Tab α := t.filter fun p => p.1 < lo || lo + n ≤ p.1

/-- The table with the values of all listed keys mapped. -/
def tmapv {α : Type} (t : Tab α) (f : Nat → α → α) : Tab α := t.map fun p => (p.1, f p.1 p.2)

/-- Bytes n at a time from a table of bytes, lowest address first, as one little-endian number. -/
def tbytes (t : Tab Byte) (a n : Nat) : Nat :=
  match n with
  | 0 => 0
  | k + 1 => (tget 0 t a).toNat + 256 * tbytes t (a + 1) k

/-- A table of bytes with n bytes of a little-endian number stored from an address up. -/
def tstore (t : Tab Byte) (a n v : Nat) : Tab Byte :=
  match n with
  | 0 => t
  | k + 1 => tstore (tput 0 t a (BitVec.ofNat 8 v)) (a + 1) k (v / 256)

/-- The n bytes from an address up, as a list. -/
def tlist (t : Tab Byte) (a n : Nat) : List Byte :=
  match n with
  | 0 => []
  | k + 1 => tget 0 t a :: tlist t (a + 1) k

/-- A table of bytes with a list of bytes stored from an address up. -/
def tstoreList (t : Tab Byte) (a : Nat) (l : List Byte) : Tab Byte :=
  match l with
  | [] => t
  | v :: r => tstoreList (tput 0 t a v) (a + 1) r

end Sys2Proof
end

