-- ==== Sys2Proof/Config.lean ====
section
/-! DEFINITION. What an implementation fixes: the free values the manual leaves open, as constants without a body, and
the images that Choelm ships (07, The Choelm library). -/

namespace Sys2Proof
namespace Config

/-- A value the manual leaves open or draws at random (06, 08, 09, 10, 11): the n-th of a run, w bits wide. -/
opaque freeBits (w n : Nat) : BitVec w

/-- The words of the OTP map that are programmed in manufacture (14, OTP map): device identity, digests, fuse contents. -/
opaque otpWord (n : Nat) : BitVec 64

/-- Result of an elliptic-curve or lattice operation whose arithmetic an external standard gives (08 R231, 09, 10, 11):
operation number and its operands as numbers. -/
opaque external (op : Nat) (args : List Nat) : Nat

end Config

/-- An image header (07 R189) with the loader's figures. -/
structure Hdr where
  routine  : Nat := 0
  version  : Nat := 0
  supv     : Bool := false
  maint    : Bool := false
  ctx      : Bool := false
  early    : Bool := false
  boundA   : Nat := 0
  boundB   : Nat := 0
  bnLen    : Nat := 0
  fetch    : Nat := 0
  minClass : Nat := 0
  signer   : Nat := 0
  codeLen  : Nat := 1
  constLen : Nat := 0
deriving DecidableEq, Repr

/-- A loaded image (07): header, code words (four 32-bit slots a bundle), constant section. -/
structure Image where
  hdr      : Hdr := {}
  code     : List (BitVec 32) := []
  const    : List Byte := []
  /-- The hand-off names a slot program (09 R241, R245). -/
  slotProg : Bool := false
  /-- Identity of this load, by which orders are bound to it (07 R197). -/
  serial   : Nat := 0
  /-- The image still passes the tests of 07 R190, R137, R188 and R200 when they are run again (R199). -/
  sound    : Bool := true
deriving DecidableEq, Repr

/-- One row of the library table: number, flags S, M, E, bounds A, B and BN_LEN, FETCH, MIN_CLASS (R201). The shipped
images' lengths are not printed; 00F0h to 00F2h hand off slot programs, no service operation naming them. -/
def Config.lib (r : Nat) (sv mt ey : Bool) (a b n f c : Nat) : Nat × Image :=
  (r, { hdr := { routine := r, version := 1, supv := sv, maint := mt, early := ey, boundA := a, boundB := b, bnLen := n,
                 fetch := f, minClass := c, codeLen := Config.external 30 [r] % 1024 + 1 },
           slotProg := 0xF0 ≤ r })

/-- The Choelm library with the figures of its table and of 07 R520. -/
def Config.library : Tab Image :=
  [Config.lib 0x00 false false true 320 0 0 0 0,
   Config.lib 0x10 false false false 848 0 0 1 0,
   Config.lib 0x11 false false false 1760 0 0 1 0,
   Config.lib 0x12 true false false 1980 0 0 2 0,
   Config.lib 0x18 false false false 3420 0 0 2 0,
   Config.lib 0x19 true false false 3860 0 0 2 0,
   Config.lib 0x20 false false false 14300 0 0 1 1,
   Config.lib 0x21 false false false 52500 0 0 1 1,
   Config.lib 0x22 false false false 205000 0 0 1 2,
   Config.lib 0x24 false false false 14400 0 0 1 1,
   Config.lib 0x25 false false false 52600 0 0 1 1,
   Config.lib 0x26 false false false 205100 0 0 1 2,
   Config.lib 0x28 false false false 13900 0 0 2 1,
   Config.lib 0x29 false false false 13900 0 0 2 1,
   Config.lib 0x2C false false false 108000 0 0 1 2,
   Config.lib 0x2D false false false 108100 0 0 1 2,
   Config.lib 0x34 false false false 1500 0 0 0 0,
   Config.lib 0x35 true false false 41000 0 0 17 1,
   Config.lib 0x40 false false false 3100 2900 40 1 1,
   Config.lib 0x41 false false false 2600 1400 60 2 2] ++
  [Config.lib 0x43 false false false 2400 2200 10 2 1,
   Config.lib 0x44 false false false 20000 20000 1600 40 4,
   Config.lib 0x46 false false false 4200 3600 180 48 2,
   Config.lib 0x47 false false false 4200 3600 710 48 3,
   Config.lib 0x48 true false false 2700 0 0 1 0,
   Config.lib 0x49 true false false 3000 2800 45 1 1,
   Config.lib 0x4B true false false 60000 60000 700000 40 7,
   Config.lib 0x50 true false false 3400 3200 20 1 1,
   Config.lib 0x58 false false false 2800 2600 60 1 2,
   Config.lib 0x60 false false false 6200 0 0 0 0,
   Config.lib 0xE0 true true true 600000 0 0 0 3,
   Config.lib 0xE1 true true true 9000000 0 0 0 5,
   Config.lib 0xF0 true true false 180000 160000 40000 0 6,
   Config.lib 0xF1 true true false 200000 150000 60000 1 6,
   Config.lib 0xF2 true true false 150000 100000 8000 0 5]

end Sys2Proof
end

