-- ==== Sys2Proof/Machine/State.lean ====
section
/-! DEFINITION. The state of the block as plain data: every register, memory, queue, buffer and mode the manual names, the
queue of waiting commands, and the state after reset. The registers of the manager address map that software reads and
writes as words stand in one register file keyed by PF1 BAR0 offset; what the module keeps behind them stands in the
records below. -/

namespace Sys2Proof
namespace Machine

/-- The dimensions of the operating mode and the other fields of SYS_MODE (01 R20). -/
structure Mode where
  profile  : Fin 4 := 0
  valid    : Bool := false
  zeroized : Bool := false
  ready    : Bool := false
  switch   : Bool := false
  domain   : DomainStatus := .unenrolled
  time     : TimeStatus := .free
  lock     : Bool := false
  tmode    : Bool := false
  lc       : LifeCycle := .blank
deriving DecidableEq, Repr

/-- What the module has issued to the outside, newest first: the model's own record of the writes and messages of 03 R83,
R95, 10 R287, R289, 11 R337, R340, 12, 17 R475. -/
inductive Out
  /-- A completion write into a completion-queue entry (03 R82), with the PASID of its TLP prefix, none on PF1 (R64). -/
  | completion (slice : Slice) (pasid : Option (BitVec 20)) (pair : PairIx) (entry : Nat) (bytes : BitVec 256)
  /-- Output bytes written from an IOVA up (03 R64, R83, 06 R186). -/
  | output (slice : Slice) (pasid : Option (BitVec 20)) (iova : Word) (bytes : List Byte)
  /-- A read of host memory for a slice: SQ entries or input data (03 R64, R97, R524). -/
  | read (slice : Slice) (pasid : Option (BitVec 20)) (iova : Word) (len : Nat)
  /-- An MSI-X message of PF1 or PF0 (03 R95, R96). -/
  | msix (pf1 : Bool) (vec : Nat)
  /-- An envelope: kind, recipient, by stair or by the outbound ring, its body's fields before sealing, each with its width in
  bytes, and its bytes as they went out (10 R280, R281, R289). -/
  | envelope (kind : Nat) (recipient : Nat) (stair : Bool) (body : List (Nat × Nat)) (wire : List Nat)
  /-- A stair frame out of a port: type and bytes (10 R293). -/
  | frame (port : Bool) (typ : Nat) (bytes : List Nat)
  /-- A backup written into the backup ring: slot, part-0 handle, backup key generation, bytes (11 R337). -/
  | backup (slot : Nat) (handle : Word) (bkGen : Nat) (bytes : List Nat)
  /-- The result written over a restore-ring slot: status, old handle, new handle (11 R340). -/
  | restored (slot : Nat) (status : Status) (old new : Word)
  /-- A command sent to a card (12, The card): slot, INS, data. -/
  | card (slot : Fin 4) (ins : Nat) (data : List Nat)
  /-- A ticket written into the command buffer by SIGN (12 R364). -/
  | signed (raw : BitVec 2176)
  /-- Attic entries copied to host memory (17 R475). -/
  | atticCopy (iova : Word) (entries : List (BitVec 256))
deriving DecidableEq, Repr

/-- One schedule entry (02, TB_SCHED_CTL_n): kind 0 none, 1 profile switch, 2 epoch switch, 3 share refresh,
4 reconstruction. -/
structure Sched where
  kind   : Nat := 0
  held   : Bool := false
  target : Word := 0
  gen    : BitVec 16 := 0
  /-- The profile slot a profile entry names (14 R417). -/
  slot   : Fin 4 := 0
deriving DecidableEq, Repr

/-- A pending seconds step (02 R42, R43). -/
structure Step where
  sec      : Nat
  run      : Nat
  approved : Bool
  acq      : Bool
deriving DecidableEq, Repr

/-- The time base (02). -/
structure Tb where
  running    : Bool := false
  run        : Word := 0
  offset     : Word := 0
  /-- Raw CORE_CLK cycles since the start, at the current beat's first cycle. -/
  cycle      : Nat := 0
  /-- Fraction of a cycle carried by the rate accumulator, in 2⁻³² cycle (02, Beat length and slewing). -/
  frac       : Int := 0
  rate       : Int := 0
  phase      : Int := 0
  /-- Raw cycle and run count of the last accepted edge. -/
  lastEdge   : Option (Nat × Nat) := none
  /-- In FREE: raw cycle of the edge that may open a pair, whether it is already counted, and the raw cycles from the edge
  before it (R52). -/
  acqEdge    : Option (Nat × Bool × Nat) := none
  /-- Run count from which the 1.5 s of R46 and the e of R47 count. -/
  heardRun   : Nat := 0
  label      : Option Nat := none
  step       : Option Step := none
  firstAcq   : Bool := true
  floorValid : Bool := false
  /-- The second whose floor write is due since TB_NOW counted to it (R53). -/
  floorDue   : Option Nat := none
  sched      : Tab Sched := []
  /-- Custody kinds whose placement was refused and is being retried (11 R310): kind, target, generation. -/
  retry      : List (Nat × Word × BitVec 16) := []
deriving DecidableEq, Repr

/-- A queue pair while it is created (03 R75, R523). -/
structure Queue where
  sqBase   : Word := 0
  cqBase   : Word := 0
  size     : Nat := 64
  tail     : Nat := 0
  consumed : Nat := 0
  fetch    : Nat := 0
  cqPos    : Nat := 0
  phase    : Bool := true
  cqHead   : Nat := 0
  /-- Orders fetched, in progress, or completed and not released (R81). -/
  credit   : Nat := 0
  /-- Completions written and not released by CQ_HEAD. -/
  unread   : Nat := 0
  deleting : Bool := false
  /-- Completions written since the last message, and the run count of the oldest (R95). -/
  coalCnt  : Nat := 0
  coalRun  : Nat := 0
  /-- Entries that failed step 1 of R87 at their first fetch, and whether the cookie's word was the bad one (R90, R94,
  R524). -/
  retried  : List (Nat × Bool) := []
deriving DecidableEq, Repr

/-- An order slot of an ingress bank: SQ entry index, the 64 bytes, or a read that failed (R524). -/
structure BankSlot where
  ix   : Nat
  data : OrderWord
  bad  : Bool := false
deriving DecidableEq, Repr

/-- A released ingress bank: global queue number, and the slots not yet dispatched. -/
structure Bank where
  g     : Nat
  slots : List BankSlot
deriving DecidableEq, Repr

/-- The two banks of an ingress channel and their Gray-coded counters (03 R91). -/
structure Channel where
  banks : List Bank := []
  wcnt  : BitVec 2 := 0
  rcnt  : BitVec 2 := 0
deriving DecidableEq, Repr

/-- The PCI Express side (03). -/
structure Pch where
  up       : Bool := false
  width    : Nat := 0
  speed    : Nat := 0
  l1       : Bool := false
  bme0     : Bool := false
  bme1     : Bool := false
  d3hot    : Bool := false
  /-- Porch fetching is running (18 R482 step 12), and stopped while a reset is prepared (R479). -/
  fetching : Bool := false
  queues   : Tab Queue := []
  chans    : Tab Channel := []
  masked0  : Tab Bool := []
  pend0    : Tab Bool := []
  masked1  : Tab Bool := []
  pend1    : Tab Bool := []
  /-- Run count of the last beat in which some slice was not idle (R68). -/
  busyRun  : Nat := 0
  /-- Slice of the last fetch, and the last pair fetched of each slice, by slice (R84). -/
  rrSlice  : Nat := 1023
  rrPair   : Tab Nat := []
  /-- Completions discarded per slice in the outage in progress (R10, 17 R519 code 086h). -/
  outage   : Tab Nat := []
deriving DecidableEq, Repr

/-- Where an order stands (04, 05, 09). -/
inductive Phase
  | parked
  /-- Queued in its room for its first or second engine phase. -/
  | queued (second : Bool)
  /-- Holding a frame and an engine. -/
  | running (e : EngIx) (second : Bool)
  /-- Preempted, holding its frame (05 R145). -/
  | preempted (second : Bool)
  /-- Its big-number operation is queued, or running. -/
  | bnQueued
  | bnRunning
  /-- Ended: its completion waits to be issued. -/
  | ended
deriving DecidableEq, Repr

/-- One input or output operand of a big-number hand-off (09). -/
structure BnIo where
  slot   : Nat
  window : Bool
  big    : Bool
  len    : Nat
  addr   : Word
  /-- The bytes copied from the frame at YIELD (R244). -/
  data   : List Byte
deriving DecidableEq, Repr

/-- The hand-off of an order (09): operation, handle arguments with their uses, inputs and outputs. -/
structure HandOff where
  op   : Option BnSet := none
  args : Tab (Word × Nat) := []
  ins  : List BnIo := []
  outs : List BnIo := []
  /-- The engine that ran YIELD, which a window fault names (R246). -/
  eng  : Nat := 0
deriving DecidableEq, Repr

/-- The stage that an order of the CU block runs, with what it works on (10 R275, 11): its effect comes with the order's end. -/
inductive Job
  /-- Stage 1 of a join: the JOIN_REQ is made and sent. -/
  | joinSend
  /-- Stage 2 at the sponsor: certificate, X25519 value, ciphertext, clear body and tickets of the JOIN_REQ. -/
  | joinIssue (cert : Cert) (x : BitVec 256) (ct : BitVec 8704) (req : List Nat) (t1 t2 : Ticket)
  /-- Stage 3: what the JOIN_ACK brought. -/
  | joinInstall (body : JoinBody)
  /-- A group's deals for the switch at a second; the sharing of a group being created; an interpolation over the shares of a
  generation under a commitment block, for the reconstruction at a second. -/
  | refresh (group sec : Nat)
  | create (group : Nat)
  | interpolate (group rc gen : Nat) (block : List (BitVec 256))
deriving DecidableEq, Repr

/-- An order from the porter on (04). -/
structure Order where
  slice    : Slice := 0
  pair     : PairIx := 0
  sqIx     : Nat := 0
  data     : OrderWord := 0
  /-- An order of the CU block (03 R73): it has no queue and its completion is internal. -/
  intern   : Bool := false
  job      : Option Job := none
  hdr      : Hdr := {}
  slotProg : Bool := false
  image    : Nat := 0
  gen      : BitVec 16 := 0
  /-- Admission number (R111 ties). -/
  num      : Nat := 0
  adm      : Nat := 0
  deadline : Nat := 0
  room     : Room := 0
  phase    : Phase := .parked
  frame    : Nat := 0
  /-- x1 to x15 carried over the hand-off, and x16 (05 R141). -/
  carry    : List Word := []
  x16      : Word := 0
  yieldPc  : Nat := 0
  hand     : HandOff := {}
  bnEng    : Option BnIx := none
  holdsArea : Bool := false
  input    : List Byte := []
  inputIn  : Bool := false
  staged   : Tab Byte := []
  ctx      : Bool := false
  /-- Status and inline result, once fixed. -/
  outcome  : Option (Status × Word) := none
  /-- Retry beat of a BUSY completion. -/
  retry    : Word := 0
  /-- The cookie could not be read (03 R90). -/
  noCookie : Bool := false
deriving DecidableEq, Repr

/-- A grant in force (04 R102). -/
structure Grant where
  res     : Nat := 0
  maxw    : Nat := 0
  stage   : Nat := 0
  rooms   : Word := 0
  bnUnits : Nat := 0
  bnMaxl  : Nat := 0
  fetch   : Nat := 0
  host    : Nat := 0
deriving DecidableEq, Repr

/-- What an accepted order holds (04 R101). -/
structure Charge where
  order   : Nat
  slice   : Slice
  cls     : Class
  room    : Room
  w       : Nat
  den     : Nat
  cel     : Nat
  rd      : Nat
  wr      : Nat
  stg     : Nat
  bnLen   : Nat
  bnEng   : Option BnIx
  /-- The engine whose unit or time the operation takes under the old layout of a switch (R62, R123). -/
  bnOld   : Option BnIx
  /-- Charged to the reserve (true) or to the best-effort pool, under the layout in force and, in a switch, under the old
  one (R123). -/
  reserve : Bool
  oldRes  : Bool
  /-- Run count at which all but staging is released, and the deadline at which R107 takes staging as released. -/
  release : Nat
  due     : Nat
  held    : Bool
  stgHeld : Bool
  /-- The order holds the slot area of its big-number engine, until its completion write is issued (09 R241). -/
  area    : Bool := false
deriving DecidableEq, Repr

/-- A placed big-number unit: grant key (8 × slice + class), engine or unplaced (04 R103, 09 R264). -/
structure Unit where
  key : Nat
  eng : Option BnIx
deriving DecidableEq, Repr

/-- The porter (04). -/
structure Adm where
  grants : Tab Grant := []
  units  : List Unit := []
  /-- The layout in force before the switch in progress (R123). -/
  oldGrants : Tab Grant := []
  oldUnits  : List Unit := []
  /-- ADM_BE_CFG and ADM_BE_ROOMS of that layout (01 R28). -/
  oldBe     : Word := 0
  oldBeRooms : Word := 0
  charges : List Charge := []
  park    : List Nat := []
  nextNum : Nat := 0
  nextOrd : Nat := 0
  orders  : Tab Order := []
  /-- BUSY_HINT bits that are set, by 8 × slice + class, with the retry beat as domain time (03 BUSY_HINT). -/
  hints   : Tab Word := []
deriving DecidableEq, Repr

/-- A key register with its tag (06). -/
structure KeyReg where
  mat    : Key256 := 0
  loaded : Bool := false
  use    : Nat := 0
  typ    : Byte := 0
  part   : Nat := 0
  len    : Nat := 0
deriving DecidableEq, Repr

/-- An entry of the loop stack (05): first and last bundle of the body, passes left. -/
structure LoopFrame where
  start : Nat
  last  : Nat
  left  : Nat
deriving DecidableEq, Repr

/-- The registers that follow an order to whichever engine runs it (05 R145, 06 R170). -/
structure Core where
  x     : Tab Word := []
  b     : Tab Block := []
  seals : Tab Bool := []
  k     : Tab KeyReg := []
  pc    : Nat := 0
  slot  : Fin 4 := 0
  loops : List LoopFrame := []
  rets  : List Nat := []
  supv  : Bool := false
  /-- The engine waits in the wait instruction of the bundle's last slot (R131). -/
  waits : Bool := false
deriving DecidableEq, Repr

/-- An engine (05). -/
structure Engine where
  core      : Core := {}
  order     : Option Nat := none
  second    : Bool := false
  frame     : Nat := 0
  /-- Posted STG writes not yet acknowledged: address, value, and the big-number engine whose slot area the slot window
  showed; oldest first (R152). -/
  stg       : List (Nat × Word × Option BnIx) := []
  /-- Doorframe regions 0 to 15, active and staged, of the load and store path and of the DMA path (R156). -/
  lsAct     : Tab Word := []
  lsStg     : Tab Word := []
  dmaAct    : Tab Word := []
  dmaStg    : Tab Word := []
  syncLs    : Bool := false
  syncDma   : Bool := false
  out       : Bool := false
  testing   : Bool := false
  /-- AES blocks since the unit's last reseed (06 R177). -/
  aesBlocks : Nat := 0
  /-- The key in the AES unit's round-key store, and the mask of the key port's generator (08 R216, R234). -/
  roundKey  : Key256 := 0
  portMask  : BitVec 512 := 0
deriving DecidableEq, Repr

/-- A DMA transfer outstanding for a frame (05 R136). -/
structure Dma where
  toFrame : Bool
  off     : Nat
  addr    : Nat
  len     : Nat
deriving DecidableEq, Repr

/-- The rooms (05, 06, 15). -/
structure Rooms where
  engines : Tab Engine := []
  /-- Frames allocated, by 128 × room + frame: the order that holds each. -/
  frames  : Tab Nat := []
  /-- Saved registers of preempted orders, by 128 × room + frame (the save area). -/
  saved   : Tab Core := []
  dma     : Tab (List Dma) := []
  /-- Unread hearth bits, oldest first, by 9 × room + destination; destination 8 is the reseed pool (15 R424). -/
  hearth  : Tab (List Bool) := []
  /-- Next destination of the rotation, by room. -/
  rot     : Tab Nat := []
deriving DecidableEq, Repr

/-- The addressed memories that engines and big-number engines read and write: an unlisted address reads as zero. -/
structure Memory where
  /-- Frame windows, byte by byte: address (128 × room + frame) × 1,024 + offset (05). -/
  win    : Tab Byte := []
  /-- Pantry staging pages written by global accesses of supervisor code, by address (05). -/
  pantry : Tab Byte := []
  /-- Slot-area words of the larder, by 16,384 × engine + word (09). -/
  words  : Tab Word := []
  /-- Slot descriptors, by 1,024 × engine + slot (09). -/
  descs  : Tab Word := []
deriving DecidableEq, Repr

/-- The canonical form of the memories: addresses strictly rising, no entry equal to zero. -/
def Memory.wf (m : Memory) : Bool := twf 0 m.win && twf 0 m.pantry && twf 0 m.words && twf 0 m.descs

/-- The loader command in progress (07 R194). -/
structure LoadCmd where
  op     : Nat
  image  : Option Image
  reason : Nat
  status : Status
  bundle : Nat
  routine : Nat
deriving DecidableEq, Repr

/-- The loader, the directory and the signing key slots (07, 12 R366). -/
structure Ld where
  dir    : Tab Image := []
  floors : Tab Nat := []
  /-- Replaced or unloaded images that orders still run (R197). -/
  old    : List Image := []
  cmd    : Option LoadCmd := none
  serial : Nat := 0
  /-- SHA-384 of the Choelm pair in slot 0 (R191), and the pairs that operator slots 1 to 8 hold: ECDSA x, y, ML-DSA-65 (12
  R366). -/
  choelm : BitVec 384 := 0
  keys   : Tab (BitVec 16384) := []
  /-- The images in the routine area of vault flash (R199). -/
  flash  : Tab Image := []
  /-- Stream contexts held, by slice (04 R121). -/
  ctx    : Tab Nat := []
deriving DecidableEq, Repr

/-- State of a cellar index (08, record table). -/
inductive IxState | free | incomplete | live | lost | retired
deriving DecidableEq, Repr

/-- A record line (08 R207). -/
structure Rec where
  typ       : Byte := 0
  gen       : Nat := 0
  index     : Nat := 0       -- index of part 0
  slice     : Slice := 0
  part      : Nat := 0
  chainLen  : Nat := 1
  matLen    : Nat := 32
  sliceGen  : BitVec 6 := 0
  policy    : Byte := 0
  test      : Bool := false
  ephemeral : Bool := false
  imported  : Bool := false
  complete  : Bool := false
  group     : Option (Fin 4096) := none
  expiry    : Nat := 0
  created   : Word := 0
  mat       : Key256 := 0
  /-- Run count of creation, from which R212 counts. -/
  bornRun   : Nat := 0
deriving DecidableEq, Repr

/-- A change of the journal (08 R222): index, its table word and its record line after the change. -/
structure Change where
  ix    : Nat
  state : IxState
  gen   : Nat
  line  : Option Rec
  run   : Nat
  /-- Restores done when it was journaled (R224 step 4). -/
  starts : Nat := 0
deriving DecidableEq, Repr

/-- A cellar image (16 R445, R448): sequence, the highest generation in its header, transport generation, contents. -/
structure CellarImage where
  seq    : Nat := 0
  maxGen : Nat := 0
  tgen   : BitVec 32 := 0
  table  : Tab (IxState × Nat) := []
  recs   : Tab Rec := []
  /-- Last generation of an index the table does not list. -/
  adv    : Nat := 0
  /-- Restores done when it began: each later one advances the free indexes by 1 (R224). -/
  starts : Nat := 0
  copy   : Bool := false
deriving DecidableEq, Repr

/-- A key-cache line (08 R216): slice, index of the part, way of the set. -/
structure CacheLine where
  slice : Slice
  ix    : Nat
  way   : Nat
deriving DecidableEq, Repr

/-- A key-store command waiting for journal space (16 R458), or being worked. -/
structure KsCmd where
  op    : Nat
  slice : Slice
  clear : Byte
deriving DecidableEq, Repr

/-- Cellar, key cache and durability (08, 16). -/
structure Ks where
  /-- Listed indexes: state and last generation. An unlisted index is free with last generation `genAdv`. -/
  table    : Tab (IxState × Nat) := []
  /-- How often step 4 of R224 has advanced the free indexes. -/
  genAdv   : Nat := 0
  recs     : Tab Rec := []
  poisoned : List Nat := []
  /-- Counter tree: write count of each node's child, by level and child (R214). -/
  minors   : Tab Nat := []
  majors   : Tab Nat := []
  /-- The Root's counters, one to a level-4 node. -/
  roots    : Tab Nat := []
  /-- Nodes whose children are being encrypted again under a new major: level, node, and the old major, still valid. -/
  reenc    : List (Nat × Nat × Nat) := []
  /-- Key cache by set, most recently used line first. -/
  cache    : Tab (List CacheLine) := []
  /-- Fill count of each physical line, by 16 × set + way. -/
  fillCnt  : Tab Nat := []
  /-- Spans of more than one block that await restore: first index, length (R220). -/
  wide     : List (Nat × Nat) := []
  buffer   : List Change := []
  /-- Durable journal pages since the mark, oldest first. -/
  durable  : List (List Change) := []
  image    : Option CellarImage := none
  /-- The image in the other copy's area, until a new one is written there (16 R449). -/
  older    : Option CellarImage := none
  /-- Restores done since the first start. -/
  starts   : Nat := 0
  /-- The image being written, and the pages of `durable` before its mark. -/
  building : Option (CellarImage × Nat) := none
  cmd      : Option KsCmd := none
  /-- KS_STATUS.FRESH (R225). -/
  fresh    : Bool := false
  /-- DRAM rows with the lines that reported correctable errors, and the rows spared (16 R441). -/
  rows     : Tab (List Nat) := []
  spared   : List Nat := []
deriving DecidableEq, Repr

/-- An attic entry (17 R460) as its 32 bytes, and where it stands: sequence and wrap are inside. -/
abbrev Entry := BitVec 256

/-- The battery-backed SRAM (08, 13). -/
structure Bbram where
  retentionLost : Bool := true
  root       : Key256 := 0
  check      : Word := 0
  startCount : Word := 0
  rootValid  : Bool := false
  floorValid : Bool := false
  floor      : Nat := 0
  lockFlag   : Bool := false
  zeroized   : Bool := false
  zinLatch   : Bool := false
  cause      : Byte := 0xFF
  lockCount  : BitVec 32 := 0
  events     : List Entry := []
  lost       : Nat := 0
  /-- Unlock copy: custodian key identity and half-kind by register index (13 R388). -/
  unlock     : Tab (BitVec 256 × Bool) := []
deriving DecidableEq, Repr

/-- Keys derived from the root that are present (08 R228, R234). -/
structure Keys where
  memory : Bool := false
  cache  : Bool := false
  vault  : Bool := false
  dak    : Bool := false
  ident  : Bool := false
  /-- The root, or the test root, that they were derived from, while a derivation may still use it. -/
  base   : Key256 := 0
deriving DecidableEq, Repr

/-- A parameter set (09). -/
structure PSet where
  typ     : Nat := 0
  bitLen  : Nat := 0
  checked : Bool := false
  /-- The fields after the header, in order. -/
  fields  : List Nat := []
deriving DecidableEq, Repr

/-- A big-number engine (09). -/
structure BnEng where
  out      : Bool := false
  testing  : Bool := false
  queue    : List Nat := []
  running  : Option Nat := none
  /-- A slot program is running: instructions executed, stack of loops (start, last, passes left), flags. -/
  inProg   : Bool := false
  pc       : Nat := 0
  loops    : List LoopFrame := []
  eq       : Bool := false
  lt       : Bool := false
  rej      : Bool := false
  guard    : Bool := false
  short    : Bool := false
  modulus  : Nat := 0
  lm       : Nat := 0
  set      : Nat := 0
  /-- Outcome of the running operation once known: status, value, attempts. -/
  result   : Option (Status × Word × Nat) := none
  /-- Output operands of the running service operation: operand index and value. -/
  outs     : Tab Nat := []
  /-- The DRBG: requests since its last seeding, whether it has been seeded, and whether a reseed that fell due with no source
  in service holds it (R252). -/
  drbgReqs : Nat := 0
  seeded   : Bool := false
  drbgHeld : Bool := false
  /-- Material pulled for each handle argument, part by part (32 bytes each); the values of the input operands; the
  parameter sets as they stood when the operation started (R259); run count at the start. -/
  keyIn    : Tab Nat := []
  inputs   : Tab Nat := []
  sets     : Tab PSet := []
  started  : Nat := 0
deriving DecidableEq, Repr

/-- The big-number engines and the larder (09). -/
structure Bn where
  engs   : Tab BnEng := []
  psets  : Tab PSet := []
  /-- The set command in progress: number, candidate, its length. -/
  cmd    : Option (Nat × PSet) := none
deriving DecidableEq, Repr

/-- A pair key (10 R283). -/
structure Pair where
  id       : BitVec 32
  key      : Key256 := 0
  /-- Run count at which the key was stored, and envelopes sent under it. -/
  made     : Nat
  sent     : Nat := 0
  /-- The next sequence number to send, which goes on over a change of key. -/
  seq      : Nat := 0
  /-- Highest sequence number received, and those of the 64 below it that were received. -/
  high     : Nat := 0
  seen     : List Nat := []
  /-- The previous key and its identity, and the run count at which the new one was stored. -/
  prev     : Option (BitVec 32 × Nat × Key256) := none
  lastUse  : Nat := 0
deriving DecidableEq, Repr

/-- A handshake under way (10 R284): with whom, initiated here or not. -/
structure Shake where
  peer : Member
  mine : Bool
  id   : BitVec 32
  /-- Run count of the last HELLO or HELLO_ACK sent in it. -/
  run  : Nat := 0
  /-- The own ephemeral X25519 key, the secrets made so far, the clear parts of the envelopes so far. -/
  eph  : Key256 := 0
  ssX  : Nat := 0
  ssI  : Nat := 0
  clear : List Nat := []
deriving DecidableEq, Repr

/-- A handshake step that an envelope calls for (10 R284, R286): 1 a HELLO, 2 a HELLO_ACK, 3 a HELLO_FIN, with the peer's
encapsulation key, its X25519 value, its ciphertext and the envelope's clear part. -/
structure ShakeIn where
  step  : Nat
  peer  : Member
  ek    : BitVec 9472 := 0
  x     : BitVec 256 := 0
  ct    : BitVec 8704 := 0
  clear : List Nat := []
deriving DecidableEq, Repr

/-- A watched peer (10 R302, R304). -/
structure Watch where
  heard  : Nat
  absent : Bool := false
  /-- Run count of the last BEAT received, which makes a return entry for MISS intervals. -/
  beat   : Option Nat := none
  /-- Run count since which it is absent (11 R332). -/
  since  : Nat := 0
deriving DecidableEq, Repr

/-- A waiting outbound envelope. -/
structure EnvOut where
  kind : Nat
  dst  : Nat
  /-- Fields of the clear part of mode 2, and of the rest of the body: width in bytes and value. -/
  lead : List (Nat × Nat) := []
  body : List (Nat × Nat)
  /-- Device identity of a recipient that has no member number yet (R298). -/
  dev  : Option (BitVec 128) := none
  /-- The handshake key of mode 2, or JK for JOIN_REQ and JOIN_NAK (R281). -/
  key  : Key256 := 0
  /-- The send time of an envelope that may be sent again as it was (R277). -/
  time : Option Word := none
deriving DecidableEq, Repr

/-- A join in progress at the candidate (10 R274, R278): the sponsor's certificate, the own number, sendings. -/
structure Joining where
  cert    : Cert
  number  : Member
  sends   : Nat
  lastRun : Nat
  /-- JK; the ephemeral X25519 key; the secret encapsulated to the sponsor; the body of JOIN_REQ, its tickets alone before stage 1
  ends; an answer has verified. -/
  jk      : Key256 := 0
  eph     : Key256 := 0
  ssS     : Nat := 0
  req     : List (Nat × Nat) := []
  answered : Bool := false
deriving DecidableEq, Repr

/-- A share record (11 R313). -/
structure ShareRec where
  gen    : Nat
  val    : ShareVal
  /-- The commitment block it was verified against (R311). -/
  block  : List (BitVec 256)
deriving DecidableEq, Repr

/-- A round of a group (11 R320 to R322). -/
structure Round where
  x        : Nat                          -- seconds of the switch
  full     : Bool := false                -- a fresh sharing in place of a refresh (R335)
  deals    : List (Nat × ShareVal × List (BitVec 256)) := []   -- dealer, values, its commitments
  prepared : List (Nat × List (Nat × BitVec 256)) := []
  decided  : Option (Bool × List Nat × List Nat × BitVec 256) := none  -- COMMIT, P, D, digest
  acks     : List Nat := []
  /-- The own index under a full sharing, as its DEAL names it; 0 for none. -/
  ix       : Nat := 0
  /-- The deal cut-off, and the decision cut-off, have passed here; the switch beat has; run count of the last DECIDE. -/
  prepSent : Bool := false
  cutoff   : Bool := false
  switched : Bool := false
  sentRun  : Nat := 0
deriving DecidableEq, Repr

/-- A reconstruction of a group (11 R326 to R331). -/
structure Recon where
  target : Pos
  rc     : Nat
  shares : List (Nat × ShareGen) := []
  asked  : Bool := false
  /-- The interpolation stage has been submitted (R327 step 4). -/
  stage  : Bool := false
deriving DecidableEq, Repr

/-- A change of the group state that waits for the settlement of the round under way (11 R319): a position's state, a replacement
member, the end of a reconstruction, done or failed. -/
inductive Later
  | mark (p : Pos) (st : PosState)
  | replace (p : Pos) (m : Member)
  | recon (p : Pos) (done : Bool)
deriving DecidableEq, Repr

/-- A custody group's entry of the group table (11). -/
structure Group where
  desc     : GroupDesc
  version  : Nat := 0
  states   : List PosState := []
  gen      : Nat := 0
  own      : Option Pos := none
  bound    : Option Slice := none
  cur      : Option ShareRec := none
  pend     : Option ShareRec := none
  old      : Option ShareRec := none
  round    : Option Round := none
  recon    : Option Recon := none
  change   : Option GroupDesc := none
  /-- Created here and awaiting acceptances until this run count. -/
  creating : Option Nat := none
  accepts  : List Nat := []
  failed   : Bool := false
  /-- State changes that came between refresh and settlement (R319). -/
  waiting  : List Later := []
  /-- A descriptor whose E, RB and GEXP count from the next switch on (R335). -/
  tune     : Option GroupDesc := none
  /-- The second until which this module serves an old-epoch share (01 R16, R21). -/
  lag      : Option Nat := none
  /-- The tickets under which it was created here, while acceptances are awaited. -/
  tickets  : List (BitVec 2176) := []
  /-- Handle of the type 40h record that holds K (R314). -/
  key      : Option Word := none
  /-- Seconds of the next epoch switch, and of the switch whose refresh round is next (R309). -/
  nextX    : Nat := 0
  nextR    : Nat := 0
  bkGen    : Nat := 0
  bkCount  : Nat := 0
deriving DecidableEq, Repr

/-- Domain and custody logic (10, 11). -/
structure Cu where
  member   : Option Member := none
  /-- The own certificate (R266). -/
  cert     : Cert := {}
  domainId : BitVec 128 := 0
  /-- The join key, and the DATK's private keys: ECDSA P-384 scalar and ML-DSA-65 private key (R265). -/
  jk       : Key256 := 0
  datkP    : BitVec 384 := 0
  datkQ    : BitVec 32256 := 0
  roster   : Tab RosterEntry := []
  joining  : Option Joining := none
  /-- Joins answered here: device, ephemeral, run count, the JOIN_ACK sent (R277). -/
  joined   : List (BitVec 128 × BitVec 256 × Nat × EnvOut) := []
  /-- Members being sent the roster: recipient and next entry (R275). -/
  syncing  : List (Member × Nat) := []
  syncSecond : Nat := 0
  syncSent : Nat := 0
  pairs    : Tab Pair := []
  shakes   : List Shake := []
  /-- Handshakes begun here with each member, and by each member with this module, which count the key identities (R284). -/
  pairIds  : Tab (BitVec 32) := []
  peerIds  : Tab (BitVec 32) := []
  /-- Handshake steps waiting for the rate (R286), and steps run in the current second. -/
  shakeQ   : List ShakeIn := []
  shakeSecond : Nat := 0
  shakeRun : Nat := 0
  outQ     : List EnvOut := []
  watch    : Tab Watch := []
  lastBeat : Nat := 0
  chalSecond : Nat := 0
  chalRun  : Nat := 0
  /-- Run count of the last verified envelope from another member (01 R17). -/
  heard    : Nat := 0
  /-- Certificates and deletions already passed on (R292): number, serial. -/
  passed   : List (Nat × Nat) := []
  groups   : Tab Group := []
  pendBk   : List Nat := []
  /-- Internal orders waiting to be submitted again: routine, domain time of the retry beat, stage (R275). -/
  intern   : List (Nat × Nat × Option Job) := []
  /-- The key in the AES-256-GCM datapath (08 R234). -/
  dpKey    : Key256 := 0
  cmd      : Nat := 0
deriving DecidableEq, Repr

/-- A stair link's state (10, Link states). -/
inductive LinkState | down | train | active | entering | doze | disabled
deriving DecidableEq, Repr

/-- A DATA frame not acknowledged: run count of its last sending plus 1, or 0 before it, and how often it was sent again (10
R294). -/
structure TxFrame where
  sent  : Nat := 0
  again : Nat := 0
  frame : Frame
deriving DecidableEq, Repr

/-- A stair port (10). -/
structure Port where
  state   : LinkState := .disabled
  cable   : Bool := false
  txSeq   : BitVec 32 := 0
  rxSeq   : BitVec 32 := 0
  /-- DATA frames not acknowledged, oldest first. -/
  unacked : List TxFrame := []
  /-- Run count since which nothing waits on the port. -/
  idle    : Nat := 0
  reqSent : Bool := false
  /-- Run count at which DOZE was entered, and whether a wake is latched. -/
  dozeRun : Nat := 0
  wake    : Bool := false
  miswired : Bool := false
deriving DecidableEq, Repr

/-- A reassembly set (10 R295): source, tag, first fragment's run count, count, fragments held. -/
structure Reasm where
  src   : Nat
  tag   : BitVec 16
  run   : Nat
  count : Nat
  have_ : List Nat
deriving DecidableEq, Repr

/-- The stair ports and the ring (10). -/
structure St where
  p0      : Port := {}
  p1      : Port := {}
  reasm   : List Reasm := []
  map     : List ScanHop := []
  /-- In a chain, the modules that SCAN frames showed beyond port 1 and beyond port 0, the farthest first. -/
  below   : List ScanHop := []
  above   : List ScanHop := []
  self    : Nat := 0
  closed  : Bool := false
  oversize : Bool := false
  lastScan : Nat := 0
  msgTag  : BitVec 16 := 0
deriving DecidableEq, Repr

/-- State of a card slot (12 SL_SLOT_n.STATE). -/
inductive SlotState | empty | debounce | activating | active | refused | off
deriving DecidableEq, Repr

/-- A card slot (12). -/
structure CardSlot where
  found   : Bool := false
  det     : Bool := false
  detRun  : Nat := 0
  sealed  : Bool := false
  state   : SlotState := .empty
  cls     : Nat := 0
  fi      : Nat := 0
  di      : Nat := 0
  clkDiv  : Nat := 0
  ifsc    : Nat := 0
  cwi     : Nat := 0
  bwi     : Nat := 0
  err     : Nat := 0
  noPps   : Bool := false
  higher  : Nat := 0
  ppsWait : Bool := false
  tries   : Nat := 0
  blocked : Bool := false      -- R515: until SLn_DET has fallen
  /-- The highest class of the card seated, below which the module does not go (R347). -/
  seatCls : Nat := 0
  card    : Option (BitVec 768 × Nat) := none   -- public key and half-kind of GET_IDENT
deriving DecidableEq, Repr

/-- A held ticket (12 R355). -/
structure Held where
  raw      : BitVec 2176
  /-- SHA-256 of its 272 bytes. -/
  digest   : BitVec 256
  isLocal  : Bool
  index    : Nat          -- register index, 64 when not registered (a card in its own slot, R359)
  kind     : Nat          -- half-kind: 0 A, 1 B, FFh none
  /-- Run count at which a ticket made under FREE lapses; none for one that lapses at its not-after. -/
  lapse    : Option Nat
  /-- The slot of the card that signed a local ticket (R358). -/
  slot     : Fin 4 := 0
deriving DecidableEq, Repr

/-- A custodian register entry (12); one with a zero key has been removed and keeps its serial. -/
structure Custodian where
  pub    : BitVec 768
  keyId  : BitVec 256
  kindB  : Bool
  name   : BitVec 128
  serial : BitVec 32
  /-- The DATK's signature over the other fields. -/
  sig    : BitVec 768 := 0
deriving DecidableEq, Repr

/-- An SL_CMD that waits for a card (12 R364). -/
structure SlCmd where
  op    : Nat
  slot  : Fin 4
  donor : Fin 4
  raw   : BitVec 1408
  stage : Nat
  /-- The module's ephemeral P-384 scalar of a READ_HALF. -/
  eph   : BitVec 384 := 0
  /-- The PIN for SLOT, the donor's PIN, the half read from the donor. -/
  pin   : BitVec 128 := 0
  donorPin : BitVec 128 := 0
  half  : Key256 := 0
deriving DecidableEq, Repr

/-- The foyer (12). -/
structure Sl where
  slots    : Tab CardSlot := []
  held     : List Held := []
  consumed : List (BitVec 256 × Word × Option Nat) := []
  custody  : Tab Custodian := []
  cmd      : Option SlCmd := none
deriving DecidableEq, Repr

/-- One source entry of a policy (13 R384). -/
structure SrcPolicy where
  resp : Nat
  n    : Nat
  w    : Nat
deriving DecidableEq, Repr

/-- A tamper policy (13 R384). -/
structure Policy where
  compat   : Bool := false
  pulse    : Bool := false
  tempLow  : Int := -25
  tempHigh : Int := 110
  srcs     : List SrcPolicy := []
deriving DecidableEq, Repr

/-- A decision that E2 has still to evaluate (13 R373, R374): an alarm of a source, an unlock, a transition to a state, the
debug authorisation, or the key-use permission of a start; with the lock count E1 captured. -/
inductive Decision
  | alarm (src : Nat)
  | unlock
  | transition (target : LifeCycle)
  | jtag
  | keyUse
deriving DecidableEq, Repr

/-- A tamper source (13): event times in its window, alarm level, time of the last event. -/
structure Source where
  times  : List Nat := []
  level  : Bool := false
  last   : Nat := 0
deriving DecidableEq, Repr

/-- The shutters (13). -/
structure Tp where
  policy   : Policy := {}
  override : Bool := false
  sources  : Tab Source := []
  e2       : List (Decision × Nat) := []
  keyUse   : Bool := false
  tclkOk   : Bool := true
  /-- A lock taken while the tamper clock failed waits to be written into BBRAM (R372). -/
  lockPend : Bool := false
  pulse    : Bool := false
  /-- VBAT at or above 2.6 V, as the BATTERY source last saw it. -/
  batteryOk : Bool := true
  /-- Run count of the last trim of the tamper clock (R371). -/
  trims    : Nat := 0
  /-- Tamper-clock cycle at which PWR_OK fell. -/
  fell     : Nat := 0
  /-- Lock responses taken on battery whose remaining steps wait for the next start (R394): whether it zeroized, lock
  count, cause. -/
  left     : List (Bool × Nat × Nat) := []
deriving DecidableEq, Repr

/-- A stored profile (14 R410). -/
structure Profile where
  beCfg   : Word := 0x0000000400402000
  beRooms : Word := 0xFFFFFFFFFFFFFFFF
  hold    : Word := 0x00000000040003E8
  stCfg   : Word := 0x0000040000000000
  slCfg   : Word := 0x0000000000000A0F
  policy  : Policy := {}
  /-- SLT_ENG_c, SLT_ROOMS_c, SLT_AUX_c by 8 × slice + class. -/
  grants  : Tab (Word × Word × Word) := []
  ctx     : Tab Word := []
  quota   : Tab Word := []
  ways    : Tab Word := []
  digest  : BitVec 256 := 0
deriving DecidableEq, Repr

/-- The one-time programmable memory's settable content (14). -/
structure Otp where
  marks   : BitVec 8 := 0            -- S_TEST, S_PROD, S_ANAL, S_RET, B_TEST, B_PROD, B_ANAL, B_RET
  writes  : Tab Nat := []
  clears  : Nat := 0
  fix     : Option (Fin 4) := none
  /-- SHA-384 of the Choelm signing key pair as programmed in manufacture (010h to 03Fh). -/
  signer  : BitVec 384 := 0
  /-- The five token digests as programmed in manufacture; one that is not listed reads as Config.otpWord. -/
  tokens  : List (BitVec 256) := []
deriving DecidableEq, Repr

/-- The life-cycle block (14). -/
structure Lc where
  otp     : Otp := {}
  jtag    : Bool := false
  token   : BitVec 128 := 0
  psel    : Fin 4 := 0
  stored  : Tab Profile := []        -- profile area of vault flash
  working : Tab Profile := []        -- BLANK and TEST writes (R412)
  /-- By slot, the run count of its last write and what the slot held before that beat (R413). -/
  wrote   : Tab (Nat × Profile) := []
deriving DecidableEq, Repr

/-- A noise source (15). -/
structure Hsrc where
  inService : Bool := false
  testing   : Bool := false
  bits      : Nat := 0               -- raw bits delivered, below 1,024
  run       : Nat := 0               -- length of the current run of identical bits
  last      : Bool := false
  winBits   : Nat := 0               -- position in the adaptive-proportion window
  winFirst  : Bool := false
  winCount  : Nat := 0
deriving DecidableEq, Repr

/-- The hearth (15). -/
structure Ns where
  srcs    : Tab Hsrc := []
  capBusy : Bool := false
  capRoom : Nat := 0
  capValid : Bool := false
  capWasIn : Bool := false
  capFail : Nat := 0
  cap     : List Bool := []          -- unread captured bits, oldest first
  capBits : Nat := 0                 -- bits captured
  /-- An abort waits for the 64-bit boundary (R431). -/
  capStop : Bool := false
  /-- The outage in which no source is in service has its attic entry (06 R177). -/
  noted    : Bool := false
  /-- Run count of the last retest of failed sources in a first start (R423). -/
  retestRun : Nat := 0
deriving DecidableEq, Repr

/-- Error correction and vault flash (16). -/
structure Ec where
  /-- Poisoned SRAM words: class, word. -/
  poison  : List (Nat × Nat) := []
  /-- Words that have reported one uncorrectable error (R435, second error). -/
  errOnce : List (Nat × Nat) := []
  scrubAt : Nat := 0
  scrubRun : Nat := 0
  /-- Blocks that the directory names open (R451). -/
  opened  : List Nat := []
  /-- Areas of vault flash whose erasure has begun and is not done (R454, R459, 14 R400). -/
  erasing : List Nat := []
  /-- By area whose erasure a start found interrupted: its blocks that still await it (R454, EC_VF_BLK.ERASING). -/
  again   : Tab Nat := []
  /-- Retired blocks (R455). -/
  retired : List Nat := []
  /-- Program-store rewrites due: word, run count. -/
  rewrite : List (Nat × Nat) := []
deriving DecidableEq, Repr

/-- A report on its way into the attic (17): code, source word, data, flags. -/
structure Report where
  code : Nat
  src  : Nat
  data : Nat
deriving DecidableEq, Repr

/-- A token bucket that is not at its defaults (17). -/
structure Bucket where
  tokens     : Nat := 16
  depth      : Nat := 16
  period     : Nat := 20
  suppressed : Nat := 0
  firstSec   : Nat := 0
  /-- Run count of the last token gained, plus 1. -/
  gained     : Nat := 0
deriving DecidableEq, Repr

/-- The attic (17). -/
structure Ev where
  /-- Entries in attic SRAM, by wrap × 2³² + sequence: the founding region and the newest circulating entries. -/
  entries : Tab Entry := []
  /-- Entries programmed in the mirror, the same keys. -/
  mirror  : Tab Entry := []
  nextSeq : Nat := 0
  wrap    : Nat := 0
  buckets : Tab Bucket := []
  prio    : List Report := []
  general : List Report := []
  dropped : Nat := 0
  poisoned : List Nat := []
  loaded  : Bool := false
  reading : Option Nat := none
  copying : Bool := false
  /-- Run count, plus 1, of the first entry written to a mirror page since its last program (R471). -/
  pageRun : Tab Nat := []
deriving DecidableEq, Repr

/-- The sideband (18). -/
structure Sb where
  /-- Run count at which the last scan ended. -/
  lastRun : Nat := 0
  /-- The lid's capability bits, taken from the start scan (R490). -/
  lidCaps : BitVec 64 := 0
deriving DecidableEq, Repr

/-- The whole block. -/
structure State where
  /-- The commands that wait, first in, first out. -/
  pending : List Instr
  /-- The model's own counter from which the opaque constants of Config take fresh values. -/
  fresh   : Nat
  /-- The model's own record of what was issued, newest first. -/
  out     : List Out
  pwrOk   : Bool
  perstN  : Bool
  /-- A start has begun and its step 12 is not done; the main domain is in reset. -/
  starting : Bool
  inReset : Bool
  /-- START has begun the start in progress; the inputs of one that has not ended and waits at step 7 for its noise
  sources (15 R423). -/
  begun   : Bool
  startIn : Option StartIn
  /-- The next start is warm (its CAUSE, 2h to 6h), or from power-up (1h). -/
  cause   : Nat
  alarmOut : Bool
  mode    : Mode
  regs    : Tab Word
  tb      : Tb
  pch     : Pch
  adm     : Adm
  rooms   : Rooms
  mem     : Memory
  ld      : Ld
  ks      : Ks
  bbram   : Bbram
  keys    : Keys
  bn      : Bn
  cu      : Cu
  st      : St
  sl      : Sl
  tp      : Tp
  lc      : Lc
  ns      : Ns
  ec      : Ec
  ev      : Ev
  sb      : Sb
deriving DecidableEq, Repr

/-- The machine right after power is applied and before any start: both pins low, the main domain in reset, every
register at its Reset column (19 R499), OTP blank, battery contents lost, the Choelm library in the routine area of vault
flash. The values the manual does not give are named in the assumption log (rows 3 to 10). -/
def State.reset : State :=
  { pending := [], fresh := 0, out := [], pwrOk := false, perstN := false, starting := false, inReset := true, begun := false, startIn := none, cause := 1,
    alarmOut := false, mode := {}, regs := [], tb := {}, pch := {}, adm := {}, rooms := {}, mem := {}, ld := { flash := Config.library },
    ks := {}, bbram := {}, keys := {}, bn := {}, cu := {}, st := {}, sl := {}, tp := {}, lc := {}, ns := {}, ec := {}, ev := {},
    sb := {} }

/-- Why the machine stops with a fault. -/
inductive Fault
  /-- Raised by nothing: the block has no exception entry, and an access that the manual forbids ends an order or is counted
  (05 R163, 19 R494). Safe, because no run reaches it. -/
  | noSuchAddress
deriving DecidableEq, Repr

/-- Why a command has no meaning. -/
inductive Refusal
  /-- Raised by an arm of exec whose command is not modelled yet; safe. -/
  | notModelled (mnemonic : String)
  /-- Raised for an instruction form that the loader refuses (05 R137, 06 R188, 09 R253), so that no engine ever meets it;
  safe. -/
  | refusedByLoader
deriving DecidableEq, Repr

end Machine
end Sys2Proof
end

