-- ==== Sys2Proof/Machine/Regs.lean ====
section
/-! DEFINITION. The manager address map (19): which offsets of PF1 BAR0 name a register, what each register's bits are
(RW, W1C, the rest read-only or write-only) and its value when the main domain leaves reset (19 R493 to R500), and the one
read and the one write of the stored register words. -/

namespace Sys2Proof
namespace Machine

/-- A register of the manager map: its RW bits, its W1C bits, its Reset column. -/
structure RegDesc where
  rw    : Nat := 0
  w1c   : Nat := 0
  reset : Nat := 0
deriving DecidableEq, Repr

/-- Whether o is lo, lo + stride, ... of n members. -/
def among (lo stride n o : Nat) : Bool := lo ≤ o && o < lo + stride * n && (o - lo) % stride == 0

/-- Base of room r's RM block (19 R493). -/
def rmBase (r : Nat) : Nat := 0x100000 + 0x4000 * r
/-- Base of slice s's slice-table entry. -/
def sltBase (s : Nat) : Nat := 0x200000 + 0x800 * s
/-- Base of big-number engine b's larder window. -/
def larderBase (b : Nat) : Nat := 0x400000 + 0x40000 * b

/-- SYS block. -/
def sysDesc (o : Nat) : Option RegDesc :=
  match o with
  | 0x000 => some {}                     -- SYS_ACC
  | 0x020 => some { reset := 0x40 }      -- SYS_MODE
  | 0x028 => some { w1c := 0x1FF }       -- SYS_MODE_EVT
  | 0x030 => some {}                     -- SYS_START
  | 0x038 => some {}                     -- SYS_RESET
  | 0x040 => some {}                     -- SYS_RM_PEND
  | 0x100 => some { rw := 0xFFFFFFFFFFFFFFFF }   -- SYS_LD_ADDR
  | 0x108 => some {}                     -- SYS_LD_CMD
  | 0x110 => some {}                     -- SYS_LD_STS
  | 0x118 => some {}                     -- SYS_LD_BOUND
  | 0x120 => some {}                     -- SYS_LD_BN
  | 0x128 => some { reset := 0x00000F0000000000 } -- SYS_PS_SPACE
  | 0x130 => some { rw := 0xFFF }        -- SYS_RTN_SEL
  | 0x138 => some {}                     -- SYS_RTN_INFO
  | 0x140 => some {}                     -- SYS_RTN_BOUND
  | 0x148 => some {}                     -- SYS_RTN_AUX
  | _ => none

/-- TB block. -/
def tbDesc (o : Nat) : Option RegDesc :=
  match o with
  | 0x000 => some {}
  | 0x008 => some {}
  | 0x010 => some { reset := 0x0000FFFFFFFF0002 }
  | 0x018 => some { w1c := 0x1FF }
  | 0x020 => some { rw := 0xFFFFFFFFFFF }
  | 0x028 => some {}
  | 0x030 => some {}
  | 0x038 => some { rw := 0xFFFFFFFFFFFF, reset := 0x00000000040003E8 }
  | 0x040 => some { rw := 0xFFFFFFFFFFF, reset := 0x400000 }
  | 0x048 => some {}
  | 0x050 => some {}
  | 0x058 => some {}
  | 0x060 => some {}
  | 0x068 => some { reset := 0xFFFFFFFFFFFFFFFF }
  | _ => if among 0x100 8 32 o then some {} else none

/-- PCH block; its slice 0 doorbell page at 1000h follows 03 R79. -/
def pchDesc (o : Nat) : Option RegDesc :=
  match o with
  | 0x000 => some {}
  | 0x008 => some { w1c := 0x1FF }
  | 0x010 => some {}
  | 0x018 => some {}
  | 0x020 => some {}
  | 0x028 => some {}
  | 0x030 => some {}
  | 0x038 => some { rw := 0xFFFF, reset := 0x400 }
  | _ => none

/-- ADM block. -/
def admDesc (o : Nat) : Option RegDesc :=
  match o with
  | 0x000 => some {}
  | 0x008 => some { w1c := 0x7F }
  | 0x010 => some {}
  | 0x018 => some { reset := 0x0000000000FF0000 }
  | 0x020 => some { rw := 0xFF00FFFFFF, reset := 0x0000000400402000 }
  | 0x028 => some { rw := 0xFFFFFFFFFFFFFFFF, reset := 0xFFFFFFFFFFFFFFFF }
  | 0x030 => some { reset := 0x00000C0000004000 }
  | 0x038 => some {}
  | 0x040 => some {}
  | 0x048 => some {}
  | 0x050 => some {}
  | _ => if among 0x80 8 8 o then some {}
         else if among 0x200 8 64 o then some { reset := 0x8720000000000000 }
         else if among 0x400 8 16 o then some {} else none

/-- KS block. -/
def ksDesc (o : Nat) : Option RegDesc :=
  match o with
  | 0x000 => some {}
  | 0x008 => some { w1c := 0x7FF }
  | 0x010 => some { rw := 0xFFFF, reset := 0x4000 }
  | 0x018 => some {}
  | 0x020 => some {}
  | 0x028 => some { rw := 0xFFFFFFFFFFFFFFFF }
  | 0x030 => some {}
  | 0x038 => some {}
  | 0x040 => some {}
  | 0x048 => some {}
  | 0x050 => some {}
  | 0x058 => some { rw := 0x1FFFFF, reset := 1 }
  | 0x060 => some {}
  | 0x068 => some {}
  | _ => if among 0x100 8 12 o then some {} else if among 0x200 8 152 o then some {} else none

/-- BN block. The built-in parameter sets' BN_PSET_p words are read from the sets themselves. -/
def bnDesc (o : Nat) : Option RegDesc :=
  match o with
  | 0x000 => some { reset := 0x00000000FFFF0000 }
  | 0x008 => some { w1c := 0x1FF }
  | 0x010 => some { rw := 0xFFFFFFFFFFFFFFFF }
  | 0x018 => some {}
  | 0x020 => some {}
  | 0x028 => some {}
  | 0x030 => some {}
  | 0x038 => some {}
  | _ => if among 0x100 8 16 o then some { reset := 0x8000000000000000 }
         else if among 0x200 8 64 o then some {} else none

/-- CU block: domain part below 1000h, custody part from 1000h. The reserved bits of CU_CMD_ARG read zero, as 00 R2
has it, although its table types them RW (DESIGN CHOICE, log entry 210). -/
def cuDesc (o : Nat) : Option RegDesc :=
  match o with
  | 0x000 => some {}
  | 0x008 => some { w1c := 0x1FF }
  | 0x010 => some { rw := 0x0000FFFFFFFFFFFF, reset := 0x0000004000000400 }
  | 0x018 => some { rw := 0x00000000000F1FFF, reset := 0x0000000000040040 }
  | 0x020 => some {}
  | 0x028 => some { reset := 0x0000000000FF0000 }
  | 0x030 => some { rw := 0x0003FFFF0003FFFF }
  | 0x038 => some { rw := 0xFFFFFFFFFFFFFFFF }
  | 0x040 => some { rw := 0xFFFFFFFFFFFFFFFF }
  | 0x048 => some { rw := 0x10F }
  | 0x050 => some { rw := 0x00000FFF00000000 }
  | 0x058 => some { rw := 0xFFFFFFFFFFFFFFFF }
  | 0x060 => some { rw := 0x10F }
  | 0x068 => some { rw := 0x0000000000000FFF }
  | 0x070 => some {}
  | 0x078 => some {}
  | 0x080 => some {}
  | 0x088 => some {}
  | 0x090 => some {}
  | 0x098 => some {}
  | 0x0A0 => some {}
  | 0x1000 => some {}
  | 0x1008 => some { w1c := 0xFF }
  | 0x1010 => some {}
  | 0x1018 => some { reset := 0x0000000000FF0000 }
  | 0x1020 => some { rw := 0xFFFFFFFFFFFFFFFF }
  | 0x1028 => some { rw := 0xFFF }
  | 0x1030 => some {}
  | 0x1038 => some {}
  | 0x1040 => some {}
  | 0x1200 => some { rw := 0xFFFFFFFFFFFFFFFF }
  | 0x1208 => some { rw := 0x10F }
  | 0x1210 => some { rw := 0x00000FFF00000000 }
  | 0x1218 => some { rw := 0xFFFFFFFFFFFFFFFF }
  | 0x1220 => some { rw := 0x10F }
  | 0x1228 => some { rw := 0x0000000000000FFF }
  | 0x1230 => some {}
  | _ => if among 0x100 8 12 o || among 0x400 8 244 o || among 0x1080 8 40 o then some {} else none

/-- ST block. -/
def stDesc (o : Nat) : Option RegDesc :=
  match o with
  | 0x000 => some { reset := 0x2D }
  | 0x008 => some { w1c := 0xFF }
  | 0x010 => some { rw := 0x0000FFFF0000000F, reset := 0x0000040000000000 }
  | 0x020 => some {}
  | 0x028 => some {}
  | 0x030 => some {}
  | 0x038 => some {}
  | _ => if among 0x100 8 16 o then some {} else none

/-- SL block. -/
def slDesc (o : Nat) : Option RegDesc :=
  match o with
  | 0x000 => some {}
  | 0x008 => some { w1c := 0x7F }
  | 0x010 => some {}
  | 0x018 => some { reset := 0x0000000000FF0000 }
  | 0x020 => some { rw := 0xFFFFFFFFFFFFFFFF }
  | 0x028 => some { rw := 0xFF0F, reset := 0x0000000000000A0F }
  | 0x030 => some {}
  | _ => if among 0x100 8 4 o || among 0x140 8 4 o || among 0x200 8 16 o then some {} else none

/-- TP block. -/
def tpDesc (o : Nat) : Option RegDesc :=
  match o with
  | 0x000 => some { reset := 0x00FF000000000020 }
  | 0x008 => some { w1c := 0x7FF }
  | 0x010 => some {}
  | 0x018 => some { reset := 0x00000001FEFF0000 }
  | 0x020 => some { rw := 0xFFFFFFFFFFFFFFFF }
  | 0x028 => some { reset := 0x00000000FF000000 }
  | 0x030 => some {}
  | 0x038 => some {}
  | 0x040 => some {}
  | _ => if among 0x100 8 24 o || among 0x200 8 24 o then some {} else none

/-- LC block; the words from 1000h are OTP. -/
def lcDesc (o : Nat) : Option RegDesc :=
  match o with
  | 0x000 => some {}
  | 0x008 => some { w1c := 0x1F }
  | 0x010 => some {}
  | 0x018 => some { reset := 0x0000000000FF0000 }
  | 0x020 => some {}
  | 0x028 => some {}
  | 0x030 => some { rw := 0xFFFFFFFFFFFFFFFF }
  | 0x038 => some { rw := 0xFFFFFFFFFFFFFFFF }
  | _ => if among 0x100 8 4 o || among 0x1000 8 64 o then some {} else none

/-- NS block. -/
def nsDesc (o : Nat) : Option RegDesc :=
  match o with
  | 0x000 => some {}
  | 0x008 => some { w1c := 0x3F }
  | 0x010 => some { rw := 0x000003FFFFFF03FF, reset := 0x0000032029100100 }
  | 0x018 => some {}
  | 0x020 => some {}
  | 0x028 => some { rw := 0x3F }
  | 0x030 => some {}
  | 0x038 => some {}
  | _ => if among 0x100 8 64 o then some {} else none

/-- EC_AREA_a: first block and block count of vault-flash area a (16 R445). -/
def areaWord (a : Nat) : Nat :=
  match a with
  | 0 => 0 + fld 16 32
  | 1 => 16 + fld 9216 32
  | 2 => 9232 + fld 9216 32
  | 3 => 18448 + fld 2048 32
  | 4 => 20496 + fld 1024 32
  | 5 => 21520 + fld 16 32
  | 6 => 21536 + fld 1024 32
  | 7 => 22560 + fld 512 32
  | _ => 23072 + fld 256 32

/-- EC block. -/
def ecDesc (o : Nat) : Option RegDesc :=
  match o with
  | 0x000 => some {}
  | 0x008 => some { w1c := 0x3FF }
  | 0x010 => some {}
  | 0x018 => some {}
  | 0x020 => some {}
  | 0x028 => some {}
  | 0x030 => some { reset := 0x00000000A4E00000 }
  | _ => if among 0x100 8 10 o then some {}
         else if among 0x200 8 9 o then some { reset := areaWord ((o - 0x200) / 8) } else none

/-- EV block. -/
def evDesc (o : Nat) : Option RegDesc :=
  match o with
  | 0x000 => some {}
  | 0x008 => some { w1c := 0x3F }
  | 0x010 => some {}
  | 0x018 => some { reset := 0x0000000000FF0000 }
  | 0x020 => some { rw := 0xFFFFFFFFFFFFFFFF }
  | 0x028 => some { rw := 0xFFFFFFFF0001FFFF }
  | 0x030 => some {}
  | 0x038 => some { rw := 0xFFFFFFFF }
  | 0x040 => some {}
  | 0x048 => some {}
  | 0x050 => some {}
  | 0x058 => some {}
  | 0x060 => some {}
  | 0x080 => some { rw := 0x3FF }
  | 0x088 => some { rw := 0xFF1F00, reset := 0x0000000000101410 }
  | 0x090 => some {}
  | _ => none

/-- ID block. -/
def idDesc (o : Nat) : Option RegDesc :=
  match o with
  | 0x000 => some {}
  | 0x008 => some { w1c := 0xF }
  | 0x010 => some { rw := 0xFF03, reset := 0x101 }
  | 0x018 => some {}
  | 0x020 => some {}
  | _ => if among 0x100 8 8 o || among 0x200 8 64 o then some {} else none

/-- A room's RM block. -/
def rmDesc (o : Nat) : Option RegDesc :=
  match o with
  | 0x000 => some { reset := 0xFF00000000000000 }
  | 0x008 => some { w1c := 0x7F }
  | 0x010 => some {}
  | 0x018 => some {}
  | 0x020 => some {}
  | 0x028 => some {}
  | 0x030 => some {}
  | _ => if among 0x40 8 4 o then some { rw := 0xFFFFFFFFFFFFFFFF } else if among 0x80 8 8 o then some {} else none

/-- A slice-table entry. -/
def sltDesc (o : Nat) : Option RegDesc :=
  if o = 0x000 then some { rw := 0x800003FFFFFFFFFF }
  else if o = 0x008 then some {}
  else if among 0x40 0x20 4 o || among 0x48 0x20 4 o then some { rw := 0xFFFFFFFFFFFFFFFF }
  else if among 0x50 0x20 4 o then some { rw := 0x1FFFFFF7FFF }
  else if among 0x58 0x20 4 o then some {}
  else if among 0x200 0x20 8 o then some { rw := 0xFFF00FFFFFFFFFFF }
  else if among 0x208 0x20 8 o then some { rw := 0xFFFFFFFFFFFFFFFF }
  else if among 0x210 0x20 8 o then some { rw := 0xFFFFFFFFFFFFFF00 }
  else if among 0x218 0x20 8 o then some {}
  else if o = 0x300 then some { rw := 0x1FFFF }
  else if o = 0x400 then some { rw := 0x3FFFFFF }
  else if o = 0x408 then some {}
  else if o = 0x410 then some { rw := 0xF }
  else if among 0x500 8 60 o then some { rw := 0xFFFFFFFFFFFFFFFF }
  else none

/-- The register at an 8-byte aligned offset of PF1 BAR0; none where the offset is unassigned (19 R493, R495). -/
def regDesc (a : Nat) : Option RegDesc :=
  if a < 0x100000 then
    match a / 0x10000 with
    | 0 => sysDesc (a % 0x10000)
    | 1 => tbDesc (a % 0x10000)
    | 2 => pchDesc (a % 0x10000)
    | 3 => admDesc (a % 0x10000)
    | 4 => ksDesc (a % 0x10000)
    | 5 => bnDesc (a % 0x10000)
    | 6 => cuDesc (a % 0x10000)
    | 7 => stDesc (a % 0x10000)
    | 8 => slDesc (a % 0x10000)
    | 9 => tpDesc (a % 0x10000)
    | 10 => lcDesc (a % 0x10000)
    | 11 => nsDesc (a % 0x10000)
    | 12 => ecDesc (a % 0x10000)
    | 13 => evDesc (a % 0x10000)
    | 14 => idDesc (a % 0x10000)
    | _ => none
  else if a < 0x200000 then rmDesc ((a - 0x100000) % 0x4000)
  else if a < 0x400000 then sltDesc ((a - 0x200000) % 0x800)
  else if a < 0x800000 then
    some {}
  else none

/-- The Reset column of a register (19 R499). -/
def regReset (a : Nat) : Word :=
  match regDesc a with
  | some d => BitVec.ofNat 64 d.reset
  | none => 0

/-- The stored word of a register. -/
def rd (s : State) (a : Nat) : Word := tget (regReset a) s.regs a

/-- Store a register word; a register that reads as its Reset column is not listed. -/
def wr (s : State) (a : Nat) (v : Word) : State := { s with regs := tput (regReset a) s.regs a v }

/-- A field of a stored register word. -/
def rdF (s : State) (a hi lo : Nat) : Nat := bits (rd s a) hi lo

/-- Store a field of a register word. -/
def wrF (s : State) (a hi lo n : Nat) : State := wr s a (setBits (rd s a) hi lo n)

/-- Raise a counting field by n, saturating at its maximum. -/
def cntBy (s : State) (a hi lo n : Nat) : State :=
  wrF s a hi lo (min (2 ^ (hi + 1 - lo) - 1) (rdF s a hi lo + n))

/-- Raise a counting field by one, saturating. -/
def cntUp (s : State) (a hi lo : Nat) : State := cntBy s a hi lo 1

/-- Set bit n of a register word. -/
def setBit (s : State) (a n : Nat) : State := wrF s a n n 1

end Machine
end Sys2Proof
end

