-- ==== Sys2Proof/Machine/Ops.lean ====
section
/-! DEFINITION. The operations that every family of commands shares: domain time, MSI-X messages, event registers, attic
reports, mode changes, and the life of an order from the moment its outcome is fixed to the release of what it holds. -/

namespace Sys2Proof
namespace Machine

/-- What exec answers. -/
abbrev Result := Host.Outcome State Fault Refusal

/-- A next state (this name is short because every meaning ends in it). -/
abbrev go (s : State) : Result := .next s

/-- Run one of two state changes. -/
def onlyIf (c : Bool) (s : State) (f : State → State) : State := if c then f s else s

/-- The n-th value the manual leaves open, w bits wide, and the state that has used it. -/
def draw (w : Nat) (s : State) : BitVec w × State := (Config.freeBits w s.fresh, { s with fresh := s.fresh + 1 })

/-! ## Manager accesses (18 R485, 19 R494, R495) -/

/-- A refused access is counted in SYS_ACC: kind 1 size or alignment, 2 unassigned offset, 3 write ignored under R485. -/
def accRefused (s : State) (off kind : Nat) (write : Bool) : State :=
  let n := min 0xFFFFFFFF (rdF s 0 63 32 + 1)
  wr s 0 (BitVec.ofNat 64 (fld n 32 + fld (b2n write) 31 + fld kind 29 + off % 2 ^ 24))

/-- A manager write to the register at an offset of PF1 BAR0: nothing reaches a module in reset, and until step 10 of a start
the write is ignored (R485); else it acts. -/
def managerWrite (s : State) (off : Nat) (f : State → State) : Result :=
  if s.inReset then go s else if s.starting then go (accRefused s off 3 true) else go (f s)

/-! ## Time (02 R31 to R34) -/

/-- TB_RUN as a number. -/
def runNow (s : State) : Nat := s.tb.run.toNat
/-- TB_NOW (02 R31). -/
def tbNow (s : State) : Word := s.tb.run + s.tb.offset
/-- The seconds part of TB_NOW. -/
def secNow (s : State) : Nat := bits (tbNow s) 63 20
/-- Beats of one second. -/
def beatsPerSec : Nat := 1048576

/-! ## Codes of the manual's fixed sets -/

/-- SYS_MODE.LC. -/
def lcCode : LifeCycle → Nat
  | .blank => 0 | .test => 1 | .production => 2 | .analysis => 3 | .retired => 4

/-- SYS_MODE.TIME. -/
def timeCode : TimeStatus → Nat
  | .locked => 0 | .holdover => 1 | .free => 2

/-- SYS_MODE.DOMAIN. -/
def domCode : DomainStatus → Nat
  | .unenrolled => 0 | .member => 1 | .degraded => 2 | .isolated => 3

/-- The status codes (03 R98). -/
def stCode : Status → Nat
  | .done => 0x00 | .authFail => 0x01 | .busy => 0x02 | .noContext => 0x03 | .spoof => 0x04 | .policy => 0x05
  | .noKey => 0x06 | .locked => 0x07 | .poison => 0x08 | .aborted => 0x09 | .malformed => 0x0A
  | .deadlineFault => 0x0B | .quorum => 0x0C | .timeUntrusted => 0x0D | .rejectLimit => 0x0E
  | .guardOverflow => 0x0F | .notReady => 0x10 | .quota => 0x11 | .doorFault => 0x12

/-- The status of a code, where the code is one of 03 R98. -/
def stOfCode (n : Nat) : Option Status :=
  [Status.done, .authFail, .busy, .noContext, .spoof, .policy, .noKey, .locked, .poison, .aborted, .malformed,
   .deadlineFault, .quorum, .timeUntrusted, .rejectLimit, .guardOverflow, .notReady, .quota, .doorFault].find?
    fun x => stCode x == n

/-! ## MSI-X (03 R95, R96, 01 R10) -/

/-- Whether the function can issue a message or a write: link up, bus mastering enabled, not in D3hot. -/
def canIssue (s : State) (pf1 : Bool) : Bool :=
  s.pch.up && (if pf1 then s.pch.bme1 else s.pch.bme0 && !s.pch.d3hot)

/-- Send an MSI-X message, or set its pending bit when the vector is masked or the function cannot issue it. -/
def sendMsix (s : State) (pf1 : Bool) (v : Nat) : State :=
  let masked := tget true (if pf1 then s.pch.masked1 else s.pch.masked0) v
  if canIssue s pf1 && !masked then { s with out := .msix pf1 v :: s.out }
  else if pf1 then { s with pch := { s.pch with pend1 := tput false s.pch.pend1 v true } }
  else { s with pch := { s.pch with pend0 := tput false s.pch.pend0 v true } }

/-- Send the pending messages of a function whose vectors are unmasked (01 R10). -/
def flushMsix (s : State) (pf1 : Bool) : State :=
  if canIssue s pf1 then
    let pend := if pf1 then s.pch.pend1 else s.pch.pend0
    let msk := if pf1 then s.pch.masked1 else s.pch.masked0
    let ready := pend.filter fun (p : Nat × Bool) => !tget true msk p.1
    let rest := pend.filter fun (p : Nat × Bool) => tget true msk p.1
    let s1 := { s with out := ready.foldl (fun o (p : Nat × Bool) => Out.msix pf1 p.1 :: o) s.out }
    if pf1 then { s1 with pch := { s1.pch with pend1 := rest } } else { s1 with pch := { s1.pch with pend0 := rest } }
  else s

/-! ## Attic reports (17 R460, R463 to R468, R519) -/

/-- Codes that take no token and use the priority queue (17 R466). -/
def exempt (code : Nat) : Bool := (0x240 ≤ code && code ≤ 0x27F) || (0x360 ≤ code && code ≤ 0x365)

/-- The source word of an entry: kind and number (17 R460). -/
def srcWord (kind num : Nat) : Nat := kind * 2 ^ 28 + num % 2 ^ 18

/-- A report reaches the attic: it enters its input queue, or is dropped and counted (17 R468). `data` is entry bytes 20
to 31 as one little-endian number. -/
def report (s : State) (code src data : Nat) : State :=
  let full := if exempt code then 64 ≤ s.ev.prio.length else 256 ≤ s.ev.general.length
  if full then
    let s1 := cntUp s 0xD0030 63 48
    { s1 with ev := { s1.ev with dropped := s1.ev.dropped + 1 } }
  else if exempt code then { s with ev := { s.ev with prio := s.ev.prio ++ [⟨code, src, data⟩] } }
  else { s with ev := { s.ev with general := s.ev.general ++ [⟨code, src, data⟩] } }

/-! ## Event registers (19, 03 R96, 05 R164) -/

/-- Address of the event register of block 0 to 14. -/
def evtAddr (blk : Nat) : Nat := if blk = 0 then 0x28 else if blk = 1 then 0x10018 else blk * 0x10000 + 8

/-- An event of block `blk`: its bit is set and the block's vector signalled. -/
def evt (s : State) (blk n : Nat) : State := sendMsix (setBit s (evtAddr blk) n) true blk

/-- An event that is also recorded in the attic, under the code of its block and bit (17 R463). -/
def evtRec (s : State) (blk n src data : Nat) : State := report (evt s blk n) (64 * blk + n) src data

/-- An event of the custody part of the CU block (CU_GEVT). -/
def gevt (s : State) (n : Nat) : State := sendMsix (setBit s 0x61008 n) true 6

/-- A CU_GEVT event that is recorded: codes 190h to 197h. -/
def gevtRec (s : State) (n src data : Nat) : State := report (gevt s n) (0x190 + n) src data

/-- An event of room r (05 R164). -/
def rmEvt (s : State) (r n : Nat) : State := sendMsix (setBit s (rmBase r + 8) n) true 15

/-- A room event that is recorded: codes 3C0h to 3C6h. -/
def rmEvtRec (s : State) (r n src data : Nat) : State := report (rmEvt s r n) (0x3C0 + n) src data

/-- n corrected words of memory class m (16 R435). -/
def memCE (s : State) (m n : Nat) : State := if n = 0 then s else evt (cntBy s (0xC0100 + 8 * m) 31 0 n) 12 0

/-- n uncorrectable words of memory class m (16 R435). -/
def memUE (s : State) (m n : Nat) : State := if n = 0 then s else evt (cntBy s (0xC0100 + 8 * m) 63 32 n) 12 1

/-! ## SYS_MODE (01 R20, R29) -/

/-- SYS_MODE.LOCK as it reads (01 R29). -/
def lockRead (m : Mode) : Bool :=
  match m.lc with
  | .analysis | .retired => true
  | .blank => false
  | _ => m.lock

/-- SYS_MODE.DOMAIN as it reads (01 R29). -/
def domainRead (m : Mode) : DomainStatus := if m.lc = .production then m.domain else .unenrolled

/-- SYS_MODE.SWITCH as it reads (01 R29). -/
def switchRead (m : Mode) : Bool := m.switch && (m.lc = .test || m.lc = .production)

/-- SYS_MODE as it reads. -/
def modeWord (m : Mode) : Nat :=
  fld m.profile.val 16 + fld (b2n m.valid) 12 + fld (b2n m.zeroized) 11 + fld (b2n m.ready) 10
    + fld (b2n (switchRead m)) 9 + fld (domCode (domainRead m)) 7 + fld (timeCode m.time) 5 + fld (b2n (lockRead m)) 4
    + fld (b2n m.tmode) 3 + lcCode m.lc

/-- The fields of SYS_MODE that SYS_MODE_EVT flags: event bit, highest and lowest bit of the field. -/
def modeFields : List (Nat × Nat × Nat) :=
  [(0, 2, 0), (1, 3, 3), (2, 4, 4), (3, 6, 5), (4, 8, 7), (5, 9, 9), (6, 10, 10), (7, 11, 11), (8, 17, 16)]

/-- Flag, record and count one changed field of SYS_MODE. -/
def modeField (w0 w1 : Nat) (s : State) (f : Nat × Nat × Nat) : State :=
  if bits (BitVec.ofNat 64 w0) f.2.1 f.2.2 = bits (BitVec.ofNat 64 w1) f.2.1 f.2.2 then s
  else report (setBit s 0x28 f.1) f.1 (srcWord 0 0) (w0 + fld w1 32)

/-- Change the operating mode: every field of SYS_MODE that changes sets its bit of SYS_MODE_EVT and is recorded, and the
mode-change vector is signalled (01 R20). -/
def setMode (s : State) (f : Mode → Mode) : State :=
  let w0 := modeWord s.mode
  let m := f s.mode
  let w1 := modeWord m
  let s1 := { s with mode := m }
  if w0 = w1 then s1
  else sendMsix (modeFields.foldl (modeField w0 w1) s1) true 0

/-! ## Orders -/

/-- The order of a number, while the module knows it. -/
def order? (s : State) (o : Nat) : Option Order := tfind s.adm.orders o

/-- Store an order. -/
def setOrder (s : State) (o : Nat) (v : Order) : State :=
  { s with adm := { s.adm with orders := tins s.adm.orders o v } }

/-- Change an order if it is known. -/
def updOrder (s : State) (o : Nat) (f : Order → Order) : State :=
  match order? s o with
  | some v => setOrder s o (f v)
  | none => s

/-- An order's field, low bit first. -/
def Order.bits (v : Order) (hi lo : Nat) : Nat := Sys2Proof.bits v.data hi lo

/-- Routine number bits of bytes 0 to 1 (03, Order format). -/
def Order.routine (v : Order) : Nat := v.bits 11 0
/-- Deadline class. -/
def Order.cls (v : Order) : Nat := v.bits 18 16
/-- ARGS. -/
def Order.args (v : Order) : Bool := bit v.data 19
/-- IRQ. -/
def Order.irq (v : Order) : Bool := bit v.data 20
/-- Slice tag bytes 4 to 7. -/
def Order.tag (v : Order) : Nat := v.bits 63 32
/-- Host cookie. -/
def Order.cookie (v : Order) : Word := BitVec.ofNat 64 (v.bits 127 64)
/-- Key handle. -/
def Order.handle (v : Order) : Word := BitVec.ofNat 64 (v.bits 191 128)
/-- Not-before domain time. -/
def Order.notBefore (v : Order) : Nat := v.bits 255 192
/-- Input IOVA, length, output IOVA, length; zero with ARGS 1. -/
def Order.inIova (v : Order) : Nat := if v.args then 0 else v.bits 319 256
def Order.inLen (v : Order) : Nat := if v.args then 0 else v.bits 351 320
def Order.outIova (v : Order) : Nat := if v.args then 0 else v.bits 447 384
def Order.outLen (v : Order) : Nat := if v.args then 0 else v.bits 479 448

/-- An order has been accepted and its completion is not issued: it holds charges and its outcome may still be replaced
(01 R25). The porter stamps a deadline on every order it accepts, and on no other. -/
def Order.accepted (v : Order) : Bool := v.deadline != 0

/-- An engine stands where a room may preempt, resume or stop its order: at a bundle boundary, or in a wait instruction
(05 R131). -/
def Core.atBoundary (c : Core) : Bool := c.slot == 0 || c.waits

/-! ## Engines and frames -/

/-- Engine e. -/
def eng (s : State) (e : Nat) : Engine := tget {} s.rooms.engines e

/-- Store engine e. -/
def setEng (s : State) (e : Nat) (v : Engine) : State :=
  { s with rooms := { s.rooms with engines := tput {} s.rooms.engines e v } }

/-- Room of an engine. -/
def roomOf (e : Nat) : Nat := e / 8

/-- In-service engines of a room. -/
def engIn (s : State) (r : Nat) : Nat :=
  ((List.range 8).filter fun i => !(eng s (8 * r + i)).out).length

/-- Key of frame f of room r in the frame tables. -/
def frameKey (r f : Nat) : Nat := 128 * r + f

/-- First byte of a frame window in the table of window bytes. -/
def winBase (k : Nat) : Nat := 1024 * k

/-- Clear both halves of a frame and everything that hangs on it: window, save area, transfers, poison (05 R126, R146). -/
def freeFrame (s : State) (k : Nat) : State :=
  { s with
    rooms := { s.rooms with
      frames := tdel s.rooms.frames k
      saved := tdel s.rooms.saved k
      dma := tdel s.rooms.dma k }
    mem := { s.mem with win := tclear s.mem.win (winBase k) 1024 }
    ec := { s.ec with poison := s.ec.poison.filter fun p => !(p.1 == 0 && p.2 / 128 == k) } }

/-- The engine's registers and doorframe regions 0 to 11 are cleared and it is idle (05 R142, R156, 06 R170). -/
def idleEngine (s : State) (e : Nat) : State :=
  let v := eng s e
  setEng s e { v with
    core := {}, order := none, second := false, frame := 0
    lsAct := v.lsAct.filter fun p => 12 ≤ p.1
    lsStg := v.lsStg.filter fun p => 12 ≤ p.1
    dmaAct := v.dmaAct.filter fun p => 12 ≤ p.1
    dmaStg := v.dmaStg.filter fun p => 12 ≤ p.1 }

/-- An order gives up the engine and the frame it holds (05 R125, R146). -/
def leaveRoom (s : State) (v : Order) : State :=
  match v.phase with
  | .running e _ => freeFrame (idleEngine s e.val) (frameKey v.room.val v.frame)
  | .preempted _ => freeFrame s (frameKey v.room.val v.frame)
  | _ => s

/-- Slot descriptor n of big-number engine b (09, Slot descriptor: VALID 63, SECRET 62, LEN 45 to 32, BASE 13 to 0). -/
def slotDesc (s : State) (b n : Nat) : Word := tget 0 s.mem.descs (1024 * b + n)

/-- Whether a slot-area word lies in a valid SECRET slot (09 R238). -/
def secretWord (s : State) (b w : Nat) : Bool :=
  s.mem.descs.any fun p => p.1 / 1024 == b && bit p.2 63 && bit p.2 62 && bits p.2 13 0 ≤ w
    && w ≤ bits p.2 13 0 + bits p.2 45 32

/-- Clear the poison of the listed words of memory class m that meet p, counting each (16 R438). -/
def clearPoisonIf (s : State) (m : Nat) (p : Nat → Bool) : State :=
  let n := (s.ec.poison.filter fun q => q.1 == m && p q.2).length
  if n = 0 then s
  else cntBy { s with ec := { s.ec with poison := s.ec.poison.filter fun q => !(q.1 == m && p q.2) } } 0xC0010 63 32 n

/-- Zero the slot-area words of engine b that meet p: larder words are class 6 of 16, 32,768 for each engine. -/
def zeroWords (s : State) (b : Nat) (p : Nat → Bool) : State :=
  clearPoisonIf { s with mem := { s.mem with
      words := s.mem.words.filter fun q => q.1 / 16384 != b || !p (q.1 % 16384) } } 6
    fun w => w / 32768 == b && w % 32768 < 16384 && p (w % 32768)

/-- The slot area of engine b is given up: its words are zeroed, in BLANK and TEST only those of SECRET slots, and the
descriptors lose SECRET (09 R242). -/
def releaseArea (s : State) (b : Nat) : State :=
  let open_ := s.mode.lc == .blank || s.mode.lc == .test
  let s1 := zeroWords s b fun w => !open_ || secretWord s b w
  { s1 with mem := { s1.mem with
      descs := s1.mem.descs.filterMap fun p =>
        let d := if p.1 / 1024 = b then setBits p.2 62 62 0 else p.2
        if d = 0 then none else some (p.1, d) } }

/-- A big-number engine with its work area, registers, flags and accumulator cleared and no operation running. -/
def clearBn (g : BnEng) : BnEng :=
  { out := g.out, testing := g.testing, queue := g.queue, drbgReqs := g.drbgReqs, seeded := g.seeded,
    drbgHeld := g.drbgHeld }

/-- Statuses that complete an order at once while its operation is queued or running (09 R263: R25, R77, R115, R262). -/
def abortsBn : Status → Bool
  | .locked | .aborted | .deadlineFault => true
  | _ => false

/-- An order gives up its place on a big-number engine: its queued operation, or the running one with the engine's work
area, registers and flags (09 R261). An operation that is stopped before its end also gives up the words of the slot area,
in every life-cycle state, and sets BN_EVT.ABORT (09 R263). -/
def leaveBn (s : State) (o : Nat) (v : Order) (st : Status) : State :=
  match v.bnEng with
  | none => s
  | some b =>
    let g := tget {} s.bn.engs b.val
    let g1 := { g with queue := g.queue.filter (· != o) }
    let g2 := if g.running = some o then clearBn g1 else g1
    let s1 := { s with bn := { s.bn with engs := tput {} s.bn.engs b.val g2 } }
    if (v.phase = .bnQueued ∨ v.phase = .bnRunning) ∧ abortsBn st = true then
      evt (if v.holdsArea then zeroWords s1 b.val fun _ => true else s1) 5 8
    else s1

/-- A slice holds one stream context fewer. -/
def dropCtx (s : State) (sl : Nat) : State := { s with ld := { s.ld with ctx := tput 0 s.ld.ctx sl (tget 0 s.ld.ctx sl - 1) } }

/-- A stream context taken by an order that does not end DONE is released (04 R121). -/
def releaseCtx (s : State) (v : Order) : State := if v.ctx then dropCtx s v.slice.val else s

/-- Stream contexts of a slice whose opening orders have completed with DONE. -/
def openCtx (s : State) (sl : Slice) : Nat :=
  tget 0 s.ld.ctx sl.val - (s.adm.orders.filter fun p => p.2.slice == sl && p.2.ctx).length

/-- The routine that closes a stream context releases it (04 R121). The manual names no such routine and no act by which one
closes a context, so whether a routine that opens none and ends DONE has closed one of its slice's is a free value (DESIGN
CHOICE, log entry 198). -/
def closeCtx (s : State) (v : Order) : State :=
  if v.hdr.ctx || openCtx s v.slice == 0 then s
  else
    let d := draw 1 s
    if d.1 = 1 then dropCtx d.2 v.slice.val else d.2

/-- Fix the outcome of an order: it leaves its room and its big-number engine, and its completion waits to be issued
(01 R9, R25, 05 R142, R146). -/
def endOrder (s : State) (o : Nat) (st : Status) (inl : Word) : State :=
  match order? s o with
  | none => s
  | some v =>
    let s1 := leaveBn (leaveRoom s v) o v st
    let s2 := if st = .done then closeCtx s1 v else releaseCtx s1 v
    let s3 := { s2 with adm := { s2.adm with park := s2.adm.park.filter (· != o) } }
    setOrder s3 o { v with phase := .ended, outcome := some (st, inl), ctx := v.ctx && st == .done, staged := if st = .done then v.staged else [] }

/-- Fix the outcome of every order that meets p. -/
def endAll (s : State) (p : Order → Bool) (st : Status) : State :=
  (s.adm.orders.filter fun q => p q.2).foldl (fun s q => endOrder s q.1 st 0) s

/-- Register an order and number it. -/
def newOrder (s : State) (v : Order) : State :=
  { s with adm := { s.adm with orders := tins s.adm.orders s.adm.nextOrd v, nextOrd := s.adm.nextOrd + 1 } }

/-! ## Locks and aborts over all orders -/

/-- Every accepted and parked order gets the outcome LOCKED (01 R25, 04 R110). An order whose outcome is already fixed by
the porch or the porter, and which was never accepted, keeps it. -/
def lockOrders (s : State) : State :=
  endAll s (fun v => v.accepted || v.phase == .parked) .locked

/-- Whether the module is locked (01, Lock state). -/
def isLocked (s : State) : Bool := lockRead s.mode

/-- CORE_CLK cycles a routine may take are converted to beats at 998 cycles (02 R36, 04 R99). -/
def cyc (n : Nat) : Nat := ceilDiv (n + 128) 998

end Machine
end Sys2Proof
end

