-- ==== Sys2Proof/Machine/Time.lean ====
section
/-! DEFINITION. The time base (02): the beat, TIMEPULSE edges, labels and steps, the time statuses, the time floor, and the
placing of schedule entries. -/

namespace Sys2Proof
namespace Machine

/-- Raw cycles of one nominal second. -/
def secCycles : Int := 1048576000
/-- Least and greatest raw cycles between two edges of consecutive seconds (R37, R50). -/
def edgeMin : Nat := 1048366285
def edgeMax : Nat := 1048785715
/-- Limit of the rate trim (R35). -/
def rateLimit : Int := 1099511

/-- A number held within a symmetric limit. -/
def clampInt (lim x : Int) : Int := max (-lim) (min lim x)

/-- Sign of a number as one cycle of slew. -/
def unitOf (x : Int) : Int := if 0 < x then 1 else if x < 0 then -1 else 0

/-- Length in CORE_CLK cycles of the current beat, and the fraction it leaves (R35): the rate trim's share through the
fractional accumulator and at most one cycle of phase slew. -/
def beatLength (t : Tb) : Int × Int :=
  let acc := t.frac + 1000 * t.rate
  let carry := acc / 4294967296
  (1000 + carry + unitOf t.phase, acc - carry * 4294967296)

/-- One beat passes: both counts advance together (R31). Counting, not a step, makes a floor write due (R53). -/
def tick (s : State) : State :=
  if s.tb.running then
    let l := beatLength s.tb
    let s1 := { s with tb := { s.tb with run := s.tb.run + 1, cycle := s.tb.cycle + l.1.toNat, frac := l.2,
                                         phase := s.tb.phase - unitOf s.tb.phase } }
    if s.mode.time ≠ .free ∧ bits (tbNow s1) 19 0 = 0 ∧ secNow s1 % 64 = 0 then
      { s1 with tb := { s1.tb with floorDue := some (secNow s1) } }
    else s1
  else s

/-- The second nearest to a domain time (R40). -/
def nearestSec (now : Nat) : Nat := (now + 524288) / 1048576

/-- The phase error at an edge `off` cycles into the current beat, in cycles (R40). -/
def phaseError (s : State) (off : Nat) : Int :=
  ((tbNow s).toNat - nearestSec (tbNow s).toNat * 1048576 : Int) * 1000 + off

/-- TB_STATUS.UNCERT (R47). -/
def uncert (s : State) : Nat :=
  match s.mode.time with
  | .locked => 1
  | .holdover =>
    let e := match s.tb.lastEdge with
      | some l => runNow s - l.2
      | none => runNow s
    1 + e * rdF s 0x10038 15 0 / 1000000000
  | .free => 0xFFFFFFFF

/-- The measured rate over an interval of raw cycles that spans whole seconds, in 2⁻³² (R40). -/
def measuredRate (interval : Nat) : Int :=
  let n : Int := max 1 ((interval + 524288000) / 1048576000 : Nat)
  ((interval : Int) - n * secCycles) * 4294967296 / (n * secCycles)

/-- An edge is rejected (R39). -/
def rejectEdge (s : State) (gap : Nat) : State :=
  evtRec (cntUp s 0x10048 63 32) 1 0 (srcWord 0 0) (gap % 2 ^ 64)

/-- Edges are counted as accepted. -/
def acceptCount (s : State) (n : Nat) : State := cntBy s 0x10048 31 0 n

/-- TB_NOW is moved by whole seconds (R41, R43). -/
def stepSeconds (s : State) (old new : Nat) : State :=
  let s1 := { s with tb := { s.tb with
    offset := s.tb.offset + BitVec.ofInt 64 (((new : Int) - old) * 1048576), step := none } }
  evtRec s1 1 4 (srcWord 0 0) (old % 2 ^ 48 + fld (new % 2 ^ 48) 48)

/-- A step is held for approval (R42, R51, R55). -/
def pendStep (s : State) (marked sec : Nat) (acq : Bool) : State :=
  let s1 := { s with tb := { s.tb with step := some { sec := sec, run := runNow s, approved := false, acq := acq } } }
  evtRec s1 1 5 (srcWord 0 0) (marked % 2 ^ 48 + fld (sec % 2 ^ 48) 48)

/-- The pending step is discarded, with its cause (R44). -/
def discardStep (s : State) (cause : Nat) : State :=
  match s.tb.step with
  | none => s
  | some p =>
    evtRec { s with tb := { s.tb with step := none } } 1 6 (srcWord 0 0) (p.sec % 2 ^ 48 + fld cause 48)

/-- Seconds value that an approved step applies now (R43). -/
def stepValue (s : State) (p : Step) : Nat := p.sec + (runNow s - p.run + 524288) / 1048576

/-- The time floor is written with a seconds value (R53). TB_STATUS.FLOOR_VALID keeps what applied at the start (DESIGN
CHOICE, assumption row 194). -/
def writeFloor (s : State) (sec : Nat) : State :=
  { s with bbram := { s.bbram with floor := sec, floorValid := true } }

/-- Two seconds values differ by at most 2. -/
def within2 (a b : Nat) : Bool := a ≤ b + 2 && b ≤ a + 2

/-- Acquisition: TB_NOW becomes whole seconds, the rate is seeded from the pair, the status becomes LOCKED (R43, R50). -/
def acquire (s : State) (sec c gap : Nat) : State :=
  let old := secNow s
  let s1 := { s with tb := { s.tb with
    offset := BitVec.ofNat 64 (sec * 1048576) - s.tb.run, rate := clampInt rateLimit (measuredRate gap), phase := 0,
    step := none, label := none, firstAcq := false, acqEdge := none, lastEdge := some (c, runNow s), heardRun := runNow s } }
  let s2 := evtRec s1 1 4 (srcWord 0 0) (old % 2 ^ 48 + fld (sec % 2 ^ 48) 48)
  writeFloor (evt (setMode s2 fun m => { m with time := .locked }) 1 3) sec

/-- Whether a label may be taken at acquisition without approval (R51, R55, R56). R55 holds a first label outside its window
for approval in PRODUCTION only. -/
def labelOk (s : State) (sec : Nat) : Bool :=
  match s.mode.lc with
  | .blank | .test => true
  | lc =>
    if s.tb.firstAcq then
      lc != .production
        || (s.tb.floorValid && rdF s 0x10058 43 0 ≤ sec && sec ≤ rdF s 0x10058 43 0 + rdF s 0x10040 43 0)
    else within2 sec (nearestSec (tbNow s).toNat)

/-- An edge in FREE (R50 to R52, R55). The entry of a rejected edge with no edge before it since the start carries 0 raw
cycles (DESIGN CHOICE, assumption row 193). -/
def edgeFree (s : State) (c : Nat) : State :=
  match s.tb.acqEdge with
  | none => { s with tb := { s.tb with acqEdge := some (c, false, 0) } }
  | some (c0, counted, gap0) =>
    let gap := c - c0
    if edgeMin ≤ gap && gap ≤ edgeMax then
      let s1 := acceptCount s (if counted then 1 else 2)
      let open2 := fun (s : State) => { s with tb := { s.tb with acqEdge := some (c, true, gap) } }
      match s1.tb.label with
      | some sec =>
        let s2 := { s1 with tb := { s1.tb with label := none } }
        if labelOk s2 sec then acquire s2 sec c gap
        else pendStep (open2 s2) (nearestSec (tbNow s2).toNat) sec true
      | none =>
        match s1.tb.step with
        | some p => if p.approved then acquire s1 (stepValue s1 p) c gap else open2 s1
        | none => open2 s1
    else
      let s1 := if counted then s else rejectEdge s gap0
      { s1 with tb := { s1.tb with acqEdge := some (c, false, gap) } }

/-- What an accepted edge in LOCKED or HOLDOVER does to seconds (R41 to R43, R56). -/
def edgeSeconds (s : State) (marked : Nat) : State :=
  match s.tb.label with
  | some sec =>
    let s1 := { s with tb := { s.tb with label := none } }
    if within2 sec marked || s.mode.lc == .blank || s.mode.lc == .test then stepSeconds s1 marked sec
    else pendStep s1 marked sec false
  | none =>
    match s.tb.step with
    | some p => if p.approved then stepSeconds s marked (stepValue s p) else s
    | none => s

/-- An accepted edge in LOCKED or HOLDOVER (R40, R49). -/
def edgeAccept (s : State) (c off : Nat) : State :=
  let err := phaseError s off
  let marked := nearestSec (tbNow s).toNat
  let rate := match s.tb.lastEdge with
    | some l => clampInt rateLimit (s.tb.rate + (measuredRate (c - l.1) - s.tb.rate) / 16)
    | none => s.tb.rate
  let s1 := edgeSeconds s marked
  let s2 := acceptCount { s1 with tb := { s1.tb with
    rate := rate, phase := err, lastEdge := some (c, runNow s), heardRun := runNow s } } 1
  if s2.mode.time = .holdover then evt (setMode s2 fun m => { m with time := .locked }) 1 3 else s2

/-- A rising TIMEPULSE edge `off` cycles into the current beat (R37 to R43, R49 to R52). -/
def timepulse (s : State) (off : Nat) : State :=
  if s.tb.running then
    let c := s.tb.cycle + off
    let gap := match s.tb.lastEdge with
      | some l => c - l.1
      | none => 0
    match s.mode.time with
    | .locked => if edgeMin ≤ gap && gap ≤ edgeMax then edgeAccept s c off else rejectEdge s gap
    | .holdover => if (phaseError s off).natAbs ≤ (uncert s + 210) * 1000 then edgeAccept s c off else rejectEdge s gap
    | .free => edgeFree s c
  else s

/-- A label is armed; a pending step is discarded (R44). -/
def armLabel (s : State) (sec : Nat) : State :=
  let s1 := discardStep (wr s 0x10020 (BitVec.ofNat 64 sec)) 2
  { s1 with tb := { s1.tb with label := some sec } }

/-- TB_LABEL_WRITE (R41, R44). -/
def execTbLabelWrite (sec : BitVec 44) (s : State) : Result :=
  managerWrite s 0x10020 fun s => armLabel s sec.toNat

/-- HOLDOVER_TIMEOUT (R46). -/
def execHoldoverTimeout (s : State) : Result :=
  if s.mode.time = .locked ∧ s.tb.heardRun + 1572864 ≤ runNow s then
    go (evt (setMode s fun m => { m with time := .holdover }) 1 1)
  else go s

/-- FREE_ENTRY (R48, 04 R110). -/
def execFreeEntry (s : State) : Result :=
  if s.mode.time = .holdover ∧ rdF s 0x10038 47 16 ≤ uncert s then
    let s1 := { s with tb := { s.tb with acqEdge := none } }
    go (endAll (evt (setMode s1 fun m => { m with time := .free }) 1 2) (fun v => v.phase == .parked) .timeUntrusted)
  else go s

/-- STEP_APPROVAL_TIMEOUT (R44). -/
def execStepApprovalTimeout (s : State) : Result :=
  match s.tb.step with
  | some p => if !p.approved && decide (p.run + 300 * beatsPerSec ≤ runNow s) then go (discardStep s 1) else go s
  | none => go s

/-- ACQ_WINDOW_CLOSE (R52). -/
def execAcqWindowClose (s : State) : Result :=
  match s.tb.acqEdge with
  | some (c0, counted, gap0) =>
    if c0 + edgeMax < s.tb.cycle then
      let s1 := { s with tb := { s.tb with acqEdge := none } }
      go (if counted then s1 else rejectEdge s1 gap0)
    else go s
  | none => go s

/-- TIME_FLOOR_WRITE (R53). -/
def execTimeFloorWrite (s : State) : Result :=
  match s.tb.floorDue with
  | some sec =>
    let s1 := { s with tb := { s.tb with floorDue := none } }
    go (if s.mode.time = .free then s1 else writeFloor s1 sec)
  | none => go s

/-! ## The schedule (R57 to R63) -/

/-- Why a request to place an entry is refused; 0 when it is not (R57). -/
def schedRefusal (s : State) (kind : Nat) (target : Word) : Nat :=
  if target.toNat < (tbNow s).toNat + 64 then 1
  else if 16 ≤ s.tb.sched.length then 2
  else if kind = 1 ∧ (s.mode.switch ∨ s.tb.sched.any fun e => e.2.kind == 1) then 3
  else 0

/-- Lowest free schedule entry. -/
def schedFree (t : Tab Sched) : Nat := ((List.range 16).find? fun n => (tfind t n).isNone).getD 0

/-- Place an entry, or record the refusal; the second part says whether it was placed. -/
def schedPlace (s : State) (kind : Nat) (target : Word) (gen : BitVec 16) (slot : Fin 4) : State × Bool :=
  let why := schedRefusal s kind target
  if why = 0 then
    let e : Sched := { kind := kind, held := false, target := target, gen := gen, slot := slot }
    ({ s with tb := { s.tb with sched := tins s.tb.sched (schedFree s.tb.sched) e } }, true)
  else (evtRec s 1 8 (srcWord 0 0) (kind + fld why 8 + fld target.toNat 32), false)

/-- Data of the attic entry of an entry that fires or is cancelled (17 R519, 047h). -/
def schedData (n : Nat) (e : Sched) : Nat := n + fld e.kind 8 + fld e.gen.toNat 16 + fld e.target.toNat 32

/-- Empty a schedule entry (R63). -/
def schedEmpty (s : State) (n : Nat) : State := { s with tb := { s.tb with sched := tdel s.tb.sched n } }

/-- Code of a recorded cancellation, and of one without effect (R63; the manual does not give the codes). -/
def cancelCode : Nat := 0x060
def cancelIdleCode : Nat := 0x062

/-- SCHED_CANCEL (R63). -/
def cancelEntry (s : State) (n : Nat) : State :=
  match tfind s.tb.sched n with
  | some e =>
    if e.kind = 1 then report (schedEmpty s n) cancelCode (srcWord 0 0) (schedData n e)
    else report s cancelIdleCode (srcWord 0 0) 0
  | none => report s cancelIdleCode (srcWord 0 0) 0

/-- SCHED_CANCEL (R63): a write of 1 to TB_SCHED_CTL_n.CANCEL. -/
def execSchedCancel (n : Fin 16) (s : State) : Result :=
  managerWrite s (0x10108 + 0x10 * n.val) fun s => cancelEntry s n.val

/-- Cancel every profile entry (01 R27). -/
def cancelProfile (s : State) : State :=
  (s.tb.sched.filter fun p => p.2.kind == 1).foldl
    (fun s p => report (schedEmpty s p.1) cancelCode (srcWord 0 0) (schedData p.1 p.2)) s

/-- Room r has applied the new generation; the last one ends the switch (R61, 04 R123). -/
def roomApplied (s : State) (r : Nat) : State :=
  let s1 := setBit s 0x10068 r
  if rd s1 0x10068 = 0xFFFFFFFFFFFFFFFF then
    let s2 := { s1 with adm := { s1.adm with oldGrants := [], oldUnits := [], oldBe := 0, oldBeRooms := 0 } }
    setMode s2 fun m => { m with switch := false }
  else s1

/-- ROOM_APPLY_GENERATION (R61, 01 R18, R19). -/
def execRoomApplyGeneration (r : Room) (s : State) : Result :=
  if s.mode.switch then go (roomApplied s r.val) else go s

end Machine
end Sys2Proof
end

