-- ==== Sys2Proof/Machine/Porter.lean ====
section
/-! DEFINITION. The porter (04): windows, charges, grants, the admission test, retry beats, the park, and the events that
release charges or stop an order. -/

namespace Sys2Proof
namespace Machine

/-! ## Windows (R100) -/

/-- Class budget B in beats. -/
def budget (c : Nat) : Nat := if c < 6 then 16 * 4 ^ c else if c = 6 then 131072 else 1048576
/-- Engine window E. -/
def winE (c : Nat) : Nat := budget c - 2
/-- Phase window q. -/
def winQ (c : Nat) : Nat := winE c / 8
/-- Big-number window W. -/
def winW (c : Nat) : Nat := winE c - 2 * winQ c
/-- Release step B/16. -/
def relStep (c : Nat) : Nat := budget c / 16
/-- The window that engine densities are taken over. -/
def winOf (c : Nat) (bn : Bool) : Nat := if bn then winQ c else winE c

/-- First multiple of the release step at or after a deadline (R101). -/
def releaseBeat (c d : Nat) : Nat := ceilDiv d (relStep c) * relStep c

/-- Run count at which the current phase's window ends (R100, R111): for a one-phase order and a second phase, D − 1. -/
def phaseEnd (v : Order) : Nat :=
  let first := v.adm + 1 + winQ v.cls
  match v.phase with
  | .queued false | .running _ false | .preempted false => if v.hdr.bnLen = 0 then v.deadline - 1 else first
  | .bnQueued | .bnRunning => first + winW v.cls
  | _ => v.deadline - 1

/-! ## Capacities -/

/-- Host units per beat of one lane at a link speed code. -/
def laneUnits (speed : Nat) : Nat :=
  match speed with
  | 5 => 52 | 4 => 26 | 3 => 13 | 2 => 6 | 1 => 3 | _ => 0

/-- Host capacity per beat (R100). -/
def hostCap (s : State) : Nat := if s.pch.up then laneUnits s.pch.speed * 2 ^ s.pch.width else 0

/-- Key of a grant: slice and class. -/
def gkey (s c : Nat) : Nat := 8 * s + c

/-- A layout: grants by key, the placed big-number units, and the best-effort settings (R102, R123, 01 R28). -/
structure Layout where
  grants  : Tab Grant
  units   : List Unit
  be      : Word
  beRooms : Word
  /-- The path, reserve or best-effort, on which a charge counts in this layout. -/
  old     : Bool

/-- The layout in force. -/
def layoutNew (s : State) : Layout :=
  { grants := s.adm.grants, units := s.adm.units, be := rd s 0x30020, beRooms := rd s 0x30028, old := false }
/-- The layout before the switch in progress. -/
def layoutOld (s : State) : Layout :=
  { grants := s.adm.oldGrants, units := s.adm.oldUnits, be := s.adm.oldBe, beRooms := s.adm.oldBeRooms, old := true }

/-- Whether a charge counts on the reserve path in a layout. -/
def onReserve (l : Layout) (h : Charge) : Bool := if l.old then h.oldRes else h.reserve
/-- The big-number engine on which a charge counts in a layout (R123). -/
def unitEng (l : Layout) (h : Charge) : Option BnIx := if l.old then h.bnOld else h.bnEng

/-- Window of a grant's densities. -/
def grantWin (key : Nat) (g : Grant) : Nat := winOf (key % 8) (g.bnUnits != 0)
/-- Density of a grant in each of its rooms. -/
def grantDen (key : Nat) (g : Grant) : Nat := ceilDiv (g.res * 65536) (grantWin key g)
/-- Peak density of a grant. -/
def grantPeak (key : Nat) (g : Grant) : Nat := ceilDiv (g.maxw * 65536) (grantWin key g)
/-- Whether a grant covers room r. -/
def covers (g : Grant) (r : Nat) : Bool := bit g.rooms r

/-- ADM_BE_CFG fields; DMAX as the module reads it (R104). -/
def beDmax (s : State) : Nat := rdF s 0x30020 15 0
def Layout.dmax (l : Layout) : Nat := bits l.be 15 0
def Layout.share (l : Layout) : Nat := bits l.be 23 16
def Layout.bnOps (l : Layout) : Nat := bits l.be 39 32

/-- dmax_r under a set of grants and a floor. -/
def dmaxWith (gs : Tab Grant) (floor r : Nat) : Nat :=
  gs.foldl (fun m p => if covers p.2 r then max m (grantPeak p.1 p.2) else m) floor

/-- cap_r from engines in service and dmax_r, read as 0 where it is negative. -/
def capOf (e dmax : Nat) : Nat := if e = 0 then 0 else e * 65536 - (e - 1) * dmax
/-- A density is at most cap_r, which a large dmax_r makes negative (R101, R103). -/
def capHolds (e dmax den : Nat) : Bool := if e = 0 then den == 0 else den + (e - 1) * dmax ≤ e * 65536

/-- Granted density of a room. -/
def grantedIn (gs : Tab Grant) (r : Nat) : Nat :=
  gs.foldl (fun m p => if covers p.2 r then m + grantDen p.1 p.2 else m) 0

/-- dmax_r of a layout. -/
def Layout.dmaxIn (l : Layout) (r : Nat) : Nat := dmaxWith l.grants l.dmax r

/-- Capacity of a room in a layout. -/
def roomCap (s : State) (l : Layout) (r : Nat) : Nat := capOf (engIn s r) (l.dmaxIn r)

/-- Sum of a figure over a list. -/
def sumOf {α : Type} (l : List α) (f : α → Nat) : Nat := l.foldl (fun m x => m + f x) 0

/-! ## The big-number test (R103) -/

/-- Lengths and windows of a layout's units and held best-effort operations on engine b. -/
def bnItems (l : Layout) (chs : List Charge) (b : BnIx) : List (Nat × Nat) :=
  (l.units.filter fun u => u.eng == some b).map (fun u => ((tget {} l.grants u.key).bnMaxl, winW (u.key % 8)))
    ++ (chs.filter fun h => h.held && !onReserve l h && h.bnLen != 0 && unitEng l h == some b).map
        (fun h => (h.bnLen, winW h.cls.val))

/-- The big-number test for one engine. -/
def bnTest (items : List (Nat × Nat)) : Bool :=
  let total := sumOf items fun i => ceilDiv (i.1 * 65536) i.2
  items.all fun w =>
    let block := items.foldl (fun m i => if w.2 < i.2 then max m (ceilDiv (i.1 * 65536) w.2) else m) 0
    total + block ≤ 65536

/-- Whether an order holds the slot area of engine b (09 R241). -/
def areaHeld (chs : List Charge) (b : BnIx) : Bool := chs.any fun h => h.stgHeld && h.area && h.bnEng == some b

/-- Whether big-number engine b is in service. -/
def bnIn (s : State) (b : BnIx) : Bool := !(tget {} s.bn.engs b.val).out

/-- Lowest-numbered in-service big-number engine that passes the test with an operation of this length and window added. -/
def bnPlace (s : State) (l : Layout) (chs : List Charge) (len w : Nat) (area : Bool) : Option BnIx :=
  (List.finRange 16).find? fun b =>
    bnIn s b && !(area && areaHeld chs b) && bnTest ((len, w) :: bnItems l chs b)

/-- Place n units of a grant, one at a time; none when one cannot be placed. -/
def placeUnits (s : State) (gs : Tab Grant) (key len : Nat) : Nat → List Unit → Option (List Unit)
  | 0, us => some us
  | n + 1, us =>
    match bnPlace s { layoutNew s with grants := gs, units := us } s.adm.charges len (winW (key % 8)) false with
    | some b => placeUnits s gs key len n (us ++ [⟨key, some b⟩])
    | none => none

/-! ## The grant checks (R102, R103) -/

/-- Offset of a porter word of slice s and class c. -/
def engAddr (s c : Nat) : Nat := sltBase s + 0x200 + 0x20 * c
def roomsAddr (s c : Nat) : Nat := sltBase s + 0x208 + 0x20 * c
def auxAddr (s c : Nat) : Nat := sltBase s + 0x210 + 0x20 * c
def loadAddr (s c : Nat) : Nat := sltBase s + 0x218 + 0x20 * c

/-- The grant that three words spell. -/
def grantOfWords (e r a : Word) : Grant :=
  { res := bits e 23 0, maxw := bits e 43 24, stage := bits e 63 52, rooms := r, bnUnits := bits a 63 56,
    bnMaxl := bits a 55 36, fetch := bits a 35 20, host := bits a 19 8 }

/-- The grant written in the slice table. -/
def writtenGrant (s : State) (sl c : Nat) : Grant :=
  grantOfWords (rd s (engAddr sl c)) (rd s (roomsAddr sl c)) (rd s (auxAddr sl c))

/-- Check a grant in place of the one its key holds: the placed units, or the failing status and detail (R103). Where
several rooms fail step 2, DETAIL names the lowest (DESIGN CHOICE, log entry 196). -/
def grantCheck (s : State) (gs : Tab Grant) (us : List Unit) (key : Nat) (g : Grant) : Except (Status × Nat) (List Unit) :=
  let c := key % 8
  let others := tdel gs key
  let gs1 := tins others key g
  let us1 := us.filter fun u => u.key != key
  if (g.res != 0 && !(1 ≤ g.maxw && g.maxw ≤ grantWin key g && g.maxw ≤ g.res))
      || (g.bnUnits != 0 && !(1 ≤ g.bnMaxl && g.bnMaxl ≤ winW c)) then .error (.malformed, 0x44)
  else
    match (List.range 64).find? fun r =>
        covers g r && !capHolds (engIn s r) (dmaxWith gs1 (beDmax s) r) (grantedIn gs1 r) with
    | some r => .error (.quota, r)
    | none =>
      match placeUnits s gs1 key g.bnMaxl g.bnUnits us1 with
      | none => .error (.quota, 0x40)
      | some us2 =>
        if 16384 < sumOf gs1 (fun p => p.2.fetch) then .error (.quota, 0x41)
        else if hostCap s < sumOf gs1 (fun p => p.2.host) then .error (.quota, 0x42)
        else if 3072 < sumOf gs1 (fun p => p.2.stage) then .error (.quota, 0x43)
        else .ok us2

/-- Write the three words of a grant in force, or zeros (R102). -/
def writeGrantWords (s : State) (sl c : Nat) (g : Option Grant) : State :=
  match g with
  | some g =>
    wr (wr (wr s (engAddr sl c) (BitVec.ofNat 64 (g.res + fld g.maxw 24 + fld g.stage 52))) (roomsAddr sl c) g.rooms)
      (auxAddr sl c) (BitVec.ofNat 64 (fld g.bnUnits 56 + fld g.bnMaxl 36 + fld g.fetch 20 + fld g.host 8 + 1))
  | none => wr (wr (wr s (engAddr sl c) 0) (roomsAddr sl c) 0) (auxAddr sl c) 0

/-- ADM_CMD_STS. -/
def admStatus (s : State) (st : Status) (detail : Nat) : State :=
  wr s 0x30018 (BitVec.ofNat 64 (stCode st + fld detail 16))

/-- A grant is refused: event, attic entry 0C1h (17 R519). -/
def grantRefused (s : State) (sl c : Nat) (st : Status) (detail : Nat) : State :=
  evtRec s 3 1 (srcWord 1 sl) (c + fld detail 8 + fld (stCode st) 16)

/-- ADM_CMD OP 1h (R102). -/
def grantCmd (s : State) (sl c : Nat) : State :=
  let key := gkey sl c
  let g := writtenGrant s sl c
  match grantCheck s s.adm.grants s.adm.units key g with
  | .ok us =>
    let s1 := { s with adm := { s.adm with grants := tins s.adm.grants key g, units := us } }
    admStatus (wrF s1 (auxAddr sl c) 0 0 1) .done 0xFF
  | .error e =>
    grantRefused (admStatus (writeGrantWords s sl c (tfind s.adm.grants key)) e.1 e.2) sl c e.1 e.2

/-- GRANT (R102, R103). -/
def execGrant (sl : Slice) (c : Class) (s : State) : Result :=
  managerWrite s 0x30010 fun s => grantCmd s sl.val c.val

/-- ADM_CMD OP 2h (R103). -/
def releaseCmd (s : State) (sl c : Nat) : State :=
  let key := gkey sl c
  let s1 := { s with adm := { s.adm with grants := tdel s.adm.grants key, units := s.adm.units.filter fun u => u.key != key } }
  admStatus (wrF s1 (auxAddr sl c) 0 0 0) .done 0xFF

/-- GRANT_RELEASE (R103). -/
def execGrantRelease (sl : Slice) (c : Class) (s : State) : Result :=
  managerWrite s 0x30010 fun s => releaseCmd s sl.val c.val

/-- DMAX as the module reads a written value (R104). -/
def dmaxRead (n : Nat) : Nat := if n = 0 then 1 else min n 0x8000

/-- A write to ADM_BE_CFG (R104). -/
def writeBeCfg (s : State) (val : Word) : State :=
  let d := dmaxRead (bits val 15 0)
  let beyond := (List.range 64).any fun r => !capHolds (engIn s r) (dmaxWith s.adm.grants d r) (grantedIn s.adm.grants r)
  if beyond then evt s 3 1
  else wr s 0x30020 (BitVec.ofNat 64 (d + fld (bits val 23 16) 16 + fld (bits val 39 32) 32))

/-- BE_CFG_WRITE (R104). -/
def execBeCfgWrite (val : Word) (s : State) : Result :=
  managerWrite s 0x30020 fun s => writeBeCfg s val

/-! ## The admission test (R106) -/

/-- What the order charges. -/
structure Need where
  w : Nat
  dmx : Nat
  den : Nat
  pk : Nat
  cel : Nat
  rd : Nat
  wr : Nat
  stg : Nat
  bn : Nat
  cls : Nat
  /-- The operation is a slot program, which needs an engine whose slot area no order holds (09 R241). -/
  area : Bool

/-- The charges of an order (R99, R100). -/
def need (v : Order) : Need :=
  let c := v.cls
  let bn := v.hdr.bnLen != 0
  let w1 := cyc v.hdr.boundA
  let w2 := if bn then cyc v.hdr.boundB else 0
  let win := winOf c bn
  { w := w1 + w2, dmx := max w1 w2, den := ceilDiv ((w1 + w2) * 65536) win, pk := ceilDiv (max w1 w2 * 65536) win,
    cel := 16 * v.hdr.fetch, rd := ceilDiv (64 + v.inLen) 64, wr := ceilDiv (32 + v.outLen) 64,
    stg := ceilDiv (v.inLen + v.outLen) 4096, bn := v.hdr.bnLen, cls := c,
    area := v.slotProg && bn }

/-- A rate charge as a density over its class's engine window. -/
def rate (n c : Nat) : Nat := ceilDiv (n * 65536) (winE c)

/-- Charges of a slice and class held on the reserve path. -/
def resHeld (l : Layout) (chs : List Charge) (sl c : Nat) (f : Charge → Nat) : Nat :=
  sumOf (chs.filter fun h => onReserve l h && h.slice.val == sl && h.cls.val == c) f

/-- A held figure of a charge. -/
def heldW (f : Charge → Nat) (h : Charge) : Nat := if h.held then f h else 0
def heldStg (h : Charge) : Nat := if h.stgHeld then h.stg else 0

/-- A unit of the grant that no held reserve charge occupies, on the lowest-numbered engine. -/
def freeUnit (s : State) (l : Layout) (chs : List Charge) (sl c : Nat) (area : Bool) : Option BnIx :=
  (List.finRange 16).find? fun b =>
    bnIn s b && !(area && areaHeld chs b) &&
    (chs.filter fun h => h.held && onReserve l h && h.slice.val == sl && h.cls.val == c && unitEng l h == some b).length
      < (l.units.filter fun u => u.key == gkey sl c && u.eng == some b).length

/-- Orders admitted to a room whose completion is not issued (05 RM_STATUS.QUEUED, R122). -/
def queueLen (s : State) (r : Nat) : Nat :=
  (s.adm.orders.filter fun p => p.2.accepted && p.2.room.val == r).length

/-- The safety test without its queue limit. -/
def safeRoom (s : State) (l : Layout) (chs : List Charge) (n : Need) (r : Nat) : Bool :=
  sumOf (chs.filter fun h => h.room.val == r) (heldW Charge.den) + n.den ≤ roomCap s l r
    && sumOf chs (heldW fun h => rate h.cel h.cls.val) + rate n.cel n.cls ≤ 16384 * 65536
    && sumOf chs (heldW fun h => rate h.rd h.cls.val) + rate n.rd n.cls ≤ hostCap s * 65536
    && sumOf chs (heldW fun h => rate h.wr h.cls.val) + rate n.wr n.cls ≤ hostCap s * 65536
    && sumOf chs heldStg + n.stg ≤ 3072

/-- fits_reserve without safe(r). -/
def reserveCore (s : State) (l : Layout) (chs : List Charge) (sl : Nat) (n : Need) (r : Nat) : Bool :=
  match tfind l.grants (gkey sl n.cls) with
  | none => false
  | some g =>
    covers g r && n.dmx ≤ g.maxw
      && resHeld l (chs.filter fun h => h.room.val == r) sl n.cls (heldW Charge.w) + n.w ≤ g.res
      && (n.bn == 0 || (n.bn ≤ g.bnMaxl && (freeUnit s l chs sl n.cls n.area).isSome))
      && resHeld l chs sl n.cls (heldW Charge.cel) + n.cel ≤ g.fetch * winE n.cls
      && resHeld l chs sl n.cls (heldW Charge.rd) + n.rd ≤ g.host * winE n.cls
      && resHeld l chs sl n.cls (heldW Charge.wr) + n.wr ≤ g.host * winE n.cls
      && resHeld l chs sl n.cls heldStg + n.stg ≤ g.stage

/-- Held best-effort charges of a layout. -/
def beHeld (l : Layout) (chs : List Charge) : List Charge := chs.filter fun h => !onReserve l h

/-- be_pools_fit. -/
def bePoolsFit (s : State) (l : Layout) (chs : List Charge) (n : Need) : Bool :=
  let be := beHeld l chs
  sumOf be (heldW fun h => rate h.cel h.cls.val) + rate n.cel n.cls ≤ (16384 - sumOf l.grants fun p => p.2.fetch) * 65536
    && sumOf be (heldW fun h => rate h.rd h.cls.val) + rate n.rd n.cls ≤ (hostCap s - sumOf l.grants fun p => p.2.host) * 65536
    && sumOf be (heldW fun h => rate h.wr h.cls.val) + rate n.wr n.cls ≤ (hostCap s - sumOf l.grants fun p => p.2.host) * 65536
    && sumOf be heldStg + n.stg ≤ 3072 - sumOf l.grants fun p => p.2.stage

/-- Best-effort density free in a room. -/
def beFree (s : State) (l : Layout) (chs : List Charge) (r : Nat) : Nat :=
  roomCap s l r - grantedIn l.grants r - sumOf ((beHeld l chs).filter fun h => h.room.val == r) (heldW Charge.den)

/-- The engine a best-effort big-number operation takes. -/
def beEngine (s : State) (l : Layout) (chs : List Charge) (n : Need) : Option BnIx :=
  bnPlace s l chs n.bn (winW n.cls) n.area

/-- The engine that an order's big-number operation takes in a layout on a path (R106). -/
def engineFor (s : State) (l : Layout) (chs : List Charge) (sl : Nat) (n : Need) (res : Bool) : Option BnIx :=
  if n.bn = 0 then none else if res then freeUnit s l chs sl n.cls n.area else beEngine s l chs n

/-- fits_be without safe(r). -/
def beCore (s : State) (l : Layout) (chs : List Charge) (sl : Nat) (n : Need) (r : Nat) : Bool :=
  let free := roomCap s l r - grantedIn l.grants r
  let here := (beHeld l chs).filter fun h => h.room.val == r
  bit l.beRooms r && engIn s r != 0 && n.pk ≤ l.dmaxIn r
    && sumOf here (heldW Charge.den) + n.den ≤ free
    && (sumOf (here.filter fun h => h.slice.val == sl) (heldW Charge.den) + n.den) * 256 ≤ free * l.share
    && (n.bn == 0 ||
        (((beHeld l chs).filter fun h => h.held && h.slice.val == sl && h.bnLen != 0).length < l.bnOps
          && (beEngine s l chs n).isSome))
    && bePoolsFit s l chs n

/-- Path of an order in a room under a layout: some true for reserve, some false for best-effort, none for neither. The
queue limit is part of safe(r) only when `q` says so. -/
def pathIn (s : State) (l : Layout) (chs : List Charge) (sl : Nat) (n : Need) (q : Bool) (r : Nat) : Option Bool :=
  if safeRoom s l chs n r && (!q || queueLen s r < 4096) then
    if engIn s r = 0 then none
    else if reserveCore s l chs sl n r then some true
    else if beCore s l chs sl n r then some false
    else none
  else none

/-- Whether the order fits room r on the path `res` of the layout in force, and, in a switch, on either path of the old
one (R123). -/
def fitsRoom (s : State) (chs : List Charge) (sl : Nat) (n : Need) (q res : Bool) (r : Nat) : Bool :=
  (if res then reserveCore s (layoutNew s) chs sl n r else beCore s (layoutNew s) chs sl n r)
    && engIn s r != 0 && safeRoom s (layoutNew s) chs n r && (!q || queueLen s r < 4096)
    && (!s.mode.switch || (pathIn s (layoutOld s) chs sl n q r).isSome)

/-- The room with the greatest figure among those that pass, the lower number on a tie. -/
def bestRoom (p : Nat → Bool) (f : Nat → Nat) : Option Nat :=
  (List.range 64).foldl (fun b r =>
    if p r then (match b with
      | some r0 => if f r0 < f r then some r else b
      | none => some r)
    else b) none

/-- Room and path for an order under the charges given. -/
def choose (s : State) (chs : List Charge) (sl : Nat) (n : Need) (q : Bool) : Option (Nat × Bool) :=
  let l := layoutNew s
  let free := fun r => (tget {} l.grants (gkey sl n.cls)).res
    - resHeld l (chs.filter fun h => h.room.val == r) sl n.cls (heldW Charge.w)
  match bestRoom (fitsRoom s chs sl n q true) free with
  | some r => some (r, true)
  | none =>
    match bestRoom (fitsRoom s chs sl n q false) (beFree s l chs) with
    | some r => some (r, false)
    | none => none

/-- The charges still held at a beat: all but those released by then under R101; staging counts as released at its order's
deadline (R107). -/
def chargesAt (chs : List Charge) (t : Nat) : List Charge :=
  chs.map fun h => { h with held := h.held && decide (t < h.release), stgHeld := h.stgHeld && decide (t < h.due) }

/-- Beats at which something held is released, and the next beat. -/
def candidateBeats (chs : List Charge) (now : Nat) : List Nat :=
  ((now + 1) :: chs.map (fun h => h.release) ++ chs.map (fun h => h.due)).filter fun t => now < t

/-- The retry beat as domain time (R107, R108). -/
def retryBeat (s : State) (sl : Nat) (n : Need) : Word :=
  let ok := (candidateBeats s.adm.charges (runNow s)).filter fun t =>
    (choose s (chargesAt s.adm.charges t) sl n false).isSome
  match ok with
  | [] => 0xFFFFFFFFFFFFFFFF
  | t :: r => BitVec.ofNat 64 (r.foldl min t) + s.tb.offset

/-! ## Outcomes of the porter -/

/-- Address of a slice's doorbell-page word, kept beyond the manager map. -/
def pageAddr (sl off : Nat) : Nat := 0x1000000 + 0x1000 * sl + off

/-- The BUSY_HINT bit of a slice and class is cleared. -/
def clearHint (s : State) (key : Nat) : State := { s with adm := { s.adm with hints := tdel s.adm.hints key } }

/-- An order that was not accepted is completed by the porch or the porter: it has no charges. -/
def refuse (s : State) (v : Order) (st : Status) (inl : Word) : State :=
  newOrder s { v with phase := .ended, outcome := some (st, inl), deadline := 0 }

/-- A BUSY completion (R107, R109, 03 BUSY_HINT). -/
def refuseBusy (s : State) (v : Order) (retry : Word) : State :=
  let sl := v.slice.val
  let s1 := cntUp (cntUp (cntUp s 0x30048 31 0) (loadAddr sl v.cls) 31 0) (pageAddr sl 0x20) 39 8
  let s2 := { s1 with adm := { s1.adm with hints := tins s1.adm.hints (gkey sl v.cls) retry } }
  refuse s2 { v with retry := retry } .busy 0

/-- Whether the room queue limit alone keeps the order out of some room (R122). -/
def queueRefuses (s : State) (sl : Nat) (n : Need) : Bool :=
  (List.range 64).any fun r => 4096 ≤ queueLen s r
    && (fitsRoom s s.adm.charges sl n false true r || fitsRoom s s.adm.charges sl n false false r)

/-- Whether only the safety test refuses the reserve of a layout. -/
def safetyIn (s : State) (l : Layout) (sl : Nat) (n : Need) : Bool :=
  (List.range 64).any (fun r => reserveCore s l s.adm.charges sl n r)
    && !(List.range 64).any (fun r => reserveCore s l s.adm.charges sl n r && safeRoom s l s.adm.charges n r
          && queueLen s r < 4096)

/-- Whether only the safety test refuses the reserve, in a switch under either layout (R120, R123). -/
def safetyRefuses (s : State) (sl : Nat) (n : Need) : Bool :=
  safetyIn s (layoutNew s) sl n || (s.mode.switch && safetyIn s (layoutOld s) sl n)

/-- The order is accepted in a room on a path (R106, R101). -/
def accept (s : State) (v : Order) (n : Need) (r : Nat) (res : Bool) : State :=
  let a := runNow s
  let d := a + budget v.cls
  let sl := v.slice.val
  let be := engineFor s (layoutNew s) s.adm.charges sl n res
  let oldRes := if s.mode.switch then (pathIn s (layoutOld s) s.adm.charges sl n true r).getD res else res
  let old := if s.mode.switch then engineFor s (layoutOld s) s.adm.charges sl n oldRes else be
  let o := s.adm.nextOrd
  let ch : Charge := {
    order := o, slice := v.slice, cls := ⟨v.cls % 8, Nat.mod_lt _ (by decide)⟩,
    room := ⟨r % 64, Nat.mod_lt _ (by decide)⟩, w := n.w, den := n.den, cel := n.cel,
    rd := n.rd, wr := n.wr, stg := n.stg, bnLen := n.bn, bnEng := be, bnOld := old, reserve := res, oldRes := oldRes,
    release := releaseBeat v.cls d, due := d, held := true, stgHeld := true, area := n.area }
  let s1 := cntUp s 0x30040 (if res then 31 else 63) (if res then 0 else 32)
  let s2 := if v.hdr.ctx then
    { s1 with ld := { s1.ld with ctx := tput 0 s1.ld.ctx sl (tget 0 s1.ld.ctx sl + 1) } } else s1
  let s3 := { s2 with adm := { s2.adm with charges := ch :: s2.adm.charges, nextNum := s2.adm.nextNum + 1 } }
  newOrder s3 { v with num := s.adm.nextNum, adm := a, deadline := d, room := ch.room, phase := .queued false, bnEng := be,
                       holdsArea := n.area, ctx := v.hdr.ctx, gen := BitVec.ofNat 16 (rdF s 0x10060 15 0) }

/-- The order's place in the park is full or too far off: BUSY with the beat of R109. -/
def parkBusy (s : State) (v : Order) : State :=
  let now := (tbNow s).toNat
  let far := v.notBefore - 16777216
  let first := s.adm.park.filterMap fun o => (order? s o).map Order.notBefore
  let t := match first with
    | [] => far
    | x :: r => min far (r.foldl min x)
  refuseBusy s v (BitVec.ofNat 64 (if t ≤ now then now + 1 else t))

/-- The porter decides an order whose not-before time has come (R106, R107, R120, R121, R122). A slice that holds more
contexts than a quota lowered since is refused as one that holds the quota (DESIGN CHOICE, log entry 197). -/
def decideOrder (s : State) (v : Order) : State :=
  let sl := v.slice.val
  let n := need v
  let s0 := clearHint s (gkey sl v.cls)
  if v.hdr.ctx && (65536 ≤ sumOf s0.ld.ctx (fun p => p.2) || rdF s0 (sltBase sl + 0x300) 16 0 ≤ tget 0 s0.ld.ctx sl) then
    refuse (cntUp (evt s0 3 0) 0x30048 63 32) v .noContext 0
  else
    let s1 := if queueRefuses s0 sl n then evt s0 3 6 else s0
    let s2 := if safetyRefuses s1 sl n then evt s1 3 2 else s1
    match choose s2 s2.adm.charges sl n true with
    | some (r, res) => accept s2 v n r res
    | none => refuseBusy s2 v (retryBeat s2 sl n)

/-- The porter (R106): park, or decide. -/
def porter (s : State) (v : Order) : State :=
  if (tbNow s).toNat < v.notBefore then
    if 16384 ≤ s.adm.park.length then parkBusy (evt s 3 5) v
    else if (tbNow s).toNat + 16777216 < v.notBefore then parkBusy s v
    else
      let s1 := clearHint s (gkey v.slice.val v.cls)
      let o := s1.adm.nextOrd
      newOrder { s1 with adm := { s1.adm with park := s1.adm.park ++ [o] } } { v with phase := .parked }
  else decideOrder s v

/-! ## Commands -/

/-- PARK_RELEASE (R109, 07 R198): the order leaves the park and is decided under the image then in force. -/
def execParkRelease (o : Nat) (s : State) : Result :=
  match order? s o with
  | some v =>
    if v.phase == .parked && decide (v.notBefore ≤ (tbNow s).toNat) then
      let s1 := { s with adm := { s.adm with orders := tdel s.adm.orders o, park := s.adm.park.filter (· != o) } }
      match tfind s1.ld.dir v.routine with
      | some im => go (decideOrder s1 { v with hdr := im.hdr, slotProg := im.slotProg, image := im.serial })
      | none => go (refuse (clearHint s1 (gkey v.slice.val v.cls)) v .malformed 0)
    else go s
  | none => go s

/-- CHARGE_RELEASE (R101): the charges but staging are released; a charge with nothing held is forgotten. -/
def execChargeRelease (o : Nat) (s : State) : Result :=
  let chs := s.adm.charges.map fun h => if h.order = o ∧ h.release ≤ runNow s then { h with held := false } else h
  go { s with adm := { s.adm with charges := chs.filter fun h => h.held || h.stgHeld } }

/-- BUSY_HINT_CLEAR (R107, 03 BUSY_HINT). -/
def execBusyHintClear (sl : Slice) (c : Class) (s : State) : Result :=
  match tfind s.adm.hints (gkey sl.val c.val) with
  | some t => if t.toNat ≤ (tbNow s).toNat then go (clearHint s (gkey sl.val c.val)) else go s
  | none => go s

/-- An accepted order is stopped with DEADLINE_FAULT: counter, event, attic entry 0C3h with its cause (R114, R115). -/
def deadlineFault (s : State) (o : Nat) (v : Order) (cause : Nat) : State :=
  let s1 := evtRec s 3 3 (srcWord 9 v.routine) (v.routine + fld cause 16)
  endOrder s1 o .deadlineFault 0

/-- The order runs and its engine stands where the room may stop it, or it does not run (05 R131). -/
def atBoundary (s : State) (v : Order) : Bool :=
  match v.phase with
  | .running e _ => (eng s e.val).core.atBoundary
  | _ => true

/-- PHASE_OVERRUN (R114): the order is stopped at its engine's next bundle boundary. -/
def execPhaseOverrun (o : Nat) (s : State) : Result :=
  match order? s o with
  | some v =>
    match v.phase with
    | .running _ _ => if atBoundary s v then go (deadlineFault (cntUp s 0x30050 63 32) o v 1) else go s
    | _ => go s
  | none => go s

/-- The order has passed beat D − 1 or the end of its phase's window without ending (R115). -/
def overdue (s : State) (v : Order) : Bool :=
  v.accepted && v.phase != .ended && (v.deadline ≤ runNow s + 1 || phaseEnd v ≤ runNow s)

/-- The watchdog stops an order (R115). -/
def watchdogStop (s : State) (o : Nat) (v : Order) : State := deadlineFault (cntUp s 0x30050 31 0) o v 2

/-- DEADLINE_WATCHDOG (R115), at a bundle boundary of the order's engine (05 R131). -/
def execDeadlineWatchdog (o : Nat) (s : State) : Result :=
  match order? s o with
  | some v => if overdue s v && atBoundary s v then go (watchdogStop s o v) else go s
  | none => go s

end Machine
end Sys2Proof
end

