-- ==== Sys2Proof/Machine/Porch.lean ====
section
/-! DEFINITION. The porch (03): link and power events, slices, queues, doorbells, ingress banks, the porch checks, the
completion write and its interrupt. -/

namespace Sys2Proof
namespace Machine

/-! ## Link and functions (R66 to R69, 01 R10) -/

/-- At the end of an outage one attic entry per slice carries the completions discarded in it (17 R519, 086h). -/
def endOutage (s : State) (p : Nat → Bool) : State :=
  let s1 := (s.pch.outage.filter fun q => p q.1).foldl (fun s q => report s 0x086 (srcWord 1 q.1) q.2) s
  { s1 with pch := { s1.pch with outage := s1.pch.outage.filter fun q => !p q.1 } }

/-- What a function that can issue again does: outage entries of its slices, pending messages (01 R10). -/
def resumeFunction (s : State) (pf1 : Bool) : State :=
  if canIssue s pf1 then flushMsix (endOutage s fun sl => (sl == 0) == pf1) pf1 else s

/-- LINK_UP (01 R10, 03 R66, 04 R100). -/
def execLinkUp (width : Fin 5) (speed : Fin 6) (s : State) : Result :=
  let s1 := { s with pch := { s.pch with up := true, width := width.val, speed := speed.val, l1 := false } }
  go (resumeFunction (resumeFunction s1 false) true)

/-- LINK_DOWN (01 R10). -/
def execLinkDown (s : State) : Result :=
  go { s with pch := { s.pch with up := false, width := 0, speed := 0, l1 := false } }

/-- BUS_MASTER_ENABLE_CHANGE (01 R10). -/
def execBusMasterEnableChange (pf1 on : Bool) (s : State) : Result :=
  let s1 := if pf1 then { s with pch := { s.pch with bme1 := on } } else { s with pch := { s.pch with bme0 := on } }
  go (resumeFunction s1 pf1)

/-- POWER_STATE_CHANGE (R69). -/
def execPowerStateChange (d3hot : Bool) (s : State) : Result :=
  go (resumeFunction { s with pch := { s.pch with d3hot := d3hot } } false)

/-- MSIX_UNMASK (R95). -/
def execMsixUnmask (pf1 : Bool) (vec : Fin 2048) (s : State) : Result :=
  let s1 := if pf1 then { s with pch := { s.pch with masked1 := tput true s.pch.masked1 vec.val false } }
    else { s with pch := { s.pch with masked0 := tput true s.pch.masked0 vec.val false } }
  go (flushMsix s1 pf1)

/-- Every slice is idle (R68): an interrupt write is pending while its vector is not masked. -/
def allIdle (s : State) : Bool :=
  (s.pch.queues.all fun q => q.2.consumed == q.2.tail)
    && (s.pch.chans.all fun c => c.2.banks.isEmpty)
    && (s.adm.orders.all fun o => o.2.phase == .parked)
    && (s.pch.pend0.all fun p => tget true s.pch.masked0 p.1) && (s.pch.pend1.all fun p => tget true s.pch.masked1 p.1)

/-- A beat in which some slice is not idle is noted; PCH_L1_CFG.IDLE counts from the last (R68). -/
def noteBusy (s : State) : State :=
  if allIdle s then s else { s with pch := { s.pch with busyRun := runNow s } }

/-- L1_ENTRY (R68): the link enters L1 when every slice has been idle for PCH_L1_CFG.IDLE beats. -/
def execL1Entry (s : State) : Result :=
  if s.pch.up && allIdle s && decide (s.pch.busyRun + rdF s 0x20038 15 0 ≤ runNow s) then
    go { s with pch := { s.pch with l1 := true } }
  else go s

/-! ## Slices (R70 to R72) -/

/-- SLT_BIND of a slice. -/
def bindAddr (sl : Nat) : Nat := sltBase sl
/-- Whether a slice is enabled. -/
def enabled (s : State) (sl : Nat) : Bool := bit (rd s (bindAddr sl)) 63
/-- Bound PASID, tenant tag, slice generation. -/
def pasidOf (s : State) (sl : Nat) : Nat := rdF s (bindAddr sl) 19 0
def tenantOf (s : State) (sl : Nat) : Nat := rdF s (bindAddr sl) 35 20
def sliceGen (s : State) (sl : Nat) : Nat := rdF s (bindAddr sl) 41 36

/-- The PASID of the TLP prefix of an access for a slice: the bound one on PF0, none on PF1, slice 0's function (R64). -/
def prefixOf (s : State) (sl : Slice) : Option (BitVec 20) :=
  if sl = 0 then none else some (BitVec.ofNat 20 (pasidOf s sl.val))

/-- A read of host memory for a slice is issued (R64). -/
def hostRead (s : State) (sl : Slice) (iova len : Nat) : State :=
  { s with out := .read sl (prefixOf s sl) (BitVec.ofNat 64 iova) len :: s.out }

/-- Slice that owns global queue g. -/
def sliceOfQ (g : Nat) : Nat := g / 4

/-- SLT_STATUS.ACTIVE (R72): orders of the slice are fetched or accepted. -/
def sliceActive (s : State) (sl : Nat) : Bool :=
  (s.adm.orders.any fun p => p.2.slice.val == sl && !p.2.intern)
    || s.pch.chans.any fun c => c.2.banks.any fun b => sliceOfQ b.g == sl && !b.slots.isEmpty

/-- Another enabled slice is bound to this PASID (R70). -/
def pasidTaken (s : State) (sl pasid : Nat) : Bool :=
  (List.range 1024).any fun t => t != sl && t != 0 && enabled s t && pasidOf s t == pasid

/-- Setting SLT_BIND.ENABLE (R70). -/
def enableSlice (s : State) (sl : Nat) : State :=
  if sl != 0 && pasidTaken s sl (pasidOf s sl) then evt s 2 7 else wrF s (bindAddr sl) 63 63 1

/-- SLICE_ENABLE (R70). -/
def execSliceEnable (sl : Slice) (s : State) : Result :=
  managerWrite s (sltBase sl.val) fun s => enableSlice s sl.val

/-- A pair of a slice. -/
def qnum (sl q : Nat) : Nat := 4 * sl + q

/-- Store a queue pair. -/
def setQueue (s : State) (g : Nat) (q : Queue) : State :=
  { s with pch := { s.pch with queues := tins s.pch.queues g q } }

/-- Change a queue pair if it is created. -/
def updQueue (s : State) (g : Nat) (f : Queue → Queue) : State :=
  match tfind s.pch.queues g with
  | some q => setQueue s g (f q)
  | none => s

/-- Local pair of a global queue number. -/
def pairOf (g : Nat) : PairIx := ⟨g % 4, Nat.mod_lt _ (by decide)⟩
/-- Slice of a global queue number, as a slice. -/
def sliceIx (sl : Nat) : Slice := ⟨sl % 1024, Nat.mod_lt _ (by decide)⟩

/-- An order as it leaves a bank slot. -/
def slotOrder (g : Nat) (b : BankSlot) : Order :=
  { slice := sliceIx (sliceOfQ g), pair := pairOf g, sqIx := b.ix, data := b.data }

/-- The consumed position moves past an entry (R80). -/
def consume (s : State) (g ix : Nat) : State :=
  updQueue s g fun q => { q with consumed := (ix + 1) % q.size, retried := q.retried.filter fun r => r.1 != ix }

/-- Complete every fetched, undispatched order of the queues that meet p with ABORTED (R72, R76, R77). -/
def abortFetched (s : State) (p : Nat → Bool) : State :=
  let hit := s.pch.chans.flatMap fun c => (c.2.banks.filter fun b => p b.g).flatMap fun b => b.slots.map fun x => (b.g, x)
  let s1 := { s with pch := { s.pch with chans := s.pch.chans.map fun c =>
    (c.1, { c.2 with banks := c.2.banks.filter fun b => !p b.g,
                     rcnt := c.2.rcnt + BitVec.ofNat 2 (c.2.banks.filter fun b => p b.g).length }) } }
  hit.foldl (fun s x => refuse (consume s x.1 x.2.ix) (slotOrder x.1 x.2) .aborted 0) s1

/-- Complete the parked orders of the queues that meet p with ABORTED (04 R110). -/
def abortParked (s : State) (p : Nat → Bool) : State :=
  endAll s (fun v => v.phase == .parked && p (qnum v.slice.val v.pair.val)) .aborted

/-- Clearing SLT_BIND.ENABLE (R72). -/
def disableSlice (s : State) (sl : Nat) : State :=
  let p := fun g => sliceOfQ g == sl
  abortParked (abortFetched (wrF s (bindAddr sl) 63 63 0) p) p

/-- SLICE_DISABLE (R72). -/
def execSliceDisable (sl : Slice) (s : State) : Result :=
  managerWrite s (sltBase sl.val) fun s => disableSlice s sl.val

/-- A write of the three bound fields (R71). -/
def rebindSlice (s : State) (sl pasid tenant gen : Nat) : State :=
  let same := pasidOf s sl == pasid && tenantOf s sl == tenant && sliceGen s sl == gen
  if same then s
  else if enabled s sl || sliceActive s sl then evt s 2 7
  else wrF s (bindAddr sl) 41 0 (pasid + fld tenant 20 + fld gen 36)

/-- SLICE_REBIND (R71). -/
def execSliceRebind (sl : Slice) (pasid : BitVec 20) (tenant : BitVec 16) (gen : BitVec 6) (s : State) : Result :=
  managerWrite s (sltBase sl.val) fun s => rebindSlice s sl.val pasid.toNat tenant.toNat gen.toNat

/-! ## Queue commands (R74 to R78, R523) -/

/-- PCH_QCMD_STS. -/
def qcmdStatus (s : State) (st : Status) : State := wr s 0x20018 (BitVec.ofNat 64 (stCode st))

/-- PCH_QCMD_STS.BUSY: a delete is in progress. -/
def qcmdBusy (s : State) : Bool := rdF s 0x20018 16 16 == 1

/-- Run a queue command unless one is in progress (R78). -/
def qcmd (s : State) (f : State → State) : State := if qcmdBusy s then evt s 2 8 else f s

/-- Queue words of pair q of a slice. -/
def sqBaseAddr (sl q : Nat) : Nat := sltBase sl + 0x40 + 0x20 * q
def cqBaseAddr (sl q : Nat) : Nat := sltBase sl + 0x48 + 0x20 * q
def qCfgAddr (sl q : Nat) : Nat := sltBase sl + 0x50 + 0x20 * q

/-- Create a pair (R74, R75, R523). -/
def createPair (s : State) (sl q : Nat) : State :=
  let sz := rdF s (qCfgAddr sl q) 3 0
  let sb := rd s (sqBaseAddr sl q)
  let cb := rd s (cqBaseAddr sl q)
  if !enabled s sl then qcmdStatus s .policy
  else if (tfind s.pch.queues (qnum sl q)).isSome then qcmdStatus s .malformed
  else if 10 < sz || bits sb 11 0 != 0 || bits cb 11 0 != 0 then qcmdStatus s .malformed
  else if 4096 < 2 * s.pch.queues.length + 2 then qcmdStatus s .quota
  else qcmdStatus (setQueue s (qnum sl q) { sqBase := sb, cqBase := cb, size := 64 * 2 ^ sz }) .done

/-- QUEUE_CREATE (R75). -/
def execQueueCreate (sl : Slice) (q : PairIx) (s : State) : Result :=
  managerWrite s 0x20010 fun s => qcmd s fun s => createPair s sl.val q.val

/-- Begin to delete a pair (R76). A pair that is not created is an invalid parameter (R98, MALFORMED). -/
def deletePair (s : State) (sl q : Nat) : State :=
  let g := qnum sl q
  match tfind s.pch.queues g with
  | none => qcmdStatus s .malformed
  | some _ =>
    let s1 := updQueue s g fun v => { v with deleting := true }
    wrF (abortParked (abortFetched s1 (· == g)) (· == g)) 0x20018 16 16 1

/-- QUEUE_DELETE (R76). -/
def execQueueDelete (sl : Slice) (q : PairIx) (s : State) : Result :=
  managerWrite s 0x20010 fun s => qcmd s fun s => deletePair s sl.val q.val

/-- QUEUE_DELETE_DONE (R76): no order of the pair remains, and both queues are freed. -/
def execQueueDeleteDone (sl : Slice) (q : PairIx) (s : State) : Result :=
  let g := qnum sl.val q.val
  match tfind s.pch.queues g with
  | some v =>
    if v.deleting && !(s.adm.orders.any fun p => !p.2.intern && qnum p.2.slice.val p.2.pair.val == g) then
      go (qcmdStatus { s with pch := { s.pch with queues := tdel s.pch.queues g } } .done)
    else go s
  | none => go s

/-- Abort a slice (R77, 04 R110): fetched, parked and accepted orders complete with ABORTED at once. -/
def abortSlice (s : State) (sl : Nat) : State :=
  let p := fun g => sliceOfQ g == sl
  let s1 := abortParked (abortFetched s p) p
  qcmdStatus (endAll s1 (fun v => v.accepted && !v.intern && v.slice.val == sl) .aborted) .done

/-- SLICE_ABORT (R77). -/
def execSliceAbort (sl : Slice) (s : State) : Result :=
  managerWrite s 0x20010 fun s => qcmd s fun s => abortSlice s sl.val

/-! ## Doorbells (R65, R72, R79) -/

/-- A doorbell write is discarded under R79. -/
def dbError (s : State) (sl : Nat) : State :=
  evt (cntUp (setBit s (pageAddr sl 0x10) 1) (sltBase sl + 8) 63 48) 2 1

/-- A doorbell write under a foreign PASID (R65). -/
def dbSpoof (s : State) (sl : Nat) : State :=
  evt (cntUp (cntUp s (pageAddr sl 0x10) 63 48) 0x20030 31 0) 2 0

/-- CQ entries up to a head are released, as far as completions have been written into them (R81): a head beyond the write
position releases no order that is still in progress (DESIGN CHOICE, log entry 199). -/
def releaseCq (q : Queue) (head : Nat) : Queue :=
  let n := min q.unread ((head + q.size - q.cqHead) % q.size)
  { q with cqHead := head, credit := q.credit - n, unread := q.unread - n }

/-- An index written to SQ_TAIL (false) or CQ_HEAD (true) of a pair (R79, R81). A tail wakes the link (R68). -/
def ringDoorbell (s : State) (sl : Nat) (head : Bool) (val : Nat) : State :=
  let g := qnum sl (val / 65536 % 4)
  let ix := val % 65536
  match tfind s.pch.queues g with
  | none => dbError s sl
  | some q =>
    if q.deleting || q.size ≤ ix then dbError s sl
    else
      let s1 := setQueue s g (if head then releaseCq q ix else { q with tail := ix })
      { s1 with pch := { s1.pch with l1 := false, busyRun := runNow s } }

/-- A write to a doorbell page (R65, R72, R79). Slice 0's page is in the PCH block; a request with a PASID tag to page
0 is the unused page 0 of PF0. -/
def doorbell (s : State) (sl : Nat) (pasid : Option (BitVec 20)) (off size : Nat) (val : Word) : State :=
  if sl = 0 ∧ pasid.isSome then evt s 2 1
  else if sl ≠ 0 ∧ (pasid.any fun p => p.toNat != pasidOf s sl) then dbSpoof s sl
  else if !enabled s sl then s
  else
    let ok8 := size = 8 ∧ off % 8 = 0
    let ok4 := size = 4 ∧ off % 8 = 0
    if ¬ (ok8 ∨ ok4) then dbError s sl
    else
      let v := if size = 4 then val.toNat % 2 ^ 32 else val.toNat
      match off with
      | 0x00 => ringDoorbell s sl false v
      | 0x08 => ringDoorbell s sl true v
      | 0x10 => if v / 2 % 2 = 1 then wrF s (pageAddr sl 0x10) 1 1 0 else s
      | 0x18 => s
      | 0x20 => s
      | _ => dbError s sl

/-- SQ_TAIL_WRITE (R79). -/
def execSqTailWrite (sl : Slice) (pasid : Option (BitVec 20)) (off size : Nat) (val : Word) (s : State) : Result :=
  go (doorbell s sl.val pasid off size val)

/-- CQ_HEAD_WRITE (R79). -/
def execCqHeadWrite (sl : Slice) (pasid : Option (BitVec 20)) (off size : Nat) (val : Word) (s : State) : Result :=
  go (doorbell s sl.val pasid off size val)

/-! ## Batches (R81, R84, R91 to R94, R524) -/

/-- A failed PCI Express read (R97). -/
def dmaErr (s : State) : State := evt (cntUp s 0x20028 63 32) 2 5

/-- A drop of fetched orders (R94). -/
def batchDrop (s : State) : State := evt (cntUp s 0x20028 31 0) 2 2

/-- What reading a run of SQ entries puts into the bank: the slots up to the first entry whose read fails for the first
time, and the entries that failed for the first time (R524). -/
def takeEntries (q : Queue) : Nat → List (HostRead OrderWord) → List BankSlot × List Nat
  | _, [] => ([], [])
  | ix, .ok d :: r => let t := takeEntries q ((ix + 1) % q.size) r; (⟨ix, d, false⟩ :: t.1, t.2)
  | ix, .failed :: r =>
    if q.retried.any fun x => x.1 == ix then
      let t := takeEntries q ((ix + 1) % q.size) r
      (⟨ix, 0, true⟩ :: t.1, t.2)
    else ([], ((ix, HostRead.failed) :: (r.zipIdx.map fun p => ((ix + 1 + p.2) % q.size, p.1))).filterMap
      fun p => if p.2 == HostRead.failed then some p.1 else none)

/-- Entries that may be fetched now: unconsumed, within the ring credit, at most 32 (R81, R94). -/
def fetchRoom (q : Queue) : Nat := min 32 (min ((q.tail + q.size - q.fetch) % q.size) (q.size - q.credit))

/-- A pair whose entries may be fetched now, but for room in its channel (R69, R72, R76, R81). -/
def fetchable (s : State) (g : Nat) (q : Queue) : Bool :=
  enabled s (sliceOfQ g) && !q.deleting && canIssue s (sliceOfQ g == 0) && fetchRoom q != 0

/-- Steps from one number to another around a ring of n, from 1 to n. -/
def turnTo (n last x : Nat) : Nat := (x + n - last - 1) % n + 1

/-- The pair whose turn it is (R84): slices in turn after the last one fetched, and within a slice its pairs in turn. A pair
that has nothing to fetch, or none of whose entries may be fetched, is passed over (DEDUCED, log entry 200). -/
def nextFetch (s : State) : Option Nat :=
  let rank := fun (g : Nat) => 8 * turnTo 1024 s.pch.rrSlice (sliceOfQ g) + turnTo 4 (tget 3 s.pch.rrPair (sliceOfQ g)) (g % 4)
  (s.pch.queues.filter fun p => fetchable s p.1 p.2).foldl (fun (b : Option Nat) p =>
    match b with
    | none => some p.1
    | some g => if rank p.1 < rank g then some p.1 else some g) none

/-- A pair has had its turn. -/
def tookTurn (s : State) (sl p : Nat) : State :=
  { s with pch := { s.pch with rrSlice := sl, rrPair := tput 3 s.pch.rrPair sl p } }

/-- SQ_BATCH_FETCH (R64, R81, R84, R91, R92, R524). -/
def execSqBatchFetch (sl : Slice) (p : PairIx) (entries : List (HostRead OrderWord)) (s0 : State) : Result :=
  let g := qnum sl.val p.val
  let chan := tget {} s0.pch.chans (g % 8)
  match tfind s0.pch.queues g with
  | none => go s0
  | some q =>
    let es := entries.take (fetchRoom q)
    if !s0.pch.fetching || nextFetch s0 != some g || 2 ≤ chan.banks.length || es.isEmpty then go s0
    else
      let s := hostRead (tookTurn s0 sl.val p.val) sl (q.sqBase.toNat + 64 * q.fetch) (64 * es.length)
      let t := takeEntries q q.fetch es
      let s1 := setQueue s g { q with
        fetch := (q.fetch + t.1.length) % q.size, credit := q.credit + t.1.length
        retried := q.retried ++ t.2.map fun ix => (ix, true) }
      let s2 := if t.1.isEmpty then s1 else
        let c1 : Channel := { chan with banks := chan.banks ++ [⟨g, t.1⟩], wcnt := chan.wcnt + 1 }
        { s1 with pch := { s1.pch with chans := tput {} s1.pch.chans (g % 8) c1 } }
      let s3 := if es.any (· == HostRead.failed) then dmaErr s2 else s2
      go (if t.1.length < es.length then batchDrop s3 else s3)

/-! ## The porch checks (R87) and the order-level checks (01 R23) -/

/-- The descriptors meet R86. -/
def descOk (v : Order) : Bool :=
  v.args ||
    (v.bits 383 352 == 0 && v.bits 511 480 == 0
      && (if v.inLen = 0 then v.inIova == 0 else v.inIova + v.inLen ≤ 2 ^ 64 && v.inLen ≤ 16777216)
      && (if v.outLen = 0 then v.outIova == 0 else v.outIova + v.outLen ≤ 2 ^ 64 && v.outLen ≤ 16777216))

/-- Whether a slice may name a routine (R73). -/
def mayName (s : State) (sl r : Nat) (h : Hdr) : Bool :=
  if 0xF0 ≤ r ∧ r ≤ 0xF2 then false
  else if r < 0x100 then !h.maint || sl == 0
  else bit (rd s (sltBase sl + 0x500 + 8 * ((r - 0x100) / 64))) ((r - 0x100) % 64) && (!h.maint || sl == 0)

/-- Steps 2 to 9 of R87: the failing status, or the image of the routine. -/
def porchCheck (s : State) (v : Order) : Except Status Image :=
  let sl := v.slice.val
  if v.tag % 1024 != sl then .error .spoof
  else if v.tag / 1024 % 64 != sliceGen s sl then .error .spoof
  else if v.tag / 65536 != tenantOf s sl then .error .spoof
  else if v.handle != 0 && bits v.handle 9 0 != sl then .error .spoof
  else if v.bits 31 24 != 0 || v.bits 23 21 != 0 || v.bits 15 12 != 0 then .error .malformed
  else
    match tfind s.ld.dir v.routine with
    | none => .error .malformed
    | some im =>
      if !descOk v then .error .malformed
      else if !mayName s sl v.routine im.hdr then .error .policy
      else .ok im

/-- The order-level checks before the porter: life-cycle, lock, readiness, time (01 R21, R23, 03 R67). -/
def orderCheck (s : State) (v : Order) (h : Hdr) : Option Status :=
  let sl := v.slice.val
  match s.mode.lc with
  | .analysis | .retired => some .locked
  | .blank => if sl == 0 && h.maint then
      (if !s.mode.ready && !(h.early && v.routine < 0x100) then some .notReady
       else if v.notBefore != 0 && s.mode.time == .free then some .timeUntrusted else none)
    else some .notReady
  | _ =>
    if s.mode.lock then some .locked
    else if !s.mode.ready && !(sl == 0 && h.early && v.routine < 0x100) then some .notReady
    else if v.notBefore != 0 && s.mode.time == .free then some .timeUntrusted
    else none

/-- A SPOOF completion's counters, event and attic entry (R89). -/
def countSpoof (s : State) (sl : Nat) : State :=
  evtRec (cntUp (cntUp (cntUp s (pageAddr sl 0x10) 63 48) (sltBase sl + 8) 47 32) 0x20030 31 0) 2 0 (srcWord 1 sl) 0

/-- Number of set bits of a byte. -/
def ones8 (b : BitVec 8) : Nat := ((List.range 8).filter fun i => bit b i).length

/-- Take the first order of a channel's first bank: the queue, the slot, the slots after it, the channel without it. -/
def takeSlot (c : Channel) : Option (Nat × BankSlot × List BankSlot × Channel) :=
  match c.banks with
  | [] => none
  | b :: rest =>
    match b.slots with
    | [] => none
    | x :: more =>
      some (b.g, x, more, if more.isEmpty then { c with banks := rest, rcnt := c.rcnt + 1 }
        else { c with banks := { b with slots := more } :: rest })

/-- Drop the rest of the first bank and fetch again from entry `ix` (R94); `n` orders are discarded, and a drop of none is no
drop. A later batch of the same SQ in the channel's other bank is dropped with them, or its entries would be fetched twice
(DESIGN CHOICE, log entry 201). -/
def dropRest (s : State) (ch g ix n : Nat) (rest : Bool) : State :=
  if n = 0 then s
  else
    let c := tget {} s.pch.chans ch
    let left := if rest then c.banks.tail else c.banks
    let keep := left.filter fun b => b.g != g
    let later := sumOf (left.filter fun b => b.g == g) fun b => b.slots.length
    let c1 : Channel := { c with banks := keep, rcnt := c.rcnt + BitVec.ofNat 2 (c.banks.length - keep.length) }
    let s1 := { s with pch := { s.pch with chans := tput {} s.pch.chans ch c1 } }
    batchDrop (updQueue s1 g fun q => { q with fetch := ix % q.size, credit := q.credit - (n + later) })

/-- An order that passed R87 goes through the order-level checks to the porter. -/
def admitChecked (s : State) (v : Order) (im : Image) : State :=
  let v1 := { v with hdr := im.hdr, slotProg := im.slotProg, image := im.serial }
  match orderCheck s v1 im.hdr with
  | some st => refuse s v1 st 0
  | none => porter s v1

/-- ORDER_DISPATCH (R87, R89, R90, R93, R94): the order at the head of a channel's bank, with the words that read with a
correctable (`ce`) or an uncorrectable (`ue`) error. -/
def execOrderDispatch (ch : Fin 8) (ce ue : BitVec 8) (s : State) : Result :=
  match takeSlot (tget {} s.pch.chans ch.val) with
  | none => go s
  | some (g, x, more, c) =>
    let s0 := { s with pch := { s.pch with chans := tput {} s.pch.chans ch.val c } }
    let s1 := if ce = 0 then s0 else memCE (evt (cntBy s0 0x20020 31 0 (ones8 ce)) 2 3) 7 (ones8 ce)
    let s2 := if ue = 0 then s1 else memUE (evt (cntBy s1 0x20020 63 32 (ones8 ue)) 2 4) 7 (ones8 ue)
    let v := slotOrder g x
    let before := match tfind s.pch.queues g with
      | some q => q.retried.find? fun (r : Nat × Bool) => r.1 == x.ix
      | none => (none : Option (Nat × Bool))
    if x.bad then
      go (refuse (consume s2 g x.ix) { v with noCookie := true } .poison (BitVec.ofNat 64 x.ix))
    else if ue ≠ 0 then
      match before with
      | some r =>
        let dead := r.2 && bit ue 1
        go (refuse (consume s2 g x.ix) { v with noCookie := dead } .poison (if dead then BitVec.ofNat 64 x.ix else 0))
      | none =>
        let s3 := updQueue s2 g fun q => { q with retried := q.retried ++ [(x.ix, bit ue 1)] }
        go (dropRest s3 ch.val g x.ix (1 + more.length) (!more.isEmpty))
    else
      let s3 := consume s2 g x.ix
      match porchCheck s3 v with
      | .error .malformed =>
        go (dropRest (refuse s3 v .malformed 0) ch.val g (x.ix + 1) more.length (!more.isEmpty))
      | .error .spoof => go (refuse (countSpoof s3 v.slice.val) v .spoof 0)
      | .error st => go (refuse s3 v st 0)
      | .ok im => go (admitChecked s3 v im)

/-! ## Input data (R97, 04 R117, 05 R162) -/

/-- Bytes of an order's data as a table from offset 0. -/
def bytesTab (l : List Byte) : Tab Byte := tstoreList [] 0 l

/-- RM_FAULT_i word (05, Counters, rules and fault records). -/
def faultWord (addr routine kind : Nat) (write : Bool) (sl : Nat) : Nat :=
  sl % 1024 + fld (b2n write) 13 + fld kind 14 + fld (routine % 4096) 16 + fld (addr % 2 ^ 36) 28

/-- What the doorframe of a porch DMA engine grants while it moves an order's data (05 R162): the pages of the order's own
input window for writes, of its own output window for reads. A burst is known by the page that holds its first byte. -/
def porchGrants (v : Order) (write : Bool) (page : Nat) : Bool :=
  page < ceilDiv (if write then v.inLen else v.outLen) 4096

/-- A porch burst fails its doorframe check (05 R162): DEADLINE_FAULT, event and attic entry in the order's room. The
manual gives RM_FAULT_i a code for it and names neither i nor the address: free values (DESIGN CHOICE, log entry 202). -/
def porchDoor (s : State) (o : Nat) (v : Order) (write : Bool) : State :=
  let d := draw 36 s
  let i := draw 3 d.2
  let w := faultWord d.1.toNat v.routine 3 write v.slice.val
  let s1 := wr i.2 (rmBase v.room.val + 0x80 + 8 * i.1.toNat) (BitVec.ofNat 64 w)
  endOrder (rmEvtRec s1 v.room.val 2 (srcWord 2 v.room.val) w) o .deadlineFault 0

/-- INPUT_DMA_COMPLETE (R64, R97, 05 R130, R162): the input read of an order, and the pages that the bursts address. -/
def execInputDmaComplete (o : Nat) (data : HostRead (List Byte)) (bursts : List Nat) (s : State) : Result :=
  match order? s o with
  | some v =>
    if v.accepted && v.phase != .ended && v.inLen != 0 && !v.inputIn then
      let s1 := hostRead s v.slice v.inIova v.inLen
      match data with
      | .failed => go (endOrder (dmaErr s1) o .aborted 0)
      | .ok l =>
        if bursts.all (porchGrants v true) then go (setOrder s1 o { v with input := l.take v.inLen, inputIn := true })
        else go (porchDoor s1 o v true)
    else go s
  | none => go s

/-- INPUT_READ_TIMEOUT (04 R117): at the last w beats of the engine window the read counts as timed out. -/
def execInputReadTimeout (o : Nat) (s : State) : Result :=
  match order? s o with
  | some v =>
    if v.accepted && v.phase != .ended && v.inLen != 0 && !v.inputIn
        && v.deadline ≤ runNow s + 1 + (need v).w then
      go (endOrder (dmaErr s) o .aborted 0)
    else go s
  | none => go s

/-! ## The completion write (R82, R83, R95, 01 R9, R10) -/

/-- The 32 bytes of a completion. -/
def completionWord (s : State) (v : Order) (st : Status) (inl : Word) (g : Nat) (phase : Bool) : BitVec 256 :=
  let cookie := if v.noCookie then 0xFFFFFFFFFFFFFFFF else v.cookie.toNat
  let time := if st = .busy then v.retry.toNat else (tbNow s).toNat
  BitVec.ofNat 256 (cookie + fld (stCode st) 64 + fld (g % 4096 + fld (b2n phase) 15) 80 + fld time 128 + fld inl.toNat 192)

/-- The bytes an order's output area receives: staged output for DONE, zeros for AUTH_FAIL and REJECT_LIMIT, none
otherwise (01 R9, 06 R186). -/
def outputBytes (v : Order) (st : Status) : Option (List Byte) :=
  if v.outLen = 0 then none
  else match st with
    | .done => some (tlist v.staged 0 v.outLen)
    | .authFail | .rejectLimit => some (List.replicate v.outLen 0)
    | _ => none

/-- The interrupt of a completion (R95): send now, or count it towards coalescing. A completion counts towards the next
message also while IRQ_EN is 0. -/
def completionIrq (s : State) (v : Order) (g : Nat) : State :=
  let cfg := rd s (qCfgAddr v.slice.val v.pair.val)
  match tfind s.pch.queues g with
  | none => s
  | some q =>
    let n := q.coalCnt + 1
    let pf1 := v.slice.val == 0
    let vec := if pf1 then 16 + v.pair.val else bits cfg 14 4
    if bit cfg 40 && (v.irq || max 1 (bits cfg 23 16) ≤ n) then sendMsix (setQueue s g { q with coalCnt := 0 }) pf1 vec
    else setQueue s g { q with coalCnt := n, coalRun := if q.coalCnt = 0 then runNow s else q.coalRun }

/-- The order is gone from the module: its staging charge is released (04 R101), and the slot area it holds (09 R242). -/
def forget (s0 : State) (o : Nat) : State :=
  let s := match order? s0 o with
    | some v => (match v.bnEng with
      | some b => if v.holdsArea then releaseArea s0 b.val else s0
      | none => s0)
    | none => s0
  let chs := s.adm.charges.map fun h => if h.order = o then { h with stgHeld := false } else h
  { s with adm := { s.adm with orders := tdel s.adm.orders o, charges := chs.filter fun h => h.held || h.stgHeld } }

/-- Discard a completion that cannot be issued (01 R10). -/
def discardCompletion (s : State) (v : Order) (g : Nat) : State :=
  let sl := v.slice.val
  let s1 := updQueue (cntUp s (sltBase sl + 8) 31 16) g fun q => { q with credit := q.credit - 1 }
  evt { s1 with pch := { s1.pch with outage := tput 0 s1.pch.outage sl (tget 0 s1.pch.outage sl + 1) } } 2 6

/-- Write a completion into the next CQ entry; the phase inverts when the position wraps (R82). -/
def writeCompletion (s : State) (v : Order) (st : Status) (inl : Word) (g : Nat) (q : Queue) : State :=
  let c := Out.completion v.slice (prefixOf s v.slice) v.pair q.cqPos (completionWord s v st inl g q.phase)
  let last := q.cqPos + 1 = q.size
  let s1 := { s with out := c :: s.out }
  setQueue s1 g { q with
    cqPos := if last then 0 else q.cqPos + 1, phase := if last then !q.phase else q.phase, unread := q.unread + 1 }

/-- The completion of an ended order is issued (R82, R83, R95, 01 R8, R10, 05 R162). An order of the CU block has no queue: its end stays inside. -/
def issueCompletion (s : State) (o : Nat) (bursts : List Nat) : State :=
  match order? s o with
  | some v =>
    match v.outcome with
    | some (st, inl) =>
      let g := qnum v.slice.val v.pair.val
      if v.intern then
        let s1 := forget s o
        if st = .busy then { s1 with cu := { s1.cu with intern := s1.cu.intern ++ [(v.routine, v.retry.toNat, v.job)] } } else s1
      else if !canIssue s (v.slice.val == 0) then forget (discardCompletion s v g) o
      else
        match tfind s.pch.queues g with
        | none => forget s o
        | some q =>
          match outputBytes v st with
          | some l =>
            if bursts.all (porchGrants v false) then
              let s1 := { s with out := .output v.slice (prefixOf s v.slice) (BitVec.ofNat 64 v.outIova) l :: s.out }
              forget (completionIrq (writeCompletion s1 v st inl g q) v g) o
            else porchDoor s o v false
          | none => forget (completionIrq (writeCompletion s v st inl g q) v g) o
    | none => s
  | none => s

/-- IRQ_COAL_TIMEOUT (R95). -/
def execIrqCoalTimeout (sl : Slice) (p : PairIx) (s : State) : Result :=
  let g := qnum sl.val p.val
  let cfg := rd s (qCfgAddr sl.val p.val)
  match tfind s.pch.queues g with
  | some q =>
    if bit cfg 40 && q.coalCnt != 0 && bits cfg 39 24 != 0 && q.coalRun + bits cfg 39 24 ≤ runNow s then
      go (sendMsix (setQueue s g { q with coalCnt := 0 }) (sl.val == 0)
        (if sl.val = 0 then 16 + p.val else bits cfg 14 4))
    else go s
  | none => go s

end Machine
end Sys2Proof
end

