-- ==== Sys2Proof/Machine/Rooms.lean ====
section
/-! DEFINITION. Rooms and doorframes (05): phase starts, preemption and resumption, engines leaving and returning,
doorframe regions and checks, and the room's RM_ registers. -/

namespace Sys2Proof
namespace Machine

/-! ## Region descriptors (05, Doorframes) -/

/-- Build a region descriptor of `npg` pages from page `base`. -/
def region (rdOk wrOk : Bool) (base npg : Nat) : Word :=
  BitVec.ofNat 64 (fld 1 63 + fld (b2n rdOk) 61 + fld (b2n wrOk) 60 + fld (npg - 1) 40 + fld base 12)

/-- First page and last page of a region. -/
def regBase (d : Word) : Nat := bits d 35 12
def regLast (d : Word) : Nat := bits d 35 12 + bits d 59 40
/-- Whether a region in use covers a page. -/
def regCovers (d : Word) (page : Nat) : Bool := bit d 63 && regBase d ≤ page && page ≤ regLast d
/-- Whether two regions in use share a page. -/
def regOverlap (a b : Word) : Bool := bit a 63 && bit b 63 && regBase a ≤ regLast b && regBase b ≤ regLast a

/-- The default map of supervisor mode (R154). -/
def defaultGrants (page : Nat) (write dma : Bool) : Bool :=
  (0x200000 ≤ page && page ≤ 0x200003 && !dma)
    || (0x300000 ≤ page && page ≤ 0x300BFF)
    || (0x400000 ≤ page && page ≤ 0x4003FF && !write)

/-- Pages of the three default-map ranges. -/
def defaultPage (page : Nat) : Bool :=
  (0x200000 ≤ page && page ≤ 0x200003) || (0x300000 ≤ page && page ≤ 0x300BFF) || (0x400000 ≤ page && page ≤ 0x4003FF)

/-- Whether a region lies wholly inside one default-map range (R157, reason 2h). -/
def insideDefault (d : Word) : Bool :=
  (0x200000 ≤ regBase d && regLast d ≤ 0x200003) || (0x300000 ≤ regBase d && regLast d ≤ 0x300BFF)
    || (0x400000 ≤ regBase d && regLast d ≤ 0x4003FF)

/-- The doorframe's decision on an access by its first byte (R129, R153 to R155). -/
def doorGrants (regs : Tab Word) (supv : Bool) (addr : Nat) (write dma : Bool) : Bool :=
  if 2 ^ 36 ≤ addr then false
  else
    let page := addr / 4096
    let kind := fun d => if write then bit d 60 else bit d 61
    if supv then
      match regs.find? fun p => regCovers p.2 page with
      | some p => kind p.2
      | none => defaultGrants page write dma
    else regs.any fun p => regCovers p.2 page && kind p.2 && !bit p.2 62

/-! ## Order map and phase starts (R125, R141, R156) -/

/-- Region of a window of `len` bytes at a page, not in use for length 0. -/
def mapRegion (t : Tab Word) (ix : Nat) (rdOk wrOk : Bool) (base len : Nat) : Tab Word :=
  if len = 0 then t else tins t ix (region rdOk wrOk base (ceilDiv len 4096))

/-- The order map of a load and store doorframe and of a DMA doorframe (R156, 09 R243). -/
def orderMapLs (v : Order) : Tab Word :=
  let t := mapRegion [] 0 true false 0x10 v.hdr.constLen
  if v.hdr.maint then tins t 3 (region true true 0x102000 32) else t
def orderMapDma (v : Order) : Tab Word :=
  mapRegion (mapRegion (mapRegion [] 0 true false 0x10 v.hdr.constLen) 1 true false 0x100000 v.inLen) 2 false true 0x101000
    v.outLen

/-- Room regions 12 to 15 of a doorframe's table. -/
def roomRegions (t : Tab Word) : Tab Word := t.filter fun p => 12 ≤ p.1

/-- A word of the order's bytes from 32 up. -/
def Order.arg (v : Order) (i : Nat) : Word := BitVec.ofNat 64 (v.bits (319 + 64 * i) (256 + 64 * i))

/-- x registers at the start of a first or only phase (R141). -/
def startRegs (v : Order) : Tab Word :=
  let put := fun (t : Tab Word) (i : Nat) (w : Word) => tput 0 t i w
  let t1 := put (put (put [] 1 v.handle) 2 (BitVec.ofNat 64 v.inLen)) 3 (BitVec.ofNat 64 v.outLen)
  let t2 := put (put (put (put t1 4 (v.arg 0)) 5 (v.arg 1)) 6 (v.arg 2)) 7 (v.arg 3)
  put (put t2 8 (BitVec.ofNat 64 (v.bits 20 16))) 9 (BitVec.ofNat 64 v.slice.val)

/-- x registers carried into a second phase, from x1 up, with x16 (R141, R143). -/
def carriedRegs (v : Order) : Tab Word :=
  tput 0 ((v.carry.zipIdx 1).foldl (fun t p => tput 0 t p.2 p.1) ([] : Tab Word)) 16 v.x16

/-- Rank of an order in its room: window end, then admission order (R111). -/
def rankLe (a b : Order) : Bool := phaseEnd a < phaseEnd b || (phaseEnd a == phaseEnd b && a.num ≤ b.num)

/-- Orders of a room that wait for an engine: queued, or preempted. -/
def waiting (s : State) (r : Nat) : List (Nat × Order) :=
  s.adm.orders.filter fun p => p.2.room.val == r && (match p.2.phase with
    | .queued _ | .preempted _ => true
    | _ => false)

/-- The order is the first of its room by the ranking (R111). -/
def isFirst (s : State) (v : Order) : Bool := (waiting s v.room.val).all fun p => rankLe v p.2

/-- An in-service idle engine. -/
def idle (s : State) (e : Nat) : Bool := let g := eng s e; !g.out && g.order.isNone

/-- Lowest free frame of an in-service engine of a room (R125, R147). -/
def freeFrameOf (s : State) (r : Nat) : Option Nat :=
  (List.range 128).find? fun f => (tfind s.rooms.frames (frameKey r f)).isNone && !(eng s (8 * r + f / 16)).out

/-- Start a phase of order o on engine e in frame f. -/
def startPhase (s : State) (o : Nat) (v : Order) (e : EngIx) (second : Bool) (f : Nat) : State :=
  let g := eng s e.val
  let c : Core := { x := if second then carriedRegs v else startRegs v, supv := v.hdr.supv,
                    pc := if second then v.yieldPc else 0 }
  let g1 : Engine := { g with core := c, order := some o, second := second, frame := f,
                              lsAct := orderMapLs v ++ roomRegions g.lsAct, lsStg := orderMapLs v ++ roomRegions g.lsStg,
                              dmaAct := orderMapDma v ++ roomRegions g.dmaAct, dmaStg := orderMapDma v ++ roomRegions g.dmaStg }
  let s1 := setEng s e.val g1
  let s2 := { s1 with rooms := { s1.rooms with frames := tins s1.rooms.frames (frameKey v.room.val f) o } }
  setOrder s2 o { v with phase := .running e second, frame := f }

/-- PHASE_START (R125, R127, R141, R156, 04 R111): a phase cannot begin before the beat after admission (04 R100). -/
def execPhaseStart (o : Nat) (e : EngIx) (s : State) : Result :=
  match order? s o with
  | some v =>
    match v.phase with
    | .queued second =>
      if v.room.val == roomOf e.val && idle s e.val && isFirst s v && decide (v.adm + 1 ≤ runNow s) then
        match freeFrameOf s v.room.val with
        | some f => go (startPhase s o v e second f)
        | none => go s
      else go s
    | _ => go s
  | none => go s

/-! ## Preemption (R112, R145) -/

/-- Running orders of a room. -/
def runningIn (s : State) (r : Nat) : List (Nat × Order) :=
  s.adm.orders.filter fun p => p.2.room.val == r && (match p.2.phase with
    | .running _ _ => true
    | _ => false)

/-- The last of a list of orders by the ranking. -/
def lastRanked (l : List (Nat × Order)) : Option (Nat × Order) :=
  l.foldl (fun m p => match m with
    | none => some p
    | some q => if rankLe q.2 p.2 then some p else some q) none

/-- Save an order's registers and stacks in its frame's save area and free its engine (R145). The save area has no place for
supervisor regions 4 to 11: they are given up, staged and active (DESIGN CHOICE, log entry 203). -/
def preemptOrder (s : State) (o : Nat) (v : Order) (e : EngIx) (second : Bool) : State :=
  let k := frameKey v.room.val v.frame
  let g := eng s e.val
  let s1 := { s with rooms := { s.rooms with saved := tins s.rooms.saved k g.core } }
  let s2 := setEng s1 e.val { g with core := {}, order := none, second := false, frame := 0
                                     lsAct := roomRegions g.lsAct, lsStg := roomRegions g.lsStg
                                     dmaAct := roomRegions g.dmaAct, dmaStg := roomRegions g.dmaStg }
  cntUp (setOrder s2 o { v with phase := .preempted second }) (rmBase v.room.val + 0x28) 63 32

/-- PREEMPT (R112): the running order with the latest deadline gives way to a queued order with an earlier one, at a bundle
boundary or in a wait instruction (R131). -/
def execPreempt (r : Room) (s : State) : Result :=
  let allBusy := (List.range 8).all fun i => !idle s (8 * r.val + i)
  match lastRanked (runningIn s r.val) with
  | some (o, v) =>
    let better := (waiting s r.val).any fun p => phaseEnd p.2 < phaseEnd v
    match v.phase with
    | .running e second => if allBusy && better && atBoundary s v then go (preemptOrder s o v e second) else go s
    | _ => go s
  | none => go s

/-- ORDER_RESUME (R145): a preempted order runs on with its registers restored and the doorframe's order map loaded. -/
def execOrderResume (o : Nat) (e : EngIx) (s : State) : Result :=
  match order? s o with
  | some v =>
    match v.phase with
    | .preempted second =>
      let k := frameKey v.room.val v.frame
      if v.room.val == roomOf e.val && idle s e.val && isFirst s v then
        let g := eng s e.val
        let s1 := setEng s e.val { g with
          core := tget {} s.rooms.saved k, order := some o, second := second, frame := v.frame
          lsAct := orderMapLs v ++ roomRegions g.lsAct, lsStg := orderMapLs v ++ roomRegions g.lsStg
          dmaAct := orderMapDma v ++ roomRegions g.dmaAct, dmaStg := orderMapDma v ++ roomRegions g.dmaStg }
        let s2 := { s1 with rooms := { s1.rooms with saved := tdel s1.rooms.saved k } }
        go (setOrder s2 o { v with phase := .running e second })
      else go s
    | _ => go s
  | none => go s

/-! ## Engines leaving and returning (R118, R147) -/

/-- ADM_ENG_OUT bit of an engine. -/
def engOutBit (s : State) (e : Nat) (b : Bool) : State := wrF s (0x30080 + 8 * (e / 64)) (e % 64) (e % 64) (b2n b)

/-- An engine leaves service: every order that holds a frame in the room ends with DEADLINE_FAULT (R147), events of
04 R118 and RM_EVT.ENGINE_OUT. -/
def engineLeaves (s : State) (e : Nat) : State :=
  let r := roomOf e
  let holds := s.adm.orders.filter fun p => p.2.room.val == r && (match p.2.phase with
    | .running _ _ | .preempted _ => true
    | _ => false)
  let s1 := holds.foldl (fun s p => deadlineFault s p.1 p.2 3) s
  let s2 := setEng s1 e { eng s1 e with out := true, testing := false }
  rmEvt (evt (engOutBit s2 e true) 3 4) r 5

/-- Engine number of local engine i of room r. -/
def engNum (r : Room) (i : LocIx) : Nat := 8 * r.val + i.val

/-- Take a local engine out (R147). -/
def takeOut (s : State) (e : Nat) : State := if (eng s e).out then s else engineLeaves s e

/-- ENGINE_TAKE_OUT (R147, 04 R118). -/
def execEngineTakeOut (r : Room) (i : LocIx) (s : State) : Result :=
  managerWrite s (rmBase r.val + 0x10) fun s => takeOut s (engNum r i)

/-- A returned engine runs its self-test (R147). -/
def beginReturn (s : State) (e : Nat) : State :=
  if (eng s e).out then setEng s e { eng s e with testing := true } else s

/-- ENGINE_RETURN (R147). -/
def execEngineReturn (r : Room) (i : LocIx) (s : State) : Result :=
  managerWrite s (rmBase r.val + 0x10) fun s => beginReturn s (engNum r i)

/-- ENGINE_SELFTEST_DONE (R147): the engine re-enters service and counts in its room's capacity again. -/
def execEngineSelftestDone (r : Room) (i : LocIx) (s : State) : Result :=
  let e := engNum r i
  if (eng s e).testing then go (engOutBit (setEng s e { eng s e with out := false, testing := false }) e false) else go s

/-! ## Region writes (R157 to R161) -/

/-- Staged and active regions of a doorframe. -/
def stagedOf (g : Engine) (k : DoorKind) : Tab Word := match k with | .ls => g.lsStg | .dma => g.dmaStg
def activeOf (g : Engine) (k : DoorKind) : Tab Word := match k with | .ls => g.lsAct | .dma => g.dmaAct
/-- An engine with the staged, or the active, regions of one doorframe replaced. -/
def setStaged (g : Engine) (k : DoorKind) (t : Tab Word) : Engine :=
  match k with | .ls => { g with lsStg := t } | .dma => { g with dmaStg := t }
def setActive (g : Engine) (k : DoorKind) (t : Tab Word) : Engine :=
  match k with | .ls => { g with lsAct := t } | .dma => { g with dmaAct := t }

/-- Whether a descriptor overlaps a region of other index, staged or active, of a doorframe. -/
def clashes (g : Engine) (k : DoorKind) (ix : Nat) (d : Word) : Bool :=
  (stagedOf g k ++ activeOf g k).any fun p => p.1 != ix && regOverlap p.2 d

/-- Reasons 2h and 3h of R157, which concern the descriptor alone; 3h is tested first, or it could never be reported. -/
def descReason (d : Word) : Nat := if 0xFFFFFF < regLast d then 3 else if insideDefault d then 0 else 2

/-- Refusal of a DFW (R157), 0 for none: an index outside 4 to 11 names no supervisor region, but VALID 0 always succeeds. -/
def dfwReason (g : Engine) (k : DoorKind) (ix : Nat) (d : Word) : Nat :=
  if !bit d 63 then 0
  else if ix < 4 ∨ 11 < ix then 4
  else if clashes g k ix d then 1
  else descReason d

/-- Record of a refused region write (R158). -/
def doorRefused (s : State) (r loc ix reason : Nat) (mgr : Bool) : State :=
  rmEvt (wr s (rmBase r + 0x20) (BitVec.ofNat 64 (reason + fld ix 8 + fld (b2n mgr) 12 + fld loc 13))) r 1

/-- Local engines of a room. -/
def locals (r : Nat) : List Nat := (List.range 8).map fun i => 8 * r + i

/-- The other room regions' descriptors of a room, as RM_DOOR holds them. -/
def otherDoors (s : State) (r n : Nat) : List Word :=
  ((List.range 4).filter (· != n)).map fun m => rd s (rmBase r + 0x40 + 8 * m)

/-- Whether two room regions target a common kind of doorframe. -/
def sameTarget (a b : Word) : Bool := (bit a 11 && bit b 11) || (bit a 10 && bit b 10)

/-- A region other than room region n, staged or active in a doorframe, meets a descriptor. -/
def meetsOther (t : Tab Word) (n : Nat) (d : Word) : Bool := t.any fun p => 4 ≤ p.1 && p.1 != 12 + n && regOverlap p.2 d

/-- Refusal of a manager write of room region n, 0 for none (R157): the region is checked in every doorframe it targets,
and against the other room regions as RM_DOOR holds them. -/
def doorReason (s : State) (r n : Nat) (d : Word) : Nat :=
  if !bit d 63 then 0
  else if ((locals r).any fun e =>
        (bit d 10 && meetsOther ((eng s e).lsStg ++ (eng s e).lsAct) n d)
          || (bit d 11 && meetsOther ((eng s e).dmaStg ++ (eng s e).dmaAct) n d))
      || (otherDoors s r n).any (fun x => sameTarget x d && regOverlap x d) then 1
  else descReason d

/-- Stage room region n in the doorframes it targets (R157); a doorframe it does not target holds no such region. -/
def stageDoor (g : Engine) (n : Nat) (d : Word) : Engine :=
  let put := fun (t : Tab Word) (on : Bool) => if on && bit d 63 then tins t (12 + n) d else tdel t (12 + n)
  { g with lsStg := put g.lsStg (bit d 10), dmaStg := put g.dmaStg (bit d 11) }

/-- The bits a region descriptor has: [39:36] and [9:0] are zero (05, Doorframes). -/
def descBits : Word := 0xFFFFFF0FFFFFFC00

/-- A write of RM_DOOR_n (R157, R158). -/
def doorWrite (s : State) (r n : Nat) (w : Word) : State :=
  let d := w &&& descBits
  let why := doorReason s r n d
  if why = 0 then (locals r).foldl (fun s e => setEng s e (stageDoor (eng s e) n d)) (wr s (rmBase r + 0x40 + 8 * n) d)
  else doorRefused s r 0 (12 + n) why true

/-- DOOR_REGION_WRITE (R157). -/
def execDoorRegionWrite (r : Room) (n : Fin 4) (desc : Word) (s : State) : Result :=
  managerWrite s (rmBase r.val + 0x40 + 8 * n.val) fun s => doorWrite s r.val n.val desc

/-- A doorframe makes its staged room regions active (R161). -/
def applyRoom (g : Engine) (k : DoorKind) : Engine :=
  setActive g k (((activeOf g k).filter fun p => p.1 < 12) ++ roomRegions (stagedOf g k))

/-- DOOR_SYNC is done when no doorframe of the room waits (R161). -/
def syncDone (s : State) (r : Nat) : State :=
  if (locals r).any fun e => (eng s e).syncLs || (eng s e).syncDma then s
  else rmEvt (wr s (rmBase r + 0x18) 0) r 6

/-- A write of 1 to RM_DOOR_SYNC.SYNC (R161): idle engines apply at once, the others at their next boundary. -/
def doorSyncStart (s : State) (r : Nat) : State :=
  let s1 := wr s (rmBase r + 0x18) 0x100
  let s2 := (locals r).foldl (fun s e =>
    let g := eng s e
    if g.order.isNone then setEng s e (applyRoom (applyRoom g .ls) .dma)
    else setEng s e { g with syncLs := true, syncDma := true }) s1
  syncDone s2 r

/-- DOOR_SYNC (R161). -/
def execDoorSync (r : Room) (s : State) : Result :=
  managerWrite s (rmBase r.val + 0x18) fun s => doorSyncStart s r.val

/-- DOOR_SYNC_APPLY (R161): at the next bundle boundary or wait cycle of the engine, or once it is idle. -/
def execDoorSyncApply (e : EngIx) (k : DoorKind) (s : State) : Result :=
  let g := eng s e.val
  let waits := match k with | .ls => g.syncLs | .dma => g.syncDma
  if waits && (g.core.atBoundary || g.order.isNone) then
    let g1 := applyRoom g k
    let g2 := match k with | .ls => { g1 with syncLs := false } | .dma => { g1 with syncDma := false }
    go (syncDone (setEng s e.val g2) (roomOf e.val))
  else go s

/-! ## RM_ registers, of the manager and of supervisor code (05, RM registers) -/

/-- The program-cache line fills of a room, as RM_CNT shows them. The manual gives the caches no organisation, so which line is
refilled when is open, and the count is a free value (DESIGN CHOICE, log entry 204). -/
def fillCount (s : State) (r : Nat) : Nat := Config.external 60 [r, s.fresh] % 2 ^ 32

/-- What a read of a room's RM block returns. -/
def rmView (s : State) (r o : Nat) : Nat :=
  match o with
  | 0x000 =>
    let es := (List.range 8).map fun i => (i, eng s (8 * r + i))
    let frames := (s.rooms.frames.filter fun p => p.1 / 128 == r).length
    let pre := (s.rooms.saved.filter fun p => p.1 / 128 == r).length
    sumOf es (fun p => fld (b2n (!p.2.out)) (56 + p.1) + fld (b2n p.2.order.isSome) (48 + p.1))
      + fld frames 40 + fld (queueLen s r) 16 + min 255 pre
  | 0x018 => fld (b2n ((locals r).any fun e => (eng s e).syncLs || (eng s e).syncDma)) 8
  | 0x028 => fld (rdF s (rmBase r + 0x28) 63 32) 32 + fillCount s r
  | _ => (rd s (rmBase r + o)).toNat

/-- Clear W1C bits of a room's event register; SYS_RM_PEND follows when it is read (R164). -/
def clearW1c (s : State) (a : Nat) (mask : Word) : State := wr s a (rd s a &&& ~~~mask)

/-- A write of RM_ENG_CTL: TAKE_OUT and RETURN bits (R147). -/
def engCtl (s : State) (r : Nat) (v : Word) : State :=
  (locals r).foldl (fun s e =>
    let s1 := if bit v (e % 8) then takeOut s e else s
    if bit v (8 + e % 8) then beginReturn s1 e else s1) s

/-- A write to offset `off` of room r's RM block. -/
def rmWrite (s : State) (r off : Nat) (v : Word) : State :=
  match off with
  | 0x08 => clearW1c s (rmBase r + 8) (v &&& 0x7F)
  | 0x10 => engCtl s r v
  | 0x18 => if bit v 0 then doorSyncStart s r else s
  | 0x40 => doorWrite s r 0 v
  | 0x48 => doorWrite s r 1 v
  | 0x50 => doorWrite s r 2 v
  | 0x58 => doorWrite s r 3 v
  | _ => s

end Machine
end Sys2Proof
end

