-- ==== Sys2Proof/Machine/Operands.lean ====
section
/-! DEFINITION. The operands of engine instructions (05, 06): general, block and key registers, immediates, frame
addresses, the frame's words with their error states, the advance of pc, loop stack and return stack, and the ends an
access can put to a routine. -/

namespace Sys2Proof
namespace Machine

/-! ## Registers -/

/-- Read a general register; x0 reads zero (R124). -/
def xget (c : Core) (r : XReg) : Word := if r = 0 then 0 else tget 0 c.x r.val

/-- Write a general register; a write to x0 is discarded (R124). -/
def xset (c : Core) (r : XReg) (v : Word) : Core := if r = 0 then c else { c with x := tput 0 c.x r.val v }

/-- Read a block register. -/
def bget (c : Core) (r : BReg) : Block := tget 0 c.b r.val
/-- Whether a block register is sealed (06 R172). -/
def sealedB (c : Core) (r : BReg) : Bool := tget false c.seals r.val
/-- Write a block register with its seal. -/
def bset (c : Core) (r : BReg) (v : Block) (sl : Bool) : Core :=
  { c with b := tput 0 c.b r.val v, seals := tput false c.seals r.val sl }

/-- Read a key register with its tag. -/
def kget (c : Core) (r : KReg) : KeyReg := tget {} c.k r.val
/-- Write a key register with its tag. -/
def kset (c : Core) (r : KReg) (v : KeyReg) : Core := { c with k := tput {} c.k r.val v }

/-- The block register i places after r. -/
def bplus (r : BReg) (i : Nat) : BReg := ⟨(r.val + i) % 16, Nat.mod_lt _ (by decide)⟩
/-- The four registers of a 64-byte move: b4m to b4m+3. -/
def quadOf (m : Fin 4) (i : Nat) : BReg := ⟨(4 * m.val + i) % 16, Nat.mod_lt _ (by decide)⟩

/-- Sign-extended 16-bit immediate. -/
def sext (imm : BitVec 16) : Word := imm.signExtend 64
/-- Zero-extended 16-bit immediate. -/
def zext (imm : BitVec 16) : Word := imm.zeroExtend 64

/-- Bytes of an access size. -/
def sizeBytes : Size → Nat
  | .b => 1 | .h => 2 | .w => 4 | .d => 8

/-! ## Control flow (R131, R137) -/

/-- Leave bundle pc: the innermost loops whose body ends here go round again or are done. -/
def loopNext (loops : List LoopFrame) (pc : Nat) : List LoopFrame × Nat :=
  match loops with
  | [] => ([], pc + 1)
  | f :: r =>
    if f.last = pc then (if 1 < f.left then ({ f with left := f.left - 1 } :: r, f.start) else loopNext r pc)
    else (f :: r, pc + 1)

/-- Continue at the bundle that follows bundle pc. -/
def afterBundle (c : Core) (pc : Nat) : Core :=
  let n := loopNext c.loops pc
  { c with loops := n.1, pc := n.2 % 1024, slot := 0 }

/-- Advance past an instruction of n slots. -/
def advance (c : Core) (n : Nat) : Core :=
  if h : c.slot.val + n < 4 then { c with slot := ⟨c.slot.val + n, h⟩, waits := false } else afterBundle { c with waits := false } c.pc

/-- Continue at a bundle. -/
def jumpTo (c : Core) (target : Nat) : Core := { c with pc := target % 1024, slot := 0, waits := false }

/-! ## Running an instruction -/

/-- First 64-bit word of an image in the program store: where the loader placed it is a free value. -/
def storeBase (serial : Nat) : Nat := Config.external 42 [serial]

/-- One of the two words of a program-store bundle is poisoned (16 R435, class 3). -/
def bundlePoisoned (s : State) (v : Order) (pc : Nat) : Bool :=
  s.ec.poison.any fun p => p.1 == 3 && p.2 / 2 == storeBase v.image + pc

/-- Run an instruction on the order that engine e runs; an engine that runs none has no instruction. A poisoned bundle ends
the order with POISON (16 R435). -/
def onEngine (e : EngIx) (s : State) (f : Nat → Order → Engine → Result) : Result :=
  match (eng s e.val).order with
  | none => go s
  | some o =>
    match order? s o with
    | none => go s
    | some v =>
      if bundlePoisoned s v (eng s e.val).core.pc then go (endOrder s o .poison 0) else f o v (eng s e.val)

/-- Store an engine's core. -/
def setCore (s : State) (e : EngIx) (c : Core) : State := setEng s e.val { eng s e.val with core := c }

/-- An instruction that only computes on the engine's registers and continues with the next slot. -/
def alu (e : EngIx) (s : State) (f : Core → Core) : Result :=
  onEngine e s fun _ _ g => go (setCore s e (advance (f g.core) 1))

/-- An instruction that writes one general register from registers. -/
def aluX (e : EngIx) (s : State) (r : XReg) (f : Core → Word) : Result := alu e s fun c => xset c r (f c)

/-! ## Frame words (R128, 16 R434 to R438) -/

/-- Frame window address: (rs1 + offset) mod 1,024, aligned to the access size (R128). -/
def frameAddr (c : Core) (r : XReg) (imm : BitVec 16) (n : Nat) : Nat :=
  let a := (xget c r + sext imm).toNat % 1024
  a - a % n

/-- Key of the frame that an order holds. -/
def frameOf (v : Order) : Nat := frameKey v.room.val v.frame

/-- Words of an access: frame word numbers from the word of offset a, n bytes long. -/
def wordsOf (k a n : Nat) : List Nat := (List.range (max 1 (n / 8))).map fun i => 128 * k + a / 8 + i

/-- Whether one of the words is poisoned in memory class m. -/
def poisoned (s : State) (m : Nat) (ws : List Nat) : Bool := ws.any fun w => s.ec.poison.contains (m, w)

/-- Poison a word. -/
def poisonWord (s : State) (m w : Nat) : State :=
  if s.ec.poison.contains (m, w) then s else { s with ec := { s.ec with poison := (m, w) :: s.ec.poison } }

/-- Clear the poison of words that are written whole, counting each (16 R438). -/
def clearPoison (s : State) (m : Nat) (ws : List Nat) : State :=
  let n := (ws.filter fun w => s.ec.poison.contains (m, w)).length
  if n = 0 then s
  else cntBy { s with ec := { s.ec with poison := s.ec.poison.filter fun p => !(p.1 == m && ws.contains p.2) } }
    0xC0010 63 32 n

/-- A corrected word of a room's memories: the room's counter and event (05 R164, RM_ECC_CNT). -/
def roomCE (s : State) (r : Nat) : State := rmEvt (cntUp s (rmBase r + 0x30) 31 0) r 3
/-- An uncorrectable word of a room's frames, register files or program caches (05 R139, R164). -/
def roomUE (s : State) (r : Nat) : State := rmEvt (cntUp s (rmBase r + 0x30) 63 32) r 4

/-- A corrected word of a frame: module and room counters and events (16 R435, 05 RM_ECC_CNT). -/
def frameCE (s : State) (r : Nat) : State := roomCE (memCE s 0 1) r
/-- An uncorrectable word of a frame. -/
def frameUE (s : State) (r : Nat) : State := roomUE (memUE s 0 1) r

/-- A word reports an uncorrectable error: whether it is the second one, and the state that remembers it (16 R435). -/
def secondError (s : State) (m w : Nat) : State × Bool :=
  if s.ec.errOnce.contains (m, w) then (s, true)
  else ({ s with ec := { s.ec with errOnce := (m, w) :: s.ec.errOnce } }, false)

/-- Engine in whose data store a frame word lies: frame f of room r lies with local engine f div 16 (05, Frames). -/
def storeEngine (w : Nat) : Nat := w / 16384 * 8 + w % 16384 / 2048

/-- A word of a data store reports an uncorrectable error and the order that met it ends with POISON; the second error of
one word takes the engine of the data store out of service (05 R147). -/
def frameFails (s : State) (o : Nat) (v : Order) (w : Nat) : State :=
  let t := secondError (endOrder (frameUE (poisonWord s 0 w) v.room.val) o .poison 0) 0 w
  if t.2 then takeOut t.1 (storeEngine w) else t.1

/-- A partial write is refused (16 R437). -/
def partialRefused (s : State) (src : Nat) : State := evtRec (cntUp s 0xC0010 31 0) 12 2 src 0

/-- Read n bytes at offset a of the frame of order o: none when a word is poisoned or reads with an uncorrectable error, and
the order has then ended with POISON. -/
def frameRead (s : State) (o : Nat) (v : Order) (a n : Nat) (ecc : Ecc) : State × Option Nat :=
  let k := frameOf v
  let ws := wordsOf k a n
  if poisoned s 0 ws then (endOrder s o .poison 0, none)
  else match ecc with
    | .uncorrectable => (frameFails s o v (128 * k + a / 8), none)
    | .corrected => (frameCE s v.room.val, some (tbytes s.mem.win (winBase k + a) n))
    | .ok => (s, some (tbytes s.mem.win (winBase k + a) n))

/-- Store whole words of the order's frame: n bytes of a little-endian number (16 R438). -/
def frameWriteFull (s : State) (v : Order) (a n val : Nat) : State :=
  let k := frameOf v
  let s1 := clearPoison s 0 (wordsOf k a n)
  { s1 with mem := { s1.mem with win := tstore s1.mem.win (winBase k + a) n val } }

/-- Store n < 8 bytes: where the partial write is refused, the order has ended with POISON (16 R436, R437). -/
def frameWritePart (s : State) (o : Nat) (v : Order) (e : Nat) (a n val : Nat) (ecc : Ecc) : State × Bool :=
  let k := frameOf v
  let w := 128 * k + a / 8
  let put := fun (s : State) => { s with mem := { s.mem with win := tstore s.mem.win (winBase k + a) n val } }
  if poisoned s 0 [w] then (endOrder (partialRefused s (srcWord 3 e)) o .poison 0, false)
  else match ecc with
    | .uncorrectable => (frameFails (partialRefused s (srcWord 3 e)) o v w, false)
    | .corrected => (put (frameCE s v.room.val), true)
    | .ok => (put s, true)

/-! ## Ends of a routine -/

/-- Whether an order runs in supervisor mode (R154). -/
def inSupv (v : Order) : Bool := v.hdr.supv

/-- DOOR_FAULT (R163): RM_FAULT_i of the engine, event and attic entry of the room, the routine's end. Kind 1 is the load
and store path, 2 the DMA path. -/
def doorFault (s : State) (e : Nat) (o : Nat) (v : Order) (addr kind : Nat) (write : Bool) : State :=
  let w := faultWord addr v.routine kind write v.slice.val
  let s1 := wr s (rmBase (roomOf e) + 0x80 + 8 * (e % 8)) (BitVec.ofNat 64 w)
  endOrder (rmEvtRec s1 (roomOf e) 0 (srcWord 3 e) w) o .doorFault 0

/-! ## Global addresses (R129, R152, 05 Address map) -/

/-- Address of a global instruction or of the window side of a transfer, aligned to n (R129). The global instructions take
the I format, so the address is rs1 plus the sign-extended immediate. -/
def globalAddr (c : Core) (r : XReg) (imm : BitVec 16) (n : Nat) : Nat :=
  let a := (xget c r + sext imm).toNat
  a - a % n

/-- The image an order runs: the loaded one, or one replaced or unloaded since (07 R197). -/
def imageOf (s : State) (v : Order) : Image :=
  match s.ld.dir.find? fun p => p.2.serial == v.image && p.1 == v.routine with
  | some p => p.2
  | none => (s.ld.old.find? fun i => i.serial == v.image && i.hdr.routine == v.routine).getD { hdr := v.hdr }

/-- The word at an 8-byte aligned address of the global map that an access was granted to. The program store's contents as
supervisor loads see them are left open by the manual: a free value. -/
def globalRead (s : State) (v : Order) (a : Nat) : Nat × State :=
  if 0x10000 ≤ a ∧ a < 0x20000 then (tbytes (tstoreList [] 0 ((imageOf s v).const)) (a - 0x10000) 8, s)
  else if 0x102000000 ≤ a ∧ a < 0x102020000 then
    match v.bnEng with
    | some b =>
      let w := (a - 0x102000000) / 8
      if v.holdsArea && !secretWord s b.val w then ((tget 0 s.mem.words (16384 * b.val + w)).toNat, s) else (0, s)
    | none => (0, s)
  else if 0x200000000 ≤ a ∧ a < 0x200004000 then (rmView s v.room.val (a - 0x200000000), s)
  else if 0x300000000 ≤ a ∧ a < 0x300C00000 then (tbytes s.mem.pantry (a - 0x300000000) 8, s)
  else let d := draw 64 s; (d.1.toNat, d.2)

/-- The engine whose slot area the order's slot window shows (09 R243). -/
def areaOf (v : Order) : Option BnIx := if v.holdsArea then v.bnEng else none

/-- Store a word at an 8-byte aligned address of the global map as room r sees it. -/
def globalWrite (s : State) (r : Nat) (area : Option BnIx) (a : Nat) (w : Word) : State :=
  if 0x102000000 ≤ a ∧ a < 0x102020000 then
    match area with
    | some b =>
      let n := (a - 0x102000000) / 8
      if !secretWord s b.val n then
        clearPoisonIf { s with mem := { s.mem with words := tput 0 s.mem.words (16384 * b.val + n) w } } 6
          fun x => x == 32768 * b.val + n
      else s
    | none => s
  else if 0x200000000 ≤ a ∧ a < 0x200004000 then rmWrite s r (a - 0x200000000) w
  else if 0x300000000 ≤ a ∧ a < 0x300C00000 then
    { s with mem := { s.mem with pantry := tstore s.mem.pantry (a - 0x300000000) 8 w.toNat } }
  else s

/-- Eight words from a 64-byte aligned address, lowest first, as one number. -/
def globalRead64 (s : State) (v : Order) (a : Nat) : Nat → Nat × State
  | 0 => (0, s)
  | n + 1 =>
    let lo := globalRead64 s v a n
    let w := globalRead lo.2 v (a + 8 * n)
    (lo.1 + fld w.1 (64 * n), w.2)

end Machine
end Sys2Proof
end

