-- ==== Sys2Proof/Machine/Flags.lean ====
section
/-! DEFINITION. The computations of the integer instructions (05, Instructions and cycle counts) and the comparisons that
take the place of flags: an engine has no flags register, so a comparison gives 0 or 1 (05, Registers). -/

namespace Sys2Proof
namespace Machine

/-- A comparison's 0 or 1. -/
def truth (b : Bool) : Word := if b then 1 else 0

/-- Shift amount: bits 5 to 0 of a register (05, OPR). -/
def amount (w : Word) : Nat := w.toNat % 64

/-- High 64 bits of the signed product. -/
def mulHigh (a b : Word) : Word := BitVec.ofInt 64 (a.toInt * b.toInt / 18446744073709551616)
/-- High 64 bits of the unsigned product. -/
def mulHighU (a b : Word) : Word := BitVec.ofNat 64 (a.toNat * b.toNat / 18446744073709551616)

/-- Unsigned quotient; all ones on division by zero (R133). -/
def divU (a b : Word) : Word := if b = 0 then 0xFFFFFFFFFFFFFFFF else BitVec.ofNat 64 (a.toNat / b.toNat)
/-- Unsigned remainder; the dividend on division by zero (R133). -/
def remU (a b : Word) : Word := if b = 0 then a else BitVec.ofNat 64 (a.toNat % b.toNat)

/-- Number of 1 bits. -/
def popCount (a : Word) : Word := BitVec.ofNat 64 ((List.range 64).filter fun i => bit a i).length

/-- Leading zeros; 64 for zero. -/
def leadZeros (a : Word) : Word :=
  BitVec.ofNat 64 (((List.range 64).find? fun i => bit a (63 - i)).getD 64)

/-- The n low bytes of a number, reversed. -/
def revBytes : Nat → Nat → Nat
  | 0, _ => 0
  | n + 1, v => v % 256 * 256 ^ n + revBytes n (v / 256)

/-- The eight bytes of a word reversed. -/
def byteSwap (a : Word) : Word := BitVec.ofNat 64 (revBytes 8 a.toNat)

/-- SHI: shift or rotation by an immediate amount (05, Immediates): 0 SLLI, 1 SRLI, 2 SRAI, 3 RORI. -/
def shiftImm (a : Word) (imm : BitVec 16) : Word :=
  let n := bits imm 5 0
  match bits imm 7 6 with
  | 0 => a <<< n
  | 1 => a >>> n
  | 2 => a.sshiftRight n
  | _ => a.rotateRight n

/-- MOVZ: an immediate at a halfword, other bits zero. -/
def placeHalf (hw : Fin 4) (imm : BitVec 16) : Word := BitVec.ofNat 64 (imm.toNat * 2 ^ (16 * hw.val))

/-- MOVK: one halfword replaced. -/
def keepHalf (a : Word) (hw : Fin 4) (imm : BitVec 16) : Word :=
  setBits a (16 * hw.val + 15) (16 * hw.val) imm.toNat

end Machine
end Sys2Proof
end

