-- ==== Sys2Proof/Machine/Cipher.lean ====
section
/-! DEFINITION. The ciphers, hashes and field operations that the engines compute (06): FIPS 197, FIPS 180-4, FIPS 202,
the fields of GCM, POLYVAL and XTS, CMAC and the SP 800-108 counter-mode derivation of 08 R228. Every value is a number
whose byte i stands at bits 8i+7 to 8i, as a block register holds it (06 R174). -/

namespace Sys2Proof
namespace Machine

/-- The S-box of FIPS 197, entry b in byte b. -/
def sboxTab : Nat :=
  0x16bb54b00f2d99416842e6bf0d89a18cdf2855cee9871e9b948ed9691198f8e19e1dc186b95735610ef6034866b53e708a8bbd4b1f74dde8c6b4a61c2e2578ba08ae7a65eaf4566ca94ed58d6d37c8e779e4959162acd3c25c2406490a3a32e0db0b5ede14b8ee4688902a22dc4f816073195d643d7ea7c41744975fec130ccdd2f3ff1021dab6bcf5389d928f40a351a89f3c507f02f94585334d43fbaaefd0cf584c4a39becb6a5bb1fc20ed00d153842fe329b3d63b52a05a6e1b1a2c830975b227ebe28012079a059618c323c7041531d871f1e5a534ccf73f362693fdb7c072a49cafa2d4adf04759fa7dc982ca76abd7fe2b670130c56f6bf27b777c63

/-- The inverse S-box of FIPS 197. -/
def invSboxTab : Nat :=
  0x7d0c2155631469e126d677ba7e042b17619953833cbbebc8b0f52aae4d3be0a0ef9cc9939f7ae52d0d4ab519a97f51605fec8027591012b131c7078833a8dd1ff45acd78fec0db9a2079d2c64b3e56fc1bbe18aa0e62b76f89c5291d711af1476edf751ce837f9e28535ade72274ac9673e6b4f0cecff297eadc674f4111913a6b8a130103bdafc1020f3fca8f1e2cd00645b3b80558e4f70ad3bc8c00abd890849d8da75746155edab9edfd5048706c92b6655dcc5ca4d41698688664f6f87225d18b6d49a25b76b224d92866a12e084ec3fa420b954cee3d23c2a632947b54cbe9dec444438e3487ff2f9b8239e37cfbd7f3819ea340bf38a53630d56a0952

/-- Round constants of SHA-512 (FIPS 180-4); the high halves of the first 64 are those of SHA-256. -/
def shaK : List Nat :=
  [0x428A2F98D728AE22, 0x7137449123EF65CD, 0xB5C0FBCFEC4D3B2F, 0xE9B5DBA58189DBBC,
   0x3956C25BF348B538, 0x59F111F1B605D019, 0x923F82A4AF194F9B, 0xAB1C5ED5DA6D8118,
   0xD807AA98A3030242, 0x12835B0145706FBE, 0x243185BE4EE4B28C, 0x550C7DC3D5FFB4E2,
   0x72BE5D74F27B896F, 0x80DEB1FE3B1696B1, 0x9BDC06A725C71235, 0xC19BF174CF692694,
   0xE49B69C19EF14AD2, 0xEFBE4786384F25E3, 0x0FC19DC68B8CD5B5, 0x240CA1CC77AC9C65] ++
  [0x2DE92C6F592B0275, 0x4A7484AA6EA6E483, 0x5CB0A9DCBD41FBD4, 0x76F988DA831153B5,
   0x983E5152EE66DFAB, 0xA831C66D2DB43210, 0xB00327C898FB213F, 0xBF597FC7BEEF0EE4,
   0xC6E00BF33DA88FC2, 0xD5A79147930AA725, 0x06CA6351E003826F, 0x142929670A0E6E70,
   0x27B70A8546D22FFC, 0x2E1B21385C26C926, 0x4D2C6DFC5AC42AED, 0x53380D139D95B3DF,
   0x650A73548BAF63DE, 0x766A0ABB3C77B2A8, 0x81C2C92E47EDAEE6, 0x92722C851482353B] ++
  [0xA2BFE8A14CF10364, 0xA81A664BBC423001, 0xC24B8B70D0F89791, 0xC76C51A30654BE30,
   0xD192E819D6EF5218, 0xD69906245565A910, 0xF40E35855771202A, 0x106AA07032BBD1B8,
   0x19A4C116B8D2D0C8, 0x1E376C085141AB53, 0x2748774CDF8EEB99, 0x34B0BCB5E19B48A8,
   0x391C0CB3C5C95A63, 0x4ED8AA4AE3418ACB, 0x5B9CCA4F7763E373, 0x682E6FF3D6B2B8A3,
   0x748F82EE5DEFB2FC, 0x78A5636F43172F60, 0x84C87814A1F0AB72, 0x8CC702081A6439EC] ++
  [0x90BEFFFA23631E28, 0xA4506CEBDE82BDE9, 0xBEF9A3F7B2C67915, 0xC67178F2E372532B,
   0xCA273ECEEA26619C, 0xD186B8C721C0C207, 0xEADA7DD6CDE0EB1E, 0xF57D4F7FEE6ED178,
   0x06F067AA72176FBA, 0x0A637DC5A2C898A6, 0x113F9804BEF90DAE, 0x1B710B35131C471B,
   0x28DB77F523047D84, 0x32CAAB7B40C72493, 0x3C9EBE0A15C9BEBC, 0x431D67C49C100D4C,
   0x4CC5D4BECB3E42B6, 0x597F299CFC657E2A, 0x5FCB6FAB3AD6FAEC, 0x6C44198C4A475817]

/-- Initial hash value of SHA-512; its high halves are that of SHA-256. -/
def iv512 : List Nat :=
  [0x6A09E667F3BCC908, 0xBB67AE8584CAA73B, 0x3C6EF372FE94F82B, 0xA54FF53A5F1D36F1,
   0x510E527FADE682D1, 0x9B05688C2B3E6C1F, 0x1F83D9ABFB41BD6B, 0x5BE0CD19137E2179]

/-- Initial hash value of SHA-384; its low halves are that of SHA-224. -/
def iv384 : List Nat :=
  [0xCBBB9D5DC1059ED8, 0x629A292A367CD507, 0x9159015A3070DD17, 0x152FECD8F70E5939,
   0x67332667FFC00B31, 0x8EB44A8768581511, 0xDB0C2E0D64F98FA7, 0x47B5481DBEFA4FA4]

/-- Initial hash value of SHA-512/256. -/
def iv512t256 : List Nat :=
  [0x22312194FC2BF72C, 0x9F555FA3C84C64C2, 0x2393B86B6F53B151, 0x963877195940EABD,
   0x96283EE2A88EFFE3, 0xBE5E1E2553863992, 0x2B0199FC2C85B8AA, 0x0EB72DDC81C52CA2]

/-! ## Bytes and words -/

/-- Byte i of a value. -/
def byteOf (v i : Nat) : Nat := v >>> (8 * i) % 256
/-- n bytes of a value from byte i, as a value. -/
def bytesOf (v i n : Nat) : Nat := v >>> (8 * i) % 2 ^ (8 * n)
/-- n bytes of a value from byte i, as a big-endian number. -/
def beAt (v i n : Nat) : Nat := revBytes n (bytesOf v i n)
/-- A value from its list of bytes. -/
def packBytes : List Nat → Nat
  | [] => 0
  | b :: r => b % 256 + 256 * packBytes r
/-- The first n bytes of a value as a list. -/
def unpackBytes (n v : Nat) : List Nat := (List.range n).map (byteOf v)
/-- n-byte elements joined, first lowest. -/
def packWords (n : Nat) : List Nat → Nat
  | [] => 0
  | w :: r => w % 2 ^ (8 * n) + 2 ^ (8 * n) * packWords n r

/-- Rotation right of a w-bit number. -/
def rotR (w x n : Nat) : Nat := (x >>> n ||| x <<< (w - n)) % 2 ^ w
/-- Rotation left of a w-bit number. -/
def rotL (w x n : Nat) : Nat := (x <<< n ||| x >>> (w - n)) % 2 ^ w

/-! ## AES (FIPS 197; 06 R174) -/

/-- SubBytes of one byte. -/
def subByte (b : Nat) : Nat := byteOf sboxTab b
/-- InvSubBytes of one byte. -/
def invSubByte (b : Nat) : Nat := byteOf invSboxTab b
/-- Multiplication by x in the field of FIPS 197. -/
def xtime (b : Nat) : Nat := (2 * b % 256) ^^^ (if 128 ≤ b then 0x1B else 0)
/-- Multiplication by a four-bit constant. -/
def mulSmall (c b : Nat) : Nat :=
  let b2 := xtime b
  let b4 := xtime b2
  let b8 := xtime b4
  (if c % 2 = 1 then b else 0) ^^^ (if c / 2 % 2 = 1 then b2 else 0) ^^^ (if c / 4 % 2 = 1 then b4 else 0)
    ^^^ (if c / 8 % 2 = 1 then b8 else 0)

/-- The word that key expansion adds to w[i − Nk]; w[i − 1] is `t`. -/
def expandTemp (nk i t rcon : Nat) : Nat :=
  if i % nk = 0 then
    let r := (t >>> 8) + (t % 256) * 2 ^ 24
    packBytes ((unpackBytes 4 r).map subByte) ^^^ rcon
  else if 6 < nk ∧ i % nk = 4 then packBytes ((unpackBytes 4 t).map subByte)
  else t

/-- Key expansion: the words still to make, from word i on, over the reversed list of words made. -/
def expandFrom (nk : Nat) : Nat → Nat → Nat → List Nat → List Nat
  | 0, _, _, ws => ws
  | n + 1, i, rcon, ws =>
    let t := ws.headD 0
    let w := ws.getD (nk - 1) 0 ^^^ expandTemp nk i t rcon
    expandFrom nk n (i + 1) (if i % nk = 0 then xtime rcon else rcon) (w :: ws)

/-- Rounds for a key of nk words. -/
def aesRounds (nk : Nat) : Nat := nk + 6

/-- The round keys of a key of nk words, as 16-byte values, first to last. -/
def roundKeys (nk key : Nat) : List Nat :=
  let first := ((List.range nk).map fun i => bytesOf key (4 * i) 4).reverse
  let ws := (expandFrom nk (4 * (aesRounds nk + 1) - nk) nk 1 first).reverse
  (List.range (aesRounds nk + 1)).map fun r => packWords 4 (ws.drop (4 * r) |>.take 4)

/-- SubBytes and ShiftRows. -/
def subShift (v : Nat) : Nat := packBytes ((List.range 16).map fun i => subByte (byteOf v ((i + 4 * (i % 4)) % 16)))
/-- InvShiftRows and InvSubBytes. -/
def invSubShift (v : Nat) : Nat := packBytes ((List.range 16).map fun i => invSubByte (byteOf v ((i + 12 * (i % 4)) % 16)))
/-- MixColumns with the four constants of a row. -/
def mixWith (c0 c1 c2 c3 v : Nat) : Nat :=
  packBytes ((List.range 16).map fun i =>
    let at_ := fun k => byteOf v (i / 4 * 4 + (i + k) % 4)
    mulSmall c0 (at_ 0) ^^^ mulSmall c1 (at_ 1) ^^^ mulSmall c2 (at_ 2) ^^^ mulSmall c3 (at_ 3))

/-- The rounds of the forward cipher after the first key addition. -/
def cipherRounds : List Nat → Nat → Nat
  | [], v => v
  | [k], v => subShift v ^^^ k
  | k :: r, v => cipherRounds r (mixWith 2 3 1 1 (subShift v) ^^^ k)

/-- The rounds of the inverse cipher, over the round keys from last to first. -/
def invRounds : List Nat → Nat → Nat
  | [], v => v
  | [k], v => invSubShift v ^^^ k
  | k :: r, v => invRounds r (mixWith 14 11 13 9 (invSubShift v ^^^ k))

/-- The forward cipher under a key of nk 32-bit words. -/
def aesEnc (nk key v : Nat) : Nat :=
  match roundKeys nk key with
  | [] => v
  | k :: r => cipherRounds r (v ^^^ k)

/-- The inverse cipher. -/
def aesDec (nk key v : Nat) : Nat :=
  match (roundKeys nk key).reverse with
  | [] => v
  | k :: r => invRounds r (v ^^^ k)

/-! ## Fields of 2¹²⁸ elements (06 R178) -/

/-- x¹²⁸ + x⁷ + x² + x + 1. -/
def fieldPoly : Nat := 2 ^ 128 + 0x87

/-- Multiplication by x. -/
def timesX (a : Nat) : Nat := if 2 ^ 127 ≤ a then (2 * a) ^^^ fieldPoly else 2 * a
/-- Division by x. -/
def divX (a : Nat) : Nat := if a % 2 = 1 then (a ^^^ fieldPoly) / 2 else a / 2

/-- Product, over the coefficients of b from x^(n−1) down. -/
def fieldMul (a b : Nat) : Nat → Nat
  | 0 => 0
  | n + 1 => timesX (fieldMul a (b / 2) n) ^^^ (if b % 2 = 1 then a else 0)

/-- n divisions by x. -/
def divXs (a : Nat) : Nat → Nat
  | 0 => a
  | n + 1 => divXs (divX a) n

/-- A byte with its bits reversed. -/
def revBits (b : Nat) : Nat := (List.range 8).foldl (fun r i => r + b / 2 ^ i % 2 * 2 ^ (7 - i)) 0
/-- A block between register order and GCM's order of coefficients: bit j of byte i is that of x^(8i + 7 − j). -/
def gcmOrder (v : Nat) : Nat := packBytes ((unpackBytes 16 v).map revBits)

/-- GHMUL. -/
def ghMul (a b : Nat) : Nat := gcmOrder (fieldMul (gcmOrder a) (gcmOrder b) 128)
/-- PVMUL: bit j of byte i is the coefficient of x^(8i + j), and the product is divided by x¹²⁸. -/
def pvMul (a b : Nat) : Nat := divXs (fieldMul a b 128) 128
/-- XTSDBL. -/
def xtsDbl (a : Nat) : Nat := timesX a

/-! ## SHA-2 (FIPS 180-4) -/

/-- Rotation and shift amounts of SHA-2 with words of 4 or 8 bytes: σ0, σ1, Σ0, Σ1. -/
def shaAmt (wb : Nat) : List Nat :=
  if wb = 4 then [7, 18, 3, 17, 19, 10, 2, 13, 22, 6, 11, 25] else [1, 8, 7, 19, 61, 6, 28, 34, 39, 14, 18, 41]

/-- σ: two rotations and a shift, at amounts i to i + 2. -/
def shaSmall (wb i x : Nat) : Nat :=
  let a := shaAmt wb
  rotR (8 * wb) x (a.getD i 0) ^^^ rotR (8 * wb) x (a.getD (i + 1) 0) ^^^ x >>> (a.getD (i + 2) 0)

/-- Σ: three rotations, at amounts i to i + 2. -/
def shaBig (wb i x : Nat) : Nat :=
  let a := shaAmt wb
  rotR (8 * wb) x (a.getD i 0) ^^^ rotR (8 * wb) x (a.getD (i + 1) 0) ^^^ rotR (8 * wb) x (a.getD (i + 2) 0)

/-- Rounds of a compression. -/
def shaRounds (wb : Nat) : Nat := if wb = 4 then 64 else 80
/-- Round constant t. -/
def shaConst (wb t : Nat) : Nat := if wb = 4 then shaK.getD t 0 >>> 32 else shaK.getD t 0

/-- n more words of the message schedule over the reversed list of those made. -/
def shaSchedule (wb : Nat) : Nat → List Nat → List Nat
  | 0, ws => ws
  | n + 1, ws =>
    let w := (shaSmall wb 3 (ws.getD 1 0) + ws.getD 6 0 + shaSmall wb 0 (ws.getD 14 0) + ws.getD 15 0) % 2 ^ (8 * wb)
    shaSchedule wb n (w :: ws)

/-- One round on the working variables a to h. -/
def shaRound (wb w k : Nat) (v : List Nat) : List Nat :=
  let m := 2 ^ (8 * wb)
  let a := v.getD 0 0
  let b := v.getD 1 0
  let c := v.getD 2 0
  let e := v.getD 4 0
  let t1 := v.getD 7 0 + shaBig wb 9 e + ((e &&& v.getD 5 0) ^^^ ((m - 1 - e) &&& v.getD 6 0)) + k + w
  let t2 := shaBig wb 6 a + ((a &&& b) ^^^ (a &&& c) ^^^ (b &&& c))
  [(t1 + t2) % m, a, b, c, (v.getD 3 0 + t1) % m, e, v.getD 5 0, v.getD 6 0]

/-- The rounds over the schedule, from round t on. -/
def shaRun (wb : Nat) : List Nat → Nat → List Nat → List Nat
  | [], _, v => v
  | w :: r, t, v => shaRun wb r (t + 1) (shaRound wb w (shaConst wb t) v)

/-- Compress a block into a state: eight big-endian words of wb bytes, sixteen words of block (06 R180). -/
def shaCompress (wb st blk : Nat) : Nat :=
  let h := (List.range 8).map fun i => beAt st (wb * i) wb
  let w := (List.range 16).map fun i => beAt blk (wb * i) wb
  let v := shaRun wb (shaSchedule wb (shaRounds wb - 16) w.reverse).reverse 0 h
  packWords wb ((List.range 8).map fun i => revBytes wb ((h.getD i 0 + v.getD i 0) % 2 ^ (8 * wb)))

/-! ## Keccak-f[1600] (FIPS 202)

The state is one number of 1,600 bits: lane x + 5y stands at bit 64 (x + 5y), so a plane of five lanes is 320 bits. The
constants are computed from their definitions in FIPS 202 and not listed. -/

/-- The shift register of the round constants, one step on. -/
def iotaShift (r : Nat) : Nat := if r < 128 then 2 * r else (2 * r - 256) ^^^ 0x71

/-- The n lowest bits that a round constant may set, at positions 2ʲ − 1, from a register value; and the register after them. -/
def iotaWord : Nat → Nat → Nat × Nat
  | 0, r => (0, r)
  | n + 1, r => let p := iotaWord n r; (p.1 + p.2 % 2 * 2 ^ (2 ^ n - 1), iotaShift p.2)

/-- Five lanes each holding 1. -/
def laneOnes : Nat := (2 ^ 320 - 1) / (2 ^ 64 - 1)

/-- Plane y of a state. -/
def planeOf (a y : Nat) : Nat := a >>> (320 * y) % 2 ^ 320

/-- Every lane of a plane rotated left by one. -/
def lanesLeft (v : Nat) : Nat := 2 * (v &&& laneOnes * (2 ^ 63 - 1)) + (v >>> 63 &&& laneOnes)

/-- θ: each plane takes the parities of the columns beside it. -/
def thetaStep (a : Nat) : Nat :=
  let c := (List.range 5).foldl (fun c y => c ^^^ planeOf a y) 0
  a ^^^ (rotL 320 c 64 ^^^ lanesLeft (rotR 320 c 64)) * ((2 ^ 1600 - 1) / (2 ^ 320 - 1))

/-- ρ and π along the walk that ρ takes from lane (1, 0): each lane is rotated by the next triangular number and put where π
sends it, which is the walk's next lane. -/
def walkLanes (a : Nat) : Nat → Nat → Nat → Nat
  | 0, _, _ => 0
  | n + 1, t, p =>
    let q := p / 5 + 5 * ((2 * (p % 5) + 3 * (p / 5)) % 5)
    rotL 64 (a >>> (64 * p) % 2 ^ 64) ((t + 1) * (t + 2) / 2 % 64) * 2 ^ (64 * q) + walkLanes a n (t + 1) q

/-- χ on a plane. -/
def chiPlane (v : Nat) : Nat := v ^^^ ((2 ^ 320 - 1 - rotR 320 v 64) &&& rotR 320 v 128)

/-- n rounds from a register value on. -/
def keccakRounds : Nat → Nat → Nat → Nat
  | 0, _, a => a
  | n + 1, r, a =>
    let t := thetaStep a
    let m := t % 2 ^ 64 + walkLanes t 24 0 1
    let k := iotaWord 7 r
    keccakRounds n k.2 (packWords 40 ((List.range 5).map fun y => chiPlane (planeOf m y)) ^^^ k.1)

/-- Keccak-f[1600] on 200 bytes. -/
def keccakF (st : Nat) : Nat := keccakRounds 24 1 (st % 2 ^ 1600)

/-! ## The algorithms of the hash unit (06, HASH encoding) -/

/-- Word bytes of a SHA-2 algorithm; 0 for SHA-3. -/
def hashWord : HashAlg → Nat
  | .sha224 | .sha256 => 4
  | .sha384 | .sha512 | .sha512t256 => 8
  | _ => 0

/-- State bytes. -/
def stateBytes (a : HashAlg) : Nat :=
  match hashWord a with
  | 0 => 200
  | n => 8 * n

/-- Block bytes, the rate for SHA-3. -/
def blockBytes : HashAlg → Nat
  | .sha224 | .sha256 => 64
  | .sha384 | .sha512 | .sha512t256 => 128
  | .sha3x224 => 144 | .sha3x256 => 136 | .sha3x384 => 104 | .sha3x512 => 72
  | .shake128 => 168 | .shake256 => 136

/-- Initial value of the state. -/
def initState (a : HashAlg) : Nat :=
  match a with
  | .sha224 => packWords 4 (iv384.map fun w => revBytes 4 (w % 2 ^ 32))
  | .sha256 => packWords 4 (iv512.map fun w => revBytes 4 (w >>> 32))
  | .sha384 => packWords 8 (iv384.map (revBytes 8))
  | .sha512 => packWords 8 (iv512.map (revBytes 8))
  | .sha512t256 => packWords 8 (iv512t256.map (revBytes 8))
  | _ => 0

/-- HABS: compress, or XOR the block into the rate and permute. -/
def absorb (a : HashAlg) (st blk : Nat) : Nat :=
  match hashWord a with
  | 0 => keccakF (st ^^^ blk)
  | wb => shaCompress wb st blk

/-- SHA-256 of n bytes of a value (FIPS 180-4), as 32 bytes. -/
def sha256 (n v : Nat) : Nat :=
  let blocks := (n + 8) / 64 + 1
  let pad := v % 2 ^ (8 * n) + 0x80 * 2 ^ (8 * n) + revBytes 8 (8 * n) * 2 ^ (8 * (64 * blocks - 8))
  (List.range blocks).foldl (fun h i => shaCompress 4 h (bytesOf pad (64 * i) 64)) (initState .sha256)

/-! ## CMAC and key derivation (08 R228) -/

/-- Doubling of a big-endian block, as CMAC's subkeys take it. -/
def cmacDbl (v : Nat) : Nat := revBytes 16 (xtsDbl (revBytes 16 v))

/-- CMAC of n bytes of a value under an AES key of nk words. -/
def cmacN (nk key n v : Nat) : Nat :=
  let k1 := cmacDbl (aesEnc nk key 0)
  let blocks := if n = 0 then 1 else (n + 15) / 16
  let whole := n ≠ 0 ∧ n % 16 = 0
  let m := v % 2 ^ (8 * n) + (if whole then 0 else 0x80 * 2 ^ (8 * n))
  let last := blocks - 1
  let c := (List.range last).foldl (fun c i => aesEnc nk key (c ^^^ bytesOf m (16 * i) 16)) 0
  aesEnc nk key (c ^^^ bytesOf m (16 * last) 16 ^^^ (if whole then k1 else cmacDbl k1))

/-- CMAC-AES-256. -/
def cmac256 (key n v : Nat) : Nat := cmacN 8 key n v

/-- Bytes of a text of ASCII letters. -/
def ascii (t : String) : List Nat := t.toList.map Char.toNat

/-- The SP 800-108 counter-mode derivation of 08 R228: `fixed` is the fixed input of n bytes that the rule describes, and
each block of output is CMAC of the 32-bit counter and it. -/
def kdfN (nk key n fixed outBytes : Nat) : Nat :=
  packWords 16 ((List.range ((outBytes + 15) / 16)).map fun i =>
    cmacN nk key (n + 4) (revBytes 4 (i + 1) + 2 ^ 32 * fixed)) % 2 ^ (8 * outBytes)

/-- The fixed input: label, a zero byte, context, output length in bits as four big-endian bytes (08 R228); its length and
its value. -/
def kdfInput (label ctx : List Nat) (outBytes : Nat) : Nat × Nat :=
  let l := label ++ [0] ++ ctx ++ unpackBytes 4 (revBytes 4 (8 * outBytes))
  (l.length, packBytes l)

/-- A key derived from a label, a context and an AES key of nk words. -/
def deriveN (nk key : Nat) (label ctx : List Nat) (outBytes : Nat) : Nat :=
  let f := kdfInput label ctx outBytes
  kdfN nk key f.1 f.2 outBytes

/-- A key derived under a 256-bit key. -/
def derive (key : Nat) (label ctx : List Nat) (outBytes : Nat) : Nat := deriveN 8 key label ctx outBytes

/-- SHA-384 or SHA-512 of the n low bytes of a value, digest bytes from the lowest up, d of them. -/
def shaWide (a : HashAlg) (d n v : Nat) : Nat :=
  let blocks := (n + 16) / 128 + 1
  let pad := v % 2 ^ (8 * n) + 0x80 * 2 ^ (8 * n) + revBytes 16 (8 * n) * 2 ^ (8 * (128 * blocks - 16))
  (List.range blocks).foldl (fun h i => shaCompress 8 h (bytesOf pad (128 * i) 128)) (initState a) % 2 ^ (8 * d)

/-- SHA-384. -/
def sha384 (n v : Nat) : Nat := shaWide .sha384 48 n v

end Machine
end Sys2Proof
end

