-- ==== Sys2Proof/Machine/Curve.lean ====
section
/-! DEFINITION. Modular and curve arithmetic of the standards that the manual names: FIPS 186-5 on short Weierstrass curves,
RFC 7748's X25519, RFC 8032's edwards25519 and the second generator that RFC 9380 gives (09, 10 R281, R284, 11 R311, R312). -/

namespace Sys2Proof
namespace Machine

/-! ## Modular arithmetic -/

/-- Power modulo m, by the n low bits of the exponent. -/
def powMod (m base e : Nat) : Nat → Nat
  | 0 => 1 % m
  | n + 1 =>
    let r := powMod m (base * base % m) (e / 2) n
    if e % 2 = 1 then base * r % m else r

/-- The coefficient of e in the Euclidean algorithm on m and e, by fuel. -/
def bezout : Nat → Nat → Nat → Int → Int → Int
  | 0, _, _, t0, _ => t0
  | n + 1, r0, r1, t0, t1 => if r1 = 0 then t0 else bezout n r1 (r0 % r1) t1 (t0 - (r0 / r1 : Nat) * t1)
/-- Inverse of e modulo m. -/
def invMod (e m : Nat) : Nat := (bezout 8192 m (e % m) 0 1 % (m : Int)).toNat

/-! ## Short Weierstrass curves y² = x³ + ax + b -/

/-- Sum of two points modulo p; none is the point at infinity. -/
def curveAdd (p a : Nat) (u v : Option (Nat × Nat)) : Option (Nat × Nat) :=
  match u, v with
  | none, r => r
  | r, none => r
  | some (x1, y1), some (x2, y2) =>
    if x1 = x2 ∧ (y1 + y2) % p = 0 then none
    else
      let top := if x1 = x2 then 3 * x1 * x1 + a else y2 + (p - y1)
      let low := if x1 = x2 then 2 * y1 else x2 + (p - x1)
      let l := top * invMod low p % p
      let x3 := (l * l + 2 * p - x1 - x2) % p
      some (x3, (l * (x1 + (p - x3)) + (p - y1)) % p)

/-- k times a point, by the bits of k from the lowest. -/
def curveMul (p a : Nat) : Nat → Nat → Option (Nat × Nat) → Option (Nat × Nat)
  | 0, _, _ => none
  | f + 1, k, u =>
    let r := curveMul p a f (k / 2) (curveAdd p a u u)
    if k % 2 = 1 then curveAdd p a r u else r

/-- A curve with its base point and the base point's order. -/
structure Curve where
  p : Nat
  a : Nat
  b : Nat
  g : Nat × Nat
  n : Nat

/-- The bits of a number. -/
def bitLength (v : Nat) : Nat := if v = 0 then 0 else Nat.log2 v + 1

/-- k times a point of a curve. -/
def Curve.mul (c : Curve) (k : Nat) (u : Option (Nat × Nat)) : Option (Nat × Nat) := curveMul c.p c.a (bitLength c.n + 1) k u

/-- Private key d's public point. -/
def Curve.pub (c : Curve) (d : Nat) : Nat × Nat := (c.mul d (some c.g)).getD (0, 0)

/-- The integer that ECDSA takes from a digest of some bits: its leftmost bits, as many as the order has. -/
def digestInt (c : Curve) (dbits h : Nat) : Nat := h / 2 ^ (dbits - bitLength c.n)

/-- ECDSA signature r, s of an integer z with nonce k (FIPS 186-5); zeros where the nonce gives none. -/
def Curve.sign (c : Curve) (d k z : Nat) : Nat × Nat :=
  let r := (c.pub k).1 % c.n
  (r, invMod k c.n * (z + r * d) % c.n)

/-- ECDSA verification of r, s on an integer z under a public point (FIPS 186-5). -/
def Curve.verify (c : Curve) (q : Nat × Nat) (z r s : Nat) : Bool :=
  let w := invMod s c.n
  0 < r && r < c.n && 0 < s && s < c.n
    && (match curveAdd c.p c.a (c.mul (z * w % c.n) (some c.g)) (c.mul (r * w % c.n) (some q)) with
        | some u => u.1 % c.n == r
        | none => false)

/-- P-384 (SP 800-186). -/
def p384 : Curve :=
  { p := 2 ^ 384 - 2 ^ 128 - 2 ^ 96 + 2 ^ 32 - 1
    a := 2 ^ 384 - 2 ^ 128 - 2 ^ 96 + 2 ^ 32 - 4
    b := 0xB3312FA7E23EE7E4988E056BE3F82D19181D9C6EFE8141120314088F5013875AC656398D8A2ED19D2A85C8EDD3EC2AEF
    g := (0xAA87CA22BE8B05378EB1C71EF320AD746E1D3B628BA79B9859F741E082542A385502F25DBF55296C3A545E3872760AB7,
          0x3617DE4A96262C6F5D9E98BF9292DC29F8F41DBD289A147CE9DA3113B5F0B8C00A60B1CE1D7E819D7A431D7C90EA0E5F)
    n := 0xFFFFFFFFFFFFFFFFFFFFFFFFFFFFFFFFFFFFFFFFFFFFFFFFC7634D81F4372DDF581A0DB248B0A77AECEC196ACCC52973 }

/-- A pair of numbers as 96 bytes, each 48 bytes big-endian: a public key's x and y, a signature's r and s. -/
def pairBytes (u : Nat × Nat) : Nat := revBytes 48 u.1 + fld (revBytes 48 u.2) 384

/-- The 96 bytes of a P-384 public key, and of a signature over a SHA-384 digest. -/
def p384Pub (d : Nat) : Nat := pairBytes (p384.pub d)
def p384Sign (d k digest : Nat) : Nat := pairBytes (p384.sign d k (revBytes 48 digest))

/-! ## Curve25519 (RFC 7748) -/

/-- 2²⁵⁵ − 19. -/
def p25519 : Nat := 2 ^ 255 - 19

/-- One step of the ladder of RFC 7748 on (X2 : Z2) and (X3 : Z3), whose difference is u. -/
def ladderStep (p a24 u : Nat) (q : (Nat × Nat) × (Nat × Nat)) : (Nat × Nat) × (Nat × Nat) :=
  let a := q.1.1 + q.1.2
  let b := q.1.1 + (p - q.1.2)
  let e := (a * a + (p - b * b % p)) % p
  let da := (q.2.1 + (p - q.2.2)) * a % p
  let cb := (q.2.1 + q.2.2) * b % p
  ((a * a * (b * b) % p, e * (a * a + a24 * e) % p),
   ((da + cb) * (da + cb) % p, u * ((da + (p - cb)) * (da + (p - cb))) % p))

/-- The projective u-coordinate of k times the point with u, over the bits of k from the highest of n. -/
def ladder (p a24 u k : Nat) : Nat → (Nat × Nat) × (Nat × Nat)
  | 0 => ((1, 0), (u, 1))
  | n + 1 =>
    let r := ladder p a24 u (k / 2) n
    if k % 2 = 1 then
      let t := ladderStep p a24 u (r.2, r.1)
      (t.2, t.1)
    else ladderStep p a24 u r

/-- A 32-byte X25519 private key clamped as RFC 7748 gives: bits 0 to 2 and 255 clear, bit 254 set. -/
def clamp (k : Nat) : Nat := k % 2 ^ 254 / 8 * 8 + 2 ^ 254

/-- X25519 of a private key and a u-coordinate. -/
def x25519 (k u : Nat) : Nat :=
  let q := (ladder p25519 121665 (u % 2 ^ 255 % p25519) (clamp k) 255).1
  q.1 * invMod q.2 p25519 % p25519

/-- X25519's public value of a private key. -/
def x25519Pub (k : Nat) : Nat := x25519 k 9

/-! ## edwards25519 (RFC 8032) -/

/-- A point in extended coordinates: X/Z, Y/Z, and T = XY/Z. -/
structure EdPoint where
  x : Nat
  y : Nat
  z : Nat
  t : Nat

/-- The constant d = −121665/121666. -/
def edD : Nat := 0x52036CEE2B6FFE738CC740797779E89800700A4D4141D8AB75EB4DCA135978A3

/-- The point of affine coordinates. -/
def edAffine (x y : Nat) : EdPoint := { x := x, y := y, z := 1, t := x * y % p25519 }
/-- The neutral element. -/
def edZero : EdPoint := edAffine 0 1
/-- The base point G. -/
def edBase : EdPoint :=
  edAffine 0x216936D3CD6E53FEC0A4E231FDD6DC5C692CC7609525A7B2C9562D608F25D51A
    0x6666666666666666666666666666666666666666666666666666666666666658
/-- H: hash_to_curve of RFC 9380, suite edwards25519_XMD:SHA-512_ELL2_RO_, tag "RWK-PEDERSEN-H-V1", empty message
(11, Shares and commitments). -/
def edSecond : EdPoint :=
  edAffine 0x0BAB37FD58047C64D56A2F1B3747EE0C8324AEF04CDE0B13A9B0F2DEE33B9A34
    0x0458F1D32C38D2731D5DE4115BE8164D5B10AA278D8B84DF9248A7ECAD1B128F

/-- Addition (RFC 8032, 5.1.4), complete on this curve. -/
def edAdd (u v : EdPoint) : EdPoint :=
  let p := p25519
  let a := (u.y + (p - u.x)) * (v.y + (p - v.x)) % p
  let b := (u.y + u.x) * (v.y + v.x) % p
  let c := u.t * 2 * edD * v.t % p
  let d := u.z * 2 * v.z % p
  let e := b + (p - a)
  let f := d + (p - c)
  let g := d + c
  let h := b + a
  { x := e * f % p, y := g * h % p, z := f * g % p, t := e * h % p }

/-- k times a point, over the n low bits of k. -/
def edMul : Nat → Nat → EdPoint → EdPoint
  | 0, _, _ => edZero
  | n + 1, k, u =>
    let r := edMul n (k / 2) (edAdd u u)
    if k % 2 = 1 then edAdd r u else r

/-- Two points are the same. -/
def edEq (u v : EdPoint) : Bool :=
  (u.x * v.z) % p25519 == (v.x * u.z) % p25519 && (u.y * v.z) % p25519 == (v.y * u.z) % p25519

/-- The 32-byte encoding of a point: y, with the low bit of x in bit 255. -/
def edEnc (u : EdPoint) : Nat :=
  let w := invMod u.z p25519
  u.y * w % p25519 + fld (u.x * w % p25519 % 2) 255

/-- The point that 32 bytes encode, if they encode one (RFC 8032, 5.1.3). -/
def edDec (v : Nat) : Option EdPoint :=
  let p := p25519
  let y := v % 2 ^ 255
  let u := (y * y + (p - 1)) % p
  let w := (edD * (y * y % p) + 1) % p
  let w3 := w * w * w % p
  let r := u * w3 * powMod p (u * w3 * w3 * w % p) ((p - 5) / 8) 255 % p
  let x0 := if w * r * r % p = u then some r
    else if (w * r * r + u) % p = 0 then some (r * powMod p 2 ((p - 1) / 4) 255 % p) else none
  match x0 with
  | none => none
  | some x =>
    let sign := v / 2 ^ 255 % 2
    if p ≤ y ∨ (x = 0 ∧ sign = 1) then none
    else some (edAffine (if x % 2 = sign then x else p - x) y)

/-- The order ℓ of the base point. -/
def ellOrder : Nat := 2 ^ 252 + 27742317777372353535851937790883648493

/-- The Pedersen commitment a·G + b·H (11, Shares and commitments). -/
def pedersen (a b : Nat) : EdPoint := edAdd (edMul 253 a edBase) (edMul 253 b edSecond)

end Machine
end Sys2Proof
end

