-- ==== Sys2Proof/Machine/Seal.lean ====
section
/-! DEFINITION. Sealing: fields laid out as bytes, AES-256-GCM, and CRC-32 (10 R280, R281, R293, 11 R337). -/

namespace Sys2Proof
namespace Machine

/-- The bytes of fields in order, each its width in bytes and its value, little-endian (00 R1). -/
def layBytes : List (Nat × Nat) → List Nat
  | [] => []
  | f :: r => unpackBytes f.1 f.2 ++ layBytes r

/-- Bytes of fields. -/
def layLen (l : List (Nat × Nat)) : Nat := l.foldl (fun n f => n + f.1) 0

/-! ## AES-256-GCM (SP 800-38D) -/

/-- Counter block i of a 12-byte nonce. -/
def gcmBlock (nonce i : Nat) : Nat := nonce % 2 ^ 96 + fld (revBytes 4 (i % 2 ^ 32)) 96

/-- Encryption and decryption: the bytes under the key stream of counters from 2. -/
def gcmCrypt (key nonce : Nat) (l : List Nat) : List Nat :=
  let stream := packWords 16 ((List.range (ceilDiv l.length 16)).map fun i => aesEnc 8 key (gcmBlock nonce (i + 2)))
  unpackBytes l.length (packBytes l ^^^ stream)

/-- GHASH under h goes on from y over bytes padded with zeros to whole blocks. -/
def ghashOn (h y : Nat) (l : List Nat) : Nat :=
  let v := packBytes l
  (List.range (ceilDiv l.length 16)).foldl (fun y i => ghMul (y ^^^ bytesOf v (16 * i) 16) h) y

/-- The 16-byte tag of a ciphertext and its additional data. -/
def gcmTag (key nonce : Nat) (aad ct : List Nat) : Nat :=
  let h := aesEnc 8 key 0
  let y := ghashOn h (ghashOn h 0 aad) ct
  let z := ghMul (y ^^^ (revBytes 8 (8 * aad.length) + fld (revBytes 8 (8 * ct.length)) 64)) h
  z ^^^ aesEnc 8 key (gcmBlock nonce 1)

/-! ## AES key wrap (RFC 3394), four 8-byte blocks under a 256-bit key -/

/-- The blocks after steps i + 1 of the list: check block, then the four. -/
def wrapSteps (key : Nat) : List Nat → Nat → List Nat → Nat × List Nat
  | [], a, r => (a, r)
  | t :: ts, a, r =>
    let b := aesEnc 8 key (a + fld (r.getD ((t - 1) % 4) 0) 64)
    wrapSteps key ts (b % 2 ^ 64 ^^^ revBytes 8 t) (r.set ((t - 1) % 4) (b / 2 ^ 64))

/-- The same, taken back. -/
def unwrapSteps (key : Nat) : List Nat → Nat → List Nat → Nat × List Nat
  | [], a, r => (a, r)
  | t :: ts, a, r =>
    let b := aesDec 8 key ((a ^^^ revBytes 8 t) + fld (r.getD ((t - 1) % 4) 0) 64)
    unwrapSteps key ts (b % 2 ^ 64) (r.set ((t - 1) % 4) (b / 2 ^ 64))

/-- The check block. -/
def wrapCheck : Nat := 0xA6A6A6A6A6A6A6A6

/-- 32 bytes wrapped: 40 bytes. -/
def keyWrap (key v : Nat) : Nat :=
  let w := wrapSteps key ((List.range 24).map (· + 1)) wrapCheck ((List.range 4).map fun i => bytesOf v (8 * i) 8)
  w.1 + fld (packWords 8 w.2) 64

/-- The 32 bytes of 40, when their check block is right. -/
def keyUnwrap (key v : Nat) : Option Nat :=
  let w := unwrapSteps key ((List.range 24).map fun i => 24 - i) (bytesOf v 0 8) ((List.range 4).map fun i => bytesOf v (8 + 8 * i) 8)
  if w.1 = wrapCheck then some (packWords 8 w.2) else none

/-! ## CRC-32 (IEEE 802.3) -/

/-- One bit of the remainder. -/
def crcStep (c : Nat) : Nat := if c % 2 = 1 then (c / 2) ^^^ 0xEDB88320 else c / 2

/-- CRC-32 with the IEEE 802.3 polynomial, least significant bit first, initial value and final complement all ones
(PRESUMED: the standard's form). -/
def crc32 (l : List Nat) : Nat :=
  (l.foldl (fun c b => (List.range 8).foldl (fun c _ => crcStep c) (c ^^^ b)) 0xFFFFFFFF) ^^^ 0xFFFFFFFF

end Machine
end Sys2Proof
end

