-- ==== Sys2Proof/Machine/Cellar.lean ====
section
/-! DEFINITION. Cellar, key cache and durability (08, 16): handles, records, the checks that name a key, reads with their
integrity failures, creation, deletion, the journal, images and backups, and the key store's commands. -/

namespace Sys2Proof
namespace Machine

/-! ## Handles and record types (R204 to R206) -/

/-- Fields of a handle. -/
def hType (h : Word) : Nat := bits h 63 56
def hGen (h : Word) : Nat := bits h 55 35
def hIx (h : Word) : Nat := bits h 34 10
def hSlice (h : Word) : Nat := bits h 9 0

/-- A handle of its fields. -/
def mkHandle (typ gen ix sl : Nat) : Word := BitVec.ofNat 64 (sl + fld ix 10 + fld gen 35 + fld typ 56)

/-- The handle of part 0 that a record line holds. -/
def recHandle (r : Rec) : Word := mkHandle r.typ.toNat r.gen r.index r.slice.val

/-- Parts of a type, bytes of each part, bytes of the last part. -/
def typeInfo (t : Nat) : Option (Nat × Nat × Nat) :=
  match t with
  | 0x01 => some (1, 16, 16) | 0x02 => some (1, 24, 24) | 0x03 => some (1, 32, 32) | 0x04 => some (2, 32, 32)
  | 0x05 => some (1, 32, 32) | 0x10 => some (1, 32, 32) | 0x11 => some (2, 32, 16) | 0x12 => some (1, 32, 32)
  | 0x18 => some (2, 32, 32) | 0x19 => some (3, 32, 32) | 0x20 => some (20, 32, 32) | 0x21 => some (30, 32, 32)
  | 0x22 => some (40, 32, 32) | 0x2A => some (17, 32, 4) | 0x30 => some (2, 32, 32) | 0x31 => some (48, 32, 32)
  | 0x38 => some (61, 32, 32) | 0x40 => some (1, 32, 32) | 0x41 => some (1, 32, 32)
  | _ => none

/-- The asymmetric types of 06 R175. -/
def asymmetric (t : Nat) : Bool := 0x10 ≤ t && t ≤ 0x3F

/-! ## The record table -/

/-- Number of indexes. -/
def indexCount : Nat := 33554432
/-- Highest generation. -/
def maxGen : Nat := 0x1FFFFF

/-- State and last generation of an index (R205). -/
def ixEntry (s : State) (ix : Nat) : IxState × Nat :=
  match tfind s.ks.table ix with
  | some p => p
  | none => if maxGen ≤ s.ks.genAdv then (.retired, maxGen) else (.free, s.ks.genAdv)

/-- An index is allocated. -/
def isAllocated (st : IxState) : Bool := st == .incomplete || st == .live || st == .lost

/-- A record that poison or loss keeps from use (R219, R221). -/
def unreadable (s : State) (ix : Nat) : Bool := s.ks.poisoned.contains ix || (ixEntry s ix).1 == .lost

/-- Part 0 of the allocated chain that a handle names, live or not. -/
def chainOf (s : State) (h : Word) : Option Rec :=
  match tfind s.ks.recs (hIx h) with
  | some r => if recHandle r = h ∧ r.part = 0 then some r else none
  | none => none

/-- Part 0 of the live record that a handle names (R208). -/
def liveRec (s : State) (h : Word) : Option Rec :=
  match chainOf s h with
  | some r => if r.complete && r.sliceGen.toNat == sliceGen s r.slice.val then some r else none
  | none => none

/-- Records a slice holds, chains counted in full, and of those the EPHEMERAL ones. -/
def sliceUse (s : State) (sl : Nat) : Nat :=
  sumOf (s.ks.recs.filter fun p => p.2.part == 0 && p.2.slice.val == sl) fun p => p.2.chainLen
def sliceEph (s : State) (sl : Nat) : Nat :=
  sumOf (s.ks.recs.filter fun p => p.2.part == 0 && p.2.slice.val == sl && p.2.ephemeral) fun p => p.2.chainLen

/-- The key epoch (R209). -/
def keyEpoch (s : State) : Nat := secNow s / 65536

/-! ## Custody groups as the key store sees them (11 R315, R316, R324) -/

/-- The group of a local number. -/
def groupOf (s : State) (k : Nat) : Option Group := tfind s.cu.groups k
/-- This module is an active holder of the group. -/
def holdsActive (g : Group) : Bool :=
  match g.own with
  | some p => p.active
  | none => false
/-- Confirmed share holder positions. -/
def confirmedOf (g : Group) : Nat := ((g.states.drop g.desc.h).filter (· == .confirmed)).length
/-- The group meets R316 for the use of its keys. -/
def groupUsable (s : State) (k : Nat) : Bool :=
  s.cu.member.isSome &&
    match groupOf s k with
    | some g => holdsActive g && g.desc.k ≤ confirmedOf g
    | none => false

/-! ## Key-level checks (01 R24, 06 R166 step 4) -/

/-- Time, domain and policy checks on a record named for a use. -/
def keyLevel (s : State) (r : Rec) (use : Nat) : Option Status :=
  if r.expiry ≠ 0 ∧ s.mode.time = .free then some .timeUntrusted
  else if (match r.group with
      | some k => !groupUsable s k.val
      | none => false) || (use == 7 && s.mode.lc == .production && (s.cu.member.isNone || s.mode.domain == .isolated)) then
    some .quorum
  else if !bit r.policy use || (r.expiry != 0 && r.expiry ≤ keyEpoch s) then some .policy
  else none

/-! ## The key cache (R216 to R218) -/

/-- Ways of a set that a slice's lines keep (SLT_KS_WAYS, values above 14 read as 14). -/
def minWays (s : State) (sl : Nat) : Nat := min 14 (rdF s (sltBase sl + 0x410) 3 0)

/-- Sum of the minimum ways of all slices. -/
def waysSum (s : State) : Nat :=
  sumOf (s.regs.filter fun p => among (sltBase 0 + 0x410) 0x800 1024 p.1) fun p => min 14 (bits p.2 3 0)

/-- The set of a line: a keyed hash that no rule prints (R216). -/
def cacheSetOf (s : State) (sl ix : Nat) : Nat :=
  Config.external 1 [s.bbram.startCount.toNat, s.keys.base.toNat, sl, ix] % 16384

/-- Lines of a set, most recently used first. -/
def cacheSet (s : State) (n : Nat) : List CacheLine := tget [] s.ks.cache n

/-- Store a set. -/
def setCache (s : State) (n : Nat) (l : List CacheLine) : State := { s with ks := { s.ks with cache := tput [] s.ks.cache n l } }

/-- A line holds a slice's record. -/
def sameLine (sl : Slice) (ix : Nat) (l : CacheLine) : Bool := l.slice == sl && l.ix == ix

/-- The record's line is in the key cache. -/
def cached (s : State) (sl : Slice) (ix : Nat) : Bool := (cacheSet s (cacheSetOf s sl.val ix)).any (sameLine sl ix)

/-- The line leaves the cache. -/
def cacheDrop (s : State) (sl : Slice) (ix : Nat) : State :=
  let n := cacheSetOf s sl.val ix
  setCache s n ((cacheSet s n).filter fun l => !sameLine sl ix l)

/-- The victim of a full set (R217): the least recently used line of a slice that holds more lines of the set than its
minimum. -/
def victim (s : State) (l : List CacheLine) : Option CacheLine :=
  match l.reverse.find? fun x => minWays s x.slice.val < (l.filter fun y => y.slice == x.slice).length with
  | some v => some v
  | none => l.getLast?

/-- The way that a fill takes: an invalid line's, the lowest, or the victim's. -/
def fillWay (s : State) (l : List CacheLine) : Nat :=
  match (List.range 16).find? fun w => !l.any fun x => x.way == w with
  | some w => w
  | none => match victim s l with
    | some v => v.way
    | none => 0

/-- Fill a line; its 48-bit fill count rises (R216). -/
def cacheFill (s : State) (sl : Slice) (ix : Nat) : State :=
  let n := cacheSetOf s sl.val ix
  let l := (cacheSet s n).filter fun x => !sameLine sl ix x
  let w := fillWay s l
  let s1 := setCache s n (⟨sl, ix, w⟩ :: l.filter fun x => x.way != w)
  let c := tget 0 s1.ks.fillCnt (16 * n + w) + 1
  { s1 with ks := { s1.ks with fillCnt := tput 0 s1.ks.fillCnt (16 * n + w) (c % 2 ^ 48) } }

/-- A hit makes the line the most recently used. -/
def cacheTouch (s : State) (sl : Slice) (ix : Nat) : State :=
  let n := cacheSetOf s sl.val ix
  let l := cacheSet s n
  setCache s n (l.filter (sameLine sl ix) ++ l.filter fun x => !sameLine sl ix x)

/-! ## Integrity failures (R219, R221, 16 R441) -/

/-- Count, flag and record an integrity event: kind 0 MAC failure, 1 uncorrectable, 2 corrected; scope as 17 R519 codes it. -/
def integ (s : State) (kind first scope : Nat) : State :=
  let hi := if kind = 0 then 63 else if kind = 1 then 47 else 31
  let lo := if kind = 0 then 48 else if kind = 1 then 32 else 0
  evtRec (cntUp s 0x40040 hi lo) 4 kind (srcWord 0 0) (first + fld scope 32)

/-- The DRAM row of a line; the manual gives no row size (16 R441). -/
def rowOf (ix : Nat) : Nat := Config.external 2 [ix]

/-- The leaf nodes' lines follow the record lines (08, Cellar layout). -/
def leafRow (ix : Nat) : Nat := indexCount + ix / 64

/-- A line of a row reported a correctable error; the sixteenth distinct line spares the row (16 R441). -/
def rowCorrected (s : State) (ix : Nat) : State :=
  let w := rowOf ix
  let l := tget [] s.ks.rows w
  let l1 := if l.contains ix then l else ix :: l
  if s.ks.spared.contains w then s
  else if 16 ≤ l1.length then { s with ks := { s.ks with rows := tdel s.ks.rows w, spared := w :: s.ks.spared } }
  else { s with ks := { s.ks with rows := tput [] s.ks.rows w l1 } }

/-- An uncorrectable error spares the row at once. -/
def rowUncorrectable (s : State) (ix : Nat) : State :=
  let w := rowOf ix
  if s.ks.spared.contains w then s
  else { s with ks := { s.ks with rows := tdel s.ks.rows w, spared := w :: s.ks.spared } }

/-- A record is lost: its index, the event, the attic entry with its handle (R221). -/
def markLost (s : State) (ix : Nat) (r : Rec) : State :=
  evtRec { s with ks := { s.ks with
      table := tins s.ks.table ix (.lost, (ixEntry s ix).2), poisoned := s.ks.poisoned.filter (· != ix) } }
    4 4 (srcWord 0 0) (recHandle r).toNat

/-- Poison one record; an EPHEMERAL one is lost at once (R219, R221). -/
def poisonRec (s : State) (p : Nat × Rec) : State :=
  if unreadable s p.1 then s
  else if p.2.ephemeral then markLost s p.1 p.2
  else { s with ks := { s.ks with poisoned := s.ks.poisoned ++ [p.1] } }

/-- Poison the records of indexes first to first + n − 1; a span of several blocks is restored in index order (R220). -/
def poisonSpan (s : State) (first n : Nat) : State :=
  let s1 := if 64 < n then { s with ks := { s.ks with wide := (first, n) :: s.ks.wide } } else s
  (s.ks.recs.filter fun p => first ≤ p.1 && p.1 < first + n).foldl poisonRec s1

/-- First index of the scope of n indexes around ix. -/
def scopeOf (ix n : Nat) : Nat := ix / n * n

/-- Indexes under a node of level 2, 3 or 4 (R214). -/
def nodeSpan (l : Fin 3) : Nat := 64 ^ (l.val + 2)

/-- An on-die node over indexes first to first + n − 1 reads with an uncorrectable error. -/
def nodeFails (s : State) (first n : Nat) : State := poisonSpan (integ s 1 first 3) first n

/-- A fill of a record from cellar DRAM: what its line, its leaf node and the nodes above show (R219). -/
def cellarFill (s : State) (sl : Slice) (ix : Nat) : CellarRead → State
  | .clean => cacheFill s sl ix
  | .corrected => cacheFill (rowCorrected (integ s 2 ix 1) ix) sl ix
  | .leafCorrected => cacheFill (rowCorrected (integ s 2 (scopeOf ix 64) 2) (leafRow ix)) sl ix
  | .lineError => poisonSpan (rowUncorrectable (integ s 1 ix 1) ix) ix 1
  | .lineMac => poisonSpan (integ s 0 ix 1) ix 1
  | .leafError => poisonSpan (rowUncorrectable (integ s 1 (scopeOf ix 64) 2) (leafRow ix)) (scopeOf ix 64) 64
  | .leafMac => poisonSpan (integ s 0 (scopeOf ix 64) 2) (scopeOf ix 64) 64
  | .nodeError l => nodeFails (memUE s 9 1) (scopeOf ix (nodeSpan l)) (nodeSpan l)
  | .cacheError refetch => cellarFill s sl ix refetch

/-- Read a record over the key-cache and cellar path (R168, R215 to R219). -/
def cellarRead (s : State) (sl : Slice) (ix : Nat) (read : CellarRead) : State :=
  if unreadable s ix then s
  else if cached s sl ix then
    match read with
    | .cacheError refetch =>
      cellarFill (integ (memUE (cntUp (cacheDrop s sl ix) 0x40038 63 32) 4 1) 1 ix 4) sl ix refetch
    | .corrected => cacheTouch (memCE (cntUp s 0x40038 31 0) 4 1) sl ix
    | _ => cacheTouch (cntUp s 0x40038 31 0) sl ix
  else cellarFill (cntUp s 0x40038 63 32) sl ix read

/-! ## The counter tree (R214) -/

/-- Key of child c at a level: 0 records under leaf nodes, then nodes under levels 2, 3 and 4. -/
def childKey (level c : Nat) : Nat := level * 2 ^ 26 + c

/-- Raise the counter of child c of a level; a minor counter that wraps raises the node's major and starts the
re-encryption of its 64 children. -/
def bumpChild (s : State) (level c : Nat) : State :=
  let m := tget 0 s.ks.minors (childKey level c) + 1
  if m < 128 then { s with ks := { s.ks with minors := tput 0 s.ks.minors (childKey level c) m } }
  else
    let node := c / 64
    { s with ks := { s.ks with
        minors := tput 0 (tclear s.ks.minors (childKey level (64 * node)) 64) (childKey level c) 1
        majors := tput 0 s.ks.majors (childKey level node) (tget 0 s.ks.majors (childKey level node) + 1)
        reenc := s.ks.reenc ++ [(level, node, tget 0 s.ks.majors (childKey level node))] } }

/-- Raise the Root's counter of level-4 node c. -/
def bumpRoot (s : State) (c : Nat) : State :=
  { s with ks := { s.ks with roots := tput 0 s.ks.roots c (tget 0 s.ks.roots c + 1) } }

/-- A record line is written under a fresh counter, up the tree to the Root. -/
def bumpCounter (s : State) (ix : Nat) : State :=
  bumpRoot (bumpChild (bumpChild (bumpChild (bumpChild s 0 ix) 1 (ix / 64)) 2 (ix / 4096)) 3 (ix / 262144))
    (ix / 16777216)

/-- NODE_REENCRYPTION_DONE (R214): the background re-encryption ends and the old major stops being valid. -/
def execNodeReencryptionDone (level : Fin 4) (node : Nat) (s : State) : Result :=
  go { s with ks := { s.ks with reenc := s.ks.reenc.eraseP fun r => r.1 == level.val && r.2.1 == node } }

/-! ## The journal (R222, 16 R457, R458) -/

/-- Logical pages of the journal area: every page stands twice, and a block retired without a spare takes its pages out. -/
def journalPages (s : State) : Nat := 65536 - 32 * rdF s 0xC0218 63 48

/-- The journal cannot take a change (16 R458). -/
def journalFull (s : State) : Bool := 16384 ≤ s.ks.buffer.length || journalPages s ≤ s.ks.durable.length

/-- A change of index ix enters the journal buffer, with the index's table word and line as they stand. -/
def journal (s : State) (ix : Nat) : State :=
  let e := ixEntry s ix
  { s with ks := { s.ks with buffer := s.ks.buffer ++ [⟨ix, e.1, e.2, tfind s.ks.recs ix, runNow s, s.ks.starts⟩] } }

/-- A change of a record is journaled unless the record is EPHEMERAL. -/
def journalOf (s : State) (eph : Bool) (ix : Nat) : State := if eph then s else journal s ix

/-- A creation that the journal's lack of room refuses sets EC_EVT.JRNL_FULL. -/
def journalRefused (s : State) : State := evt s 12 8

/-! ## Creation (R209 to R211) -/

/-- A record template (08, Templates and KEYPUT). -/
structure Tmpl where
  typ     : Nat
  part    : Nat
  chainM1 : Nat
  matLen  : Nat
  policy  : Byte
  flags   : Nat
  grp     : Nat
  expiry  : Nat
  rsvd    : Nat
  handle  : Word
  tail    : Nat

/-- The template in 64 bytes. -/
def tmplOf (v : Nat) : Tmpl :=
  { typ := byteOf v 0, part := byteOf v 1, chainM1 := byteOf v 2, matLen := byteOf v 3, policy := BitVec.ofNat 8 (byteOf v 4),
    flags := byteOf v 5, grp := bytesOf v 6 2, expiry := bytesOf v 8 4, rsvd := bytesOf v 12 4,
    handle := BitVec.ofNat 64 (bytesOf v 16 8), tail := bytesOf v 24 40 }

/-- EPHEMERAL and IMPORTED of a template. -/
def Tmpl.eph (t : Tmpl) : Bool := t.flags / 2 % 2 == 1
def Tmpl.imported (t : Tmpl) : Bool := t.flags / 4 % 2 == 1
/-- The custody group of a template, with GROUP_VALID set. -/
def Tmpl.group (t : Tmpl) : Option (Fin 4096) :=
  if t.grp / 2 ^ 15 = 1 then some ⟨t.grp % 4096, Nat.mod_lt _ (by decide)⟩ else none

/-- Who asks for a record: KEYPUT of a routine, the key store's users among the service operations, custody logic, routine
0050h (R210 step 1). -/
inductive Origin | routine | custody | transport
deriving DecidableEq, Repr

/-- Step 1 of R210. -/
def formOk (o : Origin) (t : Tmpl) : Bool :=
  match typeInfo t.typ with
  | none => false
  | some (n, len, last) =>
    t.flags % 2 == 0 && t.flags < 8 && t.rsvd == 0 && t.tail == 0 && t.grp / 4096 % 8 == 0
      && (t.part != 0 || t.handle == 0)
      && (t.typ != 0x40 || o == .custody) && (t.typ != 0x41 || o == .transport)
      && t.chainM1 + 1 == n && t.part < n && t.matLen == (if t.part + 1 = n then last else len)

/-- Step 5 of R210: membership in PRODUCTION; with GROUP_VALID, the group's active holder and domain status (01 R21). -/
def creationQuorum (s : State) (t : Tmpl) : Bool :=
  (s.mode.lc == .production && s.cu.member.isNone) ||
    match t.group with
    | some k => !groupUsable s k.val || s.mode.domain == .isolated
    | none => false

/-- The group is bound to the slice (11 R315). -/
def boundTo (s : State) (k : Nat) (sl : Slice) : Bool :=
  match groupOf s k with
  | some g => g.bound == some sl
  | none => false

/-- Step 6 of R210, with 11 R315. -/
def creationPolicy (s : State) (sl : Slice) (t : Tmpl) : Bool :=
  let gv := t.group.isSome
  let export_ := bit t.policy 7
  (s.mode.lc == .test || s.mode.lc == .production) && t.policy != 0
    && (t.expiry == 0 || keyEpoch s < t.expiry)
    && (t.eph || gv || s.mode.lc != .production)
    && !(t.eph && (gv || export_)) && (!export_ || gv)
    && !(s.mode.lc == .test && (gv || export_))
    && (match t.group with
        | some k => boundTo s k.val sl
        | none => true)

/-- The record quota of a slice. -/
def quotaOf (s : State) (sl : Nat) : Nat := rdF s (sltBase sl + 0x400) 25 0

/-- A free run of n indexes from ix, inside one block of 64 (R209). -/
def runFree (s : State) (ix n : Nat) : Bool :=
  ix + n ≤ indexCount && ix / 64 == (ix + n - 1) / 64 && (List.range n).all fun i => (ixEntry s (ix + i)).1 == .free

/-- A free run: the one picked where it is free, else the lowest (the manual leaves the choice open). -/
def findRun (s : State) (n pick : Nat) : Option Nat :=
  if runFree s pick n then some pick
  else
    ((List.range (min 524288 (s.ks.table.length + 1))).findSome? fun b =>
      (List.range (65 - n)).findSome? fun i => if runFree s (64 * b + i) n then some (64 * b + i) else none)

/-- The generation of a chain allocated at ix (R205). -/
def newGen (s : State) (ix n : Nat) : Nat :=
  (List.range n).foldl (fun g i => max g ((ixEntry s (ix + i)).2 + 1)) (rdF s 0x40058 20 0)

/-- The indexes of a chain take a state and a generation. -/
def setRun (s : State) (ix n : Nat) (st : IxState) (gen : Nat) : State :=
  { s with ks := { s.ks with table := (List.range n).foldl (fun t i => tins t (ix + i) (st, gen)) s.ks.table } }

/-- Store a record line at an index under a fresh counter. -/
def putRec (s : State) (ix : Nat) (r : Rec) : State :=
  let s1 := { s with ks := { s.ks with recs := tins s.ks.recs ix r } }
  bumpCounter s1 ix

/-- Every part of the chain at r.index is written. -/
def chainWhole (s : State) (r : Rec) : Bool := (List.range r.chainLen).all fun i => (tfind s.ks.recs (r.index + i)).isSome

/-- COMPLETE is set once the last unwritten part is written (R211). -/
def completeChain (s : State) (ix : Nat) : State :=
  match tfind s.ks.recs ix with
  | some r0 =>
    if chainWhole s r0 && !r0.complete then
      let s1 := putRec (setRun s ix r0.chainLen .live r0.gen) ix { r0 with complete := true }
      journalOf s1 r0.ephemeral ix
    else s
  | none => s

/-- Material of a part, zero beyond its length. -/
def material (len : Nat) (mat : Key256) : Key256 := BitVec.ofNat 256 (mat.toNat % 2 ^ (8 * len))

/-- Write one part of a chain whose part 0 stands, or will stand, at index ix. -/
def writePart (s : State) (sl : Slice) (t : Tmpl) (ix gen : Nat) (mat : Key256) (bornRun : Nat) : State :=
  let r : Rec := { typ := BitVec.ofNat 8 t.typ, gen := gen, index := ix, slice := sl, part := t.part, chainLen := t.chainM1 + 1,
                   matLen := t.matLen, sliceGen := BitVec.ofNat 6 (sliceGen s sl.val), policy := t.policy,
                   test := s.mode.lc == .test, ephemeral := t.eph, imported := t.imported, complete := false,
                   group := t.group, expiry := t.expiry, created := tbNow s, mat := material t.matLen mat, bornRun := bornRun }
  completeChain (journalOf (putRec s (ix + t.part) r) t.eph (ix + t.part)) ix

/-- Steps 4 to 6 of R210. -/
def creationChecks (s : State) (sl : Slice) (t : Tmpl) : Option Status :=
  if t.expiry ≠ 0 ∧ s.mode.time = .free then some .timeUntrusted
  else if creationQuorum s t then some .quorum
  else if !creationPolicy s sl t then some .policy
  else none

/-- Allocate and write part 0, when steps 1 to 6 have passed (R205, R209, R210 step 7, 16 R458). -/
def createFirst (s : State) (sl : Slice) (t : Tmpl) (mat : Key256) (pick : Nat) : State × Except Status Word :=
  let n := t.chainM1 + 1
  if quotaOf s sl.val < sliceUse s sl.val + n then (s, .error .quota)
  else if !t.eph && journalFull s then (journalRefused s, .error .quota)
  else
    match findRun s n pick with
    | none => (s, .error .quota)
    | some ix =>
      let g := newGen s ix n
      let s1 := setRun { s with ks := { s.ks with fresh := false } } ix n .incomplete g
      (writePart s1 sl t ix g mat (runNow s), .ok (mkHandle t.typ g ix sl.val))

/-- A later part agrees with part 0 and is not yet written (R210 step 3). -/
def laterOk (s : State) (t : Tmpl) (r0 : Rec) : Bool :=
  r0.typ.toNat == t.typ && r0.policy == t.policy && r0.ephemeral == t.eph && r0.imported == t.imported
    && r0.group == t.group && r0.expiry == t.expiry && (tfind s.ks.recs (r0.index + t.part)).isNone

/-- KEYPUT as the key store decides it (R210, R211): a template, the material, the read of part 0 where one is made. -/
def keyStorePut (s : State) (o : Origin) (sl : Slice) (t : Tmpl) (mat : Key256) (rd0 : CellarRead) (pick : Nat) :
    State × Except Status Word :=
  if !formOk o t then (s, .error .malformed)
  else if t.part = 0 then
    match creationChecks s sl t with
    | some st => (s, .error st)
    | none => createFirst s sl t mat pick
  else
    match chainOf s t.handle with
    | none => (s, .error .noKey)
    | some r0 =>
      if r0.complete || r0.slice != sl then (s, .error .noKey)
      else
        let s1 := cellarRead s sl r0.index rd0
        if unreadable s1 r0.index then (s1, .error .poison)
        else if !laterOk s1 t r0 then (s1, .error .malformed)
        else
          match creationChecks s1 sl t with
          | some st => (s1, .error st)
          | none =>
            if !t.eph && journalFull s1 then (journalRefused s1, .error .quota)
            else (writePart s1 sl t r0.index r0.gen mat r0.bornRun, .ok t.handle)

/-- Create a whole chain of parts at once, for an operation that makes the record itself (09 R249, 11 R314). -/
def createChain (s : State) (o : Origin) (sl : Slice) (t : Tmpl) (mats : List Key256) (pick : Nat) :
    State × Except Status Word :=
  let parts := (List.range (t.chainM1 + 1)).zip mats
  parts.foldl (fun a (p : Nat × Key256) =>
    match a.2 with
    | .error st => (a.1, .error st)
    | .ok h =>
      let info := typeInfo t.typ
      let len := match info with
        | some (n, l, last) => if p.1 + 1 = n then last else l
        | none => 0
      keyStorePut a.1 o sl { t with part := p.1, matLen := len, handle := if p.1 = 0 then 0 else h } p.2 .clean pick)
    (s, .ok 0)

/-! ## Deletion and restriction (R205, R208, R215, R226) -/

/-- Free one index; the index is retired when its next generation would exceed 1FFFFFh. -/
def freeIndex (s : State) (sl : Slice) (ix gen : Nat) : State :=
  let st := if maxGen ≤ gen then IxState.retired else .free
  cacheDrop { s with ks := { s.ks with
    table := tins s.ks.table ix (st, gen), recs := tdel s.ks.recs ix, poisoned := s.ks.poisoned.filter (· != ix) } } sl ix

/-- Delete a chain by its part 0. -/
def deleteChain (s : State) (r : Rec) : State :=
  (List.range r.chainLen).foldl
    (fun s i => journalOf (freeIndex s r.slice (r.index + i) r.gen) r.ephemeral (r.index + i)) s

/-- Clear policy bits in one part. -/
def restrictPart (clear : Byte) (s : State) (ix : Nat) : State :=
  match tfind s.ks.recs ix with
  | some r => journalOf (putRec s ix { r with policy := r.policy &&& ~~~clear }) r.ephemeral ix
  | none => s

/-- Clear policy bits in every part of a chain, part 0 last. -/
def restrictChain (s : State) (r : Rec) (clear : Byte) : State :=
  ((List.range r.chainLen).map fun i => r.index + i).reverse.foldl (restrictPart clear) s

/-- CHAIN_EXPIRY (R212): a chain still incomplete one second after its part 0 is deleted. -/
def execChainExpiry (ix : Nat) (s : State) : Result :=
  match tfind s.ks.recs ix with
  | none => go s
  | some r =>
    if r.part = 0 ∧ r.complete = false ∧ r.bornRun + beatsPerSec ≤ runNow s then
      go (evtRec (deleteChain s r) 4 6 (srcWord 0 0) (recHandle r).toNat)
    else go s

/-! ## Record lines (R207) -/

/-- Bytes 0 to 31 of a record line. -/
def recHead (r : Rec) : List Nat :=
  unpackBytes 8 (recHandle r).toNat ++ [r.part, r.chainLen - 1, r.matLen, r.sliceGen.toNat, r.policy.toNat,
    b2n r.test + 2 * b2n r.ephemeral + 4 * b2n r.imported + 8 * b2n (r.complete && r.part == 0)]
    ++ unpackBytes 2 (match r.group with
        | some k => 2 ^ 15 + k.val
        | none => 0)
    ++ unpackBytes 4 r.expiry ++ unpackBytes 8 r.created.toNat ++ unpackBytes 4 0

/-- The 64 bytes of a record line as a number. -/
def recLine (r : Rec) : Nat := packBytes (recHead r) + fld r.mat.toNat 256

/-! ## Backups (11 R337 to R339) -/

/-- Slots of a ring whose configuration word stands at an offset (10 R287, 11): 16 × 2^SIZE, SIZE at most 8. -/
def ringSize (s : State) (cfg : Nat) : Nat := 16 * 2 ^ min 8 (rdF s cfg 3 0)
/-- A ring is enabled. -/
def ringOn (s : State) (cfg : Nat) : Bool := rdF s cfg 8 8 == 1
/-- A ring whose pointers stand at an offset has no free slot. -/
def ringFull (s : State) (cfg ptr : Nat) : Bool :=
  (rdF s ptr 11 0 + 1) % ringSize s cfg == rdF s ptr 43 32 % ringSize s cfg

/-- K of an active holder: the material of its type 40h record. -/
def groupKey (s : State) (g : Group) : Option Key256 :=
  match g.key with
  | some h => (chainOf s h).map fun r => r.mat
  | none => none

/-- The backup key of a member for a group and generation (R338). -/
def backupKey (k : Key256) (group member gen : Nat) : Nat :=
  derive k.toNat (ascii "RWK-BACKUP") (layBytes [(8, group), (4, member), (4, gen)]) 32

/-- The 64 bytes before a backup's record lines (R337). -/
def backupLead (group member gen handle time nonce parts : Nat) : List Nat :=
  layBytes [(4, 0x424B5752), (2, 1), (1, 1), (1, parts), (8, group), (4, member), (4, gen), (8, handle), (8, time), (12, nonce), (12, 0)]

/-- The record lines of a chain, 64 bytes each. -/
def chainLines (s : State) (r : Rec) : List Nat :=
  (List.range r.chainLen).flatMap fun i => unpackBytes 64 (match tfind s.ks.recs (r.index + i) with
    | some q => recLine q
    | none => 0)

/-- A backup as it is written: header, sealed lines, tag (R337). -/
def backupBytes (key nonce : Nat) (head lines : List Nat) : List Nat :=
  let ct := gcmCrypt key nonce lines
  head ++ ct ++ unpackBytes 16 (gcmTag key nonce head ct)

/-- A backup of the chain at index ix is written at CU_BK_PTR.TAIL; the key generation rises before the 2³²-th backup under
one key (R338). -/
def writeBackup (s : State) (r : Rec) (k : Nat) (g : Group) : State :=
  let turn := g.bkCount + 1 == 4294967296
  let gen := if turn then g.bkGen + 1 else g.bkGen
  let g1 := { g with bkGen := gen, bkCount := if turn then 1 else g.bkCount + 1 }
  let slot := rdF s 0x61210 11 0
  let d := draw 96 s
  let num := (s.cu.member.getD 0).val
  let id := g.desc.group.toNat
  let bytes := backupBytes (backupKey ((groupKey s g).getD 0) id num gen) d.1.toNat
    (backupLead id num gen (recHandle r).toNat (tbNow s).toNat d.1.toNat r.chainLen) (chainLines s r)
  let s1 := { d.2 with out := .backup slot (recHandle r) gen bytes :: s.out, cu := { s.cu with groups := tins s.cu.groups k g1 } }
  cntUp (wrF s1 0x61210 11 0 ((slot + 1) % ringSize s 0x61208)) 0x61230 31 0

/-- A backup waits in the pending list, or the list is full, BK_LAG is set and the list dropped (R339). -/
def holdBackup (s : State) (ix : Nat) : State :=
  if s.cu.pendBk.contains ix then s
  else if 65536 ≤ s.cu.pendBk.length then
    gevtRec (wrF { s with cu := { s.cu with pendBk := [] } } 0x61000 45 45 1) 7 (srcWord 0 0) 0
  else { s with cu := { s.cu with pendBk := s.cu.pendBk ++ [ix] } }

/-- BACKUP_EMIT (R337): of the chain whose part 0 stands at ix, when this module is an active holder of its group. -/
def emitBackup (s : State) (ix : Nat) : State :=
  match tfind s.ks.recs ix with
  | none => s
  | some r =>
    match r.group with
    | none => s
    | some k =>
      match groupOf s k.val with
      | none => s
      | some g =>
        if holdsActive g && r.complete && r.part == 0 && r.typ != 0x40 then
          if ringOn s 0x61208 && !ringFull s 0x61208 0x61210 && canIssue s true then writeBackup s r k.val g
          else holdBackup s ix
        else s

/-- Backups that wait are written while the ring has room. -/
def drainBackups (s : State) : State :=
  let waiting := s.cu.pendBk
  waiting.foldl emitBackup { s with cu := { s.cu with pendBk := [] } }

/-! ## Images (R223, 16 R448, R449) -/

/-- The copy that does not hold the current image. -/
def otherCopy (s : State) : Bool :=
  match s.ks.image with
  | some i => !i.copy
  | none => false

/-- An image is being written. -/
def imgBusy (s : State) : Bool := s.ks.building.isSome

/-- Begin a new image: records and table as they stand without EPHEMERAL records, whose indexes count as free, and the
journal mark. -/
def beginImage (s : State) : State :=
  let keep := s.ks.recs.filter fun p => !p.2.ephemeral
  let ephIx := fun ix => s.ks.recs.any fun p => p.2.ephemeral && p.2.part == 0 && p.2.index ≤ ix && ix < p.2.index + p.2.chainLen
  let im : CellarImage :=
    { seq := (match s.ks.image with
        | some i => i.seq + 1
        | none => 1)
      maxGen := s.ks.table.foldl (fun m p => max m p.2.2) 0
      tgen := BitVec.ofNat 32 (rdF s 0x40068 31 0)
      table := s.ks.table.map fun p => (p.1, (if ephIx p.1 then IxState.free else p.2.1, p.2.2))
      recs := keep, adv := s.ks.genAdv, starts := s.ks.starts, copy := otherCopy s }
  { s with ks := { s.ks with building := some (im, s.ks.durable.length), older := none } }

/-- The copy's area has lost a block without a spare, so that a new image is refused (16 R455). -/
def imageRefused (s : State) : Bool := rdF s (if otherCopy s then 0xC0210 else 0xC0208) 63 48 != 0

/-- A new image begins when the journal holds KS_CFG.JRNL_PAGES pages (R223). -/
def imageDue (s : State) : State :=
  if max 1 (rdF s 0x40010 15 0) ≤ s.ks.durable.length && !imgBusy s && !imageRefused s then beginImage s else s

/-! ## Commands (R226) -/

/-- A key-store command is done. -/
def ksDone (s : State) (st : Status) : State := evt (wr s 0x40020 (BitVec.ofNat 64 (stCode st))) 4 9

/-- KS_CMD_ARG. -/
def ksArg (s : State) : Word := rd s 0x40028

/-- The status of a command that names a chain (R226, OP 1h and 3h). -/
def chainCmd (s : State) (f : Rec → State) : State :=
  match chainOf s (ksArg s) with
  | none => ksDone s .noKey
  | some r => if r.typ = 0x40 then ksDone s .policy else ksDone (f r) .done

/-- Chains of a slice whose slice generation is stale (OP 2h). -/
def staleChains (s : State) (sl : Nat) : List Rec :=
  (s.ks.recs.filter fun p => p.2.part == 0 && p.2.slice.val == sl && p.2.sliceGen.toNat != sliceGen s sl).map fun p => p.2

/-- The action of a command. -/
def ksAct (s : State) (op sl : Nat) (clear : Byte) : State :=
  match op with
  | 1 => chainCmd s fun r => deleteChain s r
  | 2 => ksDone ((staleChains s sl).foldl deleteChain s) .done
  | 3 => chainCmd s fun r => restrictChain s r clear
  | 4 => if imgBusy s || imageRefused s then ksDone s .malformed else ksDone (beginImage s) .done
  | 5 => ksDone (wrF s 0x40068 31 0 (rdF s 0x40068 31 0 + 1)) .done
  | _ => ksDone s .malformed

/-- Whether a command makes changes that the journal must take. -/
def ksJournals (op : Nat) : Bool := op == 1 || op == 2 || op == 3

/-- KS_STATUS.RESTORED and KS_CMD_STS.BUSY. -/
def ksRestored (s : State) : Bool := rdF s 0x40000 0 0 == 1
def ksBusy (s : State) : Bool := s.ks.cmd.isSome

/-- A write to KS_CMD (R226, 16 R458): a command waits, BUSY set, while the journal has no room. -/
def ksCommand (s : State) (op : Nat) (sl : Slice) (clear : Byte) : State :=
  if ksBusy s || !ksRestored s then evt s 4 10
  else if isLocked s then ksDone s .locked
  else if ksJournals op && journalFull s then
    journalRefused (wrF { s with ks := { s.ks with cmd := some ⟨op, sl, clear⟩ } } 0x40020 16 16 1)
  else ksAct s op sl.val clear

/-- A command that waited for the journal goes on when there is room. -/
def ksResume (s : State) : State :=
  match s.ks.cmd with
  | some c => if journalFull s then s else ksAct { s with ks := { s.ks with cmd := none } } c.op c.slice.val c.clear
  | none => s

/-- KS_DELETE (R226). -/
def execKsDelete (s : State) : Result :=
  managerWrite s 0x40018 fun s => ksCommand s 1 0 0
/-- KS_PURGE (R226). -/
def execKsPurge (sl : Slice) (s : State) : Result :=
  managerWrite s 0x40018 fun s => ksCommand s 2 sl 0
/-- KS_RESTRICT (R226). -/
def execKsRestrict (clear : Byte) (s : State) : Result :=
  managerWrite s 0x40018 fun s => ksCommand s 3 0 clear
/-- KS_NEW_IMAGE (R226). -/
def execKsNewImage (s : State) : Result :=
  managerWrite s 0x40018 fun s => ksCommand s 4 0 0
/-- KS_GEN_BASE write (R225). -/
def genBaseCmd (s : State) (val : Word) : State :=
  if s.ks.fresh && rdF s 0x40058 20 0 ≤ bits val 20 0 then wrF s 0x40058 20 0 (bits val 20 0) else s

/-- GEN_BASE_WRITE (R225). -/
def execGenBaseWrite (val : Word) (s : State) : Result :=
  managerWrite s 0x40058 fun s => genBaseCmd s val

/-- SLT_KS_WAYS write (R218). -/
def waysCmd (s : State) (sl : Nat) (val : Word) : State :=
  if 14 < waysSum s - minWays s sl + min 14 (bits val 3 0) then evt s 4 5
  else wrF s (sltBase sl + 0x410) 3 0 (bits val 3 0)

/-- WAYS_WRITE (R218). -/
def execWaysWrite (sl : Slice) (val : Word) (s : State) : Result :=
  managerWrite s (sltBase sl.val + 0x410) fun s => waysCmd s sl.val val

/-! ## Durability (R220 to R224, 16 R457) -/

/-- Indexes of the part-0 records that a page of changes makes due for backup: complete, and changed or completed. -/
def backupDue (page : List Change) : List Nat :=
  (page.filter fun c =>
    match c.line with
    | some r => r.part == 0 && r.complete
    | none => false).map fun c => c.ix

/-- Program one journal page of up to 56 changes: they are durable. -/
def programPage (s : State) : State :=
  let page := s.ks.buffer.take 56
  let s1 := { s with ks := { s.ks with buffer := s.ks.buffer.drop 56, durable := s.ks.durable ++ [page] } }
  (backupDue page).foldl emitBackup s1

/-- A page is due: 56 changes, or the oldest pending change has waited 256 beats. -/
def pageDue (s : State) : Bool :=
  56 ≤ s.ks.buffer.length ||
    match s.ks.buffer with
    | c :: _ => c.run + 256 ≤ runNow s
    | [] => false

/-- JOURNAL_PROGRAM (16 R457, R222). -/
def execJournalProgram (s : State) : Result :=
  if pageDue s && s.ks.durable.length < journalPages s then go (ksResume (imageDue (programPage s))) else go s

/-- Program the whole buffer, page by page, as the preparation of a warm start does (18 R479). -/
def programAll (s : State) : Nat → State
  | 0 => s
  | n + 1 => if s.ks.buffer.isEmpty || journalPages s ≤ s.ks.durable.length then s else programAll (programPage s) n

/-- IMAGE_COMPLETE (R223): the image becomes current and the journal before its mark is released. -/
def execImageComplete (s : State) : Result :=
  match s.ks.building with
  | none => go s
  | some (im, mark) =>
    let s1 := { s with ks := { s.ks with
      image := some im, older := s.ks.image, building := none, durable := s.ks.durable.drop mark } }
    go (ksResume (imageDue (evt s1 4 7)))

/-- The newest copy of a record's line (R220): the buffer, then the durable journal, then the image. -/
def newestCopy (s : State) (ix : Nat) : Option Rec :=
  let last := fun (l : List Change) => (l.reverse.find? fun c => c.ix == ix && c.line.isSome)
  match last s.ks.buffer with
  | some c => c.line
  | none =>
    match last (s.ks.durable.flatten) with
    | some c => c.line
    | none =>
      match s.ks.image with
      | some i => tfind i.recs ix
      | none => none

/-- Restore one poisoned record, or mark it lost (R220, R221). -/
def restoreRec (s : State) (ix : Nat) : State :=
  match newestCopy s ix, tfind s.ks.recs ix with
  | some r, _ =>
    cntUp (putRec { s with ks := { s.ks with poisoned := s.ks.poisoned.filter (· != ix) } } ix r) 0x40048 63 32
  | none, some r => markLost s ix r
  | none, none => { s with ks := { s.ks with poisoned := s.ks.poisoned.filter (· != ix) } }

/-- A lower block of a wider span that holds this block still awaits restore (R220). -/
def restoredLater (s : State) (block : Nat) : Bool :=
  s.ks.wide.any fun w => w.1 / 64 ≤ block && block < (w.1 + w.2) / 64
    && s.ks.poisoned.any fun ix => w.1 ≤ ix && ix / 64 < block

/-- Spans with nothing left to restore are dropped. -/
def settleWide (s : State) : State :=
  { s with ks := { s.ks with wide := s.ks.wide.filter fun w => s.ks.poisoned.any fun ix => w.1 ≤ ix && ix < w.1 + w.2 } }

/-- RECORD_RESTORE (R220): the poisoned records of one block of 64. -/
def execRecordRestore (block : Nat) (s : State) : Result :=
  let todo := s.ks.poisoned.filter fun ix => ix / 64 == block
  if todo.isEmpty || restoredLater s block then go s
  else
    let s1 := settleWide (todo.foldl restoreRec s)
    go (if s1.ks.poisoned.isEmpty then evt s1 4 3 else s1)

/-! ## The restore of a start (R224, 16 R450) -/

/-- Replay one change. -/
def replay (i : CellarImage) (c : Change) : CellarImage :=
  { i with table := tins i.table c.ix (c.state, c.gen)
           recs := match c.line with
             | some r => tins i.recs c.ix r
             | none => tdel i.recs c.ix }

/-- The replayed contents after incomplete chains are deleted: an index belongs to a chain whose part 0 is complete, or is
free. -/
def settle (i : CellarImage) : CellarImage :=
  let whole := fun (r : Rec) =>
    match tfind i.recs r.index with
    | some r0 => r0.complete && r0.gen == r.gen
    | none => false
  let recs := i.recs.filter fun p => whole p.2
  { i with recs := recs
           table := i.table.map fun p =>
             (p.1, (if (tfind recs p.1).isSome then (if p.2.1 = .lost then IxState.lost else .live)
                    else if p.2.1 = .retired ∨ maxGen ≤ p.2.2 then .retired else .free, p.2.2)) }

/-- Advance the free indexes, index ix by n ix (R224 step 4, R205). -/
def advanceFree (t : Tab (IxState × Nat)) (n : Nat → Nat) : Tab (IxState × Nat) :=
  t.map fun p =>
    if p.2.1 = .free then (p.1, if maxGen ≤ p.2.2 + n p.1 then (IxState.retired, maxGen) else (.free, p.2.2 + n p.1)) else p

/-- The current image: the complete copy with the higher image sequence (16 R448). -/
def currentImage (k : Ks) (i : RestoreIn) : Option CellarImage :=
  match k.image with
  | some x => if i.newer then some x else if i.older then k.older else none
  | none => none

/-- Journal pages that replay takes (16 R450): those before the first that is not valid; none from the older image's mark,
behind which pages have been released (R223). -/
def replayPages (k : Ks) (i : RestoreIn) : List (List Change) :=
  let n := if (currentImage k i).isSome && !i.newer then 0 else i.gap.getD k.durable.length
  k.durable.take n

/-- Steps 1 to 5 of R224: the restored key store. Without a usable image the cellar is empty, and an index that the journal
names keeps its last generation (R205). Every line is encrypted under the new memory key and the counter tree is built
anew. -/
def restoredKs (k : Ks) (i : RestoreIn) : Ks :=
  let pages := replayPages k i
  let changes := pages.flatten
  let im := currentImage k i
  let i0 : CellarImage := im.getD { starts := 1 }
  let r := changes.foldl replay i0
  let done := settle (if im.isSome then r else { r with recs := [] })
  let at_ : Tab Nat := changes.foldl (fun t c => tins t c.ix c.starts) []
  let adv := fun ix => k.starts + 1 - (match tfind at_ ix with
    | some n => n
    | none => i0.starts)
  { k with image := im, older := if i.newer then k.older else none, durable := pages, table := advanceFree done.table adv,
           recs := done.recs, genAdv := i0.adv + (k.starts + 1 - i0.starts), poisoned := [], wide := [], minors := [],
           majors := [], roots := [], reenc := [], cache := [], fillCnt := [], starts := k.starts + 1 }

/-- Indexes whose page of the current image is not valid, and which the replay does not write again (16 R448). -/
def lostPages (k : Ks) (i : RestoreIn) (recs : Tab Rec) : List (Nat × Rec) :=
  let fresh := (replayPages k i).flatten.map fun c => c.ix
  recs.filter fun p => i.badPages.contains (p.1 / 64) && !fresh.contains p.1

/-- A journal page that the replay could not take stands before the last one programmed (16 R450). -/
def journalGap (k : Ks) (i : RestoreIn) : Bool :=
  (currentImage k i).isSome && (replayPages k i).length < k.durable.length

/-- CELLAR_RESTORE_DONE (R224): RESTORED and READY rise; ZEROIZED falls with the first restore after a zeroize (01,
SYS_MODE). It waits for the erasure of the journal area (18 R484). SYS_START takes its last stage and ELAPSED. -/
def execCellarRestoreDone (i : RestoreIn) (s : State) : Result :=
  if s.starting || s.inReset || !s.keys.memory || ksRestored s || s.ec.erasing.contains 3 then go s
  else
    let s0 := wrF (wrF s 0x30 15 8 13) 0x30 63 32 (min 0xFFFFFFFF (runNow s))
    let s1 := { s0 with ks := restoredKs s.ks i, bbram := { s.bbram with zeroized := false } }
    let s2 := (lostPages s.ks i s1.ks.recs).foldl (fun s p => markLost s p.1 p.2) s1
    let s3 := if (currentImage s.ks i).isNone then wrF s2 0x40000 1 1 1 else s2
    let s4 := if journalGap s.ks i then evt s3 12 9 else s3
    go (setMode (wrF s4 0x40000 0 0 1) fun m => { m with ready := true, zeroized := false })

end Machine
end Sys2Proof
end

