-- ==== Sys2Proof/Machine/Foundation.lean ====
section
/-! DEFINITION. The keys derived from the root (08 R228) and what they protect: record lines and leaf nodes as cellar DRAM
holds them (08 R207, R213, R214), and lines as the key cache holds them (08 R216). The state keeps the records themselves;
these are the forms in which the two memories hold them. -/

namespace Sys2Proof
namespace Machine

/-! ## Derived keys (R228) -/

/-- The context of the keys that last one start; the start count counts as 0 in TEST (14 R404). -/
def startContext (s : State) : List Nat := unpackBytes 8 (if s.mode.lc = .test then 0 else s.bbram.startCount.toNat)
/-- The context of the transport identity: KS_TGEN.GEN. -/
def tgenContext (s : State) : List Nat := unpackBytes 4 (rdF s 0x40068 31 0)

/-- The memory key: the XTS data key, the XTS tweak key, the MAC key, 32 bytes each. -/
def memoryKey (s : State) : Nat :=
  if s.keys.memory then derive s.keys.base.toNat (ascii "CELLAR") (startContext s) 96 else 0
/-- The cache key. -/
def cacheKey (s : State) : Nat :=
  if s.keys.cache then derive s.keys.base.toNat (ascii "CACHE") (startContext s) 32 else 0
/-- The vault-flash key: encryption, then MAC. -/
def vaultKey (s : State) : Nat := if s.keys.vault then derive s.keys.base.toNat (ascii "VAULT") [] 64 else 0

/-- The device attestation key's secret scalar: 448 bits, read little-endian (00 R1), mod (n − 1), plus 1. -/
def dakScalar (s : State) : Nat := derive s.keys.base.toNat (ascii "DAK") [] 56 % (p384.n - 1) + 1

/-- The transport identity's 96 bytes: X25519 private key, then the ML-KEM-768 seed. -/
def identBytes (s : State) : Nat := derive s.keys.base.toNat (ascii "TRANSPORT") (tgenContext s) 96
/-- The identity's X25519 private key and public value, and its ML-KEM seed. -/
def identX (s : State) : Nat := clamp (bytesOf (identBytes s) 0 32)
def identPub (s : State) : Nat := x25519Pub (identX s)
def identSeed (s : State) : Nat := bytesOf (identBytes s) 32 64

/-! ## Cellar DRAM (R213, R214) -/

/-- The counter of a child of a level's node: major, then the 7-bit minor. -/
def childCounter (s : State) (level c : Nat) : Nat :=
  tget 0 s.ks.majors (childKey level (c / 64)) * 128 + tget 0 s.ks.minors (childKey level c)

/-- The 64 bytes of the node over children 64j to 64j + 63 of a level. -/
def nodeLine (s : State) (level j : Nat) : Nat :=
  tget 0 s.ks.majors (childKey level j)
    + sumOf (List.range 64) fun i => fld (tget 0 s.ks.minors (childKey level (64 * j + i))) (64 + 7 * i)

/-- DRAM addresses of record line i and leaf node j. -/
def lineAddr (i : Nat) : Nat := 64 * i
def leafAddr (j : Nat) : Nat := 2147483648 + 64 * j

/-- The tweak of a line; the manual prints its inputs and not its form (log entry 207). -/
def lineTweak (addr ctr : Nat) : Nat := Config.external 61 [addr, ctr] % 2 ^ 128

/-- AES-256-XTS of a 64-byte data unit: block i under the tweak block doubled i times. -/
def xtsLine (key addr ctr v : Nat) : Nat :=
  let t0 := aesEnc 8 (bytesOf key 32 32) (lineTweak addr ctr)
  packWords 16 ((List.range 4).map fun i =>
    let t := (List.range i).foldl (fun t _ => xtsDbl t) t0
    aesEnc 8 (bytesOf key 0 32) (bytesOf v (16 * i) 16 ^^^ t) ^^^ t)

/-- The 64-bit MAC over ciphertext, address (8 bytes) and counter (9 bytes); the widths are the model's (log entry 207). -/
def lineMac (key addr ctr ct : Nat) : Nat :=
  cmac256 (bytesOf key 64 32) 81 (ct % 2 ^ 512 + fld (addr % 2 ^ 64) 512 + fld (ctr % 2 ^ 72) 576) % 2 ^ 64

/-- A DRAM line as it stands: ciphertext and MAC. -/
def sealedLine (s : State) (addr ctr v : Nat) : Nat × Nat :=
  let ct := xtsLine (memoryKey s) addr ctr v
  (ct, lineMac (memoryKey s) addr ctr ct)

/-- Record line i of cellar DRAM. -/
def dramRecord (s : State) (i : Nat) : Nat × Nat :=
  sealedLine s (lineAddr i) (childCounter s 0 i) (match tfind s.ks.recs i with
    | some r => recLine r
    | none => 0)

/-- Leaf node j of cellar DRAM. -/
def dramLeaf (s : State) (j : Nat) : Nat × Nat := sealedLine s (leafAddr j) (childCounter s 1 j) (nodeLine s 0 j)

/-! ## Vault-flash pages (16, Vault flash geometry, R442, R443) -/

/-- Spare bytes 0 to 15 of a page: sequence number, area code, kind, two zero bytes, logical page. -/
def pageTag (seq area kind page : Nat) : Nat := seq % 2 ^ 64 + fld (area % 256) 64 + fld (kind % 256) 72 + fld (page % 2 ^ 32) 96

/-- A page carries a digest and stands as it is: directory pages, and routine images of the routine area. -/
def plainPage (area kind : Nat) : Bool := area == 0 || (area == 4 && kind == 3)

/-- The second key of the pages' XTS; the encryption half of the vault-flash key holds one AES-256 key (log entry 209). -/
def pageTweakKey (s : State) : Nat := Config.external 82 [bytesOf (vaultKey s) 0 32] % 2 ^ 256

/-- AES-256-XTS of 4,096 data bytes; the data unit is the page and the tweak spare bytes 0 to 15. -/
def pageXts (s : State) (tag data : Nat) : Nat :=
  let key := bytesOf (vaultKey s) 0 32
  let step := fun (a : Nat × List Nat) (i : Nat) =>
    (xtsDbl a.1, (aesEnc 8 key (bytesOf data (16 * i) 16 ^^^ a.1) ^^^ a.1) :: a.2)
  packWords 16 ((List.range 256).foldl step (aesEnc 8 (pageTweakKey s) tag, [])).2.reverse

/-- Data bytes as stored: in clear for pages with a digest and for image headers. -/
def pageData (s : State) (area kind tag data : Nat) : Nat :=
  if plainPage area kind || kind == 1 then data else pageXts s tag data

/-- Spare bytes 16 to 31: the first 16 bytes of SHA-256, or of CMAC under the MAC half, over spare bytes 0 to 15 and the data
bytes as stored. -/
def pageField (s : State) (area kind tag stored : Nat) : Nat :=
  let v := tag % 2 ^ 128 + fld (stored % 2 ^ 32768) 128
  (if plainPage area kind then sha256 4112 v else cmac256 (bytesOf (vaultKey s) 32 32) 4112 v) % 2 ^ 128

/-- A page as programmed: the data bytes, spare bytes 0 to 15, and the field; the BCH parity is a code of these that no rule
prints. -/
def flashPage (s : State) (seq area kind page data : Nat) : Nat × Nat × Nat :=
  let tag := pageTag seq area kind page
  let stored := pageData s area kind tag data
  (stored, tag, pageField s area kind tag stored)

/-- A page whose codewords decode is valid (16 R446): area and logical page are those of its block, and its field checks. -/
def pageValid (s : State) (p : Nat × Nat × Nat) (area page : Nat) : Bool :=
  let kind := p.2.1 / 2 ^ 72 % 256
  p.2.1 / 2 ^ 64 % 256 == area && p.2.1 / 2 ^ 96 % 2 ^ 32 == page && p.2.2 == pageField s area kind p.2.1 p.1

/-! ## The key cache (R216) -/

/-- The mask of a cache line: four AES-256 blocks under the cache key over bank, set, way and fill count; how a block holds
them is not printed (log entry 207). -/
def cacheMask (s : State) (set way : Nat) : Nat :=
  packWords 16 ((List.range 4).map fun j =>
    aesEnc 8 (cacheKey s) (Config.external 62 [set / 2048, set, way, tget 0 s.ks.fillCnt (16 * set + way), j] % 2 ^ 128))

/-- A key-cache line as its bank holds it. -/
def cachedWord (s : State) (set : Nat) (l : CacheLine) : Nat :=
  cacheMask s set l.way ^^^ (match tfind s.ks.recs l.ix with
    | some r => recLine r
    | none => 0)

/-- The mask with which the key port takes a record's line off the hall, 0 where the line is not cached. -/
def portMask (s : State) (sl : Slice) (ix : Nat) : Nat :=
  let n := cacheSetOf s sl.val ix
  match (cacheSet s n).find? (sameLine sl ix) with
  | some l => cacheMask s n l.way
  | none => 0

end Machine
end Sys2Proof
end

