-- ==== Sys2Proof/Machine/Contract.lean ====
section
/-! DEFINITION. What the manual says of the library's routines whose code it does not print (07 R202, R521, the library
table, 09 R247): the arguments they take, the statuses they exit with, and their inline results. The instructions between
are the sender's, as for any routine. -/

namespace Sys2Proof
namespace Machine

/-- The input bytes as a little-endian number. -/
def inputNum (v : Order) : Nat := packBytes (v.input.map BitVec.toNat)

/-- An order of a shipped image (slot 0, below 0100h) whose code is not printed. -/
def shipped (s : State) (v : Order) : Bool := v.hdr.signer == 0 && v.routine < 0x100 && (imageOf s v).code.isEmpty

/-! ## Arguments (R521) -/

/-- Bytes of a hash that RSA4096_SIGN names; 0 for another selector. -/
def rsaHashLen (n : Nat) : Nat := match n with | 1 => 32 | 2 => 48 | 3 => 64 | _ => 0

/-- The input of RSA4096_SIGN: padding, hash, salt length, the zero bytes after the digest and before the salt. -/
def rsaArgsOk (v : Order) : Bool :=
  let x := inputNum v
  let pad := bytesOf x 64 1
  let h := rsaHashLen (bytesOf x 65 1)
  let salt := bytesOf x 66 1
  !v.args && h != 0 && (pad == 1 && salt == 0 || pad == 2 && salt ≤ h) && bytesOf x 67 5 == 0
    && bytesOf x h (64 - h) == 0 && v.inLen == 72 + salt && v.outLen == 512

/-- The arguments of KDF_CMAC, KDF_CMAC_PAIR and RSA4096_SIGN are as R521 gives them; REKEY_SLOT and REKEY_STEP are
commands of their own. -/
def libArgsOk (v : Order) : Bool :=
  match v.routine with
  | 0x10 => v.args
  | 0x11 => !v.args && v.inLen == 32 && v.outLen == 64
  | 0x44 => rsaArgsOk v
  | _ => true

/-- An instruction that a shipped routine reaches only past its check of the arguments: with others, the order ends with
MALFORMED; bytes to be checked must have arrived (R521). -/
def withArgs (s : State) (o : Nat) (v : Order) (second : Bool) (f : Result) : Result :=
  if second || !shipped s v then f
  else if v.routine = 0x44 ∧ v.inLen ≠ 0 ∧ v.inputIn = false then go s
  else if libArgsOk v then f
  else go (endOrder s o .malformed 0)

/-! ## Ends (R202, R247, the library table) -/

/-- The statuses with which the code of a shipped routine exits, besides those of a refused KEYLOAD or KEYPUT, which end
the order in that instruction. None for a routine whose run is a command of its own. -/
def libExits (r : Nat) : List Status :=
  match r with
  | 0x10 | 0x11 | 0x18 | 0x20 | 0x21 | 0x22 | 0x28 | 0x29 => [.done, .malformed]
  | 0x12 => [.done, .malformed, .quota]
  | 0x19 => [.done, .authFail, .malformed, .quota]
  | 0x24 | 0x25 | 0x26 => [.done, .authFail, .malformed]
  | 0x2C => [.done, .malformed, .rejectLimit]
  | 0x2D => [.done, .authFail, .malformed, .rejectLimit]
  | 0x40 | 0x41 | 0x43 | 0x44 | 0x46 | 0x47 | 0x49 | 0x4B => [.malformed]
  | 0x48 => [.done, .malformed, .quota, .rejectLimit]
  | 0x60 => [.done, .malformed, .rejectLimit]
  | 0xE1 => [.done, .rejectLimit]
  | 0xF0 | 0xF1 | 0xF2 => [.quorum, .timeUntrusted]
  | _ => []

/-- The library routines that hand an operation over (a BN_LEN in the table). -/
def libHandsOff (r : Nat) : Bool :=
  r == 0x40 || r == 0x41 || (0x43 ≤ r && r ≤ 0x4B && r != 0x48) || r == 0x50 || r == 0x58 || (0xF0 ≤ r && r ≤ 0xF2)

/-- Inline result of an EXIT: 0 for AUTH_FAIL, whatever the register holds (06 R186). -/
def exitInline (st : Status) (w : Word) : Word := if st = .authFail then 0 else w

/-- Inline result of a shipped routine: the reads it made of the share, where they ran out (R202). -/
def libInline (r : Nat) (st : Status) (w : Word) : Word :=
  if st = .rejectLimit ∧ (r = 0x48 ∨ r = 0x60) then 4 else exitInline st w

/-- The second phase exits with the outcome in x16 (09 R247). -/
def exitOutcome (s : State) (o : Nat) (x : Word) : State :=
  if bits x 63 48 = 0xFFFF then
    let st := (stOfCode (bits x 15 0)).getD .malformed
    endOrder s o st (exitInline st (BitVec.ofNat 64 (bits x 31 16)))
  else endOrder s o .done x

/-- EXIT with a status of R144: a shipped routine's second phase exits with its operation's outcome, and an EXIT that its
code does not hold has no effect. -/
def exitWith (s : State) (o : Nat) (v : Order) (g : Engine) (st : Status) (w : Word) : Result :=
  if !shipped s v then go (endOrder s o st (exitInline st w))
  else if g.second && libHandsOff v.routine then go (exitOutcome s o (tget 0 g.core.x 16))
  else withArgs s o v g.second
    (if (libExits v.routine).contains st then go (endOrder s o st (libInline v.routine st w)) else go s)

end Machine
end Sys2Proof
end

