-- ==== Sys2Proof/Machine/Zyntan.lean ====
section
/-! DEFINITION. Core, memory and control instructions of the Zyntan engines (05), but for YIELD and the moves that a seal
can refuse, which stand beside the units they hand over to. -/

namespace Sys2Proof
namespace Machine

/-! ## Integer instructions -/

/-- NOP (R137). -/
def execNop (e : EngIx) (s : State) : Result := alu e s id

/-- ADD: rs1 plus rs2, modulo 2⁶⁴ (R132). -/
def execAdd (e : EngIx) (rd rs1 rs2 : XReg) (s : State) : Result :=
  aluX e s rd fun c => let a := xget c rs1; let b := xget c rs2; a + b

/-- SUB (R132). -/
def execSub (e : EngIx) (rd rs1 rs2 : XReg) (s : State) : Result :=
  aluX e s rd fun c => let a := xget c rs1; let b := xget c rs2; a - b

/-- AND (R132). -/
def execAnd (e : EngIx) (rd rs1 rs2 : XReg) (s : State) : Result :=
  aluX e s rd fun c => let a := xget c rs1; let b := xget c rs2; a &&& b

/-- OR (R132). -/
def execOr (e : EngIx) (rd rs1 rs2 : XReg) (s : State) : Result :=
  aluX e s rd fun c => let a := xget c rs1; let b := xget c rs2; a ||| b

/-- XOR (R132). -/
def execXor (e : EngIx) (rd rs1 rs2 : XReg) (s : State) : Result :=
  aluX e s rd fun c => let a := xget c rs1; let b := xget c rs2; a ^^^ b

/-- ANDN: rs1 and not rs2 (R132). -/
def execAndn (e : EngIx) (rd rs1 rs2 : XReg) (s : State) : Result :=
  aluX e s rd fun c => let a := xget c rs1; let b := xget c rs2; a &&& ~~~b

/-- SLL by rs2[5:0] (R132). -/
def execSll (e : EngIx) (rd rs1 rs2 : XReg) (s : State) : Result :=
  aluX e s rd fun c => let a := xget c rs1; let b := xget c rs2; a <<< amount b

/-- SRL by rs2[5:0] (R132). -/
def execSrl (e : EngIx) (rd rs1 rs2 : XReg) (s : State) : Result :=
  aluX e s rd fun c => let a := xget c rs1; let b := xget c rs2; a >>> amount b

/-- SRA by rs2[5:0] (R132). -/
def execSra (e : EngIx) (rd rs1 rs2 : XReg) (s : State) : Result :=
  aluX e s rd fun c => let a := xget c rs1; let b := xget c rs2; a.sshiftRight (amount b)

/-- ROL by rs2[5:0] (R132). -/
def execRol (e : EngIx) (rd rs1 rs2 : XReg) (s : State) : Result :=
  aluX e s rd fun c => let a := xget c rs1; let b := xget c rs2; a.rotateLeft (amount b)

/-- ROR by rs2[5:0] (R132). -/
def execRor (e : EngIx) (rd rs1 rs2 : XReg) (s : State) : Result :=
  aluX e s rd fun c => let a := xget c rs1; let b := xget c rs2; a.rotateRight (amount b)

/-- SLT, signed (R132). -/
def execSlt (e : EngIx) (rd rs1 rs2 : XReg) (s : State) : Result :=
  aluX e s rd fun c => let a := xget c rs1; let b := xget c rs2; truth (a.slt b)

/-- SLTU, unsigned (R132). -/
def execSltu (e : EngIx) (rd rs1 rs2 : XReg) (s : State) : Result :=
  aluX e s rd fun c => let a := xget c rs1; let b := xget c rs2; truth (a.ult b)

/-- MUL: low 64 bits (R132). -/
def execMul (e : EngIx) (rd rs1 rs2 : XReg) (s : State) : Result :=
  aluX e s rd fun c => let a := xget c rs1; let b := xget c rs2; a * b

/-- MULH (R132). -/
def execMulh (e : EngIx) (rd rs1 rs2 : XReg) (s : State) : Result :=
  aluX e s rd fun c => let a := xget c rs1; let b := xget c rs2; mulHigh a b

/-- MULHU (R132). -/
def execMulhu (e : EngIx) (rd rs1 rs2 : XReg) (s : State) : Result :=
  aluX e s rd fun c => let a := xget c rs1; let b := xget c rs2; mulHighU a b

/-- DIVU (R133). -/
def execDivu (e : EngIx) (rd rs1 rs2 : XReg) (s : State) : Result :=
  aluX e s rd fun c => let a := xget c rs1; let b := xget c rs2; divU a b

/-- REMU (R133). -/
def execRemu (e : EngIx) (rd rs1 rs2 : XReg) (s : State) : Result :=
  aluX e s rd fun c => let a := xget c rs1; let b := xget c rs2; remU a b

/-- SEL: rs1 when rd is nonzero, else rs2 (R132). -/
def execSel (e : EngIx) (rd rs1 rs2 : XReg) (s : State) : Result :=
  aluX e s rd fun c => if xget c rd ≠ 0 then xget c rs1 else xget c rs2

/-- POPC (R132). -/
def execPopc (e : EngIx) (rd rs1 : XReg) (s : State) : Result := aluX e s rd fun c => popCount (xget c rs1)

/-- CLZ (R132). -/
def execClz (e : EngIx) (rd rs1 : XReg) (s : State) : Result := aluX e s rd fun c => leadZeros (xget c rs1)

/-- BSWAP (R132). -/
def execBswap (e : EngIx) (rd rs1 : XReg) (s : State) : Result := aluX e s rd fun c => byteSwap (xget c rs1)

/-- ADDI: sign-extended immediate. -/
def execAddi (e : EngIx) (rd rs1 : XReg) (imm : BitVec 16) (s : State) : Result := aluX e s rd fun c => xget c rs1 + sext imm

/-- ANDI: zero-extended immediate. -/
def execAndi (e : EngIx) (rd rs1 : XReg) (imm : BitVec 16) (s : State) : Result := aluX e s rd fun c => xget c rs1 &&& zext imm

/-- ORI: zero-extended immediate. -/
def execOri (e : EngIx) (rd rs1 : XReg) (imm : BitVec 16) (s : State) : Result := aluX e s rd fun c => xget c rs1 ||| zext imm

/-- XORI: zero-extended immediate. -/
def execXori (e : EngIx) (rd rs1 : XReg) (imm : BitVec 16) (s : State) : Result := aluX e s rd fun c => xget c rs1 ^^^ zext imm

/-- SHI; a nonzero field that must be zero is refused by the loader (R137). -/
def execShi (e : EngIx) (rd rs1 : XReg) (imm : BitVec 16) (s : State) : Result :=
  if bits imm 15 8 = 0 then aluX e s rd fun c => shiftImm (xget c rs1) imm else .refused .refusedByLoader

/-- MOVZ (05, Immediates). -/
def execMovz (e : EngIx) (rd : XReg) (hw : Fin 4) (imm : BitVec 16) (s : State) : Result :=
  aluX e s rd fun _ => placeHalf hw imm

/-- MOVK (05, Immediates). -/
def execMovk (e : EngIx) (rd : XReg) (hw : Fin 4) (imm : BitVec 16) (s : State) : Result :=
  aluX e s rd fun c => keepHalf (xget c rd) hw imm

/-- LI32: sign-extended 32-bit immediate; the instruction fills two slots. -/
def execLi32 (e : EngIx) (rd : XReg) (imm : BitVec 32) (s : State) : Result :=
  onEngine e s fun _ _ g => go (setCore s e (advance (xset g.core rd (imm.signExtend 64)) 2))

/-! ## Frame instructions (R128, R148, 16 R435 to R438) -/

/-- The bytes at the window side of a transfer into the frame: constants, input (zero beyond the input length, R130),
pantry pages; the program store as supervisor DMA reads it is left open, and so is a room's RM_ range, which a room region
can grant to DMA (DESIGN CHOICE, log entry 205: a transfer from it reads free bytes, one to it stores nothing). -/
def dmaSource (s : State) (v : Order) (a n : Nat) : List Byte × State :=
  if 0x10000 ≤ a ∧ a < 0x20000 then (tlist (tstoreList [] 0 ((imageOf s v).const)) (a - 0x10000) n, s)
  else if 0x100000000 ≤ a ∧ a < 0x101000000 then (tlist (bytesTab v.input) (a - 0x100000000) n, s)
  else if 0x300000000 ≤ a ∧ a < 0x300C00000 then (tlist s.mem.pantry (a - 0x300000000) n, s)
  else
    let d := draw (8 * n) s
    ((List.range n).map fun i => BitVec.ofNat 8 (d.1.toNat / 256 ^ i), d.2)

/-- Whether a transfer must still wait for the order's input. -/
def inputMissing (v : Order) (t : Dma) : Bool :=
  t.toFrame && decide (0x100000000 ≤ t.addr ∧ t.addr < 0x101000000) && !v.inputIn

/-- Transfers into the order's frame, issued and not yet done, that write bytes of [a, a + n). -/
def inFlight (s : State) (v : Order) (a n : Nat) : List Dma :=
  (tget [] s.rooms.dma (frameOf v)).filter fun t => t.toFrame && !inputMissing v t && decide (a < t.off + t.len ∧ t.off < a + n)

/-- The n bytes of x, loaded at frame offset a, in which bit i of m takes byte i from a transfer's bytes l at offset off. -/
def mixBytes (a n x m off : Nat) (l : List Byte) : Nat :=
  packWords 1 ((List.range n).map fun i =>
    if off ≤ a + i ∧ a + i < off + l.length ∧ m.testBit i then (l.getD (a + i - off) 0).toNat else x / 256 ^ i % 256)

/-- What a load of n bytes x at frame offset a returns while transfers into them are outstanding: byte by byte the old
value or the transferred one, at free bits (R150). -/
def loadSees (s : State) (v : Order) (a n x : Nat) : Nat × State :=
  (inFlight s v a n).foldl (fun (p : Nat × State) t =>
    let d := draw n p.2
    let b := dmaSource d.2 v t.addr t.len
    (mixBytes a n p.1 d.1.toNat t.off b.1, b.2)) (x, s)

/-- LD: zero-extended load from the frame. -/
def execLd (e : EngIx) (sz : Size) (rd rs1 : XReg) (imm : BitVec 16) (ecc : Ecc) (s : State) : Result :=
  onEngine e s fun o v g =>
    let n := sizeBytes sz
    let a := frameAddr g.core rs1 imm n
    match frameRead s o v a n ecc with
    | (s1, some x) =>
      let r := loadSees s1 v a n x
      go (setCore r.2 e (advance (xset g.core rd (BitVec.ofNat 64 r.1)) 1))
    | (s1, none) => go s1

/-- ST: store the low bytes of a register; one narrower than 64 bits is a partial write (16 R436, R437). -/
def execSt (e : EngIx) (sz : Size) (rs rs1 : XReg) (imm : BitVec 16) (ecc : Ecc) (s : State) : Result :=
  onEngine e s fun o v g =>
    let n := sizeBytes sz
    let a := frameAddr g.core rs1 imm n
    let x := (xget g.core rs).toNat
    match sz with
    | .d => go (setCore (frameWriteFull s v a n x) e (advance g.core 1))
    | _ =>
      match frameWritePart s o v e.val a n x ecc with
      | (s1, true) => go (setCore s1 e (advance g.core 1))
      | (s1, false) => go s1

/-- Load four block registers from 64 bytes, unsealed. -/
def loadQuad (c : Core) (m : Fin 4) (x : Nat) : Core :=
  (List.range 4).foldl (fun c i => bset c (quadOf m i) (BitVec.ofNat 128 (x / 2 ^ (128 * i))) false) c

/-- LDQ: 16 bytes from the frame. -/
def execLdq (e : EngIx) (bq : BReg) (rs1 : XReg) (imm : BitVec 16) (ecc : Ecc) (s : State) : Result :=
  onEngine e s fun o v g =>
    let a := frameAddr g.core rs1 imm 16
    match frameRead s o v a 16 ecc with
    | (s1, some x) =>
      let r := loadSees s1 v a 16 x
      go (setCore r.2 e (advance (bset g.core bq (BitVec.ofNat 128 r.1) false) 1))
    | (s1, none) => go s1

/-- LDL: 64 bytes from the frame. -/
def execLdl (e : EngIx) (m : Fin 4) (rs1 : XReg) (imm : BitVec 16) (ecc : Ecc) (s : State) : Result :=
  onEngine e s fun o v g =>
    let a := frameAddr g.core rs1 imm 64
    match frameRead s o v a 64 ecc with
    | (s1, some x) =>
      let r := loadSees s1 v a 64 x
      go (setCore r.2 e (advance (loadQuad g.core m r.1) 1))
    | (s1, none) => go s1

/-! ## Global instructions (R129, R152 to R155) -/

/-- The load and store doorframe's decision on an access of engine e's order. -/
def lsGrants (g : Engine) (v : Order) (a : Nat) (write : Bool) : Bool := doorGrants g.lsAct (inSupv v) a write false

/-- LDG: the latest earlier STG of the engine to the address, or the word that stands there (R152). -/
def execLdg (e : EngIx) (rd rs1 : XReg) (imm : BitVec 16) (s : State) : Result :=
  onEngine e s fun o v g =>
    let a := globalAddr g.core rs1 imm 8
    if lsGrants g v a false then
      match (g.stg.reverse.find? fun p => p.1 == a) with
      | some p => go (setCore s e (advance (xset g.core rd p.2.1) 1))
      | none =>
        let r := globalRead s v a
        go (setCore r.2 e (advance (xset g.core rd (BitVec.ofNat 64 r.1)) 1))
    else go (doorFault s e.val o v a 1 false)

/-- STG: posted; with eight writes outstanding the engine waits for one to be acknowledged (05, Memory). -/
def execStg (e : EngIx) (rs rs1 : XReg) (imm : BitVec 16) (s : State) : Result :=
  onEngine e s fun o v g =>
    let a := globalAddr g.core rs1 imm 8
    if lsGrants g v a true then
      if 8 ≤ g.stg.length then go s
      else go (setEng s e.val { g with core := advance g.core 1, stg := g.stg ++ [(a, xget g.core rs, areaOf v)] })
    else go (doorFault s e.val o v a 1 true)

/-- STG_ACKNOWLEDGED (R152): the oldest posted write has crossed the hall. -/
def execStgAcknowledged (e : EngIx) (s : State) : Result :=
  let g := eng s e.val
  match g.stg with
  | [] => go s
  | (a, w, area) :: rest => go (globalWrite (setEng s e.val { g with stg := rest }) (roomOf e.val) area a w)

/-- The engine's posted writes reach their addresses, oldest first: a later access of the engine is behind them (R152). -/
def drainStg (s : State) (e : EngIx) : State :=
  let g := eng s e.val
  g.stg.foldl (fun s p => globalWrite s (roomOf e.val) p.2.2 p.1 p.2.1) (setEng s e.val { g with stg := [] })

/-- LDGL: 64 bytes from a global address. -/
def execLdgl (e : EngIx) (m : Fin 4) (rs1 : XReg) (imm : BitVec 16) (s : State) : Result :=
  onEngine e s fun o v g =>
    let a := globalAddr g.core rs1 imm 64
    if lsGrants g v a false then
      let r := globalRead64 (drainStg s e) v a 8
      go (setCore r.2 e (advance (loadQuad g.core m r.1) 1))
    else go (doorFault s e.val o v a 1 false)

/-! ## DMA (R134 to R136, R149 to R151) -/

/-- First bytes of the pieces of a transfer's window side, split at 4 KiB boundaries (R135). -/
def pieces (a l : Nat) : List Nat :=
  if l = 0 then [] else a :: ((List.range (l / 4096 + 1)).map fun i => (a / 4096 + 1 + i) * 4096).filter fun p => p < a + l

/-- Issue a transfer: length min(rl, Lmax) rounded up to 8, frame offset with low bits cleared, every piece checked. -/
def dmaIssue (e : EngIx) (rf ra rl : XReg) (lmaxM1 : BitVec 10) (toFrame : Bool) (s : State) : Result :=
  onEngine e s fun o v g =>
    let l := ceilDiv (min (xget g.core rl).toNat (lmaxM1.toNat + 1)) 8 * 8
    let f := (xget g.core rf).toNat / 8 * 8
    let a := (xget g.core ra).toNat / 8 * 8
    let k := frameOf v
    let busy := tget [] s.rooms.dma k
    if 4 ≤ busy.length then go s
    else if l ≠ 0 ∧ 1024 < f + l then go (doorFault s e.val o v a 2 (!toFrame))
    else
      match (pieces a l).find? fun p => !doorGrants g.dmaAct (inSupv v) p (!toFrame) true with
      | some p => go (doorFault s e.val o v p 2 (!toFrame))
      | none =>
        let t : Dma := { toFrame := toFrame, off := f, addr := a, len := l }
        let s1 := if l = 0 then s else { s with rooms := { s.rooms with dma := tput [] s.rooms.dma k (busy ++ [t]) } }
        go (setCore s1 e (advance g.core 1))

/-- DMA.I (R134, R135). -/
def execDmaI (e : EngIx) (rf ra rl : XReg) (lmaxM1 : BitVec 10) (s : State) : Result := dmaIssue e rf ra rl lmaxM1 true s

/-- DMA.O (R134, R135). -/
def execDmaO (e : EngIx) (rf ra rl : XReg) (lmaxM1 : BitVec 10) (s : State) : Result := dmaIssue e rf ra rl lmaxM1 false s

/-- The frame's bytes go to the window side: staged output, or pantry pages. -/
def dmaSink (s : State) (o : Nat) (v : Order) (a : Nat) (l : List Byte) : State :=
  if 0x101000000 ≤ a ∧ a < 0x102000000 then setOrder s o { v with staged := tstoreList v.staged (a - 0x101000000) l }
  else if 0x300000000 ≤ a ∧ a < 0x300C00000 then
    { s with mem := { s.mem with pantry := tstoreList s.mem.pantry (a - 0x300000000) l } }
  else s

/-- The frame's oldest transfer runs (R136). The source word's check is `ecc`: a pantry word for a transfer into the frame,
a frame word for one out of it (16 R435). -/
def dmaRun (s : State) (k o : Nat) (v : Order) (t : Dma) (rest : List Dma) (ecc : Ecc) : State :=
  let s1 := { s with rooms := { s.rooms with dma := tput [] s.rooms.dma k rest } }
  let ws := wordsOf k t.off t.len
  if t.toFrame then
    match ecc with
    | .uncorrectable => endOrder (memUE s1 5 1) o .poison 0
    | _ =>
      let s2 := if ecc = .corrected then memCE s1 5 1 else s1
      let d := dmaSource s2 v t.addr t.len
      let s3 := clearPoison d.2 0 ws
      { s3 with mem := { s3.mem with win := tstoreList s3.mem.win (winBase k + t.off) d.1 } }
  else if poisoned s1 0 ws then endOrder s1 o .poison 0
  else
    match ecc with
    | .uncorrectable => frameFails s1 o v (128 * k + t.off / 8)
    | _ =>
      let s2 := if ecc = .corrected then frameCE s1 v.room.val else s1
      dmaSink s2 o v t.addr (tlist s2.mem.win (winBase k + t.off) t.len)

/-- DMA_TRANSFER_DONE (R136, R149 to R151): transfers run one at a time in issue order, also while the order is
preempted. -/
def execDmaTransferDone (r : Room) (f : Fin 128) (ecc : Ecc) (s : State) : Result :=
  let k := frameKey r.val f.val
  match tget [] s.rooms.dma k with
  | [] => go s
  | t :: rest =>
    match tfind s.rooms.frames k with
    | none => go s
    | some o =>
      match order? s o with
      | none => go s
      | some v => if inputMissing v t then go s else go (dmaRun s k o v t rest ecc)

/-! ## Waits and fences (R131, R160) -/

/-- Every transfer of the order's frame is complete. -/
def dmaIdle (s : State) (v : Order) : Bool := (tget [] s.rooms.dma (frameOf v)).isEmpty

/-- A wait instruction: the engine stays at it, and may be preempted or stopped there, until its condition holds (R131). -/
def waitFor (s : State) (e : EngIx) (c : Core) (done : Bool) : Result :=
  go (setCore s e (if done then advance c 1 else { c with waits := true }))

/-- DMAWAIT: the engine stays at the instruction until every transfer of the frame is complete. -/
def execDmawait (e : EngIx) (s : State) : Result :=
  onEngine e s fun _ v g => waitFor s e g.core (dmaIdle s v)

/-- FENCE.M: every transfer complete and every STG acknowledged. An order resumed on another engine waits for the writes
posted there, and not for those the first engine still has outstanding (DESIGN CHOICE, log entry 206). -/
def execFenceM (e : EngIx) (s : State) : Result :=
  onEngine e s fun _ v g => waitFor s e g.core (dmaIdle s v && g.stg.isEmpty)

/-- Staged supervisor regions 4 to 11 become active. -/
def applySupv (act stg : Tab Word) : Tab Word :=
  (act.filter fun p => p.1 < 4) ++ (stg.filter fun p => 4 ≤ p.1 && p.1 < 12) ++ (act.filter fun p => 12 ≤ p.1)

/-- FENCE.D (R160). -/
def execFenceD (e : EngIx) (s : State) : Result :=
  onEngine e s fun _ _ g => go (setEng s e.val { g with
    core := advance g.core 1, lsAct := applySupv g.lsAct g.lsStg, dmaAct := applySupv g.dmaAct g.dmaStg })

/-! ## Time and doorframe instructions -/

/-- TIME (02 R33). -/
def execTime (e : EngIx) (rd : XReg) (s : State) : Result := aluX e s rd fun _ => tbNow s

/-- RUNT (02 R31). -/
def execRunt (e : EngIx) (rd : XReg) (s : State) : Result := aluX e s rd fun _ => s.tb.run

/-- DLN (02 R32). -/
def execDln (e : EngIx) (rd : XReg) (s : State) : Result :=
  onEngine e s fun _ v g => go (setCore s e (advance (xset g.core rd (BitVec.ofNat 64 v.deadline)) 1))

/-- LEFT: beats to the last beat of the current phase's window (05, 04 R100). -/
def execLeft (e : EngIx) (rd : XReg) (s : State) : Result :=
  onEngine e s fun _ v g => go (setCore s e (advance (xset g.core rd (BitVec.ofNat 64 (phaseEnd v - runNow s))) 1))

/-- The doorframe a target bit names: 0 load and store, 1 DMA, in the order of RM_DOOR_n's two target bits. -/
def doorOf (b : Bool) : DoorKind := if b then .dma else .ls

/-- DFR (R158); the loader refuses it without HDR.SUPV (R137). -/
def execDfr (e : EngIx) (rd rs1 : XReg) (s : State) : Result :=
  onEngine e s fun _ v g =>
    if v.hdr.supv then
      let w := xget g.core rs1
      go (setCore s e (advance (xset g.core rd (tget 0 (stagedOf g (doorOf (bit w 4))) (bits w 3 0))) 1))
    else .refused .refusedByLoader

/-- Stage a supervisor region in an engine's doorframe. -/
def stageSupv (g : Engine) (k : DoorKind) (ix : Nat) (d : Word) : Engine :=
  setStaged g k (if bit d 63 then tins (stagedOf g k) ix d else tdel (stagedOf g k) ix)

/-- DFW (R157, R158); the loader refuses it without HDR.SUPV (R137). -/
def execDfw (e : EngIx) (rd rs1 : XReg) (target : DoorKind) (ix : Fin 16) (s : State) : Result :=
  onEngine e s fun _ v g =>
    if v.hdr.supv then
      let d := xget g.core rs1
      let why := dfwReason g target ix.val d
      let s1 := if why = 0 then setEng s e.val (stageSupv g target ix.val d)
        else doorRefused s (roomOf e.val) (e.val % 8) ix.val why false
      go (setCore s1 e (advance (xset g.core rd (BitVec.ofNat 64 why)) 1))
    else .refused .refusedByLoader

/-! ## Control -/

/-- A forward branch: taken, the engine continues off bundles on; the loader refuses an offset of 0 (R137). -/
def branchIf (e : EngIx) (s : State) (off : BitVec 16) (p : Core → Bool) : Result :=
  if off = 0 then .refused .refusedByLoader
  else onEngine e s fun _ _ g =>
    go (setCore s e (if p g.core then jumpTo g.core (g.core.pc + off.toNat) else advance g.core 1))

/-- BEQ: branch forward when equal (R132). -/
def execBeq (e : EngIx) (rs1 rs2 : XReg) (off : BitVec 16) (s : State) : Result :=
  branchIf e s off fun c => let a := xget c rs1; let b := xget c rs2; a == b

/-- BNE: branch forward when different (R132). -/
def execBne (e : EngIx) (rs1 rs2 : XReg) (off : BitVec 16) (s : State) : Result :=
  branchIf e s off fun c => let a := xget c rs1; let b := xget c rs2; a != b

/-- BLT: branch forward when less, signed (R132). -/
def execBlt (e : EngIx) (rs1 rs2 : XReg) (off : BitVec 16) (s : State) : Result :=
  branchIf e s off fun c => let a := xget c rs1; let b := xget c rs2; a.slt b

/-- BGE: branch forward when at least, signed (R132). -/
def execBge (e : EngIx) (rs1 rs2 : XReg) (off : BitVec 16) (s : State) : Result :=
  branchIf e s off fun c => let a := xget c rs1; let b := xget c rs2; !a.slt b

/-- BLTU: branch forward when less, unsigned (R132). -/
def execBltu (e : EngIx) (rs1 rs2 : XReg) (off : BitVec 16) (s : State) : Result :=
  branchIf e s off fun c => let a := xget c rs1; let b := xget c rs2; a.ult b

/-- BGEU: branch forward when at least, unsigned (R132). -/
def execBgeu (e : EngIx) (rs1 rs2 : XReg) (off : BitVec 16) (s : State) : Result :=
  branchIf e s off fun c => let a := xget c rs1; let b := xget c rs2; !a.ult b

/-- J: continue at a bundle. A target that is not after its own bundle is refused by the loader (R137). -/
def execJ (e : EngIx) (target : BitVec 26) (s : State) : Result :=
  onEngine e s fun _ _ g =>
    if g.core.pc < target.toNat ∧ target.toNat < 1024 then go (setCore s e (jumpTo g.core target.toNat))
    else .refused .refusedByLoader

/-- CALL: push pc + 1 and continue at the target; the loader bounds the depth at 8 (R137). -/
def execCall (e : EngIx) (target : BitVec 26) (s : State) : Result :=
  onEngine e s fun _ _ g =>
    if g.core.rets.length < 8 ∧ target.toNat < 1024 then
      go (setCore s e (jumpTo { g.core with rets := (g.core.pc + 1) :: g.core.rets } target.toNat))
    else .refused .refusedByLoader

/-- RET: pop the return stack and continue there. -/
def execRet (e : EngIx) (s : State) : Result :=
  onEngine e s fun _ _ g =>
    match g.core.rets with
    | t :: r => go (setCore s e (jumpTo { g.core with rets := r } t))
    | [] => .refused .refusedByLoader

/-- LOOP: the next body-length bundles run count times, or min(rs, count) times when rs is not x0; a count of 0 skips the
body. The loader bounds the nesting at 4 (R137). -/
def execLoop (e : EngIx) (rs : XReg) (bodyM1 : BitVec 12) (count : BitVec 16) (s : State) : Result :=
  onEngine e s fun _ _ g =>
    let c := g.core
    let n := if rs = 0 then count.toNat else min (xget c rs).toNat count.toNat
    let last := c.pc + bodyM1.toNat + 1
    if 4 ≤ c.loops.length ∨ 1024 ≤ last then .refused .refusedByLoader
    else if n = 0 then go (setCore s e (afterBundle c last))
    else go (setCore s e (jumpTo { c with loops := ⟨c.pc + 1, last, n⟩ :: c.loops } (c.pc + 1)))

/-- Statuses that EXIT accepts (R144). -/
def exitOk : Status → Bool
  | .done | .authFail | .policy | .noKey | .malformed | .quorum | .timeUntrusted | .rejectLimit | .guardOverflow
  | .quota => true
  | _ => false

/-- EXIT (R142, R144, 06 R186). -/
def execExit (e : EngIx) (status : BitVec 16) (rs : XReg) (s : State) : Result :=
  onEngine e s fun o v g =>
    match stOfCode status.toNat with
    | some st => if exitOk st then exitWith s o v g st (xget g.core rs) else .refused .refusedByLoader
    | none => .refused .refusedByLoader

end Machine
end Sys2Proof
end

