-- ==== Sys2Proof/WellFormed.lean ====
section
/-! DEFINITION. Which commands are well formed: the ranges that an operand's type does not hold. -/

namespace Sys2Proof

/-- Four aligned block registers (06, Q field): the first is a multiple of 4. -/
def quadOk (q : Bool) (r : BReg) : Bool := !q || r.val % 4 == 0

/-- Which commands are well formed. -/
def instrWf (i : Instr) : Bool :=
  match i with
  | .registerWrite off size _ => decide (off < 2 ^ 24) && decide (size ≤ 8)
  | .linkUp _ speed => decide (speed.val ≠ 0)
  | .sqBatchFetch _ _ entries => decide (entries.length ≤ 32)
  | .shi _ _ _ imm => decide (bits imm 15 8 = 0)
  | .bmov _ d a q => quadOk q d && quadOk q a
  | .bxor _ d a b q => quadOk q d && quadOk q a && quadOk q b
  | .band _ d a b q => quadOk q d && quadOk q a && quadOk q b
  | .bzero _ d q => quadOk q d
  | .brev _ d a q => quadOk q d && quadOk q a
  | .bseal _ d a q => quadOk q d && quadOk q a
  | .aesE _ d a _ _ q => quadOk q d && quadOk q a
  | .aesD _ d a _ _ q => quadOk q d && quadOk q a
  | .bctr4 _ d _ => d.val % 4 == 0
  | .beq _ _ _ off | .bne _ _ _ off | .blt _ _ _ off | .bge _ _ _ off | .bltu _ _ _ off | .bgeu _ _ _ off => decide (off ≠ 0)
  | .rosterSync _ first entries => decide (entries.length ≤ 96) && decide (first < 2 ^ 18)
  | _ => true

/-- Well-formedness as a proposition. -/
def WellFormed (i : Instr) : Prop := instrWf i = true

end Sys2Proof
end

