-- ==== Sys2Proof/Machine/Crypto.lean ====
section
/-! DEFINITION. Cipher, hash and key instructions (06): key registers, sealed block registers, the AES round unit, the field
multiplier, block operations, the shared hash unit, HEARTH and KEYPUT. -/

namespace Sys2Proof
namespace Machine

/-! ## KEYLOAD, KEYCLR, KEYINFO (R165 to R170) -/

/-- The slice check of R166 step 1. -/
def mayNameKey (v : Order) (h : Word) : Bool := hSlice h == v.slice.val || (v.hdr.supv && v.slice.val == 0)

/-- Steps 2 to 6 of R166 for a use: the state after the reads, and the record of the part named or the failing status. -/
def keyChecks (s : State) (h : Word) (use part : Nat) (rd0 rdP : CellarRead) : State × Except Status Rec :=
  match liveRec s h with
  | none => (s, .error .noKey)
  | some r0 =>
    let s1 := cellarRead s r0.slice r0.index rd0
    if unreadable s1 r0.index then (s1, .error .poison)
    else if r0.chainLen ≤ part then (s1, .error .malformed)
    else
      let s2 := if part = 0 then s1 else cellarRead s1 r0.slice (r0.index + part) rdP
      if unreadable s2 (r0.index + part) then (s2, .error .poison)
      else
        match keyLevel s2 r0 use with
        | some st => (s2, .error st)
        | none =>
          if use = 4 ∧ bit r0.policy 1 then (s2, .error .policy)
          else
            match tfind s2.ks.recs (r0.index + part) with
            | some r => (s2, .ok r)
            | none => (s2, .error .poison)

/-- The part index a KEYLOAD names (R169). -/
def partOf (c : Core) : PartSel → Nat
  | .imm n => n.val
  | .reg r => (xget c r).toNat

/-- KEYLOAD (R166 to R168). A refusal ends the routine, and the phase end leaves kd cleared (R170). Without the key-use
permission, which a lock withdraws (13 R374), it ends the order with LOCKED. -/
def execKeyload (e : EngIx) (kd : KReg) (rs : XReg) (use : Fin 8) (part : PartSel) (rd0 rdP : CellarRead) (s : State) :
    Result :=
  onEngine e s fun o v g => withArgs s o v g.second <|
    let h := xget g.core rs
    let p := partOf g.core part
    if !mayNameKey v h then go (endOrder (countSpoof s v.slice.val) o .spoof 0)
    else if !s.tp.keyUse then go (endOrder s o .locked 0)
    else
      match keyChecks s h use.val p rd0 rdP with
      | (s1, .error st) => go (endOrder s1 o st 0)
      | (s1, .ok r) =>
        let k : KeyReg := { mat := r.mat, loaded := true, use := use.val, typ := r.typ, part := p, len := r.matLen }
        let m := BitVec.ofNat 512 (portMask s1 v.slice (r.index + p))
        go (setEng s1 e.val { eng s1 e.val with core := advance (kset g.core kd k) 1, portMask := m })

/-- KEYCLR (R169). -/
def execKeyclr (e : EngIx) (k : KReg) (s : State) : Result := alu e s fun c => kset c k {}

/-- The tag of a key register (06, KEYINFO). -/
def keyTag (k : KeyReg) : Word :=
  if k.loaded then BitVec.ofNat 64 (fld 1 63 + fld k.use 56 + fld k.typ.toNat 48 + fld (k.part % 64) 40 + fld k.len 32)
  else 0

/-- KEYINFO (R168). -/
def execKeyinfo (e : EngIx) (rd : XReg) (k : KReg) (s : State) : Result := aluX e s rd fun c => keyTag (kget c k)

/-! ## KEYPUT (R185, R210) -/

/-- The 256 bits of the pair b(2j), b(2j + 1). -/
def pairKey (c : Core) (j : KReg) : Key256 :=
  BitVec.ofNat 256 ((bget c ⟨2 * j.val, by omega⟩).toNat + fld (bget c ⟨2 * j.val + 1, by omega⟩).toNat 128)
/-- Both registers of the pair are sealed. -/
def pairSealed (c : Core) (j : KReg) : Bool := sealedB c ⟨2 * j.val, by omega⟩ && sealedB c ⟨2 * j.val + 1, by omega⟩

/-- Whom a routine's record creation counts as: 41h records come from routine 0050h only, 40h from custody logic's own
orders (R210 step 1). -/
def originOf (v : Order) : Origin := if v.intern then .custody else if v.routine = 0x50 then .transport else .routine

/-- KEYPUT; the loader refuses it without HDR.SUPV (R188). The 64-byte template is read like a 64-byte load (R128). -/
def execKeyput (e : EngIx) (rd rs : XReg) (j : KReg) (rd0 : CellarRead) (pick : Nat) (s : State) : Result :=
  onEngine e s fun o v g =>
    if !v.hdr.supv then .refused .refusedByLoader
    else if !pairSealed g.core j then go (endOrder s o .policy 0)
    else
      match frameRead s o v (frameAddr g.core rs 0 64) 64 .ok with
      | (s1, none) => go s1
      | (s1, some x) =>
        match keyStorePut s1 (originOf v) v.slice (tmplOf x) (pairKey g.core j) rd0 pick with
        | (s2, .error st) => go (endOrder s2 o st 0)
        | (s2, .ok h) => go (setCore s2 e (advance (xset g.core rd h) 1))

/-! ## Hearth bits (R177, R184, 15 R424, R425) -/

/-- The source of room r is in service for its consumers: in service and not captured (15 R430). -/
def sourceIn (s : State) (r : Nat) : Bool := (tget {} s.ns.srcs r).inService && !(s.ns.capBusy && s.ns.capRoom == r)

/-- Unread bits of destination d of a room. -/
def hearthBits (s : State) (r d : Nat) : List Bool := tget [] s.rooms.hearth (9 * r + d)

/-- Remove n bits of a destination. -/
def dropBits (s : State) (r d n : Nat) : State :=
  { s with rooms := { s.rooms with hearth := tput [] s.rooms.hearth (9 * r + d) ((hearthBits s r d).drop n) } }

/-- The first source in service from room r up, wrapping (R177). -/
def nextSource (s : State) (r : Nat) : Option Nat := ((List.range 64).map fun i => (r + i) % 64).find? fun i => sourceIn s i

/-- The AES unit of engine e ran n blocks: after 65,536 it reseeds with 128 bits of a reseed pool, defers while the pool is
short, and while no source is in service runs on, with one attic entry for the outage (R177, 15 R425). The key stays in its
round-key store. -/
def aesCount (s : State) (e n key : Nat) : State :=
  let g := { eng s e with roundKey := BitVec.ofNat 256 key }
  let c := g.aesBlocks + n
  let s1 := setEng s e { g with aesBlocks := c }
  if c < 65536 then s1
  else
    match nextSource s (roomOf e) with
    | none => if s1.ns.noted then s1 else report { s1 with ns := { s1.ns with noted := true } } 0x3E0 (srcWord 3 e) 0
    | some r =>
      let s2 := { s1 with ns := { s1.ns with noted := false } }
      if (hearthBits s2 r 8).length < 128 then s2
      else dropBits (setEng s2 e { g with aesBlocks := c % 65536 }) r 8 128

/-- Bits as a number, the first in bit 0. -/
def bitsNum : List Bool → Nat
  | [] => 0
  | b :: r => b2n b + 2 * bitsNum r

/-- HEARTH (R184). -/
def execHearth (e : EngIx) (rd rc : XReg) (s : State) : Result :=
  onEngine e s fun _ _ g =>
    let r := roomOf e.val
    let l := hearthBits s r (e.val % 8)
    if !sourceIn s r then go (setCore s e (advance (xset (xset g.core rd 0) rc 0xFFFFFFFFFFFFFFFF) 1))
    else if l.length < 64 then go (setCore s e (advance (xset (xset g.core rd 0) rc 0) 1))
    else
      let w := BitVec.ofNat 64 (bitsNum (l.take 64))
      go (setCore (dropBits s r (e.val % 8) 64) e (advance (xset (xset g.core rd w) rc 64) 1))

/-! ## AES (R172, R174 to R177) -/

/-- The AES modes. -/
inductive AesMode | enc | dec | kd
deriving DecidableEq, Repr

/-- Whether a key loaded for a use allows a mode (R175); uses as 06 codes them. -/
def useAllows (use : Nat) : AesMode → Bool
  | .enc => use ≠ 7
  | .dec => use == 4 || use == 2
  | .kd => use == 1

/-- The checks of R175 on a key register: the failing status. -/
def aesCheck (k : KeyReg) (m : AesMode) : Option Status :=
  if !k.loaded then some .noKey
  else if !(k.len == 16 || k.len == 24 || k.len == 32) || asymmetric k.typ.toNat then some .policy
  else if !useAllows k.use m then some .policy
  else none

/-- The cipher of a key source on one block, words of key and key value (R174). -/
def aesRun (nk key : Nat) (inv : Bool) (b : Block) : Block :=
  BitVec.ofNat 128 (if inv then aesDec nk key b.toNat else aesEnc nk key b.toNat)

/-- Whether an AES result is sealed (R172). -/
def aesSeals (src : AesKey) (c : Core) (s0 dataSealed : Bool) : Bool :=
  match src with
  | .reg k =>
    match (kget c k).use with
    | 2 => true
    | 1 => s0
    | _ => s0 || dataSealed
  | .pair _ => s0 || dataSealed

/-- Registers that a one-block or four-block form works on. -/
def quadIx (q : Bool) : List Nat := if q then [0, 1, 2, 3] else [0]

/-- AES E and D on a core. -/
def aesBlocks (c : Core) (bd bs : BReg) (src : AesKey) (s0 q inv : Bool) (nk key : Nat) : Core :=
  (quadIx q).foldl (fun d i =>
    bset d (bplus bd i) (aesRun nk key inv (bget c (bplus bs i))) (aesSeals src c s0 (sealedB c (bplus bs i)))) c

/-- AES E and D. -/
def aesOp (e : EngIx) (bd bs : BReg) (src : AesKey) (s0 q inv : Bool) (s : State) : Result :=
  if !(quadOk q bd && quadOk q bs) then .refused .refusedByLoader
  else onEngine e s fun o _ g =>
    match src with
    | .reg k =>
      let kr := kget g.core k
      match aesCheck kr (if inv then .dec else .enc) with
      | some st => go (endOrder s o st 0)
      | none =>
        let key := kr.mat.toNat % 2 ^ (8 * kr.len)
        let c := aesBlocks g.core bd bs src s0 q inv (kr.len / 4) key
        go (aesCount (setCore s e (advance c 1)) e.val (quadIx q).length key)
    | .pair j =>
      let key := (pairKey g.core j).toNat
      let c := aesBlocks g.core bd bs src s0 q inv 8 key
      go (aesCount (setCore s e (advance c 1)) e.val (quadIx q).length key)

/-- AES E. -/
def execAesE (e : EngIx) (bd bs : BReg) (key : AesKey) (s0 q : Bool) (s : State) : Result := aesOp e bd bs key s0 q false s
/-- AES D. -/
def execAesD (e : EngIx) (bd bs : BReg) (key : AesKey) (s0 q : Bool) (s : State) : Result := aesOp e bd bs key s0 q true s

/-- The KD data block: bytes 0 to 7 of a block, then key bytes 8w to 8w + 7. -/
def kdBlock (b : Block) (k : Key256) (w : Nat) : Block :=
  BitVec.ofNat 128 (b.toNat % 2 ^ 64 + fld (k.toNat >>> (64 * w) % 2 ^ 64) 64)

/-- AES KD: key kk for wrap, data key ks for custody export; never sealed (R172, R175). S is accepted and without effect. -/
def execAesKd (e : EngIx) (bd bs : BReg) (kk : KReg) (w : Fin 4) (ks : KReg) (_s0 : Bool) (s : State) : Result :=
  onEngine e s fun o _ g =>
    let kr := kget g.core kk
    let kx := kget g.core ks
    match aesCheck kr .kd with
    | some st => go (endOrder s o st 0)
    | none =>
      if !kx.loaded then go (endOrder s o .noKey 0)
      else if kx.use ≠ 7 then go (endOrder s o .policy 0)
      else
        let key := kr.mat.toNat % 2 ^ (8 * kr.len)
        let b := aesRun (kr.len / 4) key false (kdBlock (bget g.core bs) kx.mat w.val)
        go (aesCount (setCore s e (advance (bset g.core bd b false) 1)) e.val 1 key)

/-! ## Field multiplier (R178) -/

/-- An instruction that writes one block register, sealed as R172's last row gives. -/
def blockOp (e : EngIx) (bd : BReg) (reads : List BReg) (s : State) (f : Core → Block) : Result :=
  alu e s fun c => bset c bd (f c) (reads.any (sealedB c))

/-- GHMUL. -/
def execGhmul (e : EngIx) (bd bs1 bs2 : BReg) (s : State) : Result :=
  blockOp e bd [bs1, bs2] s fun c => BitVec.ofNat 128 (ghMul (bget c bs1).toNat (bget c bs2).toNat)

/-- GHACC. -/
def execGhacc (e : EngIx) (bd bs1 bs2 : BReg) (s : State) : Result :=
  blockOp e bd [bd, bs1, bs2] s fun c => BitVec.ofNat 128 (ghMul (bget c bd ^^^ bget c bs1).toNat (bget c bs2).toNat)

/-- PVMUL. -/
def execPvmul (e : EngIx) (bd bs1 bs2 : BReg) (s : State) : Result :=
  blockOp e bd [bs1, bs2] s fun c => BitVec.ofNat 128 (pvMul (bget c bs1).toNat (bget c bs2).toNat)

/-- XTSDBL. -/
def execXtsdbl (e : EngIx) (bd bs1 : BReg) (s : State) : Result :=
  blockOp e bd [bs1] s fun c => BitVec.ofNat 128 (xtsDbl (bget c bs1).toNat)

/-! ## Block operations (R179) -/

/-- A block operation in its one-register or four-register form, register by register; the seal of each result is that of
the operands it reads (R172). The loader refuses a four-register form whose first register is not a multiple of 4. -/
def quadOp (e : EngIx) (bd : BReg) (reads : List BReg) (q : Bool) (s : State) (f : Core → Nat → Block) (sl : Core → Nat → Bool) :
    Result :=
  if !(quadOk q bd && reads.all (quadOk q)) then .refused .refusedByLoader
  else alu e s fun c => (quadIx q).foldl (fun d i => bset d (bplus bd i) (f c i) (sl c i)) c

/-- Any of the registers i places after the operands is sealed. -/
def anySealed (reads : List BReg) (c : Core) (i : Nat) : Bool := reads.any fun r => sealedB c (bplus r i)

/-- BXOR. -/
def execBxor (e : EngIx) (bd bs1 bs2 : BReg) (q : Bool) (s : State) : Result :=
  quadOp e bd [bs1, bs2] q s (fun c i => bget c (bplus bs1 i) ^^^ bget c (bplus bs2 i)) (anySealed [bs1, bs2])

/-- BAND. -/
def execBand (e : EngIx) (bd bs1 bs2 : BReg) (q : Bool) (s : State) : Result :=
  quadOp e bd [bs1, bs2] q s (fun c i => bget c (bplus bs1 i) &&& bget c (bplus bs2 i)) (anySealed [bs1, bs2])

/-- BMOV. -/
def execBmov (e : EngIx) (bd bs1 : BReg) (q : Bool) (s : State) : Result :=
  quadOp e bd [bs1] q s (fun c i => bget c (bplus bs1 i)) (anySealed [bs1])

/-- BZERO. -/
def execBzero (e : EngIx) (bd : BReg) (q : Bool) (s : State) : Result :=
  quadOp e bd [] q s (fun _ _ => 0) (fun _ _ => false)

/-- The n bytes from byte i of a block increased as a big-endian number. -/
def incBytes (b : Block) (i n k : Nat) : Block :=
  let v := b.toNat
  BitVec.ofNat 128 (v - fld (bytesOf v i n) (8 * i) + fld (revBytes n ((beAt v i n + k) % 2 ^ (8 * n))) (8 * i))

/-- BINC32: bytes 12 to 15, modulo 2³². -/
def execBinc32 (e : EngIx) (bd bs1 : BReg) (imm : BitVec 9) (s : State) : Result :=
  blockOp e bd [bs1] s fun c => incBytes (bget c bs1) 12 4 imm.toNat

/-- BCTR4; the loader refuses bd that is not a multiple of 4 (R188). -/
def execBctr4 (e : EngIx) (bd bs1 : BReg) (s : State) : Result :=
  if bd.val % 4 ≠ 0 then .refused .refusedByLoader
  else alu e s fun c =>
    (List.range 4).foldl (fun d i => bset d (bplus bd i) (incBytes (bget c bs1) 12 4 (i + 1)) (sealedB c bs1)) c

/-- BMRG. -/
def execBmrg (e : EngIx) (bd bs1 bs2 : BReg) (s : State) : Result :=
  blockOp e bd [bs1, bs2] s fun c =>
    BitVec.ofNat 128 ((bget c bs1).toNat % 2 ^ 64 + fld ((bget c bs2).toNat >>> 64) 64)

/-- BREV. -/
def execBrev (e : EngIx) (bd bs1 : BReg) (q : Bool) (s : State) : Result :=
  quadOp e bd [bs1] q s (fun c i => BitVec.ofNat 128 (revBytes 16 (bget c (bplus bs1 i)).toNat)) (anySealed [bs1])

/-- BSEAL. -/
def execBseal (e : EngIx) (bd bs1 : BReg) (q : Bool) (s : State) : Result :=
  quadOp e bd [bs1] q s (fun c i => bget c (bplus bs1 i)) (fun _ _ => true)

/-- BINC128: modulo 2¹²⁸. -/
def execBinc128 (e : EngIx) (bd bs1 : BReg) (imm : BitVec 9) (s : State) : Result :=
  blockOp e bd [bs1] s fun c => incBytes (bget c bs1) 0 16 imm.toNat

/-- BINC32L: bytes 0 to 3 as a little-endian number, modulo 2³². -/
def execBinc32l (e : EngIx) (bd bs1 : BReg) (imm : BitVec 9) (s : State) : Result :=
  blockOp e bd [bs1] s fun c =>
    let v := (bget c bs1).toNat
    BitVec.ofNat 128 (v - v % 2 ^ 32 + (v + imm.toNat) % 2 ^ 32)

/-! ## Moves and comparisons (R172, R173) -/

/-- Half h of a block. -/
def halfOf (b : Block) (h : Bool) : Word := BitVec.ofNat 64 (b.toNat >>> (if h then 64 else 0))

/-- A block with half h replaced. -/
def withHalf (b : Block) (h : Bool) (w : Word) : Block := if h then setBits b 127 64 w.toNat else setBits b 63 0 w.toNat

/-- BGET. -/
def execBget (e : EngIx) (x : XReg) (ba : BReg) (h : Bool) (s : State) : Result :=
  onEngine e s fun o _ g =>
    if sealedB g.core ba then go (endOrder s o .policy 0)
    else go (setCore s e (advance (xset g.core x (halfOf (bget g.core ba) h)) 1))

/-- BPUT. -/
def execBput (e : EngIx) (x : XReg) (ba : BReg) (h : Bool) (s : State) : Result :=
  alu e s fun c => bset c ba (withHalf (bget c ba) h (xget c x)) (sealedB c ba)

/-- BCEQ. -/
def execBceq (e : EngIx) (x : XReg) (ba bb : BReg) (s : State) : Result :=
  aluX e s x fun c => truth (bget c ba == bget c bb)

/-- BCEQH. -/
def execBceqh (e : EngIx) (x : XReg) (ba bb : BReg) (h : Bool) (s : State) : Result :=
  aluX e s x fun c => truth (halfOf (bget c ba) h == halfOf (bget c bb) h)

/-! ## Stores of block registers (R173) -/

/-- STQ. -/
def execStq (e : EngIx) (bq : BReg) (rs1 : XReg) (imm : BitVec 16) (s : State) : Result :=
  onEngine e s fun o v g =>
    if sealedB g.core bq then go (endOrder s o .policy 0)
    else
      let s1 := frameWriteFull s v (frameAddr g.core rs1 imm 16) 16 (bget g.core bq).toNat
      go (setCore s1 e (advance g.core 1))

/-- The four registers of a 64-byte move as one value. -/
def quadVal (c : Core) (m : Fin 4) : Nat := packWords 16 ((List.range 4).map fun i => (bget c (quadOf m i)).toNat)

/-- STL. -/
def execStl (e : EngIx) (m : Fin 4) (rs1 : XReg) (imm : BitVec 16) (s : State) : Result :=
  onEngine e s fun o v g =>
    if (List.range 4).any fun i => sealedB g.core (quadOf m i) then go (endOrder s o .policy 0)
    else
      let s1 := frameWriteFull s v (frameAddr g.core rs1 imm 64) 64 (quadVal g.core m)
      go (setCore s1 e (advance g.core 1))

/-- What STGL stores of register i: a sealed register leaves as its masked value, which no rule prints (R171). -/
def storedBlock (c : Core) (m : Fin 4) (a : Nat × State) (i : Nat) : Nat × State :=
  if sealedB c (quadOf m i) then
    let d := draw 128 a.2
    (a.1 + fld d.1.toNat (128 * i), d.2)
  else (a.1 + fld (bget c (quadOf m i)).toNat (128 * i), a.2)

/-- STGL: the engine's posted writes go first (R152). -/
def execStgl (e : EngIx) (m : Fin 4) (rs1 : XReg) (imm : BitVec 16) (s : State) : Result :=
  onEngine e s fun o v g =>
    let a := globalAddr g.core rs1 imm 64
    if lsGrants g v a true then
      let x := (List.range 4).foldl (storedBlock g.core m) (0, drainStg s e)
      let s1 := (List.range 8).foldl
        (fun s i => globalWrite s (roomOf e.val) (areaOf v) (a + 8 * i) (BitVec.ofNat 64 (bytesOf x.1 (8 * i) 8))) x.2
      go (setCore s1 e (advance g.core 1))
    else go (doorFault s e.val o v a 1 true)

/-! ## The shared hash unit (R180 to R183) -/

/-- Frame words of n bytes from an offset that continues at 000h (R180), as word numbers of the frame. -/
def ringWords (a n : Nat) : List Nat := (List.range (n / 8)).map fun i => (a / 8 + i) % 128

/-- Offset of a hash operand (R180). -/
def ringOff (c : Core) (r : XReg) : Nat := (xget c r).toNat % 1024 / 8 * 8

/-- Read n bytes of the order's frame from an offset, none when a word is poisoned. -/
def ringRead (s : State) (v : Order) (a n : Nat) : Option Nat :=
  let k := frameOf v
  let ws := ringWords a n
  if poisoned s 0 (ws.map fun w => 128 * k + w) then none
  else some (packWords 8 (ws.map fun w => tbytes s.mem.win (winBase k + 8 * w) 8))

/-- Store n bytes at an offset: whole words (16 R438). -/
def ringWrite (s : State) (v : Order) (a n x : Nat) : State :=
  let k := frameOf v
  let ws := ringWords a n
  let s1 := clearPoison s 0 (ws.map fun w => 128 * k + w)
  { s1 with mem := { s1.mem with
      win := (ws.zip (List.range ws.length)).foldl
        (fun t p => tstore t (winBase k + 8 * p.1) 8 (bytesOf x (8 * p.2) 8)) s1.mem.win } }

/-- HINIT. -/
def execHinit (e : EngIx) (rs : XReg) (alg : HashAlg) (s : State) : Result :=
  onEngine e s fun _ v g =>
    go (setCore (ringWrite s v (ringOff g.core rs) (stateBytes alg) (initState alg)) e (advance g.core 1))

/-- A hash step on the state at rs, where the words it reads check as `ecc` says: the whole block is read before the state
is written; an uncorrectable word ends the routine with POISON and the state is not written (R180, R183). -/
def hashStep (e : EngIx) (rs : XReg) (alg : HashAlg) (ecc : Ecc) (s : State) (o : Nat) (v : Order) (g : Engine)
    (blk : Option Nat) (f : Nat → Nat → Nat) : Result :=
  let a := ringOff g.core rs
  match ecc with
  | .uncorrectable => go (frameFails s o v (128 * frameOf v + a / 8))
  | _ =>
    let s1 := if ecc = .corrected then frameCE s v.room.val else s
    match blk, ringRead s1 v a (stateBytes alg) with
    | some b, some st => go (setCore (ringWrite s1 v a (stateBytes alg) (f st b)) e (advance g.core 1))
    | _, _ => go (endOrder s1 o .poison 0)

/-- HABS. -/
def execHabs (e : EngIx) (rs rb : XReg) (alg : HashAlg) (ecc : Ecc) (s : State) : Result :=
  onEngine e s fun o v g =>
    hashStep e rs alg ecc s o v g (ringRead s v (ringOff g.core rb) (blockBytes alg)) (absorb alg)

/-- The padded key block of HKEY. -/
def keyBlock (alg : HashAlg) (k : KeyReg) (pad : Bool) : Nat :=
  let n := blockBytes alg
  packBytes ((List.range n).map fun i =>
    (if i < k.len then byteOf k.mat.toNat i else 0) ^^^ (if pad then 0x5C else 0x36))

/-- HKEY (R182). -/
def execHkey (e : EngIx) (rs : XReg) (alg : HashAlg) (k : KReg) (pad : Bool) (ecc : Ecc) (s : State) : Result :=
  onEngine e s fun o v g =>
    let kr := kget g.core k
    if !kr.loaded then go (endOrder s o .noKey 0)
    else if !(kr.use == 0 || kr.use == 5 || kr.use == 6) then go (endOrder s o .policy 0)
    else hashStep e rs alg ecc s o v g (some (keyBlock alg kr pad)) (absorb alg)

/-- HPERM; the loader refuses it with a SHA-2 algorithm (R188). -/
def execHperm (e : EngIx) (rs : XReg) (alg : HashAlg) (ecc : Ecc) (s : State) : Result :=
  if hashWord alg ≠ 0 then .refused .refusedByLoader
  else onEngine e s fun o v g => hashStep e rs alg ecc s o v g (some 0) fun st _ => keccakF st

end Machine
end Sys2Proof
end

