-- ==== Sys2Proof/Machine/Hearth.lean ====
section
/-! DEFINITION. The hearth (15): raw bits and their tests, distribution, failure and return of sources, raw capture, and the
library routine that copies captured bits. -/

namespace Sys2Proof
namespace Machine

/-- Source r. -/
def hsrc (s : State) (r : Nat) : Hsrc := tget {} s.ns.srcs r
/-- Store source r. -/
def setHsrc (s : State) (r : Nat) (v : Hsrc) : State := { s with ns := { s.ns with srcs := tput {} s.ns.srcs r v } }
/-- NS_SRC_r. -/
def srcAddr (r : Nat) : Nat := 0xB0100 + 8 * r
/-- Number of sources in service. -/
def sourcesIn (s : State) : Nat := ((List.range 64).filter fun r => (hsrc s r).inService).length
/-- Room r is being captured. -/
def capturing (s : State) (r : Nat) : Bool := s.ns.capBusy && s.ns.capRoom == r

/-- The unread bits of the room's nine destinations are discarded (R426). -/
def discardBits (s : State) (r : Nat) : State :=
  { s with rooms := { s.rooms with hearth := tclear s.rooms.hearth (9 * r) 9 } }

/-- A failure is counted and its code kept in NS_SRC_r. -/
def countFailure (s : State) (r code : Nat) : State := wrF (cntUp s (srcAddr r) 63 48) (srcAddr r) 43 40 code

/-- The consequences of a failure beside its count (R426). -/
def leaveService (s : State) (r code : Nat) : State :=
  let was := (hsrc s r).inService
  let s1 := discardBits (setHsrc s r { hsrc s r with inService := false, testing := false }) r
  let s2 := evtRec s1 11 0 (srcWord 8 r) code
  if was && sourcesIn s2 == 0 then evt s2 11 2 else s2

/-- A source fails a test (R426). -/
def failSource (s : State) (r code : Nat) : State := leaveService (countFailure s r code) r code

/-- HEALTH_TEST_FAIL (R420, R426): a failing test of a source that produces samples; during a capture the failure only
reports in NS_SRC_r (R430). -/
def healthFail (s : State) (r code : Nat) : State :=
  if capturing s r then
    let s1 := countFailure s r code
    { s1 with ns := { s1.ns with capFail := code } }
  else if (hsrc s r).inService then failSource s r code
  else s

/-- HEALTH_TEST_FAIL: codes 1h to 5h. -/
def execHealthTestFail (r : Room) (code : TestCode) (s : State) : Result :=
  if 1 ≤ code.val ∧ code.val ≤ 5 then go (healthFail s r.val code.val) else go s

/-- SOURCE_TAKE_OUT (R428): a bit for a source already out of service has no effect. -/
def sourceOut (s : State) (r : Nat) : State := if sourceIn s r then failSource s r 6 else s
/-- SOURCE_TAKE_OUT. -/
def execSourceTakeOut (r : Room) (s : State) : Result :=
  managerWrite s 0xB0020 fun s => sourceOut s r.val

/-- SOURCE_RETURN (R428): an out-of-service source runs the start-up test; the bit is ignored for one in service, or
captured. -/
def sourceReturn (s : State) (r : Nat) : State :=
  if (hsrc s r).inService || capturing s r then s else setHsrc s r { hsrc s r with testing := true }
/-- SOURCE_RETURN. -/
def execSourceReturn (r : Room) (s : State) : Result :=
  managerWrite s 0xB0018 fun s => sourceReturn s r.val

/-- A source is in service again, and the outage in which none was is over (06 R177). -/
def serve (s : State) (r : Nat) (h : Hsrc) : State :=
  let s1 := setHsrc s r { h with inService := true }
  { s1 with ns := { s1.ns with noted := false } }

/-- A start-up test ends (R423, R428): the source enters service, or stays out and the failure counts. -/
def retestDone (s : State) (r fail : Nat) : State :=
  if (hsrc s r).testing then
    if fail = 0 then evt (serve s r { bits := (hsrc s r).bits }) 11 1 else failSource s r fail
  else s

/-- NS_CFG write (R422). -/
def nsCfg (s : State) (v : Word) : State :=
  if (s.mode.lc = .blank ∨ s.mode.lc = .test) ∧ bits v 31 24 ≤ 0x29 ∧ bits v 41 32 ≤ 0x320 ∧ 0x100 ≤ bits v 9 0
      ∧ 0x10 ≤ bits v 23 16 then
    wr s 0xB0010 (v &&& 0x000003FFFFFF03FF)
  else evt s 11 5
/-- NS_CFG_WRITE. -/
def execNsCfgWrite (val : Word) (s : State) : Result :=
  managerWrite s 0xB0010 fun s => nsCfg s val

/-! ## Raw bits (R420, R424, R430) -/

/-- The continuous tests 4h and 5h take a raw bit: the source's counters after it, and the failing test's code or 0. -/
def bitTests (h : Hsrc) (b : Bool) (rct apt : Nat) : Hsrc × Nat :=
  let run := if h.run ≠ 0 ∧ h.last = b then h.run + 1 else 1
  let fresh := h.winBits = 0
  let first := if fresh then b else h.winFirst
  let count := if fresh then 1 else if b = h.winFirst then h.winCount + 1 else h.winCount
  let h1 := { h with run := run, last := b, winBits := (h.winBits + 1) % 1024, winFirst := first, winCount := count }
  (h1, if rct ≤ run then 4 else if apt ≤ count then 5 else 0)

/-- Bits that destination d holds at most. -/
def destSize (d : Nat) : Nat := if d = 8 then 512 else 256

/-- The bit goes to the next destination of the rotation that is not full, or is discarded (R424). -/
def shareBit (s : State) (r : Nat) (b : Bool) : State :=
  let d0 := tget 0 s.rooms.rot r
  match ((List.range 9).map fun i => (d0 + i) % 9).find? fun d => (hearthBits s r d).length < destSize d with
  | none => s
  | some d =>
    { s with rooms := { s.rooms with
        hearth := tput [] s.rooms.hearth (9 * r + d) (hearthBits s r d ++ [b]), rot := tput 0 s.rooms.rot r ((d + 1) % 9) } }

/-- A raw bit is delivered: NS_SRC_r counts units of 1,024. -/
def countBit (s : State) (r : Nat) (h : Hsrc) : State :=
  if h.bits = 1023 then cntUp (setHsrc s r { h with bits := 0 }) (srcAddr r) 31 0
  else setHsrc s r { h with bits := h.bits + 1 }

/-- A capture ends (R431): the room returns to service, or is out with the code of the last test that failed. -/
def captureEnd (s : State) : State :=
  let n := s.ns
  let s1 := evt { s with ns := { n with capBusy := false, capValid := true, capFail := 0, capStop := false, noted := n.noted && !n.capWasIn } } 11 3
  if n.capWasIn && n.capFail != 0 then leaveService s1 n.capRoom n.capFail else s1

/-- Bits a full capture holds. -/
def captureSize : Nat := 524288

/-- A captured bit joins the buffer; a waiting abort ends the capture at the 64-bit boundary. -/
def captureBit (s : State) (b : Bool) : State :=
  if captureSize ≤ s.ns.capBits then s
  else
    let s1 := { s with ns := { s.ns with cap := s.ns.cap ++ [b], capBits := s.ns.capBits + 1 } }
    if s1.ns.capStop && s1.ns.capBits % 64 == 0 then captureEnd s1 else s1

/-- RAW_BIT (R424, R430): one sample of source r; `fail` is the code of a liveness or non-locking test that fails with it,
or 0. A source that is out of service and not captured delivers nothing. -/
def execRawBit (r : Room) (b : Bool) (fail : TestCode) (s : State) : Result :=
  let h := hsrc s r.val
  if !(h.inService || capturing s r.val) then go s
  else
    let t := bitTests h b (rdF s 0xB0010 31 24) (rdF s 0xB0010 41 32)
    let code := if fail.val ≠ 0 then fail.val else t.2
    let s1 := countBit s r.val t.1
    if capturing s r.val then
      let s2 := if code = 0 then s1 else healthFail s1 r.val code
      go (captureBit s2 b)
    else if code = 0 then go (shareBit s1 r.val b)
    else go (healthFail s1 r.val code)

/-! ## Raw capture (R429 to R432) -/

/-- CAPTURE_START (R429). -/
def captureStart (s : State) (r : Nat) : State :=
  if s.mode.lc = .analysis ∨ s.mode.lc = .retired ∨ s.ns.capBusy then evt s 11 4
  else { s with ns := { s.ns with
      capBusy := true, capRoom := r, capWasIn := (hsrc s r).inService, capFail := 0, cap := [], capBits := 0, capStop := false } }
/-- CAPTURE_START. -/
def execCaptureStart (r : Room) (s : State) : Result :=
  managerWrite s 0xB0028 fun s => captureStart s r.val

/-- CAPTURE_ABORT (R431): at a 64-bit boundary at once, else at the next one. -/
def captureAbort (s : State) : State :=
  if !s.ns.capBusy then s
  else if s.ns.capBits % 64 = 0 then captureEnd s
  else { s with ns := { s.ns with capStop := true } }
/-- CAPTURE_ABORT. -/
def execCaptureAbort (s : State) : Result :=
  managerWrite s 0xB0028 fun s => captureAbort s

/-- CAPTURE_DONE (R431): the buffer is full. -/
def execCaptureDone (s : State) : Result :=
  if s.ns.capBusy && s.ns.capBits == captureSize then go (captureEnd s) else go s

/-- CAPTURE_DATA_READ (R432): the bits read stand in NS_CAP_DATA. -/
def captureRead (s : State) : State :=
  if s.ns.cap.length < 64 then wr s 0xB0038 0
  else wr { s with ns := { s.ns with cap := s.ns.cap.drop 64 } } 0xB0038 (BitVec.ofNat 64 (bitsNum (s.ns.cap.take 64)))
/-- CAPTURE_DATA_READ. -/
def execCaptureDataRead (s : State) : Result := go (captureRead s)

/-! ## Routine 00E0h (R433) -/

/-- Bits as bytes, the first bit in bit 0 of the first byte. -/
def bitBytes (l : List Bool) : Nat → List Byte
  | 0 => []
  | n + 1 => BitVec.ofNat 8 (bitsNum (l.take 8)) :: bitBytes (l.drop 8) n

/-- A library routine on engine e: nothing happens on an engine that does not run it, or before its input is in. -/
def onRoutine (e : EngIx) (rn : Nat) (s : State) (f : Nat → Order → Engine → Result) : Result :=
  onEngine e s fun o v g => if v.routine = rn ∧ (v.inLen = 0 ∨ v.inputIn) then f o v g else go s

/-- HEARTH_RAW (R433, R202): the room number stands in the input; the four reads of the unread count see one count. -/
def execHearthRaw (e : EngIx) (s : State) : Result :=
  onRoutine e 0xE0 s fun o v _ =>
    let room := inputNum v
    if 63 < room ∨ v.outLen = 0 ∨ 65536 < v.outLen ∨ v.outLen % 8 ≠ 0 ∨ s.ns.capValid = false ∨ s.ns.capRoom ≠ room then
      go (endOrder s o .malformed 0)
    else if s.ns.cap.length < 8 * v.outLen then go (endOrder s o .rejectLimit 4)
    else
      let out := bitBytes s.ns.cap v.outLen
      let s1 := { s with ns := { s.ns with cap := s.ns.cap.drop (8 * v.outLen) } }
      go (endOrder (setOrder s1 o { v with staged := tstoreList [] 0 out }) o .done 0)

end Machine
end Sys2Proof
end

