-- ==== Sys2Proof/Machine/Larder.lean ====
section
/-! DEFINITION. The larder and the big-number engines (09): slots, the hand-off of BNSET, BNARG, BNIN, BNOUT and YIELD, the
start and the end of an operation, and engines leaving and returning. -/

namespace Sys2Proof
namespace Machine

/-! ## Slots (R236 to R239) -/

/-- First word and length in words of a slot descriptor. -/
def slotBase (d : Word) : Nat := bits d 13 0
def slotLen (d : Word) : Nat := bits d 45 32 + 1
/-- A defined slot. -/
def slotValid (d : Word) : Bool := bit d 63
/-- Whether a word lies in a slot. -/
def inSlot (d : Word) (w : Nat) : Bool := slotBase d ≤ w && w < slotBase d + slotLen d

/-- R236: why a descriptor write is refused. -/
def slotRefused (s : State) (b n : Nat) (d : Word) : Bool :=
  slotValid d && (16384 < slotBase d + slotLen d ||
    s.mem.descs.any fun p => p.1 / 1024 == b && p.1 != 1024 * b + n && slotValid p.2
      && slotBase p.2 < slotBase d + slotLen d && slotBase d < slotBase p.2 + slotLen p.2)

/-- A descriptor as it is stored: VALID, LEN and BASE. -/
def slotStored (d : Word) : Word := BitVec.ofNat 64 (fld (b2n (bit d 63)) 63 + fld (bits d 45 32) 32 + bits d 13 0)

/-- Store a descriptor word. -/
def setDesc (s : State) (b n : Nat) (d : Word) : State :=
  { s with mem := { s.mem with descs := tput 0 s.mem.descs (1024 * b + n) d } }

/-- A descriptor write, by the manager or by SDEF (R236, R237). -/
def slotDefine (s : State) (b n : Nat) (d : Word) : State :=
  if slotRefused s b n d then evt s 5 0
  else
    let old := slotDesc s b n
    setDesc (if bit old 62 then zeroWords s b (inSlot old) else s) b n (slotStored d)

/-- Words of a slot area of engine b as one number: n words from word w. -/
def areaWords (s : State) (b w n : Nat) : Nat :=
  packWords 8 ((List.range n).map fun i => (tget 0 s.mem.words (16384 * b + w + i)).toNat)

/-- Store n words of a number from word w of a slot area up. -/
def putWords (s : State) (b w n v : Nat) : State :=
  clearPoisonIf { s with mem := { s.mem with
      words := (List.range n).foldl (fun t i => tput 0 t (16384 * b + w + i) (BitVec.ofNat 64 (bytesOf v (8 * i) 8))) s.mem.words } } 6
    fun x => 32768 * b + w ≤ x && x < 32768 * b + w + n

/-- The value of a whole slot. -/
def slotVal (s : State) (b n : Nat) : Nat := areaWords s b (slotBase (slotDesc s b n)) (slotLen (slotDesc s b n))

/-- Store a value in a whole slot, its remaining words zeroed. -/
def slotPut (s : State) (b n v : Nat) : State :=
  putWords s b (slotBase (slotDesc s b n)) (slotLen (slotDesc s b n)) v

/-- Whether an order holds the slot area of engine b. -/
def areaTaken (s : State) (b : BnIx) : Bool := areaHeld s.adm.charges b

/-- A manager write of a slot descriptor. -/
def descWrite (s : State) (b : BnIx) (n : Nat) (d : Word) : State :=
  if areaTaken s b then evt s 5 1 else slotDefine s b.val n d
/-- SLOT_DESCRIPTOR_WRITE (R236, R237, R239). -/
def execSlotDescriptorWrite (b : BnIx) (n : Fin 1024) (desc : Word) (s : State) : Result :=
  managerWrite s (larderBase b.val + 0x20000 + 8 * n.val) fun s => descWrite s b n.val desc

/-- A manager write of a slot-area word. -/
def windowWrite (s : State) (b : BnIx) (w : Nat) (v : Word) : State :=
  if areaTaken s b then evt s 5 1
  else if secretWord s b.val w then s
  else putWords s b.val w 1 v.toNat
/-- LARDER_WINDOW_WRITE (R238, R239). -/
def execLarderWindowWrite (b : BnIx) (w : Fin 16384) (val : Word) (s : State) : Result :=
  managerWrite s (larderBase b.val + 8 * w.val) fun s => windowWrite s b w.val val

/-! ## Parameter sets -/

/-- The built-in sets (09, Parameter sets), fields in the order of the descriptor table. -/
def builtinSet (n : Nat) : Option PSet :=
  match n with
  | 0x00 => some { typ := 1, bitLen := 256, checked := true, fields :=
      [0xFFFFFFFF00000001000000000000000000000000FFFFFFFFFFFFFFFFFFFFFFFF,
       0xFFFFFFFF00000001000000000000000000000000FFFFFFFFFFFFFFFFFFFFFFFC,
       0x5AC635D8AA3A93E7B3EBBD55769886BC651D06B0CC53B0F63BCE3C3E27D2604B,
       0x6B17D1F2E12C4247F8BCE6E563A440F277037D812DEB33A0F4A13945D898C296,
       0x4FE342E2FE1A7F9B8EE7EB4A7C0F9E162BCE33576B315ECECBB6406837BF51F5,
       0xFFFFFFFF00000000FFFFFFFFFFFFFFFFBCE6FAADA7179E84F3B9CAC2FC632551, 1] }
  | 0x01 => some { typ := 1, bitLen := 384, checked := true, fields :=
      [0xFFFFFFFFFFFFFFFFFFFFFFFFFFFFFFFFFFFFFFFFFFFFFFFFFFFFFFFFFFFFFFFEFFFFFFFF0000000000000000FFFFFFFF,
       0xFFFFFFFFFFFFFFFFFFFFFFFFFFFFFFFFFFFFFFFFFFFFFFFFFFFFFFFFFFFFFFFEFFFFFFFF0000000000000000FFFFFFFC,
       0xB3312FA7E23EE7E4988E056BE3F82D19181D9C6EFE8141120314088F5013875AC656398D8A2ED19D2A85C8EDD3EC2AEF,
       0xAA87CA22BE8B05378EB1C71EF320AD746E1D3B628BA79B9859F741E082542A385502F25DBF55296C3A545E3872760AB7,
       0x3617DE4A96262C6F5D9E98BF9292DC29F8F41DBD289A147CE9DA3113B5F0B8C00A60B1CE1D7E819D7A431D7C90EA0E5F,
       0xFFFFFFFFFFFFFFFFFFFFFFFFFFFFFFFFFFFFFFFFFFFFFFFFC7634D81F4372DDF581A0DB248B0A77AECEC196ACCC52973, 1] }
  | 0x02 => some { typ := 2, bitLen := 255, checked := true, fields :=
      [2 ^ 255 - 19, 486662, 0x52036CEE2B6FFE738CC740797779E89800700A4D4141D8AB75EB4DCA135978A3, 9,
       2 ^ 252 + 27742317777372353535851937790883648493, 8] }
  | 0x03 => some { typ := 3, bitLen := 253, checked := true, fields := [2 ^ 252 + 27742317777372353535851937790883648493] }
  | 0x08 => some { typ := 4, bitLen := 2048, checked := true, fields := [65537] }
  | 0x09 => some { typ := 4, bitLen := 3072, checked := true, fields := [65537] }
  | 0x0A => some { typ := 4, bitLen := 4096, checked := true, fields := [65537] }
  | 0x10 => some { typ := 5, bitLen := 12, checked := true, fields := [3329, 256, 17] }
  | 0x11 => some { typ := 5, bitLen := 23, checked := true, fields := [8380417, 256, 1753] }
  | _ => none

/-- A parameter set by its number: built in, or loaded in the table given. -/
def setOf (t : Tab PSet) (n : Nat) : Option PSet := if n < 32 then builtinSet n else tfind t n

/-- The modulus a set makes active: p or q; an RSA shape has none. -/
def PSet.modulus (p : PSet) : Nat := if p.typ = 4 then 0 else p.fields.headD 0

/-! ## Service operations of the catalogue -/

/-- Whether a service operation works on a parameter set: type and number (R245, catalogue). -/
def serviceSetOk (op set : Nat) : Bool :=
  match op with
  | 0x01 | 0x02 | 0x03 => set == 0 || set == 1 || 32 ≤ set
  | 0x08 | 0x0A => set == 8 || set == 9 || set == 10
  | 0x10 => set == 0x10
  | 0x14 | 0x15 => set == 0x11
  | 0x18 => set == 2
  | _ => false

/-- Handle argument 0 of a service operation: the uses it may be named with, none where it takes no argument. -/
def serviceUses (op : Nat) : List Nat :=
  match op with
  | 0x01 | 0x14 | 0x15 => [5]
  | 0x02 => [6]
  | 0x08 => [5, 4]
  | 0x10 => [4]
  | _ => []

/-- Number of input operands. -/
def serviceIns (op : Nat) : Nat := match op with | 0x02 | 0x18 => 2 | _ => 1
/-- Number of results. -/
def serviceOuts (op : Nat) : Nat := match op with | 0x01 | 0x08 | 0x10 | 0x14 | 0x15 => 1 | _ => 0

/-- Bytes of a 64-byte multiple rounded up to words: the length a BNIN or BNOUT of n bytes has. -/
def words8 (n : Nat) : Nat := (n + 7) / 8 * 8

/-- Bytes of an operand that the catalogue fixes; 0 where it fixes none, or where a loaded set gives it. -/
def serviceInLen (op set i : Nat) : Nat :=
  match op, i with
  | 0x02, 1 => if set = 0 then 64 else if set = 1 then 96 else 0
  | 0x03, 0 | 0x0A, 0 => 64
  | 0x08, 0 => if set = 8 then 256 else if set = 9 then 384 else 512
  | 0x10, 0 => 1088
  | 0x14, 0 | 0x15, 0 => 64
  | 0x18, 0 => 32
  | 0x18, 1 => 1088
  | _, _ => 0
/-- Bytes of a result that the catalogue fixes. -/
def serviceOutLen (op set : Nat) : Nat :=
  match op with
  | 0x01 => if set = 0 then 64 else if set = 1 then 96 else 0
  | 0x08 => if set = 8 then 256 else if set = 9 then 384 else 512
  | 0x10 => 32
  | 0x14 | 0x15 => 3312
  | _ => 0

/-- An operand's length fits. -/
def lenFits (want len : Nat) : Bool := want == 0 || len == words8 want

/-- Every handle argument and input operand of a service operation is given (R245, catalogue). -/
def handWhole (op : Nat) (args ins : List Nat) : Bool :=
  ((serviceUses op).isEmpty || args.contains 0) && (List.range (serviceIns op)).all fun i => ins.contains i

/-- The hand-off is one that the loader lets through (R245). -/
def handOk (s : State) (v : Order) : Bool :=
  match v.hand.op with
  | none => false
  | some (.service op set) =>
    serviceSetOk op.val set.val && handWhole op.val (v.hand.args.map fun p => p.1) (v.hand.ins.map fun i => i.slot)
      && v.hand.args.all (fun p => p.1 == 0 && (serviceUses op.val).contains p.2.2)
      && v.hand.ins.all (fun i => i.slot < serviceIns op.val && lenFits (serviceInLen op.val set.val i.slot) i.len)
      && v.hand.outs.all (fun i => i.slot < serviceOuts op.val && lenFits (serviceOutLen op.val set.val) i.len)
  | some (.slots first n) =>
    (v.hdr.maint || s.mode.lc == .blank || s.mode.lc == .test) && 8 * first.val + 8 * (n.val + 1) ≤ v.hdr.constLen

/-! ## BNSET, BNARG, BNIN, BNOUT and YIELD (R244, R245, R143) -/

/-- A hand-off instruction: it adds to the order's hand-off and continues; none where the loader refuses the routine. -/
def handInstr (e : EngIx) (s : State) (f : HandOff → Core → Option HandOff) : Result :=
  onEngine e s fun o v g =>
    if g.second || v.hdr.bnLen == 0 then .refused .refusedByLoader
    else
      match f v.hand g.core with
      | some h => go (setCore (setOrder s o { v with hand := h }) e (advance g.core 1))
      | none => .refused .refusedByLoader

/-- BNSET. -/
def execBnset (e : EngIx) (op : BnSet) (s : State) : Result :=
  handInstr e s fun h _ => if h.op.isSome then none else some { h with op := some op }

/-- BNARG: the handle as it stands in rs (R244). -/
def execBnarg (e : EngIx) (rs : XReg) (n : Fin 4) (use : Fin 8) (s : State) : Result :=
  handInstr e s fun h c => some { h with args := tins h.args n.val (xget c rs, use.val) }

/-- Bytes a BNIN or BNOUT moves. -/
def ioLen (len8M1 : BitVec 9) : Nat := 8 * (len8M1.toNat + 1)

/-- BNIN. -/
def execBnin (e : EngIx) (ra : XReg) (slot : Fin 1024) (window big : Bool) (len8M1 : BitVec 9) (s : State) : Result :=
  handInstr e s fun h c =>
    let i : BnIo := { slot := slot.val, window := window, big := big, len := ioLen len8M1, addr := xget c ra, data := [] }
    if 8 ≤ h.ins.length || (!window && 1024 < ioLen len8M1) then none else some { h with ins := h.ins ++ [i] }

/-- BNOUT. -/
def execBnout (e : EngIx) (ra : XReg) (slot : Fin 1024) (big : Bool) (len8M1 : BitVec 9) (s : State) : Result :=
  handInstr e s fun h c =>
    let i : BnIo := { slot := slot.val, window := true, big := big, len := ioLen len8M1, addr := xget c ra, data := [] }
    if 8 ≤ h.outs.length then none else some { h with outs := h.outs ++ [i] }

/-- The range of a frame operand lies within the frame (R246). -/
def frameRangeOk (i : BnIo) : Bool := i.addr.toNat + i.len ≤ 1024

/-- A frame operand's words. -/
def ioWords (k : Nat) (i : BnIo) : List Nat :=
  (List.range ((i.addr.toNat + i.len + 7) / 8 - i.addr.toNat / 8)).map fun j => 128 * k + i.addr.toNat / 8 + j

/-- The hand-off with the bytes of its frame operands copied (R244). -/
def copyFrame (s : State) (k : Nat) (h : HandOff) : HandOff :=
  { h with ins := h.ins.map fun i =>
      if !i.window && frameRangeOk i then { i with data := tlist s.mem.win (winBase k + i.addr.toNat) i.len } else i }

/-- Values of x1 to x15. -/
def carried (c : Core) : List Word := (List.range 15).map fun i => tget 0 c.x (i + 1)

/-- The operation joins its engine's queue (R143). -/
def queueBn (s : State) (o : Nat) (b : Option BnIx) : State :=
  match b with
  | none => s
  | some b =>
    let g := tget {} s.bn.engs b.val
    { s with bn := { s.bn with engs := tput {} s.bn.engs b.val { g with queue := g.queue ++ [o] } } }

/-- YIELD (R143, R244): the frame's operands are copied, frame and engine given up, the operation handed over. -/
def execYield (e : EngIx) (target : BitVec 26) (s : State) : Result :=
  onEngine e s fun o v g =>
    if g.second || v.hdr.bnLen == 0 || !handOk s v then .refused .refusedByLoader
    else withArgs s o v false <|
      let k := frameOf v
      if v.hand.ins.any fun i => !i.window && frameRangeOk i && poisoned s 0 (ioWords k i) then go (endOrder s o .poison 0)
      else
        let v1 := { v with hand := { copyFrame s k v.hand with eng := e.val }, carry := carried g.core,
                           yieldPc := target.toNat % 1024, phase := .bnQueued }
        go (queueBn (setOrder (leaveRoom s v) o v1) o v.bnEng)

/-! ## The start of an operation (R113, R244, R246, R248, R250 to R252, R259) -/

/-- Engine b. -/
def bnEng (s : State) (b : BnIx) : BnEng := tget {} s.bn.engs b.val
/-- Store engine b. -/
def setBn (s : State) (b : BnIx) (g : BnEng) : State := { s with bn := { s.bn with engs := tput {} s.bn.engs b.val g } }

/-- The queued operation whose window ends first; the earlier admission on a tie (R113). -/
def nextBn (s : State) (b : BnIx) : Option (Nat × Order) :=
  let q := (bnEng s b).queue.filterMap fun o => (order? s o).map fun v => (o, v)
  q.foldl (fun m p => match m with
    | none => some p
    | some r => if rankLe r.2 p.2 then some r else some p) none

/-- Whether an operand's range lies inside its window's pages, or inside the frame (R246). -/
def ioInside (v : Order) (out : Bool) (i : BnIo) : Bool :=
  if !i.window then frameRangeOk i
  else
    let base := if out then 0x101000000 else 0x100000000
    let len := ceilDiv (if out then v.outLen else v.inLen) 4096 * 4096
    base ≤ i.addr.toNat && i.addr.toNat + i.len ≤ base + len

/-- The first operand that lies outside: its address and path (R163: 2h for a window, 1h for the frame). -/
def ioFault (v : Order) : Option (Nat × Bool) :=
  match v.hand.ins.find? fun i => !ioInside v false i with
  | some i => some (i.addr.toNat, false)
  | none => (v.hand.outs.find? fun i => !ioInside v true i).map fun i => (i.addr.toNat, true)

/-- Bytes of an input operand at the start. -/
def ioBytes (v : Order) (i : BnIo) : List Nat :=
  if i.window then (List.range i.len).map fun j => ((v.input.drop (i.addr.toNat - 0x100000000 + j)).headD 0).toNat
  else i.data.map BitVec.toNat

/-- Value of an input operand: little-endian, or big-endian with ORDER 1. -/
def ioVal (v : Order) (i : BnIo) : Nat := packBytes (if i.big then (ioBytes v i).reverse else ioBytes v i)

/-- Parts 1 and up of a chain, read for their material: the state after the reads and the packed material, 32 bytes a part;
none when a part is unreadable. -/
def pullParts (s : State) (r0 : Rec) (reads : List CellarRead) : Nat → Nat → Nat → State × Option Nat
  | 0, _, acc => (s, some acc)
  | n + 1, p, acc =>
    let s1 := cellarRead s r0.slice (r0.index + p) ((reads.drop p).headD .clean)
    match tfind s1.ks.recs (r0.index + p) with
    | some r =>
      if unreadable s1 (r0.index + p) then (s1, none)
      else pullParts s1 r0 reads n (p + 1) (acc + fld r.mat.toNat (256 * p))
    | none => (s1, none)

/-- The whole material of a chain, or the failing status. -/
def pullChain (s : State) (h : Word) (use : Nat) (reads : List CellarRead) : State × Except Status Nat :=
  match keyChecks s h use 0 (reads.headD .clean) .clean with
  | (s1, .error st) => (s1, .error st)
  | (s1, .ok r) =>
    match pullParts s1 r reads (r.chainLen - 1) 1 r.mat.toNat with
    | (s2, some m) => (s2, .ok m)
    | (s2, none) => (s2, .error .poison)

/-- Whether a record type holds what a service operation on a set takes. -/
def typeFits (op set typ : Nat) : Bool :=
  match op with
  | 0x01 => if set = 0 then typ == 0x10 else if set = 1 then typ == 0x11 else typ == 0x10 || typ == 0x11
  | 0x02 => if set = 0 then typ == 0x18 else if set = 1 then typ == 0x19 else typ == 0x18 || typ == 0x19
  | 0x08 => typ == (if set = 8 then 0x20 else if set = 9 then 0x21 else 0x22)
  | 0x10 => typ == 0x30
  | 0x14 | 0x15 => typ == 0x31
  | _ => true

/-- Check one handle argument and pull its material (R248, R250), with the key-use permission (13 R374). -/
def pullArg (s : State) (v : Order) (op : Option BnSet) (h : Word) (use : Nat) (reads : List CellarRead) :
    State × Except Status Nat :=
  let dak := match op with
    | some (.service op set) => h == 0 && op.val == 1 && set.val == 1 && v.routine == 0x58
    | _ => false
  if dak then (s, if s.keys.dak then .ok (dakScalar s) else .error .noKey)
  else if h = 0 then (s, .error .noKey)
  else if !mayNameKey v h then (countSpoof s v.slice.val, .error .spoof)
  else if !s.tp.keyUse then (s, .error .locked)
  else
    match pullChain s h use reads with
    | (s1, .error st) => (s1, .error st)
    | (s1, .ok m) =>
      match op with
      | some (.service op set) => if typeFits op.val set.val (hType h) then (s1, .ok m) else (s1, .error .policy)
      | _ => (s1, .ok m)

/-- Reads that one argument's chain consumes. -/
def readsOf (s : State) (h : Word) : Nat :=
  match liveRec s h with
  | some r => r.chainLen
  | none => 1

/-- Check and pull every handle argument in order. -/
def pullArgs (v : Order) : List (Nat × Word × Nat) → State → List CellarRead → Tab Nat → State × Except Status (Tab Nat)
  | [], s, _, acc => (s, .ok acc)
  | p :: r, s, reads, acc =>
    match pullArg s v v.hand.op p.2.1 p.2.2 reads with
    | (s1, .error st) => (s1, .error st)
    | (s1, .ok m) => pullArgs v r s1 (reads.drop (readsOf s p.2.1)) (tput 0 acc p.1 m)

/-- Why the parameter set of a service operation ends it (R251, R260). -/
def setRefusal (s : State) (op set : Nat) : Option Status :=
  match setOf s.bn.psets set with
  | none => some .malformed
  | some p =>
    if op < 4 ∧ (p.typ ≠ 1 ∨ 384 < p.bitLen) then some .malformed
    else if !p.checked && !(s.mode.lc == .blank || s.mode.lc == .test) then some .policy
    else none

/-- The DRBG of engine b may serve a request: whether it runs, and the state after a seeding that was due (R252). One that
fell due with no source in service holds the DRBG until a seeding completes; with a short pool it runs on its seed, where it
has one. -/
def drbgReady (s : State) (b : BnIx) : Bool × State :=
  let g := bnEng s b
  if g.seeded && !g.drbgHeld && decide (g.drbgReqs < 65536) then (true, s)
  else
    match nextSource s (8 * (b.val / 2) + 7) with
    | none => (false, setBn s b { g with drbgHeld := true })
    | some r =>
      if (hearthBits s r 8).length < 384 then (g.seeded && !g.drbgHeld, s)
      else (true, setBn (dropBits s r 8 384) b { g with drbgReqs := 0, seeded := true, drbgHeld := false })

/-- n requests are counted. -/
def drbgCount (s : State) (b : BnIx) (n : Nat) : State :=
  let g := bnEng s b
  setBn s b { g with drbgReqs := g.drbgReqs + n }

/-- A larder word that the operation reads is corrected, or has an uncorrectable error (16 R435, BN_ECC_CNT). -/
def larderCE (s : State) : State := evt (cntUp (memCE s 6 1) 0x50030 31 0) 5 6
def larderUE (s : State) : State := evt (cntUp (memUE s 6 1) 0x50030 63 32) 5 5

/-- The order's operation ends at once, and its order with it: the engine goes idle (R248). -/
def bnStop (s : State) (o : Nat) (st : Status) : State := endOrder s o st 0

/-- Window faults of an operation are recorded like an engine's (R246, R163). -/
def bnDoorFault (s : State) (o : Nat) (v : Order) (addr : Nat) (write : Bool) : State :=
  doorFault s v.hand.eng o v addr 2 write

/-- Inputs whose slot is defined now are written at the start. -/
def fillSlots (s : State) (b : Nat) (ins : Tab Nat) : State :=
  ins.foldl (fun s p => if slotValid (slotDesc s b p.1) then slotPut s b p.1 p.2 else s) s

/-- The result of the running operation. -/
def setResult (s : State) (b : BnIx) (st : Status) (val : Word) (attempts : Nat) : State :=
  setBn s b { bnEng s b with result := some (st, val, attempts) }

/-- The operation runs: inputs read, sets taken as they stand (R244, R259). -/
def beginBn (s : State) (b : BnIx) (o : Nat) (v : Order) (keys : Tab Nat) : State :=
  let ins := v.hand.ins.foldl (fun t i => tins t i.slot (ioVal v i)) ([] : Tab Nat)
  let g := bnEng s b
  let s1 := setBn s b { clearBn g with running := some o, queue := g.queue.filter (· != o), keyIn := keys, inputs := ins,
                                       sets := s.bn.psets, started := runNow s }
  let s2 := setOrder s1 o { v with phase := .bnRunning }
  match v.hand.op with
  | some (.service op set) =>
    match setRefusal s2 op.val set.val with
    | some st => setResult s2 b st 0 0
    | none => s2
  | _ => fillSlots s2 b.val ins

/-- An input in the input window has not arrived. -/
def inputWaits (v : Order) : Bool := v.hand.ins.any (fun i => i.window) && v.inLen != 0 && !v.inputIn

/-! ## Engines leaving and returning (R264) -/

/-- Insert a unit in key order. -/
def insUnit (u : Unit) : List Unit → List Unit
  | [] => [u]
  | x :: r => if u.key ≤ x.key then u :: x :: r else x :: insUnit u r

/-- Place units one at a time, in order of slice and then class, each on the first engine that passes the test. -/
def placeAll (s : State) (l : Layout) (placed pending : List Unit) : List Unit :=
  (pending.foldr insUnit []).foldl (fun us u =>
    us ++ [⟨u.key, bnPlace s { l with units := us } s.adm.charges (tget {} l.grants u.key).bnMaxl (winW (u.key % 8)) false⟩]) placed

/-- The units with those that no engine holds placed again. -/
def replaceUnits (s : State) : State :=
  let re := fun (l : Layout) => placeAll s l (l.units.filter fun u => u.eng.isSome) (l.units.filter fun u => u.eng.isNone)
  { s with adm := { s.adm with units := re (layoutNew s), oldUnits := re (layoutOld s) } }

/-- The units of engine b lose their place. -/
def unplace (s : State) (b : BnIx) : State :=
  let off := fun (u : Unit) => if u.eng = some b then { u with eng := none } else u
  { s with adm := { s.adm with units := s.adm.units.map off, oldUnits := s.adm.oldUnits.map off } }

/-- Orders placed on engine b whose operation has not ended. -/
def placedOn (s : State) (b : BnIx) : List (Nat × Order) :=
  s.adm.orders.filter fun p => p.2.bnEng == some b && p.2.accepted && (match p.2.phase with
    | .queued false | .running _ false | .preempted false | .bnQueued | .bnRunning => true
    | _ => false)

/-- BN_ENG_b.IN and BN_STATUS.ENG_IN. -/
def bnInBits (s : State) (b : BnIx) (on : Bool) : State :=
  wrF (wrF s 0x50000 (16 + b.val) (16 + b.val) (b2n on)) (0x50100 + 8 * b.val) 63 63 (b2n on)

/-- Engine b leaves service (R264). -/
def bnLeave (s : State) (b : BnIx) : State :=
  if (bnEng s b).out then s
  else
    let s1 := (placedOn s b).foldl (fun s p => deadlineFault s p.1 p.2 3) s
    let s2 := zeroWords s1 b.val fun _ => true
    let s3 := setBn s2 b { clearBn (bnEng s2 b) with out := true, testing := false }
    evt (replaceUnits (unplace (bnInBits s3 b false) b)) 5 4

/-- A larder word that the operation reads has an uncorrectable error: its order ends with POISON; the second error of one
word takes the engine out of service (R248, R264). -/
def larderFails (s : State) (b : BnIx) (o w : Nat) : State :=
  let s1 := larderUE s
  let t := secondError (bnStop (if w < 16384 then poisonWord s1 6 (32768 * b.val + w) else s1) o .poison) 6 (32768 * b.val + w)
  if t.2 then bnLeave t.1 b else t.1

/-! ## Start and end -/

/-- BN_OPERATION_START (R113, R246, R248): engine b is in service and idle, and an operation is queued. `ecc` is what the
larder words that the operation reads show, at `word`. -/
def execBnOperationStart (b : BnIx) (reads : List CellarRead) (ecc : Ecc) (word : Fin 32768) (s : State) : Result :=
  let g := bnEng s b
  if g.out || g.running.isSome then go s
  else
    match nextBn s b with
    | none => go s
    | some (o, v) =>
      if inputWaits v then go s
      else
        match ioFault v with
        | some f => go (bnDoorFault s o v f.1 f.2)
        | none =>
          match pullArgs v v.hand.args s reads [] with
          | (s1, .error st) => go (bnStop s1 o st)
          | (s1, .ok keys) =>
            match ecc with
            | .uncorrectable => go (larderFails s1 b o word.val)
            | .corrected => go (beginBn (larderCE s1) b o v keys)
            | .ok => go (beginBn s1 b o v keys)

/-! ## The end of an operation (R247, R261 to R263) -/

/-- x16 of the second phase (R247). -/
def outcomeWord (st : Status) (val : Word) (attempts : Nat) : Word :=
  if st = .done then val else BitVec.ofNat 64 (fld 0xFFFF 48 + fld (attempts % 65536) 16 + stCode st)

/-- Value of a result operand. -/
def outVal (s : State) (b : BnIx) (v : Order) (i : BnIo) : Nat :=
  match v.hand.op with
  | some (.slots _ _) => slotVal s b.val i.slot
  | _ => tget 0 (bnEng s b).outs i.slot

/-- Bytes of a value, least significant first, or most significant first with ORDER 1. -/
def outBytes (big : Bool) (n v : Nat) : List Byte :=
  (if big then (unpackBytes n v).reverse else unpackBytes n v).map (BitVec.ofNat 8)

/-- The order's staged output with the results of a DONE operation (R244). -/
def stageOuts (s : State) (b : BnIx) (v : Order) : Tab Byte :=
  v.hand.outs.foldl (fun t i => tstoreList t (i.addr.toNat - 0x101000000) (outBytes i.big i.len (outVal s b v i))) v.staged

/-- A result slot of a slot program holds a poisoned word (R248). -/
def outsPoisoned (s : State) (b : BnIx) (v : Order) : Bool :=
  match v.hand.op with
  | some (.slots _ _) => v.hand.outs.any fun i =>
      let d := slotDesc s b.val i.slot
      poisoned s 6 ((List.range (slotLen d)).map fun w => 32768 * b.val + slotBase d + w)
  | _ => false

/-- BN_OPERATION_END (R247, R248, R261): the outputs of DONE are staged, the engine cleared, the second phase queued; a
poisoned result word completes the order instead. -/
def execBnOperationEnd (b : BnIx) (s : State) : Result :=
  let g := bnEng s b
  match g.running, g.result with
  | some o, some (st, val, att) =>
    match order? s o with
    | none => go (setBn s b (clearBn g))
    | some v =>
      if st = .done ∧ outsPoisoned s b v = true then go (bnStop s o .poison)
      else
        let staged := if st = .done then stageOuts s b v else v.staged
        let s1 := cntUp (setBn s b (clearBn g)) (0x50100 + 8 * b.val) 31 0
        go (setOrder s1 o { v with phase := .queued true, x16 := outcomeWord st val att, staged := staged })
  | _, _ => go s

/-- BN_OVERRUN (R262): at the earliest in the beat in which more cycles than BN_LEN × 998 can have run. -/
def execBnOverrun (b : BnIx) (s : State) : Result :=
  let g := bnEng s b
  match g.running with
  | none => go s
  | some o =>
    match order? s o with
    | none => go s
    | some v =>
      if g.result.isNone && decide (998 * v.hdr.bnLen < 1000 * (runNow s + 1 - g.started)) then
        go (endOrder (evt (cntUp s 0x50028 31 0) 5 3) o .deadlineFault 0)
      else go s

/-! ## Taking out and returning engines (R264) -/

/-- BN_ENGINE_TAKE_OUT (R264). -/
def execBnEngineTakeOut (b : BnIx) (s : State) : Result :=
  managerWrite s 0x50038 fun s => bnLeave s b

/-- A returned engine runs its self-test. -/
def bnReturn (s : State) (b : BnIx) : State := if (bnEng s b).out then setBn s b { bnEng s b with testing := true } else s
/-- BN_ENGINE_RETURN (R264). -/
def execBnEngineReturn (b : BnIx) (s : State) : Result :=
  managerWrite s 0x50038 fun s => bnReturn s b

/-- BN_SELFTEST_DONE (R264): the engine re-enters service and takes unplaced units. -/
def execBnSelftestDone (b : BnIx) (s : State) : Result :=
  if (bnEng s b).testing then
    go (replaceUnits (bnInBits (setBn s b { bnEng s b with out := false, testing := false }) b true))
  else go s

end Machine
end Sys2Proof
end

