-- ==== Sys2Proof/Machine/BnService.lean ====
section
/-! DEFINITION. The service operations of the big-number engines (09). The arithmetic that an external standard gives
(the lattice schemes, prime search) is a free function of its operands; curve arithmetic and RSA CRT are computed. -/

namespace Sys2Proof
namespace Machine

/-- A service operation on engine b: it runs one of the operations named, and its result is not fixed yet. -/
def onService (b : BnIx) (ops : List Nat) (s : State) (f : Nat → Nat → Order → State) : Result :=
  let g := bnEng s b
  match g.running, g.result with
  | some o, none =>
    match order? s o with
    | none => go s
    | some v =>
      match v.hand.op with
      | some (.service op set) => if ops.contains op.val then go (f op.val set.val v) else go s
      | _ => go s
  | _, _ => go s

/-- An operation that draws random values: REJECT_LIMIT while a due reseed has no source (R252); otherwise n requests. -/
def withDrbg (s : State) (b : BnIx) (n : Nat) (f : State → State) : State :=
  match drbgReady s b with
  | (false, s1) => setResult s1 b .rejectLimit 0 0
  | (true, s1) => f (drbgCount s1 b n)

/-- The set a service operation works on, and the bytes of one of its field elements. -/
def svcSet (s : State) (b : BnIx) (set : Nat) : PSet := (setOf (bnEng s b).sets set).getD {}
def fieldBytes (p : PSet) : Nat := ceilDiv p.bitLen 8

/-- Input operand i and the material of argument 0. -/
def svcIn (s : State) (b : BnIx) (i : Nat) : Nat := tget 0 (bnEng s b).inputs i
def svcKey (s : State) (b : BnIx) : Nat := tget 0 (bnEng s b).keyIn 0

/-- Result operand 0 and the value of a DONE operation. -/
def svcDone (s : State) (b : BnIx) (out : Nat) (val : Word) (attempts : Nat) : State :=
  let s1 := setBn s b { bnEng s b with outs := tput 0 (bnEng s b).outs 0 out }
  setResult s1 b .done val attempts

/-- The curve of a Weierstrass set. -/
def setCurve (p : PSet) : Curve :=
  let f := fun i => (p.fields.drop i).headD 0
  { p := f 0, a := f 1, b := f 2, g := (f 3, f 4), n := f 5 }

/-- The integer of the digest that input 0 holds. -/
def svcDigest (s : State) (b : BnIx) (v : Order) (c : Curve) : Nat :=
  let len := match v.hand.ins.find? fun i => i.slot == 0 with
    | some i => i.len
    | none => 0
  digestInt c (8 * len) (svcIn s b 0)

/-- A private scalar below the group order of a set: any from 1 to n − 1, drawn. -/
def drawScalar (s : State) (p : PSet) : Nat × State :=
  let d := draw 384 s
  (d.1.toNat % ((p.fields.drop 5).headD 2 - 1) + 1, d.2)

/-- ECDSA_SIGN (R202, R250): attempt `attempts` is the first whose nonce lies below the group order; 0 says that both
failed. -/
def execEcdsaSign (b : BnIx) (attempts : Fin 3) (s : State) : Result :=
  onService b [1] s fun _ set v =>
    withDrbg s b (if attempts = 0 then 2 else attempts.val) fun s =>
      if attempts = 0 then setResult s b .rejectLimit 0 2
      else
        let p := svcSet s b set
        let d := drawScalar s p
        let c := setCurve p
        let sig := c.sign (svcKey s b) d.1 (svcDigest s b v c)
        svcDone d.2 b (sig.1 * 2 ^ (8 * fieldBytes p) + sig.2) (BitVec.ofNat 64 attempts.val) attempts.val

/-- The signature r then s of input 1 verifies on the digest of input 0 under the public key x then y of argument 0. -/
def svcVerifies (s : State) (b : BnIx) (set : Nat) (v : Order) : Bool :=
  let p := svcSet s b set
  let n := fieldBytes p
  let c := setCurve p
  let sig := svcIn s b 1
  c.verify (bytesOf (svcKey s b) 0 n, bytesOf (svcKey s b) n n) (svcDigest s b v c) (sig / 2 ^ (8 * n)) (sig % 2 ^ (8 * n))

/-- ECDSA_VERIFY (R248): 0, or AUTH_FAIL on a mismatch. -/
def execEcdsaVerify (b : BnIx) (s : State) : Result :=
  onService b [2] s fun _ set v => setResult s b (if svcVerifies s b set v then .done else .authFail) 0 0

/-- A key as n parts of 32 bytes, part 0 the lowest. -/
def keyParts (n v : Nat) : List Key256 := (List.range n).map fun i => BitVec.ofNat 256 (bytesOf v (32 * i) 32)

/-- A key record made by an operation (R249): MALFORMED for a template of another type or one that step 1 of R210 refuses
for part 0, the status of a later step, or the new handle. -/
def makeRecord (s : State) (b : BnIx) (v : Order) (typ key pick attempts : Nat) : State :=
  let t := tmplOf (svcIn s b 0)
  if t.typ ≠ typ ∨ t.part ≠ 0 ∨ formOk .routine t = false then setResult s b .malformed 0 0
  else
    match createChain s .routine v.slice t (keyParts (t.chainM1 + 1) key) pick with
    | (s1, .error st) => setResult s1 b st 0 attempts
    | (s1, .ok h) => setResult s1 b .done h attempts

/-- EC_KEYGEN (R202, R249). -/
def execEcKeygen (b : BnIx) (attempts : Fin 3) (pick : Nat) (s : State) : Result :=
  onService b [3] s fun _ set v =>
    withDrbg s b (if attempts = 0 then 2 else attempts.val) fun s =>
      if !v.hdr.supv then setResult s b .policy 0 0
      else if attempts = 0 then setResult s b .rejectLimit 0 2
      else
        let d := drawScalar s (svcSet s b set)
        makeRecord d.2 b v (if (svcSet s b set).bitLen ≤ 256 then 0x10 else 0x11) d.1 pick attempts.val

/-- RSA CRT of a message under packed p, q, dp, dq, qinv of n bytes each, part by part (08, record types). -/
def rsaCrt (n key msg : Nat) : Nat :=
  let f := fun i => bytesOf key (n * i) n
  let p := f 0
  let q := f 1
  let m1 := powMod p (msg % p) (f 2) (8 * n)
  let m2 := powMod q (msg % q) (f 3) (8 * n)
  let h := f 4 * (m1 + p - m2 % p) % p
  m2 + h * q

/-- RSA_CRT_PRIV (R248). -/
def execRsaCrtPriv (b : BnIx) (s : State) : Result :=
  onService b [8] s fun _ set _ =>
    svcDone s b (rsaCrt (ceilDiv (svcSet s b set).bitLen 16) (svcKey s b) (svcIn s b 0)) 0 0

/-- A prime of n bytes that the search of FIPS 186-5 finds from a DRBG output: Miller–Rabin rounds and the prime-distance
test are that standard's (R249). -/
def searchPrime (n seed other : Nat) : Nat := Config.external 63 [n, seed, other] % 2 ^ (8 * n)

/-- p, q, dp, dq, qinv of n bytes each (08, record types 20h to 22h), with e = 65,537. -/
def rsaKey (n : Nat) (s : State) : Nat × State :=
  let d1 := draw 2048 s
  let d2 := draw 2048 d1.2
  let p := searchPrime n d1.1.toNat 0
  let q := searchPrime n d2.1.toNat p
  (packWords n [p, q, invMod 65537 (p - 1), invMod 65537 (q - 1), invMod (q % p) p], d2.2)

/-- RSA_KEYGEN (R202, R249): candidates drawn for the prime that took the most; 0, or more than 8,192, says that one prime
was not found. -/
def execRsaKeygen (b : BnIx) (attempts pick : Nat) (s : State) : Result :=
  onService b [0x0A] s fun _ set v =>
    withDrbg s b (min 8192 (max 1 attempts)) fun s =>
      if !v.hdr.supv then setResult s b .policy 0 0
      else if attempts = 0 ∨ 8192 < attempts then setResult s b .rejectLimit 0 8192
      else
        let k := rsaKey (if set = 8 then 128 else if set = 9 then 192 else 256) s
        makeRecord k.2 b v (if set = 8 then 0x20 else if set = 9 then 0x21 else 0x22) k.1 pick attempts

/-- MLKEM_DECAPS (R248). -/
def execMlkemDecaps (b : BnIx) (s : State) : Result :=
  onService b [0x10] s fun _ _ _ => svcDone s b (Config.external 12 [svcKey s b, svcIn s b 0] % 2 ^ 256) 0 0

/-- MLDSA_SIGN (R202): the signing iterations made; 0, or more than the limit, says that every one was rejected. -/
def execMldsaSign (b : BnIx) (attempts : Nat) (s : State) : Result :=
  onService b [0x14, 0x15] s fun op _ _ =>
    let limit := if op = 0x14 then 24 else 100
    withDrbg s b (min limit (max 1 attempts)) fun s =>
      if attempts = 0 ∨ limit < attempts then setResult s b .rejectLimit 0 limit
      else
        let d := draw 256 s
        svcDone d.2 b (Config.external 13 [svcKey s b, svcIn s b 0, d.1.toNat] % 2 ^ (8 * 3309)) (BitVec.ofNat 64 attempts) attempts

/-- The template of a transport record (R231): type 41h, unwrap, EPHEMERAL, no group. -/
def transportTmpl : Tmpl :=
  { typ := 0x41, part := 0, chainM1 := 0, matLen := 32, policy := 4, flags := 2, grp := 0, expiry := 0, rsvd := 0, handle := 0,
    tail := 0 }

/-- The transport key of R231 from the ciphertext, the peer's value and the order's slice tag; none when ss_x is zero. -/
def transportKey (s : State) (c p tag : Nat) : Option Key256 :=
  let ssk := Config.external 12 [identSeed s, c] % 2 ^ 256
  let ssx := x25519 (identX s) p
  if ssx = 0 then none
  else
    let t := unpackBytes 1088 c ++ unpackBytes 32 p ++ unpackBytes 32 (identPub s) ++ unpackBytes 4 tag
               ++ unpackBytes 4 (rdF s 0x40068 31 0)
    some (BitVec.ofNat 256 (derive ssk (ascii "PSN5120-TK")
      (unpackBytes 32 ssx ++ unpackBytes 32 (sha256 1160 (packBytes t))) 32))

/-- HYBRID_OPEN (R231, R249): input 0 the X25519 value, input 1 the ciphertext. -/
def execHybridOpen (b : BnIx) (pick : Nat) (s : State) : Result :=
  onService b [0x18] s fun _ _ v =>
    if !v.hdr.supv then setResult s b .policy 0 0
    else if !s.keys.ident then setResult s b .noKey 0 0
    else
      match transportKey s (svcIn s b 1) (svcIn s b 0) v.tag with
      | none => setResult s b .malformed 0 0
      | some k =>
        match keyStorePut s (originOf v) v.slice transportTmpl k .clean pick with
        | (s1, .error st) => setResult s1 b st 0 0
        | (s1, .ok h) => setResult s1 b .done h 0

end Machine
end Sys2Proof
end

