-- ==== Sys2Proof/Machine/BnProgram.lean ====
section
/-! DEFINITION. Slot programs: the instruction set of the big-number engines (09). -/

namespace Sys2Proof
namespace Machine

/-! ## Running an instruction -/

/-- SLOT_PROGRAM_START (R253). -/
def execSlotProgramStart (b : BnIx) (s : State) : Result :=
  let g := bnEng s b
  match g.running, g.result with
  | some o, none =>
    match order? s o with
    | some v =>
      match v.hand.op with
      | some (.slots _ _) => if g.inProg then go s else go (setBn s b { g with inProg := true, pc := 0, loops := [] })
      | _ => go s
    | none => go s
  | _, _ => go s

/-- Run an instruction on engine b: it runs a slot program that has not ended. -/
def onProg (b : BnIx) (s : State) (f : Nat → Order → BnEng → Result) : Result :=
  let g := bnEng s b
  match g.running, g.result with
  | some o, none =>
    match order? s o with
    | some v => if g.inProg then f o v g else go s
    | none => go s
  | _, _ => go s

/-- Continue after instruction i of the program. -/
def bnNext (s : State) (b : BnIx) (i : Nat) : State :=
  let g := bnEng s b
  let n := loopNext g.loops i
  setBn s b { g with loops := n.1, pc := n.2 }

/-- Continue with the next instruction. -/
def bnStep (s : State) (b : BnIx) : State := bnNext s b (bnEng s b).pc

/-- Larder words of a slot, from word 0 up, n of them. -/
def slotWords (s : State) (b n len : Nat) : List Nat :=
  (List.range len).map fun i => 32768 * b + slotBase (slotDesc s b n) + i

/-- A slot that is defined and holds at least n words. -/
def slotHolds (s : State) (b : BnIx) (n : Nat) (slot : Fin 1024) : Bool :=
  slotValid (slotDesc s b.val slot.val) && n ≤ slotLen (slotDesc s b.val slot.val)

/-- An instruction that reads slots and writes slots, each with the words it takes; the loader refuses a slot that is not
defined or too short (R253), and a poisoned word that is read ends the order (R248). -/
def slotInstr (b : BnIx) (s : State) (reads writes : BnEng → List (Fin 1024 × Nat)) (f : Nat → Order → BnEng → State) :
    Result :=
  onProg b s fun o v g =>
    if !((reads g ++ writes g).all fun p => slotHolds s b p.2 p.1) then .refused .refusedByLoader
    else if poisoned s 6 ((reads g).flatMap fun p => slotWords s b.val p.1.val p.2) then go (bnStop s o .poison)
    else go (f o v g)

/-- Value of the n low words of a slot. -/
def slotLow (s : State) (b : BnIx) (slot : Fin 1024) (n : Nat) : Nat := areaWords s b.val (slotBase (slotDesc s b.val slot.val)) n

/-- Store n words at the start of a slot and continue. -/
def slotStore (s : State) (b : BnIx) (slot : Fin 1024) (n v : Nat) : State :=
  bnStep (putWords s b.val (slotBase (slotDesc s b.val slot.val)) n v) b

/-! ## Set-up instructions -/

/-- PSEL: the active modulus and constants from a set as it stood at the operation's start (R253, R259, R260). -/
def execPsel (b : BnIx) (set : Fin 64) (lm : Fin 1024) (s : State) : Result :=
  onProg b s fun _ _ g =>
    match setOf g.sets set.val with
    | none => go (setResult s b .malformed 0 0)
    | some p =>
      let need := ceilDiv p.bitLen 64
      if !p.checked && !(s.mode.lc == .blank || s.mode.lc == .test) then go (setResult s b .policy 0 0)
      else if p.modulus = 0 then go (setResult s b .malformed 0 0)
      else if set.val < 32 then go (bnStep (setBn s b { g with modulus := p.modulus, lm := need, set := set.val }) b)
      else if lm.val = 0 ∨ 256 < lm.val then .refused .refusedByLoader
      else if lm.val < need then go (setResult s b .malformed 0 0)
      else go (bnStep (setBn s b { g with modulus := p.modulus, lm := lm.val, set := set.val }) b)

/-- PSETM: the active modulus from a slot, odd, 1 to 256 words (R254). -/
def execPsetm (b : BnIx) (a : Fin 1024) (s : State) : Result :=
  let n := slotLen (slotDesc s b.val a.val)
  if 256 < n then onProg b s fun _ _ _ => .refused .refusedByLoader
  else slotInstr b s (fun _ => [(a, n)]) (fun _ => []) fun _ v g =>
    let m := slotLow s b a n
    if s.mode.lc = .production ∧ v.hdr.maint = false then setResult s b .policy 0 0
    else if m % 2 = 0 then setResult s b .malformed 0 0
    else bnStep (setBn s b { g with modulus := m, lm := n, set := 64 }) b

/-- PULL: material of parts of an argument's chain; the slot becomes SECRET. -/
def execPull (b : BnIx) (d : Fin 1024) (arg : Fin 4) (part : Fin 1024) (countM1 : Fin 64) (s : State) : Result :=
  let n := countM1.val + 1
  slotInstr b s (fun _ => []) (fun _ => [(d, 4 * n)]) fun _ v g =>
    match tfind v.hand.args arg.val with
    | none => setResult s b .noKey 0 0
    | some h =>
      if hLen s h.1 < part.val + n then setResult s b .malformed 0 0
      else
        let s1 := setDesc s b.val d.val (setBits (slotDesc s b.val d.val) 62 62 1)
        slotStore s1 b d (4 * n) (bytesOf (tget 0 g.keyIn arg.val) (32 * part.val) (32 * n))
where
  /-- Parts of the chain that a handle names. -/
  hLen (s : State) (h : Word) : Nat :=
    match liveRec s h with
    | some r => r.chainLen
    | none => 0

/-- SDEF: a slot descriptor with VALID 1 and SECRET 0 (R236, R237); the slot's input, if it has one, is stored. -/
def execSdef (b : BnIx) (d : Fin 1024) (desc : BitVec 46) (s : State) : Result :=
  onProg b s fun _ _ g =>
    let w : Word := BitVec.ofNat 64 (desc.toNat + 2 ^ 63)
    let s1 := slotDefine s b.val d.val w
    if slotRefused s b.val d.val w then go (bnStep s1 b)
    else
      match tfind g.inputs d.val with
      | some v => go (bnStep (slotPut (setBn s1 b { bnEng s1 b with inputs := tdel g.inputs d.val }) b.val d.val v) b)
      | none => go (bnStep s1 b)

/-! ## Modular arithmetic (R255) -/

/-- A result congruent to r modulo m: r itself when every input is below m; otherwise any congruent value below
2^(64 Lm), which one being left open. -/
def congruent (s : State) (m lm r : Nat) (inside : Bool) : Nat × State :=
  if inside || m == 0 then (r, s)
  else
    let d := draw 16384 s
    (r + m * (d.1.toNat % ((2 ^ (64 * lm) - 1 - r) / m + 1)), d.2)

/-- A modular instruction with Lm-word operands: exact result of f on the operands and the modulus. Without an active
modulus it ends with MALFORMED. -/
def modInstr (b : BnIx) (d : Fin 1024) (ops : List (Fin 1024)) (s : State) (f : Nat → Nat → List Nat → Nat) : Result :=
  slotInstr b s (fun g => ops.map fun a => (a, g.lm)) (fun g => [(d, g.lm)]) fun _ _ g =>
    if g.modulus = 0 then setResult s b .malformed 0 0
    else
      let xs := ops.map fun a => slotLow s b a g.lm
      let r := congruent s g.modulus g.lm (f g.modulus g.lm xs % g.modulus) (xs.all fun x => x < g.modulus)
      slotStore r.2 b d g.lm r.1

/-- The Montgomery radix R is a power of two that the manual does not give; its exponent, and R and its inverse modulo an odd
m. -/
def radixBits (lm : Nat) : Nat := Config.external 20 [lm] % 32768
def radix (m lm : Nat) : Nat := powMod m 2 (radixBits lm) 15
def radixInv (m lm : Nat) : Nat := powMod m ((m + 1) / 2) (radixBits lm) 15

/-- MMUL: a × b × R⁻¹ mod m. -/
def execMmul (b : BnIx) (d a x : Fin 1024) (s : State) : Result :=
  modInstr b d [a, x] s fun m lm xs => xs.headD 0 * (xs.drop 1).headD 0 * radixInv m lm

/-- MADD: a + b mod m. -/
def execMadd (b : BnIx) (d a x : Fin 1024) (s : State) : Result :=
  modInstr b d [a, x] s fun _ _ xs => xs.headD 0 + (xs.drop 1).headD 0

/-- MSUB: a − b mod m. -/
def execMsub (b : BnIx) (d a x : Fin 1024) (s : State) : Result :=
  modInstr b d [a, x] s fun m _ xs => xs.headD 0 + (m - (xs.drop 1).headD 0 % m)

/-- TOM: into the Montgomery domain. -/
def execTom (b : BnIx) (d a : Fin 1024) (s : State) : Result := modInstr b d [a] s fun m lm xs => xs.headD 0 * radix m lm

/-- FROMM: out of the Montgomery domain. -/
def execFromm (b : BnIx) (d a : Fin 1024) (s : State) : Result := modInstr b d [a] s fun m lm xs => xs.headD 0 * radixInv m lm

/-- MRED: a mod m, where a has 2Lm words. -/
def execMred (b : BnIx) (d a : Fin 1024) (s : State) : Result :=
  slotInstr b s (fun g => [(a, 2 * g.lm)]) (fun g => [(d, g.lm)]) fun _ _ g =>
    if g.modulus = 0 then setResult s b .malformed 0 0
    else slotStore s b d g.lm (slotLow s b a (2 * g.lm) % g.modulus)

/-- MEXP: a^b mod m over all bits of b. -/
def execMexp (b : BnIx) (d a x : Fin 1024) (s : State) : Result :=
  let lb := slotLen (slotDesc s b.val x.val)
  slotInstr b s (fun g => [(a, g.lm), (x, lb)]) (fun g => [(d, g.lm)]) fun _ _ g =>
    if g.modulus = 0 then setResult s b .malformed 0 0
    else
      let v := slotLow s b a g.lm
      let r := congruent s g.modulus g.lm (powMod g.modulus (v % g.modulus) (slotLow s b x lb) (64 * lb)) (decide (v < g.modulus))
      slotStore r.2 b d g.lm r.1

/-- MINV: a^(m − 2) mod m. -/
def execMinv (b : BnIx) (d a : Fin 1024) (s : State) : Result :=
  modInstr b d [a] s fun m lm xs => powMod m (xs.headD 0 % m) (m - 2) (64 * lm)

/-- MUL: a × b, 2Lm words, not reduced. -/
def execBnMul (b : BnIx) (d a x : Fin 1024) (s : State) : Result :=
  slotInstr b s (fun g => [(a, g.lm), (x, g.lm)]) (fun g => [(d, 2 * g.lm)]) fun _ _ g =>
    slotStore s b d (2 * g.lm) (slotLow s b a g.lm * slotLow s b x g.lm)

/-- Element i of Le words of a value. -/
def elem (v le i : Nat) : Nat := bytesOf v (8 * le * i) (8 * le)

/-- The sum of the first n products, and whether a carry left bit 767 at any term (R257). -/
def sumProducts (va vx le : Nat) : Nat → Nat × Bool
  | 0 => (0, false)
  | n + 1 =>
    let r := sumProducts va vx le n
    let t := r.1 + elem va le n * elem vx le n
    (t % 2 ^ 768, r.2 || decide (2 ^ 768 ≤ t))

/-- SUMP (R255 to R257). -/
def execSump (b : BnIx) (d a x le : Fin 1024) (terms : BitVec 16) (s : State) : Result :=
  let n := terms.toNat + 1
  slotInstr b s (fun _ => [(a, n * le.val), (x, n * le.val)]) (fun g => [(d, g.lm)]) fun _ _ g =>
    if g.modulus = 0 ∨ le.val = 0 ∨ 6 < le.val ∨ 6 < g.lm ∨ 2 ^ 376 ≤ g.modulus then setResult s b .malformed 0 0
    else
      let va := slotLow s b a (n * le.val)
      let vx := slotLow s b x (n * le.val)
      let t := sumProducts va vx le.val n
      if t.2 then bnStep (setBn (evt (cntUp s 0x50028 63 32) 5 7) b { g with guard := true }) b
      else
        let below := (List.range n).all fun i => elem va le.val i < g.modulus && elem vx le.val i < g.modulus
        let r := congruent (setBn s b { g with guard := false }) g.modulus g.lm (t.1 % g.modulus) below
        slotStore r.2 b d g.lm r.1

/-- VRED: each element of a slot reduced in place. -/
def execVred (b : BnIx) (d le : Fin 1024) (elems : BitVec 16) (s : State) : Result :=
  let n := elems.toNat + 1
  slotInstr b s (fun _ => [(d, n * le.val)]) (fun _ => []) fun _ _ g =>
    if g.modulus = 0 then setResult s b .malformed 0 0
    else
      let v := slotLow s b d (n * le.val)
      slotStore s b d (n * le.val) (packWords (8 * le.val) ((List.range n).map fun i => elem v le.val i % g.modulus))

/-! ## Moves, comparison, random values -/

/-- MOV: L words, the length of the destination slot. -/
def execMov (b : BnIx) (d a : Fin 1024) (s : State) : Result :=
  let n := slotLen (slotDesc s b.val d.val)
  slotInstr b s (fun _ => [(a, n)]) (fun _ => [(d, n)]) fun _ _ _ => slotStore s b d n (slotLow s b a n)

/-- ZERO. -/
def execZero (b : BnIx) (d : Fin 1024) (s : State) : Result :=
  let n := slotLen (slotDesc s b.val d.val)
  slotInstr b s (fun _ => []) (fun _ => [(d, n)]) fun _ _ _ => slotStore s b d n 0

/-- CMP: EQ and LT from two slots as unsigned integers. -/
def execCmp (b : BnIx) (a x : Fin 1024) (s : State) : Result :=
  let la := slotLen (slotDesc s b.val a.val)
  let lx := slotLen (slotDesc s b.val x.val)
  slotInstr b s (fun _ => [(a, la), (x, lx)]) (fun _ => []) fun _ _ g =>
    let u := slotLow s b a la
    let w := slotLow s b x lx
    bnStep (setBn s b { g with eq := decide (u = w), lt := decide (u < w) }) b

/-- RNDM: DRBG bits masked to the bit length of m; REJ when the result is m or more (R252). -/
def execRndm (b : BnIx) (d : Fin 1024) (s : State) : Result :=
  slotInstr b s (fun _ => []) (fun g => [(d, g.lm)]) fun _ _ g =>
    if g.modulus = 0 then setResult s b .malformed 0 0
    else withDrbg s b 1 fun s =>
      let r := draw 16384 s
      let v := r.1.toNat % 2 ^ bitLength g.modulus
      slotStore (setBn r.2 b { bnEng r.2 b with rej := decide (g.modulus ≤ v) }) b d g.lm v

/-! ## Polynomials, Keccak, sampling -/

/-- q, n and ζ of the active set, none when it is not of type 05h. -/
def nttSet (g : BnEng) : Option (Nat × Nat × Nat) :=
  match setOf g.sets g.set with
  | some p => if p.typ = 5 then some (p.fields.headD 0, (p.fields.drop 1).headD 0, (p.fields.drop 2).headD 0) else none
  | none => none

/-- Words of a polynomial of the active set. -/
def polyWords (g : BnEng) : Nat :=
  match nttSet g with
  | some p => ceilDiv p.2.1 2
  | none => 1

/-- Coefficients of a polynomial, one in each 32-bit half-word. -/
def coeff (v i : Nat) : Nat := bytesOf v (4 * i) 4

/-- A polynomial instruction: coefficient i of the result from the operands; MALFORMED without an active type-05h set. -/
def polyInstr (b : BnIx) (d : Fin 1024) (ops : List (Fin 1024)) (s : State) (f : Nat × Nat × Nat → List Nat → Nat → Nat) :
    Result :=
  slotInstr b s (fun g => ops.map fun a => (a, polyWords g)) (fun g => [(d, polyWords g)]) fun _ _ g =>
    match nttSet g with
    | none => setResult s b .malformed 0 0
    | some p =>
      let xs := ops.map fun a => slotLow s b a (polyWords g)
      slotStore s b d (polyWords g) (packWords 4 ((List.range p.2.1).map fun i => f p xs i % p.1))

/-- NTT: the order and form of the transform's outputs are not printed. -/
def execNtt (b : BnIx) (d a : Fin 1024) (s : State) : Result :=
  polyInstr b d [a] s fun p xs i => Config.external 21 [p.1, p.2.1, p.2.2, xs.headD 0, i]

/-- INTT. -/
def execIntt (b : BnIx) (d a : Fin 1024) (s : State) : Result :=
  polyInstr b d [a] s fun p xs i => Config.external 22 [p.1, p.2.1, p.2.2, xs.headD 0, i]

/-- PMUL: pointwise product mod q. -/
def execPmul (b : BnIx) (d a x : Fin 1024) (s : State) : Result :=
  polyInstr b d [a, x] s fun _ xs i => coeff (xs.headD 0) i * coeff ((xs.drop 1).headD 0) i

/-- PADD: sum, or difference, mod q. -/
def execPadd (b : BnIx) (d a x : Fin 1024) (diff : Bool) (s : State) : Result :=
  polyInstr b d [a, x] s fun p xs i =>
    let y := coeff ((xs.drop 1).headD 0) i
    coeff (xs.headD 0) i + (if diff then p.1 - y % p.1 else y)

/-- KECCAK: Keccak-f[1600] on the 25 words of a slot. -/
def execKeccak (b : BnIx) (d : Fin 1024) (s : State) : Result :=
  slotInstr b s (fun _ => [(d, 25)]) (fun _ => []) fun _ _ _ => slotStore s b d 25 (keccakF (slotLow s b d 25))

/-- SAMPLE: uniform coefficients below q from the bytes of a; how bytes make coefficients, and when they run out, is not
printed. -/
def execSample (b : BnIx) (d a : Fin 1024) (s : State) : Result :=
  let la := slotLen (slotDesc s b.val a.val)
  slotInstr b s (fun _ => [(a, la)]) (fun g => [(d, polyWords g)]) fun _ _ g =>
    match nttSet g with
    | none => setResult s b .malformed 0 0
    | some p =>
      let v := slotLow s b a la
      let short := Config.external 24 [p.1, p.2.1, la, v] % 2 == 1
      slotStore (setBn s b { g with short := short }) b d (polyWords g)
        (packWords 4 ((List.range p.2.1).map fun i => Config.external 23 [p.1, p.2.1, la, v, i] % p.1))

/-! ## Control -/

/-- The flag a SKIP selects; values 5 to 7 name none. -/
def bnFlag (g : BnEng) (n : Nat) : Option Bool :=
  match n with
  | 0 => some g.eq | 1 => some g.lt | 2 => some g.rej | 3 => some g.guard | 4 => some g.short | _ => none

/-- SKIP: the next n instructions when the condition holds. A skip that would leave its loop body is refused (R253). -/
def execSkip (b : BnIx) (cond : SkipFlag) (neg : Bool) (n : BitVec 16) (s : State) : Result :=
  onProg b s fun _ _ g =>
    match bnFlag g cond.val with
    | none => .refused .refusedByLoader
    | some c =>
      let stays := match g.loops with
        | f :: _ => g.pc + n.toNat ≤ f.last
        | [] => true
      if !stays then .refused .refusedByLoader
      else go (bnNext s b (if c != neg then g.pc + n.toNat else g.pc))

/-- LOOP: the next c + 1 instructions imm + 1 times, nested at most two deep (R253). -/
def execBnLoop (b : BnIx) (bodyM1 : Fin 1024) (timesM1 : BitVec 16) (s : State) : Result :=
  onProg b s fun _ _ g =>
    let f : LoopFrame := { start := g.pc + 1, last := g.pc + 1 + bodyM1.val, left := timesM1.toNat + 1 }
    let fits := match g.loops with
      | [] => true
      | [x] => f.last ≤ x.last
      | _ => false
    if fits then go (setBn s b { g with loops := f :: g.loops, pc := g.pc + 1 }) else .refused .refusedByLoader

/-- END: the status of the operation, one that R247 lists. -/
def execBnEnd (b : BnIx) (status : BitVec 16) (s : State) : Result :=
  onProg b s fun _ _ _ =>
    match stOfCode status.toNat with
    | some st => if exitOk st then go (setResult s b st 0 0) else .refused .refusedByLoader
    | none => .refused .refusedByLoader

end Machine
end Sys2Proof
end

