-- ==== Sys2Proof/Machine/Psets.lean ====
section
/-! DEFINITION. Parameter sets: loading, the checks of R258, erasing (09). -/

namespace Sys2Proof
namespace Machine

/-- BN_PSET_STS: BUSY, REASON, STATUS. -/
def psetSts (s : State) (busy : Bool) (reason : Nat) (st : Status) : State :=
  wr s 0x50020 (BitVec.ofNat 64 (fld (b2n busy) 24 + fld reason 16 + stCode st))

/-- A set command completes. -/
def psetDone (s : State) (reason : Nat) (st : Status) : State :=
  evt (psetSts { s with bn := { s.bn with cmd := none } } false reason st) 5 2

/-- BN_PSET_STS.BUSY. -/
def psetBusy (s : State) : Bool := s.bn.cmd.isSome

/-- Number of fields of a type. -/
def psetFields (typ : Nat) : Nat := match typ with | 1 => 7 | 2 => 6 | 3 => 1 | 4 => 1 | 5 => 3 | _ => 0

/-- Big-endian number in a list of bytes. -/
def beNum (l : List Byte) : Nat := l.foldl (fun a x => a * 256 + x.toNat) 0

/-- The set a descriptor spells. -/
def psetOf (l : List Byte) : PSet :=
  let typ := ((l.drop 4).headD 0).toNat
  let n := packBytes (((l.drop 5).take 2).map BitVec.toNat)
  let w := ceilDiv n 64 * 8
  { typ := typ, bitLen := n, checked := false,
    fields := (List.range (psetFields typ)).map fun i => beNum ((l.drop (64 + w * i)).take w) }

/-- The descriptor passes REASON 04h. -/
def psetFormOk (s : State) (len : Nat) (l : List Byte) : Bool :=
  let p := psetOf l
  (l.take 4 == [0x42, 0x4E, 0x50, 0x53]) && psetFields p.typ != 0 && p.bitLen != 0
    && ((l.drop 7).take 57).all (· == 0)
    && len == 64 + psetFields p.typ * (ceilDiv p.bitLen 64 * 8) && l.length == len
    && (p.typ == 4 || bitLength (p.fields.headD 0) == p.bitLen)
    && (if s.mode.lc = .production then
          (match p.typ with
            | 1 | 2 => 224 ≤ p.bitLen && p.bitLen ≤ 384
            | 3 => 128 ≤ p.bitLen && p.bitLen ≤ 376
            | 4 => p.bitLen == 2048 || p.bitLen == 3072 || p.bitLen == 4096
            | _ => (p.fields.drop 1).headD 0 == 256)
        else p.bitLen ≤ 16384)

/-- REASON 01h and 02h of a set command. -/
def psetGate (s : State) (set : Nat) (nocheck : Bool) : Option (Nat × Status) :=
  if isLocked s then some (1, .locked)
  else if s.mode.lc = .analysis ∨ s.mode.lc = .retired ∨ set < 32
      ∨ (nocheck = true ∧ s.mode.lc ≠ .blank ∧ s.mode.lc ≠ .test) then some (2, .policy)
  else none

/-- PSET_LOAD (R258): BN_PSET_CMD with OP 1h; ignored while BUSY. -/
def execPsetLoad (set : Fin 64) (nocheck : Bool) (len : BitVec 32) (desc : HostRead (List Byte)) (s : State) : Result :=
  managerWrite s 0x50018 fun s =>
  if psetBusy s then s
  else
    match psetGate s set.val nocheck with
    | some r => psetDone s r.1 r.2
    | none =>
      match desc with
      | .failed => psetDone (dmaErr s) 3 .aborted
      | .ok l =>
        if !psetFormOk s len.toNat l then psetDone s 4 .malformed
        else if nocheck then
          psetDone { s with bn := { s.bn with psets := tins s.bn.psets set.val (psetOf l) } } 0 .done
        else psetSts { s with bn := { s.bn with cmd := some (set.val, psetOf l) } } true 0 .done

/-- Field i of a set. -/
def PSet.f (p : PSet) (i : Nat) : Nat := (p.fields.drop i).headD 0

/-- Square of the distance of two numbers. -/
def distSq (a b : Nat) : Nat := (a - b + (b - a)) * (a - b + (b - a))

/-- A nonzero square modulo a prime p. -/
def isSquare (p x : Nat) : Bool := powMod p (x % p) ((p - 1) / 2) (bitLength p) == 1

/-- REASON 12h: the curve is singular or the base point is not on it; for type 02h, A² = 4 or d a square. -/
def badCurve (p : PSet) : Bool :=
  let m := p.f 0
  let a := p.f 1
  let b := p.f 2
  if m = 0 then true
  else if p.typ = 1 then
    (4 * a * a * a + 27 * b * b) % m == 0
      || (p.f 4 * p.f 4) % m != (p.f 3 * p.f 3 * p.f 3 + a * p.f 3 + b) % m
  else
    let u := p.f 3
    let rhs := (u * u * u + a * u * u + u) % m
    (a * a) % m == 4 % m || b % m == 0 || isSquare m b || !(rhs == 0 || isSquare m rhs)

/-- Orders and cofactors of a curve set: n and h. -/
def PSet.ord (p : PSet) : Nat := if p.typ = 1 then p.f 5 else p.f 4
def PSet.cof (p : PSet) : Nat := if p.typ = 1 then p.f 6 else p.f 5

/-! ### The checker's arithmetic -/

/-- Twos in a number, by fuel. -/
def twos : Nat → Nat → Nat
  | 0, _ => 0
  | f + 1, n => if n % 2 = 0 then twos f (n / 2) + 1 else 0

/-- One Miller–Rabin round on an odd n above 3: base a gives 1, or reaches n − 1 by squaring. -/
def roundPasses (n a : Nat) : Bool :=
  let k := twos (bitLength n) (n - 1)
  let x := powMod n (a % n) ((n - 1) / 2 ^ k) (bitLength n)
  x == 1 || (List.range k).any fun i => powMod n x (2 ^ i) (k + 1) == n - 1

/-- Probable primality over a list of drawn values, each taken as a base from 2 to n − 2. -/
def probablyPrime (draws : List Nat) (n : Nat) : Bool :=
  if n < 4 then 2 ≤ n else n % 2 == 1 && draws.all fun d => roundPasses n (d % (n - 3) + 2)

/-- 64 values of the checker's DRBG for the k-th number it tests (R258). -/
def checkerDraws (s : State) (k : Nat) : List Nat :=
  (List.range 64).map fun i => (Config.freeBits 16384 (s.fresh + 64 * k + i)).toNat

/-- n × G is the point at infinity (REASON 13h). -/
def ordKills (p : PSet) : Bool :=
  let m := p.f 0
  if p.typ = 1 then (curveMul m (p.f 1) (bitLength p.ord) p.ord (some (p.f 3, p.f 4))).isNone
  else (ladder m ((p.f 1 + (m - 2)) * invMod 4 m % m) (p.f 3) p.ord (bitLength p.ord)).1.2 == 0

/-- A number that is 1, 2, 4 or 8 times a probable prime. -/
def nearPrime (draws : List Nat) (n : Nat) : Bool :=
  [1, 2, 4, 8].any fun c => n % c == 0 && probablyPrime draws (n / c)

/-- REASON 18h: q = 1 modulo 2n fails, or ζ has not order exactly 2n. -/
def badNtt (p : PSet) : Bool :=
  let k := 2 * p.f 1
  let one := fun (d : Nat) => powMod (p.f 0) (p.f 2 % p.f 0) d (bitLength k) == 1
  k == 0 || p.f 0 % k != 1 || !one k || (List.range k).any fun d => d != 0 && k % d == 0 && one d

/-- The first REASON whose condition a set meets, 0 for none, in the order of R258. -/
def firstReason (s : State) (p : PSet) : Nat :=
  let m := p.f 0
  let n := p.ord
  let h := p.cof
  if p.typ = 4 then (if m % 2 = 0 ∨ m < 65537 ∨ 2 ^ 256 ≤ m then 0x19 else 0)
  else if !probablyPrime (checkerDraws s 0) m then 0x10
  else if p.typ = 3 then 0
  else if p.typ = 5 then (if badNtt p then 0x18 else 0)
  else if !probablyPrime (checkerDraws s 1) n || n * n ≤ 16 * m then 0x11
  else if badCurve p then 0x12
  else if !ordKills p then 0x13
  else if !(h == 1 || h == 2 || h == 4 || h == 8) || 4 * m < distSq (h * n) (m + 1) then 0x14
  else if n = m ∨ ((List.range 100).any fun t => powMod n (m % n) (t + 1) 7 == 1) = true then 0x15
  else if p.typ = 2 ∧ nearPrime (checkerDraws s 2) (2 * m + 2 - h * n) = false then 0x16
  else 0

/-- PSET_CHECK_DONE (R258): the set is installed as checked, or left as it was. -/
def execPsetCheckDone (s : State) : Result :=
  match s.bn.cmd with
  | none => go s
  | some (n, p) =>
    let r := firstReason s p
    let s1 := { s with fresh := s.fresh + 192 }
    if r = 0 then go (psetDone { s1 with bn := { s1.bn with psets := tins s1.bn.psets n { p with checked := true } } } 0 .done)
    else go (psetDone s1 r .malformed)

/-- PSET_ERASE (R258): BN_PSET_CMD with OP 2h. -/
def psetErase (s : State) (set : Nat) : State :=
  if psetBusy s then s
  else
    match psetGate s set false with
    | some r => psetDone s r.1 r.2
    | none => psetDone { s with bn := { s.bn with psets := tdel s.bn.psets set } } 0 .done
/-- PSET_ERASE. -/
def execPsetErase (set : Fin 64) (s : State) : Result :=
  managerWrite s 0x50018 fun s => psetErase s set.val

/-- A set command with another OP (BN_PSET_CMD.OP). -/
def psetBadOp (s : State) : State := if psetBusy s then s else psetDone s 0 .malformed

/-- Unchecked sets are emptied when the life-cycle state leaves TEST (R260). -/
def dropUnchecked (s : State) : State :=
  { s with bn := { s.bn with psets := s.bn.psets.filter fun p => p.2.checked } }

end Machine
end Sys2Proof
end

