-- ==== Sys2Proof/Machine/Bundle.lean ====
section
/-! DEFINITION. The bundles of an image as the loader reads them (05, Bundles and encodings; 06 R169 to R188; 09, The
hand-off): every field that must be zero, every assignment of an op or fn, and the Max figure of each instruction. -/

namespace Sys2Proof
namespace Machine

/-- What the last slot of a bundle does to the flow (05, Control). -/
inductive Flow
  | next | branch (off : Nat) | jump (target : Nat) | call (target : Nat) | ret | loop (body count : Nat) (clamped : Bool)
  | exit (cost : Nat) | yield (target : Nat) | wait (fence : Bool)
deriving DecidableEq, Repr

/-- A hand-off instruction (09). -/
inductive Hand | set (op : BnSet) | arg (n use : Nat) | inp (slot len : Nat) (window : Bool) | out (slot len : Nat)
deriving DecidableEq, Repr

/-- One instruction as the loader sees it: Max cycles, record fetches, the Lmax of a DMA, whether it is an STG. -/
structure Item where
  cost  : Nat := 1
  fetch : Nat := 0
  dma   : Option Nat := none
  stg   : Bool := false
  hand  : Option Hand := none
  flow  : Flow := .next
deriving DecidableEq, Repr

/-- An instruction of a cost, where a condition on its fields holds. -/
def itemIf (ok : Bool) (cost : Nat) : Option Item := if ok then some { cost := cost } else none

/-- OPR (op 01h) by its fn. -/
def oprItem (w : BitVec 32) : Option Item :=
  let fn := bits w 10 5
  itemIf (bits w 4 0 == 0 && fn ≤ 0x15)
    (if 0x0C ≤ fn ∧ fn ≤ 0x0E then 3 else if fn = 0x0F ∨ fn = 0x10 then 34 else 1)

/-- SYS (op 1Ch) by its fn: DMAWAIT, FENCE.M, FENCE.D, TIME, RUNT, DLN, LEFT, DFR. -/
def sysItem (supv : Bool) (w : BitVec 32) : Option Item :=
  if bits w 4 0 ≠ 0 then none
  else
    match bits w 10 5 with
    | 0 => some { cost := 0, flow := .wait false }
    | 1 => some { cost := 0, flow := .wait true }
    | 2 => some { cost := 40 }
    | 3 | 4 | 5 | 6 => some { cost := 4 }
    | 7 => itemIf supv 4
    | _ => none

/-- EXIT (R144, R186): 24 cycles, and 32 more where the status clears the output. -/
def exitItem (w : BitVec 32) : Option Item :=
  match stOfCode (bits w 15 0) with
  | some st =>
    if exitOk st && bits w 20 16 == 0 then
      some { cost := 0, flow := .exit (if st = .authFail ∨ st = .rejectLimit then 56 else 24) }
    else none
  | none => none

/-- KEYLOAD and KEYOP (R169, R188). -/
def keyloadItem (w : BitVec 32) : Option Item :=
  if bits w 7 0 = 0 ∧ (bit w 14 = false ∨ bit w 13 = false) then some { cost := 600, fetch := 1 } else none
def keyopItem (w : BitVec 32) : Option Item :=
  itemIf (bits w 15 0 == 0 && (bits w 17 16 == 1 || (bits w 17 16 == 0 && bits w 25 21 == 0))) 1

/-- AES (R187, R188), with AES-256 figures. -/
def aesItem (w : BitVec 32) : Option Item :=
  let q := bit w 5
  let kd := bits w 13 12 == 2
  itemIf (bits w 4 0 == 0 && bits w 13 12 != 3 && !(kd && (q || bit w 17)) && (kd || bits w 11 7 == 0)
      && (!q || (bits w 25 22 % 4 == 0 && bits w 21 18 % 4 == 0)))
    (if bit w 17 then (if q then 34 else 16) else if q then 26 else 8)

/-- GF (R178): XTSDBL has no second operand. -/
def gfItem (w : BitVec 32) : Option Item :=
  itemIf (bits w 11 0 == 0 && (bits w 13 12 != 3 || bits w 17 14 == 0)) 2

/-- BOP (R179, R188). -/
def bopItem (w : BitVec 32) : Option Item :=
  let fn := bits w 12 9
  let q := bit w 13
  let d := bits w 25 22
  let a := bits w 21 18
  let b := bits w 17 14
  itemIf (fn ≤ 0x0A && (!q || ([0, 1, 2, 3, 7, 8].contains fn && d % 4 == 0 && a % 4 == 0 && b % 4 == 0))
      && (fn != 5 || d % 4 == 0) && (fn != 3 || a == 0) && ([0, 1, 6].contains fn || b == 0)
      && ([4, 9, 0x0A].contains fn || bits w 8 0 == 0))
    (if q ∨ fn = 5 then 2 else 1)

/-- HASH (R187, R188). -/
def hashItem (w : BitVec 32) : Option Item :=
  let mode := bits w 11 10
  let alg := bits w 15 12
  itemIf (bits w 5 0 == 0 && alg ≤ 0x0A && (mode != 3 || 5 ≤ alg) && (mode == 2 || bits w 9 6 == 0)
      && (mode == 0 || bits w 20 16 == 0))
    (if mode = 1 then 12 else 507)

/-- Max cycles of the hand-off instruction of an op: the manual states none, so it is left open. -/
def handCost (op : Nat) : Nat := Config.external 50 [op] % 64 + 1

/-- BNSET, BNARG, BNIN, BNOUT (09, The hand-off). -/
def handItem (w : BitVec 32) : Option Item :=
  let mk := fun (h : Hand) => some ({ cost := handCost (bits w 31 26), hand := some h } : Item)
  let len := 8 * (bits w 8 0 + 1)
  match bits w 31 26 with
  | 0x38 =>
    if bit w 25 then mk (.set (.slots (BitVec.ofNat 13 (bits w 24 12)).toFin (BitVec.ofNat 12 (bits w 11 0)).toFin))
    else if bits w 10 0 = 0 then
      mk (.set (.service (BitVec.ofNat 8 (bits w 24 17)).toFin (BitVec.ofNat 6 (bits w 16 11)).toFin))
    else none
  | 0x39 => if bits w 15 0 = 0 then mk (.arg (bits w 20 19) (bits w 18 16)) else none
  | 0x3A => mk (.inp (bits w 20 11) len (bit w 10))
  | _ => if bit w 10 then none else mk (.out (bits w 20 11) len)

/-- A one-slot instruction: none where R137 or R188 refuses its bits. -/
def slotItem (supv : Bool) (w : BitVec 32) : Option Item :=
  match bits w 31 26 with
  | 0x00 => itemIf (w == 0) 1
  | 0x01 => oprItem w
  | 0x02 | 0x03 | 0x04 | 0x05 => some {}
  | 0x06 => itemIf (bits w 15 8 == 0) 1
  | 0x07 | 0x08 => itemIf (bits w 20 18 == 0) 1
  | 0x0A | 0x0B | 0x0C | 0x0D | 0x0E | 0x0F | 0x10 | 0x11 => some { cost := 4 }
  | 0x12 | 0x13 => itemIf (!bit w 25) 4
  | 0x14 | 0x15 => itemIf (bits w 25 23 == 0) 6
  | 0x16 => some { cost := 212 }
  | 0x17 => some { cost := 212, stg := true }
  | 0x18 | 0x19 => itemIf (bits w 25 23 == 0) 214
  | 0x1A | 0x1B => if bit w 10 then none else some { cost := 2, dma := some (bits w 9 0 + 1) }
  | 0x1C => sysItem supv w
  | 0x1D => itemIf (supv && bits w 15 5 == 0) 4
  | 0x1E | 0x1F | 0x20 | 0x21 | 0x22 | 0x23 => some { cost := 0, flow := .branch (bits w 15 0) }
  | 0x24 => some { cost := 0, flow := .jump (bits w 25 0) }
  | 0x25 => some { cost := 0, flow := .call (bits w 25 0) }
  | 0x26 => some { cost := 0, flow := .ret }
  | 0x28 => exitItem w
  | 0x29 => some { cost := 0, flow := .yield (bits w 25 0) }
  | 0x2A => keyloadItem w
  | 0x2B => keyopItem w
  | 0x2C => aesItem w
  | 0x2D => gfItem w
  | 0x2E => bopItem w
  | 0x2F => itemIf (bits w 9 0 == 0) (if bit w 11 then 2 else 1)
  | 0x30 => hashItem w
  | 0x31 => itemIf (bits w 15 0 == 0) 2
  | 0x32 => if supv && bits w 12 0 == 0 then some { cost := 600, fetch := 1 } else none
  | 0x38 | 0x39 | 0x3A | 0x3B => handItem w
  | _ => none

/-- The instructions of two adjacent slots: a long instruction, or two short ones of which only a bundle's last slot may
control the flow or wait (R137). -/
def halfItems (supv last : Bool) (a b : BitVec 32) : Option (List Item) :=
  if bits a 31 26 = 0x09 then (if bits a 20 0 = 0 then some [{}] else none)
  else if bits a 31 26 = 0x27 then
    if last && bits a 8 0 == 0 && bits b 31 16 == 0 then
      some [{ cost := 0, flow := .loop (bits a 20 9 + 1) (bits b 15 0) (bits a 25 21 != 0) }]
    else none
  else
    match slotItem supv a, slotItem supv b with
    | some x, some y => if x.flow = .next ∧ (last = true ∨ y.flow = .next) then some [x, y] else none
    | _, _ => none

/-- The instructions of a bundle, none where the loader refuses it. -/
def bundleItems (supv : Bool) (l : List (BitVec 32)) : Option (List Item) :=
  match halfItems supv false (l.headD 0) ((l.drop 1).headD 0), halfItems supv true ((l.drop 2).headD 0) ((l.drop 3).headD 0) with
  | some x, some y => some (x ++ y)
  | _, _ => none

/-- Bundle k of an image. -/
def bundleAt (im : Image) (k : Nat) : Option (List Item) := bundleItems im.hdr.supv ((im.code.drop (4 * k)).take 4)

/-- What a bundle does to the flow. -/
def flowOf (l : List Item) : Flow := match l.getLast? with | some i => i.flow | none => .next

/-- Cycles of the last slot that count against the bundle limit: a wait's own time does not (R137). -/
def flowMax : Flow → Nat
  | .next | .wait _ => 0
  | .exit c => c
  | .yield _ => 24
  | _ => 2

/-- Max figures of a bundle's slots. -/
def bundleMax (l : List Item) : Nat := sumOf l (fun i => i.cost) + flowMax (flowOf l)

end Machine
end Sys2Proof
end

