-- ==== Sys2Proof/Machine/BnCheck.lean ====
section
/-! DEFINITION. The loader's check of a slot program and the length of its longest path (09, Slot programs, R253). -/

namespace Sys2Proof
namespace Machine

/-- What a slot program has set up on a path: the lengths of the slots defined, the active modulus length, and whether the
active set is of type 05h. -/
structure SlotEnv where
  slots : Tab Nat := []
  lm    : Nat := 0
  poly  : Bool := false
deriving DecidableEq, Repr

/-- A path through a slot program: what it has set up, its cycles, the parts it has pulled. -/
structure SlotPath where
  env   : SlotEnv := {}
  cost  : Nat := 0
  parts : Nat := 0
deriving DecidableEq, Repr

/-- Paths that agree in what they set up are one path, of the larger cycles and parts. -/
def slotJoin (p : SlotPath) : List SlotPath → List SlotPath
  | [] => [p]
  | q :: r =>
    if q.env = p.env then { q with cost := max q.cost p.cost, parts := max q.parts p.parts } :: r else q :: slotJoin p r

/-- Where a region's paths end: past its last instruction, or at END. -/
structure SlotWalk where
  past  : List SlotPath := []
  ended : List SlotPath := []
deriving DecidableEq, Repr

/-- Words of a slot that an instruction names, none where no earlier SDEF of the path defines it. -/
def SlotEnv.holds (e : SlotEnv) (slot n : Nat) : Bool :=
  match tfind e.slots slot with
  | some l => n ≤ l
  | none => false

/-- Length of a defined slot. -/
def SlotEnv.len (e : SlotEnv) (slot : Nat) : Nat := tget 0 e.slots slot

/-- Cycles of a Montgomery product of k quarter-words (09, MMUL). -/
def mulCost (lm : Nat) : Nat := 2 * ceilDiv lm 4 * ceilDiv lm 4 + 2 * ceilDiv lm 4 + 8

/-- The active modulus length and type that PSEL sets: a loaded set counts at its declared length c. -/
def pselEnv (e : SlotEnv) (set c : Nat) : Option SlotEnv :=
  if 32 ≤ set then (if 1 ≤ c ∧ c ≤ 256 then some { e with lm := c, poly := true } else none)
  else
    match builtinSet set with
    | some p => some { e with lm := ceilDiv p.bitLen 64, poly := p.typ == 5 }
    | none => some e

/-- Words of a polynomial of 256 coefficients. -/
def polyLen (e : SlotEnv) : Nat := if e.poly then 128 else 1

/-- One instruction that only goes on to the next: the path after it, none where R253 refuses it. -/
def slotStep (w : Word) (p : SlotPath) : Option SlotPath :=
  let e := p.env
  let d := bits w 55 46
  let a := bits w 45 36
  let b := bits w 35 26
  let c := bits w 25 16
  let imm := bits w 15 0
  let k := ceilDiv e.lm 4
  let go := fun (ok : Bool) (cost : Nat) => if ok then some { p with cost := p.cost + cost } else none
  let all := fun (l : List (Nat × Nat)) => l.all fun x => e.holds x.1 x.2
  match bits w 63 56 with
  | 0x01 => (pselEnv e (imm % 64) c).map fun e1 => { p with env := e1, cost := p.cost + 40 }
  | 0x02 =>
    if e.holds a 1 ∧ e.len a ≤ 256 then
      some { p with env := { e with lm := e.len a, poly := false }, cost := p.cost + 200 + 20 * e.len a * e.len a }
    else none
  | 0x03 =>
    if e.holds d (4 * (imm % 64 + 1)) then
      some { p with cost := p.cost + 600 + 64 * (imm % 64), parts := p.parts + imm % 64 + 1 }
    else none
  | 0x04 => some { p with env := { e with slots := tins e.slots d (bits w 45 32 + 1) }, cost := p.cost + 8 }
  | 0x08 => go (all [(a, e.lm), (b, e.lm), (d, e.lm)]) (mulCost e.lm)
  | 0x09 | 0x0A => go (all [(a, e.lm), (b, e.lm), (d, e.lm)]) (2 * k + 4)
  | 0x0B | 0x0C => go (all [(a, e.lm), (d, e.lm)]) (mulCost e.lm)
  | 0x0D => go (all [(a, 2 * e.lm), (d, e.lm)]) (4 * k * k + 4 * k + 12)
  | 0x0E => go (all [(a, e.lm), (b, 1), (d, e.lm)]) (128 * e.len b * mulCost e.lm + 40)
  | 0x0F => go (all [(a, e.lm), (d, e.lm)]) (128 * e.lm * mulCost e.lm + 40)
  | 0x10 => go (all [(a, e.lm), (b, e.lm), (d, 2 * e.lm)]) (2 * k * k + 4)
  | 0x11 =>
    go (1 ≤ c && c ≤ 6 && e.lm ≤ 6 && all [(a, (imm + 1) * c), (b, (imm + 1) * c), (d, e.lm)])
      (40 + (imm + 1) * (ceilDiv c 4 * ceilDiv c 4 + 1))
  | 0x12 => go (all [(d, (imm + 1) * c)]) (8 + 24 * (imm + 1))
  | 0x13 => go (all [(a, e.len d), (d, 1)]) (4 + ceilDiv (e.len d) 8)
  | 0x14 => go (all [(d, 1)]) (4 + ceilDiv (e.len d) 8)
  | 0x15 => go (all [(a, 1), (b, 1)]) (4 + ceilDiv (max (e.len a) (e.len b)) 8)
  | 0x16 => go (all [(d, e.lm)]) (24 + 2 * e.lm)
  | 0x18 => go (all [(a, polyLen e), (d, polyLen e)]) 1100
  | 0x19 => go (all [(a, polyLen e), (d, polyLen e)]) 1200
  | 0x1A => go (all [(a, polyLen e), (b, polyLen e), (d, polyLen e)]) 80
  | 0x1B => go (all [(a, polyLen e), (b, polyLen e), (d, polyLen e)]) 40
  | 0x1C => go (all [(d, 25)]) 28
  | 0x1D => go (all [(a, 1), (d, polyLen e)]) (40 + 2 * ceilDiv (e.len a) 8)
  | _ => none

/-- A path enters an instruction. -/
def slotEnter (k : Nat) (p : SlotPath) (t : Tab (List SlotPath)) : Tab (List SlotPath) := tins t k (slotJoin p (tget [] t k))

/-- A path from its start on, once a piece of program that began with nothing counted has been walked. -/
def SlotPath.after (p q : SlotPath) : SlotPath := { q with cost := p.cost + q.cost, parts := p.parts + q.parts }

/-- The passes of a loop: the paths that leave a pass, from every set-up that a pass can begin with, n further passes
allowed; a pass from a set-up already seen adds nothing. -/
def slotPasses (pass : SlotEnv → Option SlotWalk) : Nat → List SlotEnv → SlotEnv → SlotWalk → Option SlotWalk
  | 0, _, _, w => some w
  | n + 1, seen, e, w =>
    if seen.contains e then some w
    else
      match pass e with
      | none => none
      | some r =>
        r.past.foldl (fun acc p => acc.bind fun x => slotPasses pass n (e :: seen) p.env x)
          (some { past := r.past.foldl (fun l p => slotJoin p l) w.past, ended := r.ended.foldl (fun l p => slotJoin p l) w.ended })

/-- The largest cycles, and parts, of a list of paths. -/
def maxCost (l : List SlotPath) : Nat := l.foldl (fun m p => max m p.cost) 0
def maxParts (l : List SlotPath) : Nat := l.foldl (fun m p => max m p.parts) 0

/-- A path through a loop of n passes: 2 cycles and n times the longest path through its body (R200). -/
def slotLoop (n : Nat) (p : SlotPath) (r : SlotWalk) : SlotWalk :=
  let c := maxCost r.past
  let m := maxParts r.past
  { past := r.past.map fun q => { q with cost := p.cost + 2 + n * c, parts := p.parts + n * m },
    ended := r.ended.map fun q => { q with cost := p.cost + 2 + (n - 1) * c + q.cost, parts := p.parts + (n - 1) * m + q.parts } }

/-- The paths of instructions lo to hi of a program, from one set-up; depth is how many loops may still nest. -/
def slotRegion (prog : List Word) : Nat → Nat → Nat → SlotEnv → Option SlotWalk
  | 0, _, _, _ => none
  | depth + 1, lo, hi, e0 =>
    let step := fun (acc : Option (Tab (List SlotPath) × SlotWalk)) (i : Nat) =>
      acc.bind fun x =>
        let k := lo + i
        let w := (prog.drop k).headD 0
        let imm := bits w 15 0
        (tget [] x.1 k).foldl (fun acc p => acc.bind fun y =>
          let leave := fun (j : Nat) (q : SlotPath) (y : Tab (List SlotPath) × SlotWalk) =>
            if hi < j then (y.1, { y.2 with past := slotJoin q y.2.past }) else (slotEnter j q y.1, y.2)
          match bits w 63 56 with
          | 0x20 =>
            let q := { p with cost := p.cost + 2 }
            if hi < k + imm ∨ 4 < bits w 18 16 then none else some (leave (k + 1 + imm) q (leave (k + 1) q y))
          | 0x21 =>
            let last := k + 1 + bits w 25 16
            if hi < last then none
            else
              match slotPasses (slotRegion prog depth (k + 1) last) (imm + 1) [] p.env {} with
              | none => none
              | some r =>
                let l := slotLoop (imm + 1) p r
                let y1 := l.past.foldl (fun y q => leave (last + 1) q y) y
                some (y1.1, { y1.2 with ended := l.ended.foldl (fun a q => slotJoin q a) y1.2.ended })
          | 0x22 =>
            match stOfCode imm with
            | some st =>
              if exitOk st then some (y.1, { y.2 with ended := slotJoin { p with cost := p.cost + 8 } y.2.ended }) else none
            | none => none
          | _ => (slotStep w p).map fun q => leave (k + 1) q y) (some x)
    ((List.range (hi + 1 - lo)).foldl step (some ([(lo, [{ env := e0 }])], {}))).map fun x => x.2

/-- The longest path of a slot program and the most parts one path pulls; none where R253 refuses it. -/
def slotCheck (prog : List Word) : Option (Nat × Nat) :=
  match slotRegion prog 3 0 (prog.length - 1) {} with
  | some w => if w.past.isEmpty then some (maxCost w.ended, maxParts w.ended) else none
  | none => none

/-- The 64-bit instructions of a slot program in the constant section. -/
def slotWords8 (const : List Byte) (first n : Nat) : List Word :=
  (List.range n).map fun i => BitVec.ofNat 64 (packBytes (((const.drop (8 * (first + i))).take 8).map BitVec.toNat))

end Machine
end Sys2Proof
end

