-- ==== Sys2Proof/Machine/Bound.lean ====
section
/-! DEFINITION. The loader's analysis of an image (05 R137, R140, 06 R188, 07 R200, R201, 09 R245, R253): the first bundle
it refuses, or the bounds, the big-number length and the fetch count. -/

namespace Sys2Proof
namespace Machine

/-- The loader's figures for an image. -/
structure Figures where
  boundA   : Nat
  boundB   : Nat
  bnLen    : Nat
  fetch    : Nat
  slotProg : Bool := false
deriving DecidableEq, Repr

/-- The smallest class that holds the figures, if one does (R201). -/
def minClassOf (f : Figures) : Option Nat :=
  (List.range 8).find? fun c =>
    if f.bnLen = 0 then cyc f.boundA ≤ winE c
    else cyc f.boundA ≤ winQ c && cyc f.boundB + 1 ≤ winQ c && f.bnLen ≤ winW c

/-! ## Paths -/

/-- What is outstanding on a path: the DMA transfers and their summed wait figure, the STG writes, and the hand-off
instructions met, each by its bundle (R137, R245). -/
structure Pend where
  dma   : Nat := 0
  wait  : Nat := 0
  stg   : Nat := 0
  hands : List (Nat × Hand) := []
deriving DecidableEq, Repr

/-- A path: what is outstanding, its cycles, its record fetches. -/
structure Path where
  pend  : Pend := {}
  cost  : Nat := 0
  fetch : Nat := 0
deriving DecidableEq, Repr

/-- Paths with the same outstanding work are one path, of the larger cycles and fetches. -/
def join (p : Path) : List Path → List Path
  | [] => [p]
  | q :: r => if q.pend = p.pend then { q with cost := max q.cost p.cost, fetch := max q.fetch p.fetch } :: r else q :: join p r

/-- Where the paths of a region end: past its last bundle, at RET, at EXIT, at YIELD with its target; and the bundles
reached outside calls. -/
structure Walk where
  past   : List Path := []
  back   : List Path := []
  exits  : List Path := []
  yields : List (Nat × Path) := []
  seen   : List Nat := []
deriving DecidableEq, Repr

/-- The largest cycles, and fetches, of a list of paths. -/
def worst (l : List Path) : Nat := l.foldl (fun m p => max m p.cost) 0
def worstFetch (l : List Path) : Nat := l.foldl (fun m p => max m p.fetch) 0

/-- The limits on what one path may hold outstanding (R137, R245). -/
def pendOk (p : Pend) : Bool :=
  let n := fun (f : Hand → Bool) => (p.hands.filter fun h => f h.2).length
  p.dma ≤ 4 && p.stg ≤ 8 && n (fun h => match h with | .set _ => true | _ => false) ≤ 1
    && n (fun h => match h with | .arg _ _ => true | _ => false) ≤ 4
    && n (fun h => match h with | .inp _ _ _ => true | _ => false) ≤ 8
    && n (fun h => match h with | .out _ _ => true | _ => false) ≤ 8

/-- One instruction of bundle k on a path. -/
def itemStep (k : Nat) (p : Path) (i : Item) : Path :=
  let d := p.pend
  let d1 := match i.dma with
    | some l => { d with dma := d.dma + 1, wait := d.wait + 240 + 16 * ceilDiv l 64 }
    | none => d
  let d2 := match i.hand with
    | some h => { d1 with hands := (k, h) :: d1.hands }
    | none => d1
  { pend := { d2 with stg := d2.stg + b2n i.stg }, cost := p.cost + i.cost, fetch := p.fetch + i.fetch }

/-- The flow of every bundle of an image, for the checks that look at the whole image. -/
def flows (im : Image) : List (Nat × Flow) :=
  (List.range im.hdr.codeLen).map fun k => (k, match bundleAt im k with | some l => flowOf l | none => .next)

/-- Bundles to which R140 adds a fetch charge, besides the first of each line: entries, targets, return points, loop
bodies. -/
def targets (fs : List (Nat × Flow)) : List Nat :=
  fs.flatMap fun p =>
    match p.2 with
    | .branch off => [p.1 + off]
    | .jump t | .yield t => [t]
    | .call t => [t, p.1 + 1]
    | .loop _ _ _ => [p.1 + 1]
    | _ => []

/-- The fetch charge that R140 places on a bundle, for its own limit (R137). -/
def charge (ts : List Nat) (k : Nat) : Nat := if k % 4 = 0 ∨ ts.contains k then 96 else 0

/-- The last bundles of the loop bodies that hold bundle j. -/
def enclosing (fs : List (Nat × Flow)) (j : Nat) : List Nat :=
  fs.filterMap fun p => match p.2 with
    | .loop n _ _ => if p.1 < j && j ≤ p.1 + n then some (p.1 + n) else none
    | _ => none

/-- What R137 and R188 refuse of a bundle by itself: its bits, its Max figure, where it leads, how deep its loop nests. -/
def bundleOk (im : Image) (fs : List (Nat × Flow)) (ts : List Nat) (k : Nat) : Bool :=
  match bundleAt im k with
  | none => false
  | some l =>
    let within := fun (t : Nat) => t < im.hdr.codeLen && (enclosing fs k).all fun last => t ≤ last
    bundleMax l + charge ts k ≤ 768
      && (match flowOf l with
          | .branch off => off != 0 && within (k + off)
          | .jump t => k < t && within t
          | .loop n _ _ => within (k + n) && (enclosing fs k).length < 4
          | .call t | .yield t => t < im.hdr.codeLen
          | _ => true)

/-- The fetch charge of an edge by fall-through into a bundle; every other edge costs 96 (R200). -/
def lineCharge (k : Nat) : Nat := if k % 4 = 0 then 96 else 0

/-- The walker's surroundings: the image, whether this is the second phase. -/
structure Ground where
  im     : Image
  second : Bool
deriving DecidableEq, Repr

/-- A path enters a bundle. -/
def pathEnter (k : Nat) (p : Path) (t : Tab (List Path)) : Tab (List Path) := tins t k (join p (tget [] t k))

/-- A pending table and what has ended so far. -/
abbrev Front := Tab (List Path) × Walk

/-- A path goes on to bundle j over an edge of a fetch charge; past the region's last bundle it leaves the region, where
the edge is charged. -/
def leave (hi j fee : Nat) (p : Path) (y : Front) : Front :=
  if hi < j then (y.1, { y.2 with past := join p y.2.past }) else (pathEnter j { p with cost := p.cost + fee } y.1, y.2)

/-- A path falls through to bundle j. -/
def fall (hi j : Nat) (p : Path) (y : Front) : Front := leave hi j (lineCharge j) p y

/-- A path followed by one that began with nothing counted, after some cycles more. -/
def follow (p : Path) (more : Nat) (q : Path) : Path := { q with cost := p.cost + more + q.cost, fetch := p.fetch + q.fetch }

/-- The ends of a piece that paths entered after p and some cycles. -/
def addEnds (p : Path) (more : Nat) (r : Walk) (w : Walk) : Walk :=
  { w with exits := r.exits.foldl (fun a q => join (follow p more q) a) w.exits,
           yields := w.yields ++ r.yields.map fun q => (q.1, follow p more q.2) }

/-- The passes of a loop body from every outstanding work that a pass can begin with, n further passes allowed. -/
def passes (pass : Pend → Except Nat Walk) : Nat → List Pend → Pend → Walk → Except Nat Walk
  | 0, _, _, w => .ok w
  | n + 1, seen, e, w =>
    if seen.contains e then .ok w
    else
      match pass e with
      | .error k => .error k
      | .ok r =>
        let w1 := { (addEnds {} 0 r w) with past := r.past.foldl (fun l p => join p l) w.past, seen := w.seen ++ r.seen }
        r.past.foldl (fun acc p => acc.bind fun x => passes pass n (e :: seen) p.pend x) (.ok w1)

/-- A path through a loop of n passes whose body has the walk r: 2 cycles and n times the longest path through the body
(R200); a clamped loop, or one of count 0, may skip its body. -/
def loopWalk (n : Nat) (skip : Bool) (p : Path) (r : Walk) : Walk :=
  let c := worst r.past
  let f := worstFetch r.past
  let through := if n = 0 then [] else r.past.map fun q => { q with cost := p.cost + 2 + n * c, fetch := p.fetch + n * f }
  { past := (if skip then [{ p with cost := p.cost + 2 }] else []).foldl (fun l q => join q l) through,
    exits := r.exits.map fun q => { q with cost := p.cost + 2 + (n - 1) * c + q.cost, fetch := p.fetch + (n - 1) * f + q.fetch },
    yields := r.yields.map fun y =>
      (y.1, { y.2 with cost := p.cost + 2 + (n - 1) * c + y.2.cost, fetch := p.fetch + (n - 1) * f + y.2.fetch }),
    seen := r.seen }

/-- The paths of bundles lo to hi, entered at lo with the charge of an entry, a call target or a loop top. `fuel` bounds the pieces that nest, 8 calls and 4 loops; `loops` and
`calls` may still nest; there is no RET inside a loop body or outside a call. An error names the bundle. -/
def walkRegion (g : Ground) : Nat → Nat → Nat → Bool → Nat → Nat → Pend → Except Nat Walk
  | 0, _, _, _, lo, _, _ => .error lo
  | fuel + 1, loops, calls, mayRet, lo, hi, e0 =>
    let top := g.im.hdr.codeLen - 1
    let visit := fun (k : Nat) (l : List Item) (acc : Except Nat Front) (p0 : Path) => acc.bind fun y =>
      let p := l.foldl (itemStep k) p0
      if !pendOk p.pend || (g.second && !p.pend.hands.isEmpty) then .error k
      else
        match flowOf l with
        | .next => .ok (fall hi (k + 1) p y)
        | .branch off =>
          if hi < k + off then .error k
          else .ok (leave hi (k + off) 96 { p with cost := p.cost + 2 } (fall hi (k + 1) { p with cost := p.cost + 1 } y))
        | .jump t => if hi < t then .error k else .ok (leave hi t 96 { p with cost := p.cost + 2 } y)
        | .call t =>
          if calls = 0 then .error k
          else
            match walkRegion g fuel loops (calls - 1) true t top p.pend with
            | .error j => .error j
            | .ok r =>
              if !r.past.isEmpty then .error top
              else .ok (r.back.foldl (fun y q => leave hi (k + 1) 96 (follow p 2 q) y) (y.1, addEnds p 2 r y.2))
        | .ret => if mayRet then .ok (y.1, { y.2 with back := join { p with cost := p.cost + 2 } y.2.back }) else .error k
        | .loop n count clamped =>
          if loops = 0 ∨ hi < k + n then .error k
          else
            match passes (walkRegion g fuel (loops - 1) calls false (k + 1) (k + n)) count [] p.pend {} with
            | .error j => .error j
            | .ok r =>
              let q := loopWalk count (clamped || count == 0) p r
              let y1 := q.past.foldl (fun y x => fall hi (k + n + 1) x y) y
              .ok (y1.1, { y1.2 with exits := q.exits.foldl (fun a x => join x a) y1.2.exits, yields := y1.2.yields ++ q.yields,
                                     seen := y1.2.seen ++ q.seen })
        | .exit c =>
          if p.pend.dma = 0 then .ok (y.1, { y.2 with exits := join { p with cost := p.cost + c } y.2.exits }) else .error k
        | .yield t =>
          if p.pend.dma = 0 ∧ g.im.hdr.bnLen ≠ 0 ∧ g.second = false then
            .ok (y.1, { y.2 with yields := y.2.yields ++ [(t, { p with cost := p.cost + 24 })] })
          else .error k
        | .wait fence =>
          let d := { p.pend with dma := 0, wait := 0, stg := if fence then 0 else p.pend.stg }
          let c := if fence then p.pend.wait + 212 else max 1 p.pend.wait
          .ok (fall hi (k + 1) { p with pend := d, cost := p.cost + c } y)
    let step := fun (acc : Except Nat Front) (i : Nat) => acc.bind fun y =>
      let k := lo + i
      match tget [] y.1 k, bundleAt g.im k with
      | [], _ => .ok y
      | _, none => .error k
      | ps, some l => ps.foldl (visit k l) (.ok (y.1, { y.2 with seen := k :: y.2.seen }))
    ((List.range (hi + 1 - lo)).foldl step (.ok ([(lo, [{ pend := e0, cost := 96 }])], {}))).map fun y => y.2

/-- The paths of a phase from its entry bundle: every one ends at EXIT or YIELD. -/
def phaseWalk (im : Image) (second : Bool) (entry : Nat) : Except Nat Walk :=
  let top := im.hdr.codeLen - 1
  match walkRegion { im := im, second := second } 13 4 8 false entry top {} with
  | .error k => .error k
  | .ok w => if w.past.isEmpty then .ok w else .error top

/-! ## The hand-off (R201, R245) -/

/-- The hand-off instructions of an image, each with its bundle. -/
def handsOf (im : Image) : List (Nat × Hand) :=
  (List.range im.hdr.codeLen).flatMap fun k =>
    match bundleAt im k with
    | some l => l.filterMap fun i => i.hand.map fun h => (k, h)
    | none => []

/-- The operation an image hands off, with its bundle. -/
def opOf (hs : List (Nat × Hand)) : Option (Nat × BnSet) :=
  hs.findSome? fun p => match p.2 with | .set op => some (p.1, op) | _ => none

/-- A loaded set that a service operation names is of its type, where the module holds the set (R245). -/
def loadedTypeOk (psets : Tab PSet) (op : BnSet) : Bool :=
  match op with
  | .service _ set =>
    (match tfind psets set.val with
    | some p => set.val < 32 || p.typ == 1
    | none => true)
  | .slots _ _ => true

/-- The operands that a service operation takes are all described (R245). -/
def handComplete (hs : List (Nat × Hand)) (op : BnSet) : Bool :=
  match op with
  | .service o _ =>
    handWhole o.val (hs.filterMap fun h => match h.2 with | .arg n _ => some n | _ => none)
      (hs.filterMap fun h => match h.2 with | .inp slot _ _ => some slot | _ => none)
  | .slots _ _ => true

/-- Whether a hand-off instruction fits the operation (R245); the frame holds 1,024 bytes. -/
def handFits (op : Option BnSet) (h : Hand) : Bool :=
  let frame := match h with | .inp _ len window => window || len ≤ 1024 | _ => true
  frame && (match op, h with
    | some (.service o set), .arg n use => n == 0 && (serviceUses o.val).contains use && serviceSetOk o.val set.val
    | some (.service o set), .inp slot len _ =>
      slot < serviceIns o.val && lenFits (serviceInLen o.val set.val slot) len
    | some (.service o set), .out slot len => slot < serviceOuts o.val && lenFits (serviceOutLen o.val set.val) len
    | some (.service o set), .set _ => serviceSetOk o.val set.val
    | _, _ => true)

/-- BN_LEN of a service operation (09, catalogue); RSA_KEYGEN has one figure. -/
def serviceLen (op set : Nat) : Nat :=
  match op with
  | 0x01 => if set = 0 then 40 else 60
  | 0x02 => if set = 0 then 60 else 87
  | 0x03 => if set = 0 then 45 else 68
  | 0x08 => if set = 8 then 231 else if set = 9 then 722 else 1600
  | 0x0A => 700000
  | 0x10 => 10
  | 0x14 => 180
  | 0x15 => 710
  | _ => 20

/-- Records that a service operation of a routine pulls by handle and writes (R201, R520; 08, record types); the DAK, which
routine 0058h selects, is no record (09 R250). -/
def serviceRecords (rn op set : Nat) : Nat :=
  match op with
  | 0x01 => if set = 0 then 1 else if rn = 0x58 ∧ set = 1 then 0 else 2
  | 0x03 => if set = 0 then 1 else 2
  | 0x02 => if set = 0 then 2 else 3
  | 0x08 | 0x0A => if set = 8 then 20 else if set = 9 then 30 else 40
  | 0x10 => 2
  | 0x14 | 0x15 => 48
  | _ => 1

/-- Cycles of the hand-off's transfers (R253, T). -/
def handTransfers (hs : List (Nat × Hand)) : Nat :=
  sumOf hs fun p => match p.2 with | .inp _ len _ | .out _ len => 240 + 16 * ceilDiv len 64 | _ => 0

/-- BN_LEN and the record count of an operation; none where R245 or R253 refuses it. -/
def opFigures (im : Image) (open_ : Bool) (hs : List (Nat × Hand)) (op : BnSet) : Option (Nat × Nat) :=
  match op with
  | .service o set => if serviceSetOk o.val set.val then some (serviceLen o.val set.val, serviceRecords im.hdr.routine o.val set.val) else none
  | .slots first n =>
    if (im.hdr.maint || open_) && 8 * first.val + 8 * (n.val + 1) ≤ im.hdr.constLen then
      (slotCheck (slotWords8 im.const first.val (n.val + 1))).map fun r =>
        (ceilDiv (4352 + handTransfers hs + r.1) 998, r.2)
    else none

/-! ## The analysis -/

/-- The second phases of the first phase's YIELDs, each target once. -/
def secondWalks (im : Image) : List Nat → Except Nat (List (Nat × Walk))
  | [] => .ok []
  | t :: r =>
    match phaseWalk im true t with
    | .error k => .error k
    | .ok w => (secondWalks im r).map fun l => (t, w) :: l

/-- The loader's analysis: the first bundle refused, or the figures. -/
def analyse (im : Image) (psets : Tab PSet) (open_ : Bool) : Except Nat Figures :=
  let fs := flows im
  let ts := targets fs
  let hs := handsOf im
  let op := opOf hs
  match (List.range im.hdr.codeLen).find? (fun k => !bundleOk im fs ts k) with
  | some k => .error k
  | none =>
    match hs.find? (fun h => !handFits (op.map fun o => o.2) h.2) with
    | some h => .error h.1
    | none =>
      match op, op.bind (fun o => if loadedTypeOk psets o.2 && handComplete hs o.2 then opFigures im open_ hs o.2 else none) with
      | some o, none => .error o.1
      | _, figs =>
        match phaseWalk im false 0 with
        | .error k => .error k
        | .ok a =>
          match hs.find? (fun h => a.yields.any fun y => !y.2.pend.hands.contains h) with
          | some h => .error h.1
          | none =>
            match secondWalks im (a.yields.map fun y => y.1).eraseDups with
            | .error k => .error k
            | .ok bs =>
              match a.seen.find? (fun k => bs.any fun b => b.2.seen.contains k) with
              | some k => .error k
              | none =>
                let pulled := match figs with | some f => f.2 | none => 0
                let fetchY := a.yields.foldl (fun m y => max m (y.2.fetch + pulled + worstFetch (tget {} bs y.1).exits)) 0
                .ok { boundA := max (worst a.exits) (worst (a.yields.map fun y => y.2)),
                      boundB := bs.foldl (fun m b => max m (worst b.2.exits)) 0,
                      bnLen := match figs with | some f => f.1 | none => 0,
                      fetch := max (worstFetch a.exits) fetchY,
                      slotProg := match op with | some (_, .slots _ _) => true | _ => false }

end Machine
end Sys2Proof
end

