-- ==== Sys2Proof/Machine/Loader.lean ====
section
/-! DEFINITION. The loader, the routine directory and the program store (07): loading, checking, unloading, and the reload
of a start. -/

namespace Sys2Proof
namespace Machine

/-! ## Images (R189) -/

/-- n bytes of an image from an offset, little-endian. -/
def leAt (l : List Byte) (off n : Nat) : Nat := packBytes (((l.drop off).take n).map BitVec.toNat)

/-- First byte of the constant section, and of the signatures. -/
def constOff (codeLen : Nat) : Nat := 0x80 + 16 * codeLen
def sigOff (codeLen constLen : Nat) : Nat := constOff codeLen + constLen

/-- 32-bit words of an image, n of them from an offset. -/
def codeWords (l : List Byte) (off : Nat) : Nat → List (BitVec 32)
  | 0 => []
  | n + 1 => BitVec.ofNat 32 (leAt l off 4) :: codeWords (l.drop 4) off n

/-- The image that a byte string holds. -/
def imageOfBytes (l : List Byte) : Image :=
  let flags := leAt l 0x0C 4
  let h : Hdr := {
    routine := leAt l 0x06 2, version := leAt l 0x08 4, supv := flags % 2 == 1, maint := flags / 2 % 2 == 1,
    ctx := flags / 4 % 2 == 1, early := flags / 8 % 2 == 1, boundA := leAt l 0x10 4, boundB := leAt l 0x14 4,
    bnLen := leAt l 0x18 4, fetch := leAt l 0x1C 2, minClass := leAt l 0x1E 1, signer := leAt l 0x1F 1,
    codeLen := leAt l 0x20 2, constLen := leAt l 0x24 4 }
  { hdr := h, code := codeWords l 0x80 (4 * h.codeLen), const := (l.drop (constOff h.codeLen)).take h.constLen }

/-- A header whose fields are in range, and a length that agrees (REASON 04h). -/
def imageFormOk (len : Nat) (l : List Byte) : Bool :=
  let h := (imageOfBytes l).hdr
  len == l.length && leAt l 0 4 == 0x31565944 && leAt l 0x04 2 == 1 && h.routine ≤ 0xFFF && h.version != 0
    && leAt l 0x0C 4 < 16 && h.minClass ≤ 7 && h.signer ≤ 8 && 1 ≤ h.codeLen && h.codeLen ≤ 1024 && leAt l 0x22 2 == 0
    && h.constLen ≤ 65536 && h.constLen % 64 == 0 && leAt l 0x28 4 == sigOff h.codeLen h.constLen + 3405
    && len == leAt l 0x28 4 && leAt l 0x2C 4 == 0 && leAt l 0x40 64 == 0

/-- Granules of an image (07, Placement). -/
def granules (h : Hdr) : Nat := ceilDiv (16 * h.codeLen) 1024 + 4 * ceilDiv h.constLen 4096

/-- Replaced or unloaded images that an admitted order still runs (R197, R198). -/
def inUse (s : State) (im : Image) : Bool :=
  s.adm.orders.any fun p => p.2.accepted && p.2.image == im.serial && p.2.routine == im.hdr.routine

/-- Granules taken: the loaded images and the old ones in use. -/
def granulesUsed (s : State) : Nat :=
  sumOf s.ld.dir (fun p => granules p.2.hdr) + sumOf (s.ld.old.filter (inUse s)) (fun i => granules i.hdr)
/-- SYS_PS_SPACE.FREE. -/
def granulesFree (s : State) : Nat := 3840 - granulesUsed s

/-! ## The tests (R190 to R192, R195) -/

/-- Whether the signing slot holds keys that are accepted: slot 0 the Choelm pair, while its digest is the one in OTP
(R191). -/
def signerHeld (s : State) (n : Nat) : Bool :=
  if n = 0 then s.ld.choelm == s.lc.otp.signer else (tfind s.ld.keys n).isSome

/-- R192. -/
def signerMay (h : Hdr) : Bool := h.signer == 0 || (0x100 ≤ h.routine && !h.supv && !h.maint && !h.early)

/-- Slot programs without HDR.MAINT load in BLANK and TEST only (09 R245). -/
def openLc (s : State) : Bool := s.mode.lc == .blank || s.mode.lc == .test

/-- The tests of an image after its form: REASON, STATUS, BUNDLE and the loader's figures where it has them. -/
def imageTests (s : State) (im : Image) (sigOk : Bool) : Nat × Status × Nat × Option Figures :=
  let h := im.hdr
  if s.mode.lc = .blank ∧ h.signer ≠ 0 then (2, .policy, 0, none)
  else if !signerHeld s h.signer || !signerMay h then (5, .policy, 0, none)
  else if !sigOk then (6, .policy, 0, none)
  else if h.version < tget 0 s.ld.floors h.routine then (7, .policy, 0, none)
  else
    match analyse im s.bn.psets (openLc s) with
    | .error k => (8, .malformed, k, none)
    | .ok f =>
      match minClassOf f with
      | none => (9, .malformed, 0, some f)
      | some c =>
        if h.boundA ≠ f.boundA ∨ h.boundB ≠ f.boundB ∨ h.bnLen ≠ f.bnLen ∨ h.fetch ≠ f.fetch ∨ h.minClass ≠ c then
          (0x0A, .malformed, 0, some f)
        else (0, .done, 0, some f)

/-- SYS_LD_STS. -/
def ldSts (s : State) (busy : Bool) (routine reason bundle : Nat) (st : Status) : State :=
  wr s 0x110 (BitVec.ofNat 64 (fld bundle 43 + fld (routine % 4096) 31 + fld (b2n busy) 24 + fld reason 16 + stCode st))

/-- The loader's own figures (SYS_LD_BOUND, SYS_LD_BN). -/
def ldFigures (s : State) (f : Figures) : State :=
  wr (wr s 0x118 (BitVec.ofNat 64 (fld f.boundA 32 + f.boundB))) 0x120
    (BitVec.ofNat 64 (fld ((minClassOf f).getD 0) 48 + fld f.fetch 32 + f.bnLen))

/-- SYS_LD_STS.BUSY. -/
def ldBusy (s : State) : Bool := s.ld.cmd.isSome

/-- A command is under way: its outcome is fixed, and stands when the command is done. -/
def ldBegin (s : State) (c : LoadCmd) : State := ldSts { s with ld := { s.ld with cmd := some c } } true c.routine 0 0 .done

/-- REASON 01h and the part of 02h that needs no header. -/
def ldGate (s : State) : Option (Nat × Status) :=
  if isLocked s then some (1, .locked)
  else if s.mode.lc = .analysis ∨ s.mode.lc = .retired then some (2, .policy)
  else none

/-- A load (OP 1h) or a check (OP 3h) of what was read. -/
def loadImage (s : State) (op len : Nat) (image : HostRead (List Byte)) (sigOk : Bool) : State :=
  if ldBusy s then s
  else
    let refused := fun (r : Nat × Status) (rn : Nat) =>
      ldBegin s { op := op, image := none, reason := r.1, status := r.2, bundle := 0, routine := rn }
    match ldGate s with
    | some r => refused r 0
    | none =>
      match image with
      | .failed => ldBegin (dmaErr s) { op := op, image := none, reason := 3, status := .aborted, bundle := 0, routine := 0 }
      | .ok l =>
        if !imageFormOk len l then refused (4, .malformed) 0
        else
          let im := imageOfBytes l
          let t := imageTests s im sigOk
          let s1 := match t.2.2.2 with
            | some f => ldFigures s f
            | none => s
          let im1 := match t.2.2.2 with
            | some f => { im with slotProg := f.slotProg }
            | none => im
          let full := t.1 == 0 && granulesFree s < granules im.hdr
          ldBegin s1 { op := op, image := some im1, reason := if full then 0x0B else t.1,
                       status := if full then .quota else t.2.1, bundle := t.2.2.1, routine := im.hdr.routine }

/-- ROUTINE_LOAD (R195): SYS_LD_CMD with OP 1h. -/
def execRoutineLoad (len : BitVec 32) (image : HostRead (List Byte)) (sigOk : Bool) (s : State) : Result :=
  managerWrite s 0x108 fun s => loadImage s 1 len.toNat image sigOk

/-- ROUTINE_CHECK (R195): OP 3h. -/
def execRoutineCheck (len : BitVec 32) (image : HostRead (List Byte)) (sigOk : Bool) (s : State) : Result :=
  managerWrite s 0x108 fun s => loadImage s 3 len.toNat image sigOk

/-- An unload (OP 2h). -/
def unloadCmd (s : State) (rn : Nat) : State :=
  if ldBusy s then s
  else
    let c := fun (r : Nat) (st : Status) => ldBegin s { op := 2, image := none, reason := r, status := st, bundle := 0, routine := rn }
    match ldGate s with
    | some r => c r.1 r.2
    | none => if (tfind s.ld.dir rn).isNone then c 0x0C .malformed else c 0 .done

/-- ROUTINE_UNLOAD (R195, R198). -/
def execRoutineUnload (rn : Fin 4096) (s : State) : Result :=
  managerWrite s 0x108 fun s => unloadCmd s rn.val

/-- SYS_LD_CMD with another OP. -/
def ldBadOp (s : State) (op rn : Nat) : State :=
  if ldBusy s then s else ldBegin s { op := op, image := none, reason := 0, status := .malformed, bundle := 0, routine := rn }

/-! ## Commitment (R196 to R199) -/

/-- Old images that no order runs are gone. -/
def pruneOld (s : State) : State := { s with ld := { s.ld with old := s.ld.old.filter (inUse s) } }

/-- The directory entry is emptied: admitted orders run on, the image leaves the routine area. -/
def unloadEntry (s : State) (rn : Nat) : State :=
  match tfind s.ld.dir rn with
  | none => s
  | some im => pruneOld { s with ld := { s.ld with dir := tdel s.ld.dir rn, flash := tdel s.ld.flash rn, old := im :: s.ld.old } }

/-- The image is committed: floor, directory, routine area of vault flash. -/
def commitImage (s : State) (im : Image) : State :=
  let rn := im.hdr.routine
  let n := s.ld.serial + 1
  let im1 := { im with serial := n }
  let old := match tfind s.ld.dir rn with
    | some x => x :: s.ld.old
    | none => s.ld.old
  pruneOld { s with ld := { s.ld with
    dir := tins s.ld.dir rn im1, flash := tins s.ld.flash rn im1, old := old, serial := n,
    floors := tput 0 s.ld.floors rn (max (tget 0 s.ld.floors rn) im.hdr.version) } }

/-- The attic entry of a loader command (17 R519, 020h). -/
def ldReport (s : State) (c : LoadCmd) : State :=
  let ver := match c.image with
    | some im => im.hdr.version
    | none => 0
  report s 0x020 (srcWord 9 c.routine) (c.routine + fld c.op 16 + fld c.reason 24 + fld (stCode c.status) 32 + fld ver 64)

/-- LOADER_COMMAND_DONE (R194, R196 to R198). -/
def execLoaderCommandDone (s : State) : Result :=
  match s.ld.cmd with
  | none => go s
  | some c =>
    let s1 := ldReport (ldSts { s with ld := { s.ld with cmd := none } } false c.routine c.reason c.bundle c.status) c
    if c.status ≠ .done then go s1
    else
      match c.op, c.image with
      | 1, some im => go (commitImage s1 im)
      | 2, _ => go (unloadEntry s1 c.routine)
      | _, _ => go s1

/-- Every routine signed under an operator slot is unloaded at once, and recorded, as if an unload command had named each
(R193, R194). -/
def unloadSigner (s : State) (slot : Nat) : State :=
  (s.ld.dir.filter fun p => p.2.hdr.signer == slot).foldl (fun s p =>
    ldReport (unloadEntry s p.1) { op := 2, image := none, reason := 0, status := .done, bundle := 0, routine := p.1 }) s

/-! ## The reload of a start (R199, R196) -/

/-- REASON of an image found at a start, 0 when it passes. -/
def reloadReason (s : State) (im : Image) : Nat :=
  if s.mode.lc = .analysis ∨ s.mode.lc = .retired then 2
  else if im.hdr.signer = 0 ∧ im.code = [] then (if !signerHeld s 0 then 5 else if im.sound then 0 else 8)
  else (imageTests s im im.sound).1

/-- Reload the images of the routine area; a first start sets each floor to the image's VERSION. -/
def reloadAll (s : State) (first : Bool) : State :=
  let found : Tab Nat := s.ld.flash.map fun p => (p.1, p.2.hdr.version)
  let s0 := { s with ld := { s.ld with dir := [], old := [], cmd := none, floors := if first then found else s.ld.floors } }
  s.ld.flash.foldl (fun s p =>
    let why := reloadReason s p.2
    if why = 0 then { s with ld := { s.ld with dir := tins s.ld.dir p.1 p.2 } }
    else report { s with ld := { s.ld with flash := tdel s.ld.flash p.1 } } 0x021 (srcWord 9 p.1)
      (p.1 + fld why 24 + fld p.2.hdr.version 64)) s0

end Machine
end Sys2Proof
end

