-- ==== Sys2Proof/Machine/Library.lean ====
section
/-! DEFINITION. Routines of the Choelm library that the opcode table lists as commands of their own (07, 08): ECHO,
REKEY_SLOT, REKEY_STEP, TRANSPORT_OPEN and ATTEST. A three-phase routine is one command: run on an engine in its first
phase it checks its input and hands its operation over, run in its second phase it exits with the outcome. -/

namespace Sys2Proof
namespace Machine

/-- ECHO (0000h): TB_NOW when run. -/
def execEcho (e : EngIx) (s : State) : Result := onRoutine e 0x00 s fun o _ _ => go (endOrder s o .done (tbNow s))

/-! ## Rekeying (R203, R521, R522) -/

/-- The arguments of REKEY_SLOT are as R521 gives them. -/
def rekeySlotOk (v : Order) : Bool :=
  v.args && v.bits 327 320 ≤ 24 && v.bits 383 328 == 0 && v.bits 511 448 == 0

/-- The not-before time of R203: switch time plus the digest's first 8 bytes modulo 2^s beats. -/
def rekeyTime (v : Order) : Word :=
  v.arg 0 + BitVec.ofNat 64 (bytesOf (sha256 8 (v.arg 2).toNat) 0 8 % 2 ^ v.bits 327 320)

/-- REKEY_SLOT (0034h). -/
def execRekeySlot (e : EngIx) (s : State) : Result :=
  onRoutine e 0x34 s fun o v _ =>
    if rekeySlotOk v then go (endOrder s o .done (rekeyTime v)) else go (endOrder s o .malformed 0)

/-- Number of subjects of a REKEY_STEP, when its lengths are as R521 gives them. -/
def rekeyCount (v : Order) : Option Nat :=
  let n := (v.inLen - 64) / 8
  if !v.args && v.inLen == 64 + 8 * n && 1 ≤ n && n ≤ 16 && v.outLen == 8 * n then some n else none

/-- R522: the template's type, part index and chain length. -/
def rekeyTmplOk (t : Tmpl) : Bool :=
  (t.typ == 0x01 || t.typ == 0x02 || t.typ == 0x03 || t.typ == 0x05) && t.part == 0 && t.chainM1 == 0

/-- The key material derived for a subject handle (R522). -/
def rekeyMat (k : KeyReg) (subject : Nat) : Key256 :=
  BitVec.ofNat 256 (deriveN (k.len / 4) (k.mat.toNat % 2 ^ (8 * k.len)) (ascii "PSN5120-REKEY") (unpackBytes 8 subject) 32)

/-- Records for the subjects in order: the new handles, or the status that refused one. Those created before it stay. -/
def rekeyAll (s : State) (v : Order) (t : Tmpl) (k : KeyReg) (picks : List Nat) : Nat → State × Except Status (List Word)
  | 0 => (s, .ok [])
  | n + 1 =>
    match rekeyAll s v t k picks n with
    | (s1, .error st) => (s1, .error st)
    | (s1, .ok hs) =>
      let subject := bytesOf (inputNum v) (64 + 8 * n) 8
      match keyStorePut s1 .routine v.slice t (rekeyMat k subject) .clean ((picks.drop n).headD 0) with
      | (s2, .error st) => (s2, .error st)
      | (s2, .ok h) => (s2, .ok (hs ++ [h]))

/-- REKEY_STEP (0035h): the key is loaded for derive; the AES unit takes it as it takes any key register (06 R175). -/
def execRekeyStep (e : EngIx) (rdKey : CellarRead) (picks : List Nat) (s : State) : Result :=
  onRoutine e 0x35 s fun o v _ =>
    match rekeyCount v with
    | none => go (endOrder s o .malformed 0)
    | some n =>
      let t := tmplOf (inputNum v % 2 ^ 512)
      if !rekeyTmplOk t then go (endOrder s o .malformed 0)
      else if !mayNameKey v v.handle then go (endOrder (countSpoof s v.slice.val) o .spoof 0)
      else
        match keyChecks s v.handle 0 0 rdKey .clean with
        | (s1, .error st) => go (endOrder s1 o st 0)
        | (s1, .ok r) =>
          let k : KeyReg := { mat := r.mat, loaded := true, use := 0, typ := r.typ, part := 0, len := r.matLen }
          match aesCheck k .enc with
          | some st => go (endOrder s1 o st 0)
          | none =>
            match rekeyAll s1 v t k picks n with
            | (s2, .error st) => go (endOrder s2 o st 0)
            | (s2, .ok hs) =>
              let out := hs.flatMap fun h => (unpackBytes 8 h.toNat).map (BitVec.ofNat 8)
              go (endOrder (updOrder s2 o fun v => { v with staged := tstoreList [] 0 out }) o .done 0)

/-! ## Three-phase routines (R231 to R233, 09 R247) -/

/-- The first phase hands an operation over. -/
def handOver (s : State) (e : EngIx) (o : Nat) (v : Order) (h : HandOff) (staged : Tab Byte) : State :=
  let v1 := { v with hand := { h with eng := e.val }, phase := .bnQueued, carry := [], yieldPc := 0, staged := staged }
  queueBn (setOrder (leaveRoom s v) o v1) o v.bnEng

/-- An input operand that lies in the input window. -/
def windowIn (slot off len : Nat) : BnIo :=
  { slot := slot, window := true, big := false, len := len, addr := BitVec.ofNat 64 (0x100000000 + off), data := [] }

/-- TRANSPORT_OPEN (0050h): 32 bytes of X25519 value, then 1,088 bytes of ciphertext (R231). -/
def execTransportOpen (e : EngIx) (s : State) : Result :=
  onRoutine e 0x50 s fun o v g =>
    if g.second then go (exitOutcome s o (tget 0 g.core.x 16))
    else if v.inLen ≠ 1120 then go (endOrder s o .malformed 0)
    else
      go (handOver s e o v { op := some (.service 0x18 2), ins := [windowIn 0 0 32, windowIn 1 32 1088] } v.staged)

/-- Device identity: OTP bytes 0 to 15 (14, OTP layout). -/
def deviceId : BitVec 128 := BitVec.ofNat 128 ((Config.otpWord 0).toNat + fld (Config.otpWord 1).toNat 64)

/-- Revision letter of OTP bytes 1C0h to 1FFh, and the ML-KEM public value of KS_TPUB. -/
def revisionLetter : Nat := Config.external 31 [] % 256
def mlkemPub (s : State) : Nat := Config.external 18 [identSeed s] % 2 ^ (8 * 1184)

/-- SHA-256 of KS_TPUB: the X25519 public value, then the encapsulation key (08, procedure for importing). -/
def tpubDigest (s : State) : Nat := sha256 1216 (identPub s + fld (mlkemPub s) 256)

/-- SHA-256 of the routine directory; the layout of its entries is not printed. -/
def dirDigest (s : State) : Nat :=
  Config.external 32 (s.ld.dir.flatMap fun p => [p.1, p.2.hdr.version, p.2.hdr.signer]) % 2 ^ 256

/-- ATRQ: a request whose length, magic and reserved bytes are right (R232). -/
def attestOk (v : Order) : Bool :=
  let x := inputNum v
  v.inLen == 64 && 320 ≤ v.outLen && bytesOf x 0 4 == 0x51525441 && bytesOf x 4 4 == 0 && bytesOf x 0x30 16 == 0

/-- Bytes 000h to 0DFh of the response (R233). -/
def attestBody (s : State) (v : Order) (rec : Option Rec) : List Nat :=
  let x := inputNum v
  unpackBytes 4 0x53525441 ++ unpackBytes 2 1 ++ unpackBytes 2 (b2n rec.isSome) ++ unpackBytes 32 (bytesOf x 8 32)
    ++ unpackBytes 16 deviceId.toNat
    ++ unpackBytes 4 (match s.cu.member with
        | some m => m.val + 2 ^ 31
        | none => 0)
    ++ unpackBytes 4 revisionLetter ++ unpackBytes 8 (modeWord s.mode) ++ unpackBytes 8 (tbNow s).toNat
    ++ unpackBytes 8 s.bbram.startCount.toNat ++ unpackBytes 4 v.tag ++ unpackBytes 4 (rdF s 0x40068 31 0)
    ++ unpackBytes 32 (dirDigest s) ++ unpackBytes 32 (tpubDigest s) ++ unpackBytes 8 (bytesOf x 0x28 8)
    ++ (match rec with
        | some r => recHead r
        | none => unpackBytes 32 0)
    ++ unpackBytes 24 0

/-- ATTEST (0058h): the operation signs under the DAK, argument 0 holding handle 0 (09 R250). -/
def execAttest (e : EngIx) (rd0 : CellarRead) (s : State) : Result :=
  onRoutine e 0x58 s fun o v g =>
    if g.second then go (exitOutcome s o (tget 0 g.core.x 16))
    else if !attestOk v then go (endOrder s o .malformed 0)
    else
      let h := BitVec.ofNat 64 (bytesOf (inputNum v) 0x28 8)
      let r0 := if hSlice h = v.slice.val then liveRec s h else none
      let s1 := match r0 with
        | some r => cellarRead s v.slice r.index rd0
        | none => s
      let lost := match r0 with
        | some r => unreadable s1 r.index
        | none => false
      if lost then go (endOrder s1 o .poison 0)
      else
        let body := attestBody s1 v r0
        let dig := unpackBytes 48 (sha384 224 (packBytes body))
        let i : BnIo := { slot := 0, window := false, big := true, len := 48, addr := 0, data := dig.map (BitVec.ofNat 8) }
        let w : BnIo := { slot := 0, window := true, big := true, len := 96, addr := 0x1010000E0, data := [] }
        go (handOver s1 e o v { op := some (.service 1 1), args := [(0, 0, 5)], ins := [i], outs := [w] }
          (tstoreList [] 0 (body.map (BitVec.ofNat 8))))

end Machine
end Sys2Proof
end

