-- ==== Sys2Proof/Machine/Tickets.lean ====
section
/-! DEFINITION. Approval tickets (12 R353 to R357): their fields, the hold test, the pairs that operations take, the consumed
list, and the approval of a pending seconds step. -/

namespace Sys2Proof
namespace Machine

/-! ## Fields (R353, R354) -/

/-- n bytes of a ticket from an offset. -/
def tkBytes (raw : BitVec 2176) (off n : Nat) : Nat := bytesOf raw.toNat off n
/-- Operation code, domain, target, custodian key identity, not-after. -/
def tkOp (raw : BitVec 2176) : Nat := tkBytes raw 6 2
def tkDomain (raw : BitVec 2176) : Nat := tkBytes raw 0x08 16
def tkTarget (raw : BitVec 2176) : Nat := tkBytes raw 0x18 16
def tkKey (raw : BitVec 2176) : Nat := tkBytes raw 0x28 32
def tkNotAfter (raw : BitVec 2176) : Nat := tkBytes raw 0x48 8
/-- The 64 argument bytes. -/
def tkArgs (raw : BitVec 2176) : Nat := tkBytes raw 0x60 64

/-- Argument bytes that an operation defines, as a mask of the 64-byte field; none for an undefined code. -/
def tkArgMask (op : Nat) : Option Nat :=
  let b := fun (lo n : Nat) => (2 ^ (8 * n) - 1) * 2 ^ (8 * lo)
  match op with
  | 0x01 => some (b 0 4)
  | 0x02 => some (b 0 8)
  | 0x03 => some (b 0 8)
  | 0x04 => some (b 0 12)
  | 0x05 => some (b 0 32)
  | 0x06 => some (b 0 32)
  | 0x07 => some (b 0 8)
  | 0x08 => some (b 0 1 + b 16 48)
  | 0x09 => some (b 0 1)
  | 0x0A => some (b 0 1 + b 32 32)
  | 0x0B => some (b 0 4)
  | 0x0C => some (b 0 1)
  | 0x0D => some (b 0 32)
  | 0x0E => some (b 0 8)
  | 0x0F => some (b 0 2 + b 32 32)
  | 0x10 => some (b 0 1 + b 32 32)
  | _ => none

/-- Step 1 of R355. -/
def tkFormOk (raw : BitVec 2176) : Bool :=
  tkBytes raw 0 4 == 0x544B5752 && tkBytes raw 4 2 == 1 && tkBytes raw 0xA0 16 == 0
    && (match tkArgMask (tkOp raw) with
        | some m => tkArgs raw &&& m == tkArgs raw
        | none => false)

/-- Step 2 of R355. -/
def tkTargetOk (s : State) (raw : BitVec 2176) : Bool :=
  tkTarget raw == deviceId.toNat && tkDomain raw == (if s.cu.member.isSome then s.cu.domainId.toNat else 0)

/-! ## Custodians (R359) -/

/-- The register entry that holds a key identity. -/
def custodianOf (s : State) (key : Nat) : Option (Nat × Custodian) :=
  s.sl.custody.find? fun p => p.2.pub != 0 && p.2.keyId.toNat == key

/-- SHA-256 of a 96-byte public key. -/
def keyIdOf (pub : BitVec 768) : Nat := sha256 96 pub.toNat

/-- A card present in an own slot whose GET_IDENT succeeded and that shows a key identity: its half-kind and slot. -/
def cardWith (s : State) (key : Nat) : Option (Nat × Fin 4) :=
  (List.finRange 4).findSome? fun n =>
    match (tget {} s.sl.slots n.val).card with
    | some (pub, kind) => if keyIdOf pub = key then some (kind, n) else none
    | none => none

/-- The unlock copy is rewritten from the register (13 R388). -/
def copyUnlock (s : State) : State :=
  { s with bbram := { s.bbram with
      unlock := (s.sl.custody.filter fun p => p.2.pub != 0).map fun p => (p.1, (p.2.keyId, p.2.kindB)) } }

/-- The unlock copy counts in place of the register: unenrolled or zeroized (13 R389). -/
def byUnlockCopy (s : State) : Bool := s.cu.member.isNone || s.mode.zeroized

/-- The entry of the unlock copy that holds a key identity. -/
def unlockEntry (s : State) (key : Nat) : Option (Nat × (BitVec 256 × Bool)) :=
  s.bbram.unlock.find? fun p => p.2.1.toNat == key

/-- Who signed a local UNLOCK ticket, by the unlock copy, or by any card when it is empty (13 R389). -/
def unlockFor (s : State) (raw : BitVec 2176) (isLocal : Bool) : Option (Nat × Nat × Fin 4) :=
  if isLocal && tkOp raw == 4 && byUnlockCopy s then
    if s.bbram.unlock.isEmpty then (cardWith s (tkKey raw)).map fun p => (64, p.1, p.2)
    else (unlockEntry s (tkKey raw)).map fun p => (p.1, b2n p.2.2, 0)
  else none

/-- Register index and half-kind of a ticket's custodian, and the slot of its card: by the register, or, while the module is
unenrolled, by a card in an own slot for local FOUND, JOIN and TIME_STEP tickets (R359), or for UNLOCK by the unlock copy. -/
def custodianFor (s : State) (raw : BitVec 2176) (isLocal : Bool) : Option (Nat × Nat × Fin 4) :=
  let op := tkOp raw
  if s.cu.member.isSome then
    match custodianOf s (tkKey raw) with
    | some p => some (p.1, b2n p.2.kindB, 0)
    | none => unlockFor s raw isLocal
  else if isLocal && (op == 1 || op == 2 || op == 0x0E) then (cardWith s (tkKey raw)).map fun p => (64, p.1, p.2)
  else unlockFor s raw isLocal

/-! ## The hold test (R355) -/

/-- Beats of 3,600 s. -/
def ticketLife : Nat := 3600 * 1048576

/-- Step 5 of R355. -/
def tkTimeOk (s : State) (raw : BitVec 2176) (isLocal : Bool) : Bool :=
  (isLocal && s.mode.time == .free)
    || ((tbNow s).toNat < tkNotAfter raw && tkNotAfter raw ≤ (tbNow s).toNat + ticketLife)

/-- Step 6 of R355. -/
def tkFresh (s : State) (raw : BitVec 2176) (digest : Nat) : Bool :=
  !(s.sl.consumed.any fun c => c.1.toNat == digest)
    && !(s.sl.held.any fun h => tkOp h.raw == tkOp raw && tkArgs h.raw == tkArgs raw && tkKey h.raw == tkKey raw)

/-- The first check of R355 that fails, its order and status; or the ticket to hold. -/
def holdCheck (s : State) (raw : BitVec 2176) (sigOk isLocal : Bool) : Except (Nat × Status) Held :=
  let digest := sha256 272 raw.toNat
  if !tkFormOk raw then .error (1, .malformed)
  else if !tkTargetOk s raw then .error (2, .policy)
  else
    match custodianFor s raw isLocal with
    | none => .error (3, .policy)
    | some (ix, kind, slot) =>
      if !sigOk then .error (3, .policy)
      else if !isLocal && s.mode.time == .free then .error (4, .timeUntrusted)
      else if !tkTimeOk s raw isLocal then .error (5, .policy)
      else if !tkFresh s raw digest then .error (6, .policy)
      else if 16 ≤ s.sl.held.length ∨ 1024 ≤ s.sl.consumed.length then .error (7, .quota)
      else
        .ok { raw := raw, digest := BitVec.ofNat 256 digest, isLocal := isLocal, index := ix, kind := kind,
              lapse := if isLocal && s.mode.time == .free then some (runNow s + ticketLife) else none, slot := slot }

/-- The attic entry of a ticket held (1), consumed (2) or refused (3) (R365, 17 R519 code 204h). -/
def ticketReport (s : State) (op ix action order : Nat) : State :=
  report s 0x204 (srcWord 0 0) (op + fld (if ix < 64 then ix else 0xFF) 16 + fld action 24 + fld order 32)

/-! ## Consumption (R356) -/

/-- Consume a held ticket. -/
def consumeTicket (s : State) (h : Held) : State :=
  let s1 := { s with sl := { s.sl with
    held := s.sl.held.erase h, consumed := s.sl.consumed ++ [(h.digest, BitVec.ofNat 64 (tkNotAfter h.raw), h.lapse)] } }
  ticketReport (evt s1 8 4) (tkOp h.raw) h.index 2 0

/-- A held ticket's custodian is registered still (R356, R359); one counted by its card in an own slot stays in force
(R357). -/
def stillRegistered (s : State) (h : Held) : Bool :=
  64 ≤ h.index || (custodianOf s (tkKey h.raw)).isSome
    || (tkOp h.raw == 4 && h.isLocal && byUnlockCopy s && (unlockEntry s (tkKey h.raw)).isSome)

/-- Held tickets of an operation with given arguments that meet p. -/
def heldFor (s : State) (op args : Nat) (p : Held → Bool) : List Held :=
  s.sl.held.filter fun h => tkOp h.raw == op && tkArgs h.raw == args && p h && stillRegistered s h

/-- Two of a list from different custodians that meet q. -/
def pairOf? (l : List Held) (q : Held → Held → Bool) : Option (Held × Held) :=
  match l with
  | [] => none
  | h :: r =>
    match r.find? fun k => tkKey k.raw != tkKey h.raw && q h k with
    | some k => some (h, k)
    | none => pairOf? r q

/-- The pair of held tickets that an operation takes: JOIN one of each half, FOUND two local ones of cards without a
half (R356). -/
def ticketPair (s : State) (op args : Nat) : Option (Held × Held) :=
  let p := fun (h : Held) => (op != 1 || (h.isLocal && h.kind == 0xFF)) && (op != 2 || h.isLocal)
  let q := fun (h k : Held) => op != 2 || (h.kind == 0 && k.kind == 1) || (h.kind == 1 && k.kind == 0)
  pairOf? (heldFor s op args p) q

/-- Two held tickets of an operation are from different custodians, whatever they name. -/
def anyPair (s : State) (op : Nat) : Bool :=
  (pairOf? (s.sl.held.filter fun h => tkOp h.raw == op && stillRegistered s h) fun _ _ => true).isSome

/-- Consume a pair. -/
def consumePair (s : State) (t : Held × Held) : State := consumeTicket (consumeTicket s t.1) t.2

/-- A TIME_STEP ticket that names the pending SEC approves it, and is consumed (02 R43). -/
def approveStep (s : State) : State :=
  match s.tb.step with
  | none => s
  | some p =>
    if p.approved then s
    else
      match heldFor s 0x0E p.sec (fun _ => true) with
      | [] => s
      | h :: _ => consumeTicket { s with tb := { s.tb with step := some { p with approved := true } } } h

/-- Offer a ticket to the hold test: the refusing order and status, or none. -/
def holdTicket (s : State) (raw : BitVec 2176) (sigOk isLocal : Bool) : State × Option (Nat × Status) :=
  match holdCheck s raw sigOk isLocal with
  | .error r =>
    let ix := match custodianFor s raw isLocal with
      | some c => c.1
      | none => 64
    (ticketReport (cntUp s 0x80000 63 48) (tkOp raw) ix 3 r.1, some r)
  | .ok h =>
    let s1 := { s with sl := { s.sl with held := s.sl.held ++ [h] } }
    (approveStep (ticketReport (evt s1 8 4) (tkOp raw) h.index 1 0), none)

/-- Every held ticket is dropped (R357). -/
def dropHeld (s : State) : State := { s with sl := { s.sl with held := [] } }

/-- A ticket's time has passed. -/
def lapsed (s : State) (notAfter : Nat) (lapse : Option Nat) : Bool :=
  match lapse with
  | some r => r ≤ runNow s
  | none => notAfter ≤ (tbNow s).toNat

/-- TICKET_EXPIRY (R357): the held ticket in place t. -/
def execTicketExpiry (t : Fin 16) (s : State) : Result :=
  match s.sl.held.drop t.val with
  | h :: _ => if lapsed s (tkNotAfter h.raw) h.lapse then go { s with sl := { s.sl with held := s.sl.held.erase h } } else go s
  | [] => go s

/-- CONSUMED_ENTRY_LAPSE (R356). -/
def execConsumedEntryLapse (digest : BitVec 256) (s : State) : Result :=
  go { s with sl := { s.sl with consumed := s.sl.consumed.filter fun c => !(c.1 == digest && lapsed s c.2.1.toNat c.2.2) } }

/-- TIMEPULSE_EDGE (02 R37 to R43, R49 to R52): a rising edge `off` cycles into the current beat; a step that becomes pending
is approved at once by a ticket that already names it. -/
def execTimepulseEdge (off : Nat) (s : State) : Result := go (approveStep (timepulse s off))

/-- A ticket of an envelope's body that names the issuing module, operation and arguments and is checked against the register without being
held (R363): its custodian's key identity. -/
def bodyTicket (s : State) (t : Ticket) (dev op args : Nat) : Option Nat :=
  if tkFormOk t.raw && tkTarget t.raw == dev && tkOp t.raw == op && tkArgs t.raw == args && tkDomain t.raw == s.cu.domainId.toNat && t.sigOk
      && (custodianOf s (tkKey t.raw)).isSome then some (tkKey t.raw)
  else none

/-- Two body tickets of different custodians that name the operation of the module with that device identity. -/
def bodyPair (s : State) (t1 t2 : Ticket) (dev op args : Nat) : Bool :=
  match bodyTicket s t1 dev op args, bodyTicket s t2 dev op args with
  | some a, some b => a != b
  | _, _ => false

end Machine
end Sys2Proof
end

