-- ==== Sys2Proof/Machine/Stair.lean ====
section
/-! DEFINITION. The stair ports (10 R293 to R301): reliable DATA frames, SCAN and the ring map, the link states and doze. -/

namespace Sys2Proof
namespace Machine

/-- Port 0 or 1. -/
def stPort (s : State) (p : Bool) : Port := if p then s.st.p1 else s.st.p0
/-- Store a port. -/
def setPort (s : State) (p : Bool) (q : Port) : State :=
  if p then { s with st := { s.st with p1 := q } } else { s with st := { s.st with p0 := q } }
/-- ST_CNT_n and ST_ERR_n. -/
def stCnt (p : Bool) : Nat := 0x70020 + 8 * b2n p
def stErr (p : Bool) : Nat := 0x70030 + 8 * b2n p
/-- The 16 bytes of a frame's header. -/
def frameHead (typ src dst hops seq tag frag frags len : Nat) : List (Nat × Nat) :=
  [(1, typ), (1, src), (1, dst), (1, hops), (4, seq), (2, tag), (1, frag), (1, frags), (2, len), (2, 0)]

/-- A frame's bytes: header, payload, CRC over both (R293). -/
def frameBytes (head : List (Nat × Nat)) (payload : List Nat) : List Nat :=
  let l := layBytes head ++ payload
  l ++ unpackBytes 4 (crc32 l)

/-- A frame leaves a port, which had a frame to send now (R300). -/
def emitFrame (s : State) (p : Bool) (typ : Nat) (bytes : List Nat) : State :=
  setPort { s with out := .frame p typ bytes :: s.out } p { stPort s p with idle := runNow s }

/-- Position of the module beyond a port. -/
def peerPos (s : State) (p : Bool) : Nat :=
  let n := max 1 s.st.map.length
  if p then (s.st.self + n - 1) % n else (s.st.self + 1) % n

/-- An ACK or a DOZE frame to the module beyond a port; an ACK bears a link sequence number. -/
def sendCtl (s : State) (p : Bool) (typ seq : Nat) : State :=
  emitFrame s p typ (frameBytes (frameHead typ s.st.self (peerPos s p) 15 seq 0 0 1 0) [])

/-- A link that carries frames, at once or after a wake (R289, R301). -/
def portUsable (s : State) (p : Bool) : Bool :=
  let q := stPort s p
  (q.state == .active || q.state == .entering || q.state == .doze) && !q.miswired

/-! ## SCAN frames (R297) -/

/-- This module as a SCAN frame names it. -/
def ownHop (s : State) : ScanHop :=
  { device := deviceId, member := s.cu.member.getD 0, enrolled := s.cu.member.isSome }

/-- A SCAN frame that names modules in order, the origin first: 16 bytes of identity, 4 of member number, the enrolled bit. -/
def scanBytes (l : List ScanHop) : List Nat :=
  let body := layBytes (l.flatMap fun h => [(16, h.device.toNat), (4, h.member.val), (1, b2n h.enrolled)])
  frameBytes (frameHead 3 0xFF 0xFF 15 0 0 0 1 body.length) body

/-- A SCAN leaves a port that may carry it. -/
def scanPort (s : State) (p : Bool) (l : List ScanHop) : State :=
  if (stPort s p).state == .active && !(stPort s p).miswired then emitFrame s p 3 (scanBytes l) else s

/-- A SCAN is sent out of both ports. -/
def sendScan (s : State) : State := scanPort (scanPort s false [ownHop s]) true [ownHop s]

/-! ## Doze and wake (R300, R301) -/

/-- A request to wake: latched after agreement. -/
def wakePort (s : State) (p : Bool) : State :=
  let q := stPort s p
  if (q.state == .entering || q.state == .doze) && !q.wake then evt (setPort s p { q with wake := true }) 7 4 else s

/-- Doze is agreed: the transmitters stop within a beat. -/
def agreeDoze (s : State) (p : Bool) : State :=
  sendScan (setPort s p { stPort s p with state := .entering, reqSent := false, wake := false, dozeRun := runNow s })

/-- Both transmitters have stopped: the port enters DOZE. -/
def enterDoze (s : State) (p : Bool) : State :=
  let q := stPort s p
  if q.state = .entering ∧ q.dozeRun + 1 ≤ runNow s then
    sendScan (evt (setPort s p { q with state := .doze, dozeRun := runNow s }) 7 2)
  else s

/-- One beat passes (02 R31, 10 R300): the model's step with no command waiting. -/
def beatPass (s : State) : State := enterDoze (enterDoze (tick s) false) true

/-! ## DATA frames (R293 to R295) -/

/-- Header of a DATA frame. -/
def dataHead (f : Frame) : List (Nat × Nat) :=
  frameHead 1 f.src.val f.dst.val f.hops.val f.seq.toNat f.tag.toNat f.frag.val f.frags.val f.payload.length

/-- Bytes of a DATA frame. -/
def dataBytes (f : Frame) : List Nat := frameBytes (dataHead f) (f.payload.map BitVec.toNat)

/-- The CRC received is the frame's. -/
def crcHolds (f : Frame) : Bool := f.crc.toNat == crc32 (layBytes (dataHead f) ++ f.payload.map BitVec.toNat)

/-- Send those of the 32 oldest frames that have not been sent (R294). -/
def pumpPort (s : State) (p : Bool) : State :=
  let q := stPort s p
  if q.state = .active then
    let new := (q.unacked.take 32).filter fun x => x.sent == 0
    let stamped := (q.unacked.take 32).map fun x => if x.sent = 0 then { x with sent := runNow s + 1 } else x
    new.foldl (fun s x => cntUp (emitFrame s p 1 (dataBytes x.frame)) (stCnt p) 31 0)
      (setPort s p { q with unacked := stamped ++ q.unacked.drop 32 })
  else s

/-- A frame is queued on a port under its next link sequence number. -/
def sendFrame (s : State) (p : Bool) (f : Frame) : State :=
  let q := stPort s p
  let q1 := { q with unacked := q.unacked ++ [{ frame := { f with seq := q.txSeq } }], txSeq := q.txSeq + 1 }
  wakePort (pumpPort (setPort s p q1) p) p

/-- The frame is discarded for want of a path (R296). -/
def noPath (s : State) (p : Bool) : State := cntUp s (stErr p) 15 0

/-- The own position takes a fragment: duplicates are discarded, a complete set is the envelope (R295). -/
def reassemble (s : State) (f : Frame) : State :=
  let same := fun (r : Reasm) => r.src == f.src.val && r.tag == f.tag
  let put := fun (l : List Reasm) => { s with st := { s.st with reasm := l } }
  match s.st.reasm.find? same with
  | some r =>
    if r.have_.contains f.frag.val then s
    else if r.count ≤ r.have_.length + 1 then put (s.st.reasm.filter fun x => !same x)
    else put (s.st.reasm.map fun x => if same x then { x with have_ := x.have_ ++ [f.frag.val] } else x)
  | none =>
    if f.frags.val ≤ 1 then s
    else
      let r : Reasm := { src := f.src.val, tag := f.tag, run := runNow s, count := f.frags.val, have_ := [f.frag.val] }
      put (s.st.reasm ++ [r])

/-- Forward a frame out of the other port (R295). -/
def forwardFrame (s : State) (p : Bool) (f : Frame) : State :=
  if f.hops.val ≤ 1 then s
  else if portUsable s (!p) then sendFrame s (!p) { f with hops := ⟨f.hops.val - 1, by omega⟩ }
  else noPath s (!p)

/-- STAIR_DATA (R294, R295, R300): a frame with a CRC error or out of sequence is discarded; another is acknowledged, and
delivered or forwarded. -/
def execStairData (port : Bool) (f : Frame) (s : State) : Result :=
  let q := stPort s port
  if q.state != .active || q.miswired then go s
  else if !crcHolds f || f.seq != q.rxSeq then go (cntUp s (stErr port) 63 48)
  else
    let s1 := setPort s port { q with rxSeq := q.rxSeq + 1, reqSent := false }
    let s2 := sendCtl (cntUp s1 (stCnt port) 63 32) port 2 f.seq.toNat
    if s.st.map.length ≠ 0 ∧ f.dst.val = s.st.self then go (reassemble s2 f) else go (forwardFrame s2 port f)

/-- The frames left after an acknowledgement of a sequence number that one of them bears. -/
def dropThrough (seq : BitVec 32) : List TxFrame → List TxFrame
  | [] => []
  | x :: r => if x.frame.seq = seq then r else dropThrough seq r

/-- STAIR_ACK (R293, R294). -/
def execStairAck (port : Bool) (seq : BitVec 32) (s : State) : Result :=
  let q := stPort s port
  if q.state == .active && q.unacked.any (fun x => x.sent != 0 && x.frame.seq == seq) then
    let rest := dropThrough seq q.unacked
    let q1 := { q with unacked := rest, idle := if rest.isEmpty then runNow s else q.idle }
    go (pumpPort (setPort s port q1) port)
  else go s

/-- REASSEMBLY_TIMEOUT (R295). -/
def execReassemblyTimeout (src : Fin 256) (tag : BitVec 16) (s : State) : Result :=
  go { s with st := { s.st with
    reasm := s.st.reasm.filter fun r => !(r.src == src.val && r.tag == tag && decide (r.run + 1024 ≤ runNow s)) } }

/-! ## The ring (R297, R298) -/

/-- The map becomes a list of modules in order of position. -/
def setMap (s : State) (closed : Bool) (l : List ScanHop) : State :=
  let beyond := 16 < l.length
  let m := if beyond || l.length ≤ 1 then [] else l
  let self := (m.findIdx? fun h => h.device == deviceId).getD 0
  let changed := m != s.st.map || closed != s.st.closed
  let s1 := { s with st := { s.st with map := m, self := self, closed := closed && !beyond, oversize := beyond } }
  let s2 := if beyond then evt s1 7 7 else s1
  if changed then evt s2 7 5 else s2

/-- The map of a chain, from what SCAN frames showed on either side. -/
def chainMap (s : State) : State := setMap s false (s.st.below ++ ownHop s :: s.st.above.reverse)

/-- The module of the lowest device identity. -/
def lowestIx (l : List ScanHop) : Nat :=
  let lo := l.foldl (fun m h => min m h.device.toNat) (2 ^ 128)
  (l.findIdx? fun h => h.device.toNat == lo).getD 0

/-- The map of a closed ring, from the modules in the direction out of port 0, this one first. -/
def ringMap (s : State) (l : List ScanHop) : State := setMap s true (l.drop (lowestIx l) ++ l.take (lowestIx l))

/-- A SCAN of another module comes by: an end of a chain shows all modules on its side; the frame is passed on. -/
def passScan (s : State) (p : Bool) (l : List ScanHop) (last : Bool) : State :=
  let s1 := if last then
      chainMap (if p then { s with st := { s.st with below := l } } else { s with st := { s.st with above := l } })
    else s
  scanPort s1 (!p) (l ++ [ownHop s])

/-- STAIR_SCAN (R297, R298). -/
def execStairScan (port : Bool) (origin : ScanHop) (hops : List ScanHop) (last : Bool) (farPort : Bool) (s : State) : Result :=
  let q := stPort s port
  if q.state ≠ .active then go s
  else if farPort = port then go (if q.miswired then s else evt (setPort s port { q with miswired := true }) 7 6)
  else
    let s1 := if q.miswired then setPort s port { q with miswired := false } else s
    if origin.device = deviceId then go (ringMap s1 (ownHop s :: (if port then hops else hops.reverse)))
    else go (passScan s1 port (origin :: hops) last)

/-- SCAN_PERIODIC (R297): every 64 s. -/
def execScanPeriodic (s : State) : Result :=
  if s.st.lastScan + 64 * beatsPerSec ≤ runNow s then
    go (sendScan { s with st := { s.st with lastScan := runNow s } })
  else go s

/-! ## Link states (R294, R296, R299) -/

/-- The modules of a ring that has just lost one of this module's links: those in the direction out of port 0, this one
left out. -/
def ringRest (s : State) : List ScanHop := s.st.map.drop (s.st.self + 1) ++ s.st.map.take s.st.self

/-- The map without the side of a lost link. -/
def loseSide (s : State) (p : Bool) : State :=
  let rest := ringRest s
  if s.st.closed then
    chainMap { s with st := { s.st with below := if p then [] else rest, above := if p then rest.reverse else [] } }
  else chainMap (if p then { s with st := { s.st with below := [] } } else { s with st := { s.st with above := [] } })

/-- A link leaves ACTIVE other than into doze, or a dozing or training one starts anew: its frames go the other way round, or
have no path (R296). -/
def downPort (s : State) (p : Bool) (dest : LinkState) : State :=
  let q := stPort s p
  let around := s.st.closed && portUsable s (!p)
  let s1 := setPort s p { state := dest, cable := q.cable }
  let s2 := if q.state = .active then evt s1 7 1 else s1
  let s3 := loseSide s2 p
  let s4 := q.unacked.foldl (fun s x => if around then sendFrame s (!p) x.frame else noPath s p) s3
  sendScan s4

/-- STAIR_LINK_DOWN (R296, R299): the port trains again. -/
def execStairLinkDown (port : Bool) (s : State) : Result :=
  let q := stPort s port
  if q.state == .disabled || q.state == .down then go s else go (downPort s port .train)

/-- STAIR_RETRANSMIT_TIMEOUT (R294). -/
def execStairRetransmitTimeout (port : Bool) (s : State) : Result :=
  let q := stPort s port
  let sent := (q.unacked.take 32).filter fun x => x.sent != 0
  match sent with
  | [] => go s
  | x :: _ =>
    if q.state = .active ∧ x.sent + 4 ≤ runNow s + 1 then
      let l := q.unacked.map fun y => if y.sent = 0 then y else { y with sent := runNow s + 1, again := y.again + 1 }
      let s1 := setPort s port { q with unacked := l }
      let s2 := sent.foldl (fun s y =>
        cntUp (cntUp (emitFrame s port 1 (dataBytes y.frame)) (stCnt port) 31 0) (stErr port) 47 32) s1
      go (if l.any fun y => 16 ≤ y.again then downPort s2 port .train else s2)
    else go s

/-- LINK_TRAINED (R299): one attempt ends; the port reaches ACTIVE, or tries again at once. -/
def execLinkTrained (port : Bool) (ok : Bool) (s : State) : Result :=
  let q := stPort s port
  if q.state = .train then
    let s1 := cntUp s (stErr port) 31 16
    if ok then
      let s2 := setPort s1 port { q with state := .active, idle := runNow s, wake := false }
      go (pumpPort (sendScan (evt s2 7 0)) port)
    else go s1
  else go s

/-- ST_CFG.DOZE_EN of a port. -/
def dozeOn (s : State) (p : Bool) : Bool := bit (rd s 0x70010) (2 + b2n p)

/-- DOZE_IDLE_TIMEOUT (R300). -/
def execDozeIdleTimeout (port : Bool) (s : State) : Result :=
  let q := stPort s port
  if q.state == .active && dozeOn s port && q.unacked.isEmpty && !q.reqSent
      && decide (q.idle + max 1 (rdF s 0x70010 47 32) ≤ runNow s) then
    go (sendCtl (setPort s port { q with reqSent := true }) port 4 0)
  else go s

/-- DOZE_REQ (R300). -/
def execDozeReq (port : Bool) (s : State) : Result :=
  let q := stPort s port
  if q.state ≠ .active then go s
  else if (q.reqSent && decide (s.st.self < peerPos s port)) || !q.unacked.isEmpty || !dozeOn s port then
    go (sendCtl s port 6 0)
  else go (agreeDoze (sendCtl s port 5 0) port)

/-- DOZE_ACK (R300). -/
def execDozeAck (port : Bool) (s : State) : Result :=
  let q := stPort s port
  if q.state = .active ∧ q.reqSent = true then
    let s1 := agreeDoze s port
    go (if q.unacked.isEmpty then s1 else wakePort s1 port)
  else go s

/-- DOZE_NAK (R300). -/
def execDozeNak (port : Bool) (s : State) : Result :=
  let q := stPort s port
  go (setPort s port { q with reqSent := false, idle := if q.reqSent then runNow s else q.idle })

/-- WAKE_REQUEST (R301). -/
def execWakeRequest (port : Bool) (s : State) : Result := go (wakePort s port)

/-- DOZE_RESIDENCY_END (R301): 8 beats in DOZE have passed and a wake is latched. -/
def execDozeResidencyEnd (port : Bool) (s : State) : Result :=
  let q := stPort s port
  if q.state == .doze && q.wake && decide (q.dozeRun + 8 ≤ runNow s) then
    go (sendScan (evt (setPort s port { q with state := .train, wake := false }) 7 3))
  else go s

/-! ## ST_CFG (R299) -/

/-- A port follows its cable and its EN bit. -/
def portEnable (s : State) (p : Bool) : State :=
  let q := stPort s p
  let on := bit (rd s 0x70010) (b2n p) && q.cable
  if on then (if q.state = .disabled then sendScan (setPort s p { q with state := .train }) else s)
  else if q.state = .disabled then s else downPort s p .disabled

/-- ST_CFG takes a value, by a write or from a profile. -/
def stCfg (s : State) (val : Word) : State :=
  let s1 := wr s 0x70010 (val &&& 0x0000FFFF0000000F)
  portEnable (portEnable s1 false) true

/-- ST_CFG_WRITE (R299). -/
def execStCfgWrite (val : Word) (s : State) : Result :=
  managerWrite s 0x70010 fun s => stCfg s val

/-! ## Envelopes by stair (R289, R293) -/

/-- Position of a member, or of the module of a device identity, in the ring map. -/
def ringPos (s : State) (dst : Nat) (dev : Option (BitVec 128)) : Option Nat :=
  match dev with
  | some d => s.st.map.findIdx? fun h => h.device == d
  | none => s.st.map.findIdx? fun h => h.enrolled && h.member.val == dst

/-- The port by which links reach a position: the shorter way of a closed ring first. -/
def pathPort (s : State) (pos : Nat) : Option Bool :=
  let n := s.st.map.length
  if pos = s.st.self then none
  else if s.st.closed then
    let up := (pos + n - s.st.self) % n
    let first := decide (n - up < up)
    if portUsable s first then some first else if portUsable s (!first) then some (!first) else none
  else
    let p := decide (pos < s.st.self)
    if portUsable s p then some p else none

/-- An envelope's bytes go out as one to four DATA frames. -/
def sendByStair (s : State) (p : Bool) (pos : Nat) (bytes : List Nat) : State :=
  let n := max 1 (ceilDiv bytes.length 4096)
  let s1 := { s with st := { s.st with msgTag := s.st.msgTag + 1 } }
  (List.range n).foldl (fun s i =>
    let f : Frame := { src := ⟨s.st.self % 256, Nat.mod_lt _ (by decide)⟩, dst := ⟨pos % 256, Nat.mod_lt _ (by decide)⟩,
                       hops := 15, seq := 0, tag := s1.st.msgTag - 1, frag := ⟨i % 256, Nat.mod_lt _ (by decide)⟩,
                       frags := ⟨n % 256, Nat.mod_lt _ (by decide)⟩,
                       payload := ((bytes.drop (4096 * i)).take 4096).map (BitVec.ofNat 8) }
    sendFrame s p f) s1

end Machine
end Sys2Proof
end

