-- ==== Sys2Proof/Machine/Envelope.lean ====
section
/-! DEFINITION. Envelopes as the CU block sends them (10 R280 to R289, R303): certificates, headers and sealing, pair keys and
handshakes, the outbound ring and its queue, the roster, the watch table, and the internal orders of the CU block. -/

namespace Sys2Proof
namespace Machine

/-- Change the CU block's own state. -/
def withCu (s : State) (f : Cu → Cu) : State := { s with cu := f s.cu }

/-- The own member number, 0 while unenrolled. -/
def ownNum (s : State) : Nat := (s.cu.member.getD 0).val

/-- A member number from a number. -/
def memberOf (n : Nat) : Member := ⟨n % 262144, Nat.mod_lt _ (by decide)⟩

/-! ## The roster (R267) -/

/-- An entry that is free. -/
def freeEntry : RosterEntry := { device := 0, state := 0, serial := 0, joinTime := 0, digest := 0 }

/-- The roster entry of a number. -/
def roster (s : State) (m : Nat) : RosterEntry := tget freeEntry s.cu.roster m

/-- Store a roster entry. -/
def setRoster (s : State) (m : Nat) (e : RosterEntry) : State := withCu s fun c => { c with roster := tput freeEntry c.roster m e }

/-- The number has an active entry. -/
def rosterActive (s : State) (m : Nat) : Bool := (roster s m).state == 1

/-- Active entries. -/
def rosterCount (s : State) : Nat := (s.cu.roster.filter fun p => p.2.state == 1).length

/-! ## Certificates (R266) -/

/-- The 1,376 bytes of a certificate that the DATK signs. -/
def certBody (c : Cert) : List (Nat × Nat) :=
  [(4, 0x434B5752), (2, 1), (2, 0), (16, c.domain.toNat), (16, c.device.toNat), (4, c.member.val), (4, c.serial.toNat),
   (8, c.joinTime.toNat), (4, c.sponsor.val), (4, 0), (96, c.dak.toNat), (32, c.x.toNat), (1184, c.ek.toNat)]

/-- A certificate's 4,781 bytes. -/
def certFields (c : Cert) : List (Nat × Nat) := certBody c ++ [(96, c.ecdsa.toNat), (3309, c.mldsa.toNat)]

/-- SHA-384 of fields. -/
def layHash (l : List (Nat × Nat)) : Nat := sha384 (layLen l) (packBytes (layBytes l))

/-- SHA-384 of a certificate. -/
def certDigest (c : Cert) : BitVec 384 := BitVec.ofNat 384 (layHash (certFields c))

/-- ML-DSA-65 over bytes with a context, by FIPS 204's arithmetic, with 32 drawn bytes. -/
def mldsaSign (key ctx msg rnd : Nat) : Nat := Config.external 75 [key, ctx, msg, rnd] % 2 ^ (8 * 3309)

/-- A nonce from 1 to n − 1 for a P-384 signature, drawn. -/
def drawNonce (s : State) : Nat × State :=
  let d := draw 384 s
  (d.1.toNat % (p384.n - 1) + 1, d.2)

/-- The two signatures of the DATK over fields: ECDSA P-384 over their SHA-384, and ML-DSA-65 with a context. -/
def datkSign (s : State) (l : List (Nat × Nat)) (ctx : String) : (Nat × Nat) × State :=
  let k := drawNonce s
  let r := draw 256 k.2
  ((p384Sign s.cu.datkP.toNat k.1 (layHash l),
    mldsaSign s.cu.datkQ.toNat (packBytes (ascii ctx)) (packBytes (layBytes l)) r.1.toNat), r.2)

/-- A certificate with the DATK's signatures. -/
def signCert (s : State) (c : Cert) : Cert × State :=
  let g := datkSign s (certBody c) "RWK-CERT"
  ({ c with ecdsa := BitVec.ofNat 768 g.1.1, mldsa := BitVec.ofNat 26472 g.1.2, sigsOk := true }, g.2)

/-- The entry that a certificate makes. -/
def entryOfCert (c : Cert) : RosterEntry :=
  { device := c.device, state := 1, serial := c.serial, joinTime := c.joinTime, digest := certDigest c }

/-- The 128 bytes of a roster entry; the manual prints its fields and not their places. -/
def entryFields (e : RosterEntry) : List (Nat × Nat) :=
  [(16, e.device.toNat), (1, e.state.val), (3, 0), (4, e.serial.toNat), (8, e.joinTime.toNat), (48, e.digest.toNat), (48, 0)]

/-- The own certificate's serial. -/
def ownSerial (s : State) : BitVec 32 := s.cu.cert.serial

/-! ## Headers and sealing (R280, R281) -/

/-- Seal mode of a kind. -/
def envMode (kind : Nat) : Nat :=
  match kind with
  | 0x01 | 0x08 | 0x0A | 0x14 | 0x15 => 1
  | 0x02 | 0x03 | 0x09 => 2
  | _ => 0

/-- The 64 bytes of a header. -/
def envHeader (kind : Nat) (locked : Bool) (sender recipient dom seq time body lead pid : Nat) : List (Nat × Nat) :=
  [(4, 0x454B5752), (1, 1), (1, kind), (1, envMode kind), (1, b2n locked), (4, sender), (4, recipient), (16, dom), (8, seq),
   (8, time), (2, body), (2, lead), (4, pid), (8, 0)]

/-- The nonce: sequence number, then sender. -/
def envNonce (seq sender : Nat) : Nat := seq % 2 ^ 64 + fld (sender % 2 ^ 32) 64

/-- The kinds whose tag is a CMAC under JK. -/
def joinMac (kind : Nat) : Bool := kind == 0x08 || kind == 0x0A

/-- The body as it is sent, and the tag, under the key of the kind's mode. -/
def sealBody (kind key nonce : Nat) (head lead body : List (Nat × Nat)) : List Nat × Nat :=
  let h := layBytes head
  let l := layBytes lead
  let b := layBytes body
  if envMode kind = 1 then (b, if joinMac kind then cmac256 key (h.length + b.length) (packBytes (h ++ b)) else 0)
  else
    let ct := gcmCrypt key nonce b
    (l ++ ct, gcmTag key nonce (h ++ l) ct)

/-! ## Sending (R287, R289, R303) -/

/-- Registers of the rings and counters. -/
def outCfg : Nat := 0x60048
def outPtr : Nat := 0x60050
def envCnt : Nat := 0x60070
def envErr : Nat := 0x60078

/-- An envelope waits in the internal queue, or is dropped when 1,024 wait (R287). -/
def queueEnv (s : State) (e : EnvOut) : State :=
  if 1024 ≤ s.cu.outQ.length then evtRec (cntUp s envErr 15 0) 6 2 (srcWord 5 e.dst) 0
  else withCu s fun c => { c with outQ := c.outQ ++ [e] }

/-- The path of an envelope: a stair port and position, or the outbound ring; none while neither can take it, or a locked module
may not send it (R289, R303). -/
def envPath (s : State) (e : EnvOut) : Option (Option (Bool × Nat)) :=
  let stair := match ringPos s e.dst e.dev with
    | some pos => (pathPort s pos).map fun p => (p, pos)
    | none => none
  if isLocked s && e.kind != 0x10 then none
  else
    match stair with
    | some x => some (some x)
    | none => if ringOn s outCfg && !ringFull s outCfg outPtr && canIssue s true then some none else none

/-- The pair key held with a member. -/
def pairWith (s : State) (m : Nat) : Option Pair := tfind s.cu.pairs m

/-- The sender's number in a header: the own one, or the number that a candidate asks for. -/
def senderNum (s : State) (kind : Nat) : Nat :=
  match kind, s.cu.joining with
  | 0x08, some j => j.number.val
  | _, _ => ownNum s

/-- Key, sequence number and key identity under which an envelope goes. -/
def envKey (s : State) (e : EnvOut) : Key256 × Nat × Nat :=
  match envMode e.kind, pairWith s e.dst with
  | 0, some q => (q.key, q.seq, q.id.toNat)
  | _, _ => (e.key, 0, 0)

/-- The header of an outgoing envelope. -/
def outHeader (s : State) (e : EnvOut) : List (Nat × Nat) :=
  let k := envKey s e
  envHeader e.kind (isLocked s) (senderNum s e.kind) e.dst (if e.kind = 0x08 then 0 else s.cu.domainId.toNat) k.2.1 (e.time.getD (tbNow s)).toNat
    (layLen e.lead + layLen e.body) (layLen e.lead) k.2.2

/-- An outgoing envelope as it goes on the wire. -/
def envWire (s : State) (e : EnvOut) : List Nat :=
  let k := envKey s e
  let h := outHeader s e
  let b := sealBody e.kind k.1.toNat (envNonce k.2.1 (senderNum s e.kind)) h e.lead e.body
  layBytes h ++ b.1 ++ unpackBytes 16 b.2

/-- The envelope goes out. -/
def putEnv (s : State) (e : EnvOut) (path : Option (Bool × Nat)) : State :=
  let w := envWire s e
  let s0 := { s with out := .envelope e.kind e.dst path.isSome (e.lead ++ e.body) w :: s.out }
  let s1 := cntUp (if envMode e.kind = 1 then s0 else withCu s0 fun c => { c with dpKey := (envKey s e).1 }) envCnt 31 0
  match path with
  | some (p, pos) => sendByStair s1 p pos w
  | none => evt (wrF s1 outPtr 11 0 ((rdF s1 outPtr 11 0 + 1) % ringSize s1 outCfg)) 6 8

/-- An envelope that needs no pair key is sent, or waits. -/
def sendPlain (s : State) (e : EnvOut) : State :=
  match envPath s e with
  | some p => putEnv s e p
  | none => queueEnv s e

/-! ## Pair keys and handshakes (R283 to R286) -/

/-- ML-KEM-768 encapsulation to a key from 32 drawn bytes: ciphertext and shared secret, by FIPS 203's arithmetic. -/
def kemCt (ek rnd : Nat) : Nat := Config.external 71 [ek, rnd] % 2 ^ (8 * 1088)
def kemSecret (ek rnd : Nat) : Nat := Config.external 72 [ek, rnd] % 2 ^ 256
/-- The shared secret that the own transport identity takes from a ciphertext. -/
def kemOpen (s : State) (ct : Nat) : Nat := Config.external 12 [identSeed s, ct] % 2 ^ 256

/-- A 256-bit key by the KDF of 08 R228 under the SHA-256 of secrets of 32 bytes, over the SHA-384 of clear parts and more
context (R284, R279). -/
def shakeKey (label : String) (secrets : List Nat) (clear more : List Nat) : Key256 :=
  BitVec.ofNat 256 (derive (sha256 (32 * secrets.length) (packWords 32 secrets)) (ascii label)
    (unpackBytes 48 (sha384 clear.length (packBytes clear)) ++ more) 32)

/-- The 32 bytes of a confirmation: CMAC over the context, and 16 bytes more that the manual counts and CMAC does not give. -/
def confirmation (key : Key256) (clear : List Nat) : BitVec 256 :=
  let ctx := sha384 clear.length (packBytes clear)
  BitVec.ofNat 256 (cmac256 key.toNat 48 ctx + fld (Config.external 77 [key.toNat, ctx] % 2 ^ 128) 128)

/-- HELLO is sent, at the first try or again, with a fresh ephemeral value. -/
def sendHello (s : State) (m : Nat) (h : Shake) : State :=
  let d := draw 256 s
  let body := certFields s.cu.cert ++ [(32, x25519Pub d.1.toNat)]
  let h1 := { h with run := runNow s, eph := d.1, clear := layBytes body }
  sendPlain (withCu d.2 fun c => { c with shakes := (c.shakes.filter fun x => x.peer.val != m) ++ [h1], pairIds := tput 0 c.pairIds m h.id })
    { kind := 0x01, dst := m, body := body }

/-- The next identity of a key that this module initiates with a member (R284). -/
def nextPairId (s : State) (m : Nat) : BitVec 32 := tget 0 s.cu.pairIds m + 1

/-- Begin a handshake with a member (R284); one that is under way is begun again when it has waited a second. -/
def startShake (s : State) (m : Nat) : State :=
  if s.cu.member.isNone || m == ownNum s then s
  else
    match s.cu.shakes.find? fun h => h.peer.val == m with
    | some h =>
      if h.run + beatsPerSec ≤ runNow s then sendHello s m { peer := memberOf m, mine := true, id := nextPairId s m } else s
    | none => sendHello s m { peer := memberOf m, mine := true, id := nextPairId s m }

/-- The least recently used pair, of those cached. -/
def oldestPair (t : Tab Pair) : Option Nat :=
  (t.foldl (fun (a : Option (Nat × Nat)) p =>
    match a with
    | some (_, u) => if p.2.lastUse < u then some (p.1, p.2.lastUse) else a
    | none => some (p.1, p.2.lastUse)) none).map fun a => a.1

/-- Store the pair key of a handshake that is complete: the previous key stays valid for a second, and at most 4,096 keys are
cached (R283, R286). -/
def storePair (s : State) (m : Nat) (id : BitVec 32) (key : Key256) : State :=
  let run := runNow s
  let new : Pair := match pairWith s m with
    | some q => { id := id, key := key, made := run, seq := q.seq, high := q.high, seen := q.seen, prev := some (q.id, run, q.key),
                  lastUse := run }
    | none => { id := id, key := key, made := run, lastUse := run }
  let room := match pairWith s m with
    | some _ => s.cu.pairs
    | none => if 4096 ≤ s.cu.pairs.length then
        (match oldestPair s.cu.pairs with
          | some k => tdel s.cu.pairs k
          | none => s.cu.pairs)
      else s.cu.pairs
  let s1 := withCu s fun c => { c with pairs := tins room m new, shakes := c.shakes.filter fun h => h.peer.val != m }
  cntUp s1 0x60080 31 0

/-- A pair key as the cache holds it: masked under the cache key (R286); the mask's input is not printed. -/
def cachedPair (s : State) (m : Nat) (q : Pair) : Nat :=
  q.key.toNat ^^^ packWords 16 ((List.range 2).map fun j => aesEnc 8 (cacheKey s) (Config.external 78 [m, q.id.toNat, j] % 2 ^ 128))

/-- The pair key is forgotten. -/
def dropPair (s : State) (m : Nat) : State :=
  withCu s fun c => { c with pairs := tdel c.pairs m, shakes := c.shakes.filter fun h => h.peer.val != m }

/-- Envelopes under one key: 2³². -/
def pairLimit : Nat := 4294967296

/-- Send one sealed envelope under the pair key if it can go now; the handshake that replaces the key begins before the limit of
R283. -/
def sendSealed (s : State) (e : EnvOut) : Option State :=
  match pairWith s e.dst, envPath s e with
  | some q, some p =>
    if pairLimit ≤ q.sent then none
    else
      let s1 := putEnv s e p
      let s2 := withCu s1 fun c => { c with
        pairs := tins c.pairs e.dst { q with sent := q.sent + 1, seq := q.seq + 1, lastUse := runNow s } }
      some (if pairLimit ≤ q.sent + 2 then startShake s2 e.dst else s2)
  | _, _ => none

/-- Send an envelope to a member (R289): a locked module sends only BEAT (R303); a sealed envelope without a pair key waits
for the handshake that it starts. -/
def sendTo (s : State) (e : EnvOut) : State :=
  if (isLocked s && e.kind != 0x10) || (e.dev.isNone && e.dst == ownNum s && s.cu.member.isSome) then s
  else if envMode e.kind ≠ 0 then sendPlain s e
  else
    let s1 := if (pairWith s e.dst).isNone && !isLocked s then startShake s e.dst else s
    match sendSealed s1 e with
    | some s2 => s2
    | none => queueEnv s1 e

/-- Send a kind with a body to a member number. -/
def sendEnv (s : State) (kind dst : Nat) (body : List (Nat × Nat)) : State := sendTo s { kind := kind, dst := dst, body := body }

/-- The queue is taken up again in order: room in the ring, or a new pair key. -/
def drainOut (s : State) : State :=
  let q := s.cu.outQ
  q.foldl (fun s e =>
    if envMode e.kind ≠ 0 then sendPlain s e
    else
      match sendSealed s e with
      | some s1 => s1
      | none => queueEnv s e) (withCu s fun c => { c with outQ := [] })

/-- OUT_RING_HEAD_WRITE (R287): host software advances CU_OUT_PTR.HEAD. -/
def outHead (s : State) (head : Nat) : State := drainOut (wrF s outPtr 43 32 head)
def execOutRingHeadWrite (head : BitVec 12) (s : State) : Result :=
  managerWrite s 0x60050 fun s => outHead s head.toNat

/-- IN_RING_TAIL_WRITE (R288): the module consumes the slots in order up to TAIL; each envelope found there is a command of its
own. -/
def inTail (s : State) (tail : Nat) : State :=
  let s1 := wrF s 0x60068 11 0 tail
  if ringOn s1 0x60060 then wrF s1 0x60068 43 32 (tail % ringSize s1 0x60060) else s1
def execInRingTailWrite (tail : BitVec 12) (s : State) : Result :=
  managerWrite s 0x60068 fun s => inTail s tail.toNat

/-! ## The watch table (R302 to R305) -/

/-- CU_WATCH.INTERVAL and MISS as they are read, and their product in beats of run count. -/
def watchInterval (s : State) : Nat := min 0x1000 (max 1 (rdF s 0x60018 12 0))
def watchMiss (s : State) : Nat := max 2 (rdF s 0x60018 19 16)
def missBeats (s : State) : Nat := watchMiss s * watchInterval s * beatsPerSec

/-- Members of a descriptor's positions. -/
def descMembers (d : GroupDesc) : List Nat := (d.holders ++ d.shares).map fun m => m.val

/-- Members with which the module shares a custody group. -/
def groupPeers (s : State) : List Nat :=
  ((s.cu.groups.filter fun p => (descMembers p.2.desc).contains (ownNum s)).flatMap fun p => descMembers p.2.desc).filter
    fun m => m != ownNum s

/-- The next active number above the own one, counting cyclically. -/
def nextActive (s : State) : Option Nat :=
  let act := (s.cu.roster.filter fun p => p.2.state == 1 && p.1 != ownNum s).map fun p => p.1
  match act.find? fun m => ownNum s < m with
  | some m => some m
  | none => act.head?

/-- The anchor: the sponsor while its entry is active, otherwise the next active number. -/
def anchor (s : State) : Option Nat :=
  let m := s.cu.cert.sponsor.val
  if m ≠ ownNum s ∧ rosterActive s m = true then some m else nextActive s

/-- Peers that the watch table holds whatever is heard. -/
def fixedPeers (s : State) : List Nat := groupPeers s ++ (anchor s).toList

/-- A return entry is in force. -/
def returnOn (s : State) (w : Watch) : Bool :=
  match w.beat with
  | some r => runNow s < r + missBeats s
  | none => false

/-- A peer enters a table that has room for it. -/
def addPeer (t : Tab Watch) (m : Nat) (w : Watch) : Tab Watch :=
  if 8192 ≤ t.length && (tfind t m).isNone then t else tins t m w

/-- The watch table with the peers it has to hold now, then the return entries for which it has room (R305). -/
def rewatch (s : State) : State :=
  if s.cu.member.isNone then withCu s fun c => { c with watch := [] }
  else
    let t := (fixedPeers s).foldl (fun (t : Tab Watch) m =>
      addPeer t m (match tfind s.cu.watch m with
        | some w => w
        | none => { heard := runNow s })) []
    let back := s.cu.watch.filter fun p => returnOn s p.2
    withCu s fun c => { c with watch := back.foldl (fun t p => addPeer t p.1 p.2) t }

/-- Send to every peer in the watch table and every member in the ring map but one (R292). -/
def sendAround (s : State) (kind : Nat) (body : List (Nat × Nat)) (but : Nat) : State :=
  let ring := (s.st.map.filter fun h => h.enrolled).map fun h => h.member.val
  let others := ((s.cu.watch.map fun p => p.1) ++ ring).eraseDups.filter fun m => m != but && m != ownNum s
  others.foldl (fun s m => sendEnv s kind m body) s

/-! ## Internal orders (R275, 11) -/

/-- The order word of an internal stage: its routine, class c7. -/
def internWord (rn : Nat) : OrderWord := BitVec.ofNat 512 (rn + fld 7 16)

/-- A stage is submitted as an order of slice 0 in class c7; its effect comes with the order's end. -/
def submitIntern (s : State) (rn : Nat) (job : Option Job) : State :=
  match tfind s.ld.dir rn with
  | some im =>
    porter s { data := internWord rn, intern := true, job := job, hdr := im.hdr, slotProg := im.slotProg, image := im.serial }
  | none => refuse s { data := internWord rn, intern := true, job := job } .malformed 0

/-- INTERNAL_ORDER_RESUBMIT (R275): stages that completed with BUSY are submitted again at their retry beat. -/
def execInternalOrderResubmit (s : State) : Result :=
  let due := s.cu.intern.filter fun p => p.2.1 ≤ (tbNow s).toNat
  let s1 := withCu s fun c => { c with intern := c.intern.filter fun p => !(p.2.1 ≤ (tbNow s).toNat) }
  go (due.foldl (fun s p => submitIntern s p.1 p.2.2) s1)

end Machine
end Sys2Proof
end

