-- ==== Sys2Proof/Machine/Groups.lean ====
section
/-! DEFINITION. Custody groups (11): positions and roles, the coordinator, group state and its announcement, degraded status,
losses and repair, the custody schedule, and the share arithmetic over the order of edwards25519. -/

namespace Sys2Proof
namespace Machine

/-! ## Positions and roles (R306, R307, R317, R324) -/

/-- Positions of a group by place: A1 to Ah, then S1 to Sn, with their members. -/
def roleList (g : Group) : List Nat := descMembers g.desc

/-- The position of a place. -/
def posAt (d : GroupDesc) (i : Nat) : Pos :=
  if i < d.h then { active := true, ix := ⟨(i + 1) % 64, Nat.mod_lt _ (by decide)⟩ }
  else { active := false, ix := ⟨(i + 1 - d.h) % 64, Nat.mod_lt _ (by decide)⟩ }

/-- The place of a position, if the group has it. -/
def placeOf (d : GroupDesc) (p : Pos) : Option Nat :=
  if p.ix.val = 0 then none
  else if p.active then (if p.ix.val ≤ d.h then some (p.ix.val - 1) else none)
  else if p.ix.val ≤ d.n then some (d.h + p.ix.val - 1) else none

/-- The member of a place. -/
def memberAt (g : Group) (i : Nat) : Nat := (roleList g).getD i 0
/-- The state of a place. -/
def stateAt (g : Group) (i : Nat) : PosState := g.states.getD i .none
/-- A place whose position is lost, still or being rebuilt. -/
def lostAt (g : Group) (i : Nat) : Bool := stateAt g i != .confirmed && stateAt g i != .pending
/-- The group with the state of one place changed. -/
def withState (g : Group) (i : Nat) (st : PosState) : Group := { g with states := g.states.set i st }
/-- The place of the own position. -/
def ownPlace (g : Group) : Option Nat :=
  match g.own with
  | some p => placeOf g.desc p
  | none => none
/-- Position byte (11, Custody envelopes). -/
def posByte (p : Pos) : Nat := 128 * b2n p.active + p.ix.val
/-- The position of a byte. -/
def posOfByte (n : Nat) : Pos := { active := decide (128 ≤ n % 256), ix := ⟨n % 64, Nat.mod_lt _ (by decide)⟩ }
/-! ## Descriptors (R306, Creation) -/

/-- The members of places in a descriptor: 4 bytes each from an offset. -/
def descList (raw : BitVec 2048) (off n : Nat) : List Member :=
  (List.range n).map fun i => memberOf (bytesOf raw.toNat (off + 4 * i) 4)

/-- The descriptor that 256 bytes spell. -/
def descOf (raw : BitVec 2048) : GroupDesc :=
  let b := fun i => byteOf raw.toNat i
  { group := BitVec.ofNat 64 (bytesOf raw.toNat 8 8), h := b 16, n := b 17, k := b 18, f := b 19, e := b 20, rb := 16 * b 21, gexp := b 22,
    holders := descList raw 24 (min 8 (b 16)), shares := descList raw 56 (min 32 (b 17)) }

/-- The fields of a descriptor's 256 bytes. -/
def descFields (d : GroupDesc) : List (Nat × Nat) :=
  [(4, 0x474B5752), (2, 1), (2, 0), (8, d.group.toNat), (1, d.h), (1, d.n), (1, d.k), (1, d.f), (1, d.e), (1, d.rb / 16), (1, d.gexp), (1, 0)]
    ++ (List.range 8).map (fun i => (4, ((d.holders.map Fin.val).drop i).headD 0))
    ++ (List.range 32).map (fun i => (4, ((d.shares.map Fin.val).drop i).headD 0)) ++ [(72, 0)]

/-- Magic, format and reserved bytes are right: the bytes are those of the descriptor they spell. -/
def descForm (raw : BitVec 2048) : Bool := packBytes (layBytes (descFields (descOf raw))) == raw.toNat

/-- SHA-256 of a descriptor. -/
def descDigest (raw : BitVec 2048) : Nat := sha256 256 raw.toNat

/-- max(k, n − f). -/
def quorumOf (d : GroupDesc) : Nat := max d.k (d.n - d.f)

/-- The coordinator's place: the lowest active holder that is not lost, else the lowest such share holder (R317). -/
def coordPlace (g : Group) : Option Nat := (List.range (g.desc.h + g.desc.n)).find? fun i => !lostAt g i
/-- The coordinator. -/
def coordinator (g : Group) : Option Nat := (coordPlace g).map fun i => memberAt g i
/-- This module coordinates the group. -/
def amCoord (s : State) (g : Group) : Bool :=
  match s.cu.member with
  | some m => coordinator g == some m.val
  | none => false
/-- The index of the own share holder position. -/
def ownShareIx (g : Group) : Option Nat :=
  match g.own with
  | some p => if p.active then none else some p.ix.val
  | none => none

/-! ## Domain status (01 R16, R17) -/

/-- The group makes this module degraded: too few confirmed share holders, or an old-epoch share served in a grace window. -/
def degrades (g : Group) : Bool := g.own.isSome && (decide (confirmedOf g < g.desc.n) || g.lag.isSome)

/-- Domain status of a member that is not isolated. -/
def domainNow (s : State) : DomainStatus := if s.cu.groups.any fun p => degrades p.2 then .degraded else .member

/-- SYS_MODE.DOMAIN follows the groups (01 R16, R17). -/
def domainStatus (s : State) : State :=
  if s.cu.member.isNone then (if s.mode.domain = .unenrolled then s else setMode s fun m => { m with domain := .unenrolled })
  else if s.mode.domain = .isolated then s
  else
    let d := domainNow s
    if s.mode.domain = d then s else setMode s fun m => { m with domain := d }

/-- Store a group's entry. -/
def setGroup (s : State) (k : Nat) (g : Group) : State := domainStatus (withCu s fun c => { c with groups := tins c.groups k g })

/-- Change a group's entry. -/
def updGroup (s : State) (k : Nat) (f : Group → Group) : State :=
  match groupOf s k with
  | some g => setGroup s k (f g)
  | none => s

/-- Local number of a group identity. -/
def groupIx (s : State) (id : Word) : Option Nat := (s.cu.groups.find? fun p => p.2.desc.group == id).map fun p => p.1

/-! ## Custody envelopes -/

/-- The 16 bytes that begin a body: identity, generation, sender position, recipient position. -/
def cuLead (group gen sender dest : Nat) : List (Nat × Nat) := [(8, group), (4, gen), (1, sender), (1, dest), (2, 0)]

/-- Those of an envelope of this module. -/
def cuHead (g : Group) (gen place : Nat) : List (Nat × Nat) :=
  cuLead g.desc.group.toNat gen (match g.own with
    | some p => posByte p
    | none => 0) place

/-- Those of an envelope received. -/
def cuIn (c : CuHdr) : List (Nat × Nat) := cuLead c.group.toNat c.gen.toNat (posByte c.pos) c.dest.toNat

/-- Send a custody kind to a place. -/
def sendPlace (s : State) (g : Group) (kind gen i : Nat) (body : List (Nat × Nat)) : State :=
  sendEnv s kind (memberAt g i) (cuHead g gen (posByte (posAt g.desc i)) ++ body)

/-- Send a custody kind to every role member. -/
def sendRoles (s : State) (g : Group) (kind gen : Nat) (body : List (Nat × Nat)) : State :=
  (roleList g).eraseDups.foldl (fun s m => sendEnv s kind m (cuHead g gen 0xFF ++ body)) s

/-- State byte of a position in GROUP_STATE. -/
def stateByte : PosState → Nat
  | .none => 0 | .confirmed => 1 | .pending => 1 | .lost => 2 | .rebuilding => 3

/-- The body of a GROUP_STATE after its lead: version, descriptor, one state byte for each of A1 to A8 and S1 to S32, RC and
target. -/
def stateFields (version : Nat) (d : GroupDesc) (states : List PosState) (rc target : Nat) : List (Nat × Nat) :=
  let at_ := fun (i : Nat) => (1, stateByte (states.getD i .none))
  [(4, version)] ++ descFields d
    ++ (List.range 8).map (fun i => if i < d.h then at_ i else (1, 0))
    ++ (List.range 32).map (fun i => if i < d.n then at_ (d.h + i) else (1, 0))
    ++ [(8, rc), (1, target), (3, 0)]

/-- The body of a GROUP_STATE of a group held here. -/
def groupStateBody (g : Group) : List (Nat × Nat) :=
  match g.recon with
  | some r => stateFields g.version g.desc g.states r.rc (posByte r.target)
  | none => stateFields g.version g.desc g.states 0 0

/-- The coordinator's new group state: one version on, sent to every role member (R318). -/
def announce (s : State) (k : Nat) (g : Group) : State :=
  let g1 := { g with version := g.version + 1 }
  sendRoles (setGroup s k g1) g1 0x20 g1.gen (groupStateBody g1)

/-! ## The custody schedule (R309, R310) -/

/-- Seconds of an epoch. -/
def epochSec (d : GroupDesc) : Nat := 2 ^ d.e
/-- Grace window in seconds. -/
def graceSec (d : GroupDesc) : Nat := 2 ^ d.gexp
/-- The first switch after a second. -/
def switchAfter (d : GroupDesc) (sec : Nat) : Nat := (sec / epochSec d + 1) * epochSec d
/-- The first switch whose refresh round begins after a second. -/
def refreshAfter (d : GroupDesc) (sec : Nat) : Nat := switchAfter d (sec + d.rb)

/-- The reconstruction that this module waits to begin as target. -/
def reconMine (s : State) (g : Group) : Option Recon :=
  match g.recon with
  | some r =>
    match placeOf g.desc r.target with
    | some i => if memberAt g i = ownNum s ∧ r.asked = false then some r else none
    | none => none
  | none => none

/-- Least of a list. -/
def leastOf (l : List Nat) : Option Nat :=
  match l with
  | [] => none
  | x :: r => some (r.foldl min x)

/-- Second at which a kind is next due for a group. -/
def groupDue (s : State) (kind : Nat) (g : Group) : Option Nat :=
  match kind with
  | 2 => some g.nextX
  | 3 => some (g.nextR - g.desc.rb)
  | _ => (reconMine s g).map fun r => r.rc

/-- Second at which a custody kind is next due for some group: 2 epoch switch, 3 share refresh, 4 reconstruction. -/
def custodyDue (s : State) (kind : Nat) : Option Nat :=
  leastOf (s.cu.groups.filterMap fun p => groupDue s kind p.2)

/-- Low 16 bits of the epoch number of the group that is due at a second (02, TB_SCHED_CTL_n.GEN). -/
def epochBits (s : State) (kind sec : Nat) : BitVec 16 :=
  match s.cu.groups.find? fun p => groupDue s kind p.2 == some sec with
  | some p => BitVec.ofNat 16 (sec / epochSec p.2.desc)
  | none => 0

/-- Place the entry of a custody kind, or keep the refused placement for the next beats (R310). -/
def placeCustody (s : State) (kind : Nat) (target : Word) (gen : BitVec 16) : State :=
  let r := schedPlace s kind target gen 0
  if r.2 then r.1 else { r.1 with tb := { r.1.tb with retry := r.1.tb.retry ++ [(kind, target, gen)] } }

/-- One custody kind keeps one entry, for the earliest beat at which it is next due. -/
def planKind (s : State) (kind : Nat) : State :=
  match custodyDue s kind with
  | none => s
  | some sec =>
    let target := BitVec.ofNat 64 (sec * beatsPerSec)
    let gen := epochBits s kind sec
    match s.tb.sched.find? fun e => e.2.kind == kind with
    | some e => if target.toNat < e.2.target.toNat then placeCustody (schedEmpty s e.1) kind target gen else s
    | none =>
      match s.tb.retry.find? fun r => r.1 == kind with
      | some r =>
        if target.toNat < r.2.1.toNat then
          placeCustody { s with tb := { s.tb with retry := s.tb.retry.erase r } } kind target gen
        else s
      | none => placeCustody s kind target gen

/-- Place what custody logic needs. -/
def planCustody (s : State) : State := planKind (planKind (planKind s 2) 3) 4

/-- The beat at which a refused placement is tried: its own, or the first that R57 may take when that has come too near. -/
def retryAim (s : State) (target : Word) : Word :=
  if target.toNat < (tbNow s).toNat + 64 then BitVec.ofNat 64 ((tbNow s).toNat + 64) else target

/-- CUSTODY_SCHED_RETRY (R310): a refused placement is tried again; the refusal was recorded once. -/
def execCustodySchedRetry (kind : Fin 3) (s : State) : Result :=
  match s.tb.retry.find? fun r => r.1 == kind.val + 2 with
  | some r =>
    if schedRefusal s r.1 (retryAim s r.2.1) = 0 then
      go (schedPlace { s with tb := { s.tb with retry := s.tb.retry.erase r } } r.1 (retryAim s r.2.1) r.2.2 0).1
    else go s
  | none => go s

/-! ## Losses and repair (R319, R326, R332, R333) -/

/-- Seconds of the start of a reconstruction that is named now, or that follows one that failed (R326, R331): at least 4 s off,
outside an unsettled round, and done before the next refresh round begins. -/
def reconStart (s : State) (g : Group) (base : Nat) : Nat :=
  let early := max base (secNow s + 5)
  let free := match g.round with
    | some r => max early (r.x + graceSec g.desc)
    | none => early
  if free + g.desc.rb ≤ g.nextR - g.desc.rb then free else g.nextR + graceSec g.desc

/-- A member that may be named for its own lost position: enrolled, present, and in no other position of the group. -/
def canRebuild (s : State) (g : Group) (i : Nat) : Bool :=
  let m := memberAt g i
  (rosterActive s m || m == ownNum s)
    && (match tfind s.cu.watch m with
        | some w => !w.absent
        | none => m == ownNum s)
    && ((roleList g).filter (· == m)).length == 1

/-- The coordinator names the first lost position that can be rebuilt (R333). -/
def repair (s : State) (k : Nat) : State :=
  match groupOf s k with
  | none => s
  | some g =>
    if !amCoord s g || g.recon.isSome || g.round.isSome then s
    else
      match (List.range (g.desc.h + g.desc.n)).find? fun i => stateAt g i == .lost && canRebuild s g i with
      | none => s
      | some i =>
        let r : Recon := { target := posAt g.desc i, rc := reconStart s g 0 }
        announce s k { withState g i .rebuilding with recon := some r }

/-- The coordinator marks a place lost and sends the change, at once or after the settlement of the round under way. -/
def markPosLost (s : State) (k i : Nat) : State :=
  match groupOf s k with
  | none => s
  | some g =>
    if !amCoord s g || stateAt g i == .lost then s
    else if g.round.isSome then setGroup s k { g with waiting := g.waiting ++ [.mark (posAt g.desc i) .lost] }
    else
      let rec_ := match g.recon with
        | some r => if r.target = posAt g.desc i then none else some r
        | none => none
      repair (gevt (announce s k { withState g i .lost with recon := rec_ }) 2) k

/-- Every position of a member is lost in every group that this module coordinates, or will coordinate once it is lost
(R318, R332). -/
def memberLost (s : State) (m : Nat) : State :=
  s.cu.groups.foldl (fun s p =>
    match (List.range (roleList p.2).length).find? fun i => memberAt p.2 i == m && !lostAt p.2 i with
    | none => s
    | some i =>
      if amCoord s p.2 then markPosLost s p.1 i
      else if amCoord s (withState p.2 i .lost) then
        (if p.2.round.isSome then setGroup s p.1 { p.2 with waiting := p.2.waiting ++ [.mark (posAt p.2.desc i) .lost] }
         else repair (gevt (announce s p.1 (withState p.2 i .lost)) 2) p.1)
      else s) s

/-- A member is present again: its lost positions may be rebuilt (R333). -/
def memberBack (s : State) : State := planCustody (s.cu.groups.foldl (fun s p => repair s p.1) s)

/-! ## What a member loses with its role (R333, R336) -/

/-- The type 40h record of a group goes. -/
def dropGroupKey (s : State) (g : Group) : State :=
  match g.key with
  | some h =>
    match chainOf s h with
    | some r => deleteChain s r
    | none => s
  | none => s

/-- The own role is lost: an active holder deletes its type 40h record, a share holder erases its share records. -/
def loseRole (s : State) (k : Nat) : State :=
  match groupOf s k with
  | some g => setGroup (dropGroupKey s g) k { g with own := none, key := none, cur := none, pend := none, old := none, round := none, bound := none, lag := none }
  | none => s

/-- GROUP_DEL: the key, the share records and every record of the group go, and the entry is free (R336). -/
def dropGroup (s : State) (k : Nat) : State :=
  match groupOf s k with
  | none => s
  | some g =>
    let s1 := dropGroupKey s g
    let chains := s1.ks.recs.filter fun p => p.2.part == 0 && (match p.2.group with
      | some j => j.val == k
      | none => false)
    let s2 := chains.foldl (fun s p => deleteChain s p.2) s1
    rewatch (domainStatus (withCu s2 fun c => { c with groups := tdel c.groups k }))

/-! ## Shares (R311 to R313, R328) -/

/-- Value of a polynomial at x modulo ℓ, coefficients from the constant up. -/
def polyAt (l : List Nat) (x : Nat) : Nat := l.foldr (fun a v => (a + v * x) % ellOrder) 0

/-- n drawn coefficients. -/
def drawCoeffs (s : State) : Nat → List Nat × State
  | 0 => ([], s)
  | n + 1 =>
    let d := draw 256 s
    let r := drawCoeffs d.2 n
    (d.1.toNat % ellOrder :: r.1, r.2)

/-- The four polynomials of a sharing: of lo and hi, and their blinding polynomials; degree k − 1, with these constants. -/
structure Polys where
  lo : List Nat
  hi : List Nat
  bLo : List Nat
  bHi : List Nat

/-- A sharing of two halves; a refresh has zero constants everywhere, a full sharing draws the blinding constants too. -/
def drawPolys (s : State) (d : GroupDesc) (lo hi : Nat) (full : Bool) : Polys × State :=
  let c1 := drawCoeffs s (d.k - 1)
  let c2 := drawCoeffs c1.2 (d.k - 1)
  let c3 := drawCoeffs c2.2 (d.k - 1 + b2n full)
  let c4 := drawCoeffs c3.2 (d.k - 1 + b2n full)
  let blind := fun (l : List Nat) => if full then l else 0 :: l
  ({ lo := lo :: c1.1, hi := hi :: c2.1, bLo := blind c3.1, bHi := blind c4.1 }, c4.2)

/-- The values of a sharing at an index. -/
def sharesAt (p : Polys) (x : Nat) : ShareVal :=
  { sLo := polyAt p.lo x, sHi := polyAt p.hi x, tLo := polyAt p.bLo x, tHi := polyAt p.bHi x }

/-- A commitment block (R311): the points of half lo, then those of half hi. -/
abbrev CommitBlock := List (BitVec 256)

/-- A point as a block holds it. -/
def encPoint (u : EdPoint) : BitVec 256 := BitVec.ofNat 256 (edEnc u)
/-- A point of a block; one that does not decode counts as none. -/
def decPoint (v : BitVec 256) : Option EdPoint := edDec v.toNat

/-- The commitment block of a sharing: Cⱼ = aⱼ·G + bⱼ·H. -/
def commitBlock (p : Polys) : CommitBlock :=
  let half := fun (a b : List Nat) => (List.zip a b).map fun c => encPoint (pedersen c.1 c.2)
  half p.lo p.bLo ++ half p.hi p.bHi

/-- The fields of a block, and its SHA-256 (R311). -/
def blockFields (b : CommitBlock) : List (Nat × Nat) := b.map fun v => (32, v.toNat)
def blockDigest (b : CommitBlock) : BitVec 256 := BitVec.ofNat 256 (sha256 (32 * b.length) (packBytes (layBytes (blockFields b))))

/-- The block of two sharings' sum, point by point. -/
def addBlocks (a b : CommitBlock) : CommitBlock :=
  (List.zip a b).map fun c =>
    match decPoint c.1, decPoint c.2 with
    | some u, some v => encPoint (edAdd u v)
    | _, _ => c.1

/-- The sum over j of xʲ·Cⱼ. -/
def evalCommits (x : Nat) (l : CommitBlock) : Option EdPoint :=
  l.foldr (fun c a =>
    match decPoint c, a with
    | some u, some r => some (edAdd u (edMul 6 x r))
    | _, _ => none) (some edZero)

/-- The values of one half verify at an index (R312). -/
def halfVerifies (x s t : Nat) (l : CommitBlock) : Bool :=
  decide (s < ellOrder) && decide (t < ellOrder)
    && (match evalCommits x l with
        | some u => edEq (pedersen s t) u
        | none => false)

/-- A share verifies at an index for a block of threshold k (R312). -/
def shareVerifies (k x : Nat) (v : ShareVal) (b : CommitBlock) : Bool :=
  b.length == 2 * k && halfVerifies x v.sLo v.tLo (b.take k) && halfVerifies x v.sHi v.tHi (b.drop k)

/-- The first commitment of both halves is the identity point, as a refresh wants (R320 step 2). -/
def zeroConstant (k : Nat) (b : CommitBlock) : Bool :=
  let id := fun (c : Option (BitVec 256)) => match c with
    | some v => (match decPoint v with
      | some u => edEq u edZero
      | none => false)
    | none => false
  id b.head? && id (b.drop k).head?

/-- Sum of two shares. -/
def addShares (a b : ShareVal) : ShareVal :=
  { sLo := (a.sLo + b.sLo) % ellOrder, sHi := (a.sHi + b.sHi) % ellOrder,
    tLo := (a.tLo + b.tLo) % ellOrder, tHi := (a.tHi + b.tHi) % ellOrder }

/-- The 256 bytes of a share record (R313): state 1 current, 2 pending, 3 old. -/
def shareRecord (g : Group) (ix state : Nat) (r : ShareRec) : List (Nat × Nat) :=
  [(8, g.desc.group.toNat), (4, r.gen), (1, ix), (1, r.block.length / 2), (1, g.desc.n), (1, state), (32, r.val.sLo), (32, r.val.sHi),
   (32, r.val.tLo), (32, r.val.tHi), (32, (blockDigest r.block).toNat), (80, 0)]

/-- Lagrange coefficient of index i over a list of indexes at x, modulo ℓ. -/
def lagrange (l : List Nat) (i x : Nat) : Nat :=
  let num := l.foldl (fun a j => if j = i then a else a * ((x + ellOrder - j) % ellOrder) % ellOrder) 1
  let den := l.foldl (fun a j => if j = i then a else a * ((i + ellOrder - j) % ellOrder) % ellOrder) 1
  num * powMod ellOrder den (ellOrder - 2) 253 % ellOrder

/-- Interpolation at x over shares with their indexes. -/
def interpolate (l : List (Nat × ShareVal)) (x : Nat) : ShareVal :=
  let ixs := l.map fun p => p.1
  l.foldl (fun a p =>
    let c := lagrange ixs p.1 x
    addShares a { sLo := c * p.2.sLo % ellOrder, sHi := c * p.2.sHi % ellOrder,
                  tLo := c * p.2.tLo % ellOrder, tHi := c * p.2.tHi % ellOrder })
    { sLo := 0, sHi := 0, tLo := 0, tHi := 0 }

/-- K from its halves (11, Shares and commitments). -/
def keyOfHalves (lo hi : Nat) : Key256 := BitVec.ofNat 256 (lo % 2 ^ 128 + fld (hi % 2 ^ 128) 128)

/-- The type 40h record of a group is written: wrap and unwrap policy, the group, no expiry, slice 0 (R314). -/
def writeGroupKey (s : State) (k : Nat) (mat : Key256) : State × Except Status Word :=
  createFirst s 0 { typ := 0x40, part := 0, chainM1 := 0, matLen := 32, policy := 6, flags := 0, grp := 32768 + k, expiry := 0,
                    rsvd := 0, handle := 0, tail := 0 } mat 0

end Machine
end Sys2Proof
end

