-- ==== Sys2Proof/Machine/Inbox.lean ====
section
/-! DEFINITION. Envelopes as a member receives them (10 R282, R283, R302 to R304): the checks in their order, the replay window,
presence and isolation, and leaving the domain (R271). -/

namespace Sys2Proof
namespace Machine

/-! ## Presence (R303, R304) -/

/-- A watched peer is counted absent for a cause: 1 silence, 2 LOCKED flag, 3 LEAVE. -/
def markAbsent (s : State) (m cause : Nat) : State :=
  match tfind s.cu.watch m with
  | some w =>
    if w.absent then s
    else
      evtRec (withCu s fun c => { c with watch := tins c.watch m { w with absent := true, since := runNow s } }) 6 4 (srcWord 5 m)
        cause
  | none => s

/-- An envelope of another member has verified: isolation ends (01 R17), and a watched peer is present unless it says that it
is locked. -/
def heardFrom (s : State) (m : Nat) (flag : Bool) : State :=
  let s1 := withCu s fun c => { c with heard := runNow s }
  let s2 := if s1.mode.domain = .isolated then
      setMode s1 fun x => { x with domain := domainNow s1 } else s1
  match tfind s2.cu.watch m with
  | some w =>
    let s3 := withCu s2 fun c => { c with watch := tins c.watch m { w with heard := runNow s, absent := w.absent && flag } }
    if w.absent && !flag then memberBack (evtRec s3 6 3 (srcWord 5 m) 0) else s3
  | none => s2

/-! ## The checks (R282) -/

/-- What an envelope brings beside its header: the fields of its clear part and of the rest of its body, the signatures and
confirmations that it carries, the key of its mode where that is not a pair key, and the serial that its sender presents. -/
structure Msg where
  lead   : List (Nat × Nat) := []
  body   : List (Nat × Nat) := []
  sigsOk : Bool := true
  key    : Key256 := 0
  serial : Option (BitVec 32) := none

/-- An envelope fails a check and is counted. -/
def envFail (s : State) (hi lo : Nat) : State := evt (cntUp s envErr hi lo) 6 1

/-- R282 order 2. -/
def envDomainOk (s : State) (h : EnvHdr) (kind : Nat) : Bool :=
  match kind with
  | 0x08 => s.cu.member.isSome
  | 0x09 | 0x0A => (match s.cu.joining with
    | some j => h.domain == j.cert.domain
    | none => false)
  | _ => s.cu.member.isSome && h.domain == s.cu.domainId

/-- R282 order 3: JOIN kinds and CHAL are for the module that they were delivered to. -/
def envForMe (s : State) (h : EnvHdr) (kind : Nat) : Bool :=
  match kind with
  | 0x08 | 0x09 | 0x0A | 0x14 => true
  | _ => s.cu.member == some h.recipient

/-- The key that the sender's cache entry holds under the identity of the header: the current key, or the previous one for a
second (R283). -/
def heldKey (s : State) (h : EnvHdr) : Option Key256 :=
  match pairWith s h.sender.val with
  | some q =>
    if q.id = h.pairId then some q.key
    else
      match q.prev with
      | some (id, run, key) => if id = h.pairId ∧ runNow s < run + beatsPerSec then some key else none
      | none => none
  | none => none

/-- The header of an arriving envelope, its mode, lengths and reserved bytes as R282 order 1 wants them. -/
def inHeader (h : EnvHdr) (kind : Nat) (m : Msg) : List (Nat × Nat) :=
  envHeader kind h.locked h.sender.val h.recipient.val h.domain.toNat h.seq.toNat h.sendTime.toNat (layLen m.lead + layLen m.body)
    (layLen m.lead) h.pairId.toNat

/-- The tag that an arriving envelope must bear under a key (R281). -/
def dueTag (h : EnvHdr) (kind : Nat) (m : Msg) (key : Key256) : BitVec 128 :=
  BitVec.ofNat 128 (sealBody kind key.toNat (envNonce h.seq.toNat h.sender.val) (inHeader h kind m) m.lead m.body).2

/-- R282 order 5: the tag or CMAC, the signatures carried, and the serial presented, which is not below the roster's. -/
def verifies (s : State) (h : EnvHdr) (kind : Nat) (m : Msg) : Bool :=
  h.tag == dueTag h kind m (if envMode kind = 0 then (heldKey s h).getD 0 else m.key) && m.sigsOk
    && (match m.serial with
        | some n => (roster s h.sender.val).serial ≤ n
        | none => true)

/-- R282 order 6: above the highest received, or within the 64 below it and not yet received. -/
def seqFresh (q : Pair) (seq : Nat) : Bool :=
  (q.high == 0 && q.seen.isEmpty) || q.high < seq || (decide (q.high ≤ seq + 64) && !q.seen.contains seq)

/-- The window after a sequence number is received. -/
def takeSeq (q : Pair) (seq : Nat) : Pair :=
  let high := max q.high seq
  { q with high := high, seen := (seq :: q.seen).filter fun x => high ≤ x + 64 }

/-- Whether verifying a kind shows that its sender, another member, was heard. -/
def showsMember (kind : Nat) : Bool := !(kind == 0x08 || kind == 0x09 || kind == 0x0A || kind == 0x14)

/-- The checks of an arriving envelope; the second part says whether it is taken. A locked member takes BEAT only (R303). -/
def acceptEnv (s : State) (h : EnvHdr) (kind : Nat) (m : Msg) : State × Bool :=
  if isLocked s && kind != 0x10 then (cntUp s envErr 15 0, false)
  else if !h.formOk || !envDomainOk s h kind || !envForMe s h kind then (envFail s 63 48, false)
  else if envMode kind == 0 && (heldKey s h).isNone then
    let s1 := envFail s 31 16
    (if isLocked s then s1 else startShake s1 h.sender.val, false)
  else if !verifies s h kind m then (envFail s 63 48, false)
  else
    let pass := fun (s : State) =>
      let s1 := cntUp s envCnt 63 32
      if showsMember kind && h.sender.val != ownNum s then heardFrom s1 h.sender.val h.locked else s1
    if envMode kind = 0 then
      match pairWith s h.sender.val with
      | some q =>
        if seqFresh q h.seq.toNat then
          let q1 := takeSeq { q with lastUse := runNow s } h.seq.toNat
          (pass (withCu s fun c => { c with pairs := tins c.pairs h.sender.val q1, dpKey := (heldKey s h).getD 0 }), true)
        else (envFail s 47 32, false)
      | none => (envFail s 31 16, false)
    else (pass s, true)

/-- The effect of an envelope that the checks take. -/
def onEnv (s : State) (h : EnvHdr) (kind : Nat) (m : Msg) (f : State → State) : State :=
  let a := acceptEnv s h kind m
  if a.2 then f a.1 else a.1

/-! ## Leaving the domain (R271) -/

/-- The body of a LEAVE. -/
def leaveBody (num serial : Nat) : List (Nat × Nat) := [(4, num), (4, serial)]

/-- LEAVE to every peer in the watch table. -/
def sendLeave (s : State) : State :=
  s.cu.watch.foldl (fun s p => sendEnv s 0x11 p.1 (leaveBody (ownNum s) (ownSerial s).toNat)) s

/-- The domain state, with the custodian register, is discarded; the module is unenrolled. -/
def forgetDomain (s : State) : State :=
  let s1 := wrF { s with sl := { s.sl with custody := [] } } 0x60000 62 62 0
  domainStatus (withCu s1 fun c => { c with
    member := none, cert := {}, domainId := 0, jk := 0, datkP := 0, datkQ := 0, roster := [],
    syncing := [], joined := [], pairs := [], pairIds := [], peerIds := [], shakes := [], shakeQ := [], watch := [], passed := [], outQ := [] })

/-- The domain state goes, and the unlock copy with it (13 R388). -/
def dropDomain (s : State) : State := forgetDomain { s with bbram := { s.bbram with unlock := [] } }

/-- The module leaves, and says so while it can still send. -/
def leaveDomain (s : State) : State := if s.cu.member.isSome then dropDomain (sendLeave s) else s

end Machine
end Sys2Proof
end

