-- ==== Sys2Proof/Machine/Domain.lean ====
section
/-! DEFINITION. Domain membership (10 R265 to R292): founding, joining, the roster and its propagation, handshakes, presence,
attestation, and the register entries that TICKET envelopes carry (12 R362, R363). -/

namespace Sys2Proof
namespace Machine

/-! ## CU_CMD -/

/-- CU_CMD_ARG.NUMBER and PEER. -/
def cuNumber (s : State) : Nat := rdF s 0x60030 17 0
def cuPeer (s : State) : Nat := rdF s 0x60030 49 32

/-- A CU_CMD completes with a status and a DETAIL. -/
def cuDone (s : State) (st : Status) (detail : Nat) : State :=
  evt (wr s 0x60028 (BitVec.ofNat 64 (stCode st + fld detail 16))) 6 0

/-- A CU_CMD stays in progress. -/
def cuBusy (s : State) : State := wr s 0x60028 (BitVec.ofNat 64 (fld 0xFF 16 + fld 1 24))

/-- CU_CMD is ignored while BUSY or before SYS_MODE.READY. -/
def cuGate (s : State) (f : State → State) : State :=
  if rdF s 0x60028 24 24 = 1 ∨ s.mode.ready = false then s else f s

/-- The conditions that found and join share: unlocked, PRODUCTION and unenrolled, time (R272, R274). -/
def enrolGate (s : State) : Option (Status × Nat) :=
  if isLocked s then some (.locked, 0xFF)
  else if s.mode.lc != .production || s.cu.member.isSome then some (.policy, 0x10)
  else if s.mode.time == .free then some (.timeUntrusted, 0xFF)
  else none

/-- An undefined OP. -/
def cuBadOp (s : State) : State := cuGate s fun s => cuDone s .malformed 0xFF

/-! ## Founding (R272, 12 R358) -/

/-- The slots of the two cards of a pair of FOUND tickets, when both are present and show no half. -/
def foundSlots (s : State) (t : Held × Held) : Option (Fin 4 × Fin 4) :=
  match cardWith s (tkKey t.1.raw), cardWith s (tkKey t.2.raw) with
  | some (0xFF, a), some (0xFF, b) => if a.val < b.val then some (a, b) else if b.val < a.val then some (b, a) else none
  | _, _ => none

/-- Public key of the card in a slot. -/
def cardPub (s : State) (n : Fin 4) : BitVec 768 :=
  match (tget {} s.sl.slots n.val).card with
  | some (p, _) => p
  | none => 0

/-- The card in a slot shows a half-kind from now on. -/
def setCardKind (s : State) (n : Fin 4) (kind : Nat) : State :=
  let c := tget {} s.sl.slots n.val
  { s with sl := { s.sl with slots := tput {} s.sl.slots n.val { c with card := c.card.map fun p => (p.1, kind) } } }

/-- A register entry for a key. -/
def newCustodian (pub : BitVec 768) (kindB : Bool) (name : BitVec 128) (serial : BitVec 32) : Custodian :=
  { pub := pub, keyId := BitVec.ofNat 256 (keyIdOf pub), kindB := kindB, name := name, serial := serial }

/-- The fields of an entry that the DATK signs, and the 256 bytes that carry it; the manual prints the fields and not their
places (12, The custodian register, R363). -/
def entryHead (ix : Nat) (c : Custodian) : List (Nat × Nat) :=
  [(1, ix), (1, b2n c.kindB), (2, 0), (4, c.serial.toNat), (16, c.name.toNat), (96, c.pub.toNat)]
def entryBytes (ix : Nat) (c : Custodian) : List (Nat × Nat) := entryHead ix c ++ [(96, c.sig.toNat), (40, 0)]

/-- An entry with the DATK's signature. -/
def signEntry (s : State) (ix : Nat) (c : Custodian) : Custodian × State :=
  let k := drawNonce s
  ({ c with sig := BitVec.ofNat 768 (p384Sign s.cu.datkP.toNat k.1 (layHash (entryHead ix c))) }, k.2)

/-! ## Halves on cards (12, The card) -/

/-- An ephemeral public value: 04h, x, y. -/
def ephPub (d : Nat) : Nat := 4 + fld (p384Pub d) 8

/-- The wrapping key of the KDF keyed with an X-coordinate of 384 bits, which the manual does not fold to the 256 of its key,
over the two public values. -/
def halfKey (xcoord own card : Nat) : Nat :=
  derive (Config.external 79 [xcoord] % 2 ^ 256) (ascii "RWK-HALF") (unpackBytes 97 own ++ unpackBytes 97 card) 32

/-- The wrapping key of READ_HALF: ECDH of the module's scalar and the card's ephemeral value. -/
def readKey (d card : Nat) : Nat :=
  match p384.mul d (some (beAt card 1 48, beAt card 49 48)) with
  | some u => halfKey u.1 (ephPub d) card
  | none => 0

/-- The wrapping key of WRITE_HALF, for which the manual names no public value of the card. -/
def writeKey (d : Nat) (card : BitVec 768) : Nat := Config.external 80 [d, card.toNat] % 2 ^ 256

/-- A card is sent a command. -/
def toCard (s : State) (n : Fin 4) (ins : Nat) (data : List Nat) : State := { s with out := .card n ins data :: s.out }

/-- VERIFY, with the PIN's digits as the buffer holds them. -/
def sendPin (s : State) (n : Fin 4) (pin : BitVec 128) : State :=
  toCard s n 0x20 ((unpackBytes 16 pin.toNat).takeWhile fun b => b != 0)

/-- READ_HALF is sent under a fresh scalar. -/
def askHalf (s : State) (n : Fin 4) : Nat × State :=
  let d := drawNonce s
  (d.1, toCard d.2 n 0x40 (unpackBytes 97 (ephPub d.1)))

/-- WRITE_HALF is sent under a fresh scalar. -/
def giveHalf (s : State) (n : Fin 4) (half kind : Nat) : State :=
  let d := drawNonce s
  toCard d.2 n 0x50 (unpackBytes 97 (ephPub d.1) ++ unpackBytes 40 (keyWrap (writeKey d.1 (cardPub s n)) half) ++ [kind])

/-- The PIN of a card command that founding or joining sends: the manual gives these no buffer. -/
def freePin (n : Fin 4) : BitVec 128 := BitVec.ofNat 128 (Config.external 81 [n.val])

/-- JK of an enrollment secret (R273). -/
def joinKey (es : Key256) (dom : BitVec 128) : Key256 :=
  BitVec.ofNat 256 (derive es.toNat (ascii "RWK-JOIN") (unpackBytes 16 dom.toNat) 32)

/-- The keys of the own certificate: the DAK's public key and the transport values of KS_TPUB (R266). -/
def ownKeys (s : State) (c : Cert) : Cert :=
  { c with dak := BitVec.ofNat 768 (p384Pub (dakScalar s)), x := BitVec.ofNat 256 (identPub s), ek := BitVec.ofNat 9472 (mlkemPub s) }

/-- The module holds a domain's private keys. -/
def holdDatk (s : State) (p : BitVec 384) (q : BitVec 32256) : State := withCu s fun u => { u with datkP := p, datkQ := q }

/-- The module becomes a member under a certificate of its own. -/
def enrol (s : State) (num : Nat) (c : Cert) (jk : Key256) : State :=
  let s1 := withCu s fun u => { u with
    member := some (memberOf num), cert := c, domainId := c.domain, jk := jk, joining := none, heard := runNow s, lastBeat := runNow s }
  rewatch (domainStatus (setRoster s1 num (entryOfCert c)))

/-- ML-DSA-65's private key from a drawn seed, and its public value, by FIPS 204's arithmetic. -/
def mldsaKey (seed : Nat) : Nat := Config.external 74 [seed] % 2 ^ 32256
def mldsaPub (key : Nat) : Nat := Config.external 76 [key] % 2 ^ 15616

/-- What a founding draws: domain identity, DATK, ES and its A half. -/
structure Founding where
  dom   : BitVec 128
  datkP : BitVec 384
  datkQ : BitVec 32256
  es    : Key256
  half  : Key256

/-- The draws of a founding (R272). -/
def drawFounding (s : State) : Founding × State :=
  let dom := draw 128 s
  let p := drawNonce dom.2
  let q := draw 256 p.2
  let es := draw 256 q.2
  let a := draw 256 es.2
  ({ dom := dom.1, datkP := BitVec.ofNat 384 p.1, datkQ := BitVec.ofNat 32256 (mldsaKey q.1.toNat), es := es.1, half := a.1 }, a.2)

/-- The halves of ES go to the two cards (12 R358). -/
def writeHalves (s : State) (f : Founding) (a b : Fin 4) : State :=
  giveHalf (sendPin (giveHalf (sendPin s a (freePin a)) a f.half.toNat 0) b (freePin b)) b (f.es ^^^ f.half).toNat 1

/-- The founder's certificate and register, once both cards have their half (R272, 12 R358). -/
def founded (s : State) (f : Founding) (t : Held × Held) (a b : Fin 4) : State :=
  let num := cuNumber s
  let c := signCert (holdDatk s f.datkP f.datkQ)
    (ownKeys s { domain := f.dom, device := deviceId, member := memberOf num, serial := 1, joinTime := tbNow s, sponsor := memberOf num })
  let e0 := signEntry c.2 0 (newCustodian (cardPub s a) false 0 1)
  let e1 := signEntry e0.2 1 (newCustodian (cardPub s b) true 0 1)
  let s1 := setCardKind (setCardKind (consumePair (enrol e1.2 num c.1 (joinKey f.es f.dom)) t) a 0) b 1
  copyUnlock { s1 with sl := { s1.sl with custody := [(0, e0.1), (1, e1.1)] } }

/-- FOUND (R272, 12 R358): `ok` tells whether both cards took their half. -/
def foundCmd (s : State) (ok : Bool) : State :=
  match enrolGate s with
  | some r => cuDone s r.1 r.2
  | none =>
    match ticketPair s 1 (cuNumber s) with
    | none => cuDone s .policy 0x11
    | some t =>
      match foundSlots s t with
      | none => cuDone s .policy 0x11
      | some (a, b) =>
        let f := drawFounding s
        let s1 := writeHalves f.2 f.1 a b
        if ok then cuDone (founded s1 f.1 t a b) .done 0xFF else cuDone s1 .aborted 0xFF
/-- FOUND. -/
def execFound (ok : Bool) (s : State) : Result :=
  managerWrite s 0x60020 fun s => cuGate s fun s => foundCmd s ok

/-! ## Joining: the candidate (R273 to R278) -/

/-- The slots whose cards hold the A half and the B half of a pair of JOIN tickets (R274 order 4). -/
def joinSlots (s : State) (t : Held × Held) : Option (Fin 4 × Fin 4) :=
  match cardWith s (tkKey t.1.raw), cardWith s (tkKey t.2.raw) with
  | some (0, a), some (1, b) => some (a, b)
  | some (1, b), some (0, a) => some (a, b)
  | _, _ => none

/-- The body of a JOIN_REQ (R276): certificate bytes 0 to 1,375 with serial and join time zero, eC, ctS, the two tickets. -/
def joinTail (t1 t2 : BitVec 2176) : List (Nat × Nat) := [(272, t1.toNat), (272, t2.toNat)]
def joinReqBody (c : Cert) (x ct : Nat) (tail : List (Nat × Nat)) : List (Nat × Nat) :=
  certBody { c with serial := 0, joinTime := 0 } ++ [(32, x), (1088, ct)] ++ tail

/-- Sending a JOIN_REQ, at the first time and again (R278). -/
def sendJoinReq (s : State) (j : Joining) : State :=
  sendTo { s with cu := { s.cu with joining := some { j with sends := j.sends + 1, lastRun := runNow s } } }
    { kind := 0x08, dst := j.cert.member.val, body := j.req, key := j.jk }

/-- The end of stage 1: eC and ctS are made, and JOIN_REQ is sent (R275 step 3). -/
def joinSendEnd (s : State) : State :=
  match s.cu.joining with
  | some j =>
    let e := draw 256 s
    let r := draw 256 e.2
    let own := ownKeys s { domain := j.cert.domain, device := deviceId, member := j.number, sponsor := j.cert.member }
    let req := joinReqBody own (x25519Pub e.1.toNat) (kemCt j.cert.ek.toNat r.1.toNat) j.req
    sendJoinReq r.2 { j with eph := e.1, ssS := kemSecret j.cert.ek.toNat r.1.toNat, req := req }
  | none => s

/-- Both halves are read over the slots, and JK derived (R273). The slots carry them wrapped; the command brings them
unwrapped. -/
def readHalves (s : State) (a b : Fin 4) : State :=
  (askHalf (sendPin (askHalf (sendPin s a (freePin a)) a).2 b (freePin b)) b).2

/-- JOIN: stage 1 begins. -/
def joinCmd (s : State) (sponsor : HostRead (Option Cert)) (halves : Option (Key256 × Key256)) : State :=
  match enrolGate s with
  | some r => cuDone s r.1 r.2
  | none =>
    match ticketPair s 2 (cuPeer s + fld (cuNumber s) 32) with
    | none => cuDone s .policy 0x11
    | some t =>
      match joinSlots s t, halves with
      | some (a, b), some (x, y) =>
        let s1 := readHalves s a b
        match sponsor with
        | .failed => cuDone (dmaErr s1) .aborted 0xFF
        | .ok none => cuDone s1 .malformed 0xFF
        | .ok (some c) =>
          if c.member.val = cuPeer s then
            let j : Joining := { cert := c, number := memberOf (cuNumber s), sends := 0, lastRun := runNow s,
                                 jk := joinKey (x ^^^ y) c.domain, req := joinTail t.1.raw t.2.raw }
            submitIntern (withCu (cuBusy (consumePair s1 t)) fun u => { u with joining := some j }) 0xF2 (some .joinSend)
          else cuDone s1 .malformed 0xFF
      | _, _ => cuDone s .policy 0x11
/-- JOIN (R274, R275). -/
def execJoin (sponsor : HostRead (Option Cert)) (halves : Option (Key256 × Key256)) (s : State) : Result :=
  managerWrite s 0x60020 fun s => cuGate s fun s => joinCmd s sponsor halves

/-- The join ends without membership. -/
def joinFail (s : State) (st : Status) (detail : Nat) : State :=
  evt (cuDone (withCu s fun c => { c with joining := none }) st detail) 6 6

/-- JOIN_REQ_RESEND (R278). -/
def execJoinReqResend (s : State) : Result :=
  match s.cu.joining with
  | some j =>
    if j.sends ≠ 0 ∧ j.answered = false ∧ j.lastRun + 16 * beatsPerSec ≤ runNow s then
      go (if j.sends < 4 then sendJoinReq s j else joinFail s .rejectLimit 0xFF)
    else go s
  | none => go s

/-- The clear part and the sealed part of a JOIN_ACK (R279). -/
def joinAckLead (x ct : Nat) : List (Nat × Nat) := [(32, x), (1088, ct)]
def joinAckSealed (b : JoinBody) : List (Nat × Nat) :=
  certFields b.cert ++ [(16, b.domain.toNat), (48, b.datkP.toNat), (4032, b.datkQ.toNat), (32, b.jk.toNat), (8, b.cfg.toNat),
    (8, b.watch.toNat)]

/-- The key of a JOIN_ACK (R279): as for a pair, with ctS for ctR, and JK after the context. -/
def joinAckKey (ssX ssC ssS : Nat) (req lead : List Nat) (jk : Key256) : Key256 :=
  shakeKey "RWK-PAIR" [ssX, ssC, ssS] (req ++ lead) (unpackBytes 32 jk.toNat)

/-- The key that this candidate takes for a JOIN_ACK. -/
def ackKeyHere (s : State) (j : Joining) (b : JoinBody) : Key256 :=
  joinAckKey (x25519 j.eph.toNat b.eS.toNat) (kemOpen s b.ctC.toNat) j.ssS (layBytes j.req)
    (layBytes (joinAckLead b.eS.toNat b.ctC.toNat)) j.jk

/-- The certificate of a JOIN_ACK is the one that was asked for. -/
def joinFits (j : Joining) (b : JoinBody) : Bool :=
  b.cert.device == deviceId && b.cert.member == j.number && b.cert.domain == j.cert.domain && b.domain == j.cert.domain

/-- A JOIN_ACK as this candidate opens it. -/
def joinAckMsg (s : State) (body : JoinBody) : Msg :=
  { lead := joinAckLead body.eS.toNat body.ctC.toNat, body := joinAckSealed body, sigsOk := body.cert.sigsOk,
    key := match s.cu.joining with
      | some j => ackKeyHere s j body
      | none => 0 }

/-- JOIN_ACK (R275 step 5): opened, and its installation begins. -/
def execJoinAck (h : EnvHdr) (body : JoinBody) (s : State) : Result :=
  go (onEnv s h 0x09 (joinAckMsg s body) fun s =>
    match s.cu.joining with
    | some j =>
      if !joinFits j body then envFail s 63 48
      else if j.answered then s
      else submitIntern (withCu s fun c => { c with joining := some { j with answered := true } }) 0xF2 (some (.joinInstall body))
    | none => s)

/-- The end of stage 3: the domain state of a JOIN_ACK is installed (R275 step 5). -/
def joinInstallEnd (s : State) (b : JoinBody) : State :=
  match s.cu.joining with
  | some j =>
    let s1 := wr (wr s 0x60010 (b.cfg &&& 0x0000FFFFFFFFFFFF)) 0x60018 (BitVec.ofNat 64 (b.watch &&& 0xF1FFF).toNat)
    let s2 := enrol (holdDatk (setRoster s1 j.cert.member.val (entryOfCert j.cert)) b.datkP b.datkQ) j.number.val b.cert b.jk
    evt (cuDone (wrF s2 0x60000 62 62 1) .done 0xFF) 6 7
  | none => s

/-- A JOIN_NAK, whose CMAC is under the candidate's JK. -/
def joinNakMsg (s : State) (status : BitVec 16) (detail : Byte) : Msg :=
  { body := [(2, status.toNat), (1, detail.toNat)],
    key := match s.cu.joining with
      | some j => j.jk
      | none => 0 }

/-- JOIN_NAK (R279). -/
def execJoinNak (h : EnvHdr) (status : BitVec 16) (detail : Byte) (s : State) : Result :=
  go (onEnv s h 0x0A (joinNakMsg s status detail) fun s =>
    evt (evt (wr (withCu s fun c => { c with joining := none }) 0x60028
      (BitVec.ofNat 64 (status.toNat + fld detail.toNat 16))) 6 0) 6 6)

/-! ## Joining: the sponsor (R268, R270, R275, R277, R279) -/

/-- The half-kind of a JOIN ticket of a registered custodian that names the candidate, this sponsor and the number. -/
def joinTicket (s : State) (t : Ticket) (dev : BitVec 128) (num : Nat) : Option (Nat × Bool) :=
  if tkFormOk t.raw && tkTarget t.raw == dev.toNat && tkOp t.raw == 2 && tkArgs t.raw == ownNum s + fld num 32
      && tkDomain t.raw == 0 && t.sigOk then
    (custodianOf s (tkKey t.raw)).map fun p => (p.1, p.2.kindB)
  else none

/-- The two tickets come from one custodian of each half-kind. -/
def joinTickets (s : State) (t1 t2 : Ticket) (dev : BitVec 128) (num : Nat) : Bool :=
  match joinTicket s t1 dev num, joinTicket s t2 dev num with
  | some a, some b => a.2 != b.2
  | _, _ => false

/-- The join is of a device that holds the number already (R270). -/
def rejoins (s : State) (c : Cert) : Bool := rosterActive s c.member.val && (roster s c.member.val).device == c.device

/-- The first check of R279 that fails. -/
def joinRefusal (s : State) (c : Cert) (t1 t2 : Ticket) : Option (Status × Nat) :=
  if s.cu.member.isNone || s.mode.domain == .isolated then some (.quorum, 5)
  else if s.mode.time == .free then some (.timeUntrusted, 4)
  else if !joinTickets s t1 t2 c.device c.member.val then some (.policy, 1)
  else if rosterActive s c.member.val && !rejoins s c then some (.policy, 2)
  else if !rejoins s c && 262144 ≤ rosterCount s then some (.quota, 3)
  else none

/-- A change of the roster is marked as seen: number, and serial, a deletion above 2³² (R292). -/
def markSeen (s : State) (num mark : Nat) : State := withCu s fun c => { c with passed := (num, mark) :: c.passed }
def seenMark (s : State) (num mark : Nat) : Bool := s.cu.passed.contains (num, mark)

/-- The JOIN_ACK for a certificate: a fresh X25519 value, an encapsulation to the candidate, and the sealed domain state
(R279). -/
def joinAckEnv (s : State) (c : Cert) (x : BitVec 256) (ct : BitVec 8704) (req : List Nat) : EnvOut × State :=
  let e := draw 256 s
  let r := draw 256 e.2
  let ctC := kemCt c.ek.toNat r.1.toNat
  let lead := joinAckLead (x25519Pub e.1.toNat) ctC
  let key := joinAckKey (x25519 e.1.toNat x.toNat) (kemSecret c.ek.toNat r.1.toNat) (kemOpen s ct.toNat) req (layBytes lead) s.cu.jk
  let body : JoinBody := { eS := BitVec.ofNat 256 (x25519Pub e.1.toNat), ctC := BitVec.ofNat 8704 ctC, cert := c, domain := s.cu.domainId,
                           datkP := s.cu.datkP, datkQ := s.cu.datkQ, jk := s.cu.jk, cfg := rd s 0x60010,
                           watch := rd s 0x60018 &&& 0xF1FFF }
  ({ kind := 0x09, dst := c.member.val, lead := lead, body := joinAckSealed body, dev := some c.device, key := key,
     time := some (tbNow s) }, r.2)

/-- The sponsor issues the certificate: roster entry, JOIN_ACK, ROSTER_ADD, and the roster sync to come. -/
def issueCert (s : State) (c : Cert) (x : BitVec 256) (ct : BitVec 8704) (req : List Nat) : State :=
  let again := rejoins s c
  let g := signCert s { c with domain := s.cu.domainId, serial := (roster s c.member.val).serial + 1, joinTime := tbNow s,
                               sponsor := memberOf (ownNum s) }
  let a := joinAckEnv g.2 g.1 x ct req
  let s1 := setRoster a.2 c.member.val (entryOfCert g.1)
  let s2 := withCu (dropPair s1 c.member.val) fun u => { u with
    joined := (c.device, x, runNow s, a.1) :: u.joined, syncing := u.syncing ++ [(c.member, 0)] }
  let s3 := sendTo (rewatch s2) a.1
  let s4 := sendAround (markSeen s3 c.member.val g.1.serial.toNat) 0x0C (certFields g.1) c.member.val
  if again then memberLost s4 c.member.val else s4

/-- The JOIN_ACK with which a candidate's eC was answered in the last 64 s (R277). -/
def answeredJoin (s : State) (dev : BitVec 128) (x : BitVec 256) : Option EnvOut :=
  (s.cu.joined.find? fun j => j.1 == dev && j.2.1 == x && decide (runNow s ≤ j.2.2.1 + 64 * beatsPerSec)).map fun j => j.2.2.2

/-- The end of stage 2 (R275 step 4, R277, R279). -/
def joinIssueEnd (s : State) (c : Cert) (x : BitVec 256) (ct : BitVec 8704) (req : List Nat) (t1 t2 : Ticket) : State :=
  match answeredJoin s c.device x with
  | some e => sendTo s e
  | none =>
    match joinRefusal s c t1 t2 with
    | some r => sendTo s { kind := 0x0A, dst := c.member.val, body := [(2, stCode r.1), (1, r.2)], dev := some c.device, key := s.cu.jk }
    | none => issueCert s c x ct req

/-- A JOIN_REQ, whose CMAC is under JK. -/
def joinReqMsg (s : State) (cert : Cert) (x : BitVec 256) (ct : BitVec 8704) (t1 t2 : Ticket) : Msg :=
  { body := joinReqBody cert x.toNat ct.toNat (joinTail t1.raw t2.raw), key := s.cu.jk }

/-- JOIN_REQ (R276, R277, R279): one that was answered is answered again; else stage 2 begins. -/
def execJoinReq (h : EnvHdr) (cert : Cert) (x : BitVec 256) (ct : BitVec 8704) (t1 t2 : Ticket) (s : State) : Result :=
  let m := joinReqMsg s cert x ct t1 t2
  go (onEnv s h 0x08 m fun s =>
    match answeredJoin s cert.device x with
    | some e => sendTo s e
    | none => submitIntern s 0xF2 (some (.joinIssue cert x ct (layBytes m.body) t1 t2)))

/-- The body of a TICKET envelope (12 R363). -/
def ticketBody (ts : List (BitVec 2176)) (entry : Option (Nat × Custodian)) : List (Nat × Nat) :=
  [(1, ts.length), (1, b2n entry.isSome), (14, 0)] ++ ts.map (fun t => (272, t.toNat))
    ++ (match entry with
        | some p => entryBytes p.1 p.2
        | none => [])

/-- The sponsor's register goes to the new member, one envelope for each index (12 R362). -/
def sendRegister (s : State) (m : Nat) : State :=
  (List.range 64).foldl (fun s ix =>
    sendEnv s 0x40 m (ticketBody [] ((tfind s.sl.custody ix).map fun c => (ix, c)))) s

/-- The body of a ROSTER_SYNC; its length is that of 96 entries. -/
def syncMsg (first : Nat) (entries : List RosterEntry) : Msg := { body := (4, first) :: (entries.map entryFields).flatten }
def syncHdr (h : EnvHdr) (entries : List RosterEntry) : EnvHdr := { h with formOk := h.formOk && entries.length == 96 }

/-- ROSTER_SYNC_SEND (R275 step 6): the next 96 entries, at most 256 envelopes in a second. -/
def execRosterSyncSend (s : State) : Result :=
  match s.cu.syncing with
  | [] => go s
  | (m, next) :: rest =>
    let sec := runNow s / beatsPerSec
    let sent := if s.cu.syncSecond = sec then s.cu.syncSent else 0
    if 256 ≤ sent then go s
    else
      let last := 262144 ≤ next + 96
      let s1 := withCu s fun c => { c with
        syncing := if last then rest else (m, next + 96) :: rest, syncSecond := sec, syncSent := sent + 1 }
      let s2 := sendEnv s1 0x0E m (syncMsg next ((List.range 96).map fun i => roster s (next + i))).body
      go (if last then sendRegister s2 m.val else s2)

/-- ROSTER_SYNC (R275): entries from a first number on; the last envelope ends the sync. -/
def execRosterSync (h : EnvHdr) (first : Nat) (entries : List RosterEntry) (s : State) : Result :=
  go (onEnv s (syncHdr h entries) 0x0E (syncMsg first entries) fun s =>
    let es := (List.range entries.length).zip entries
    let s1 := es.foldl (fun s (p : Nat × RosterEntry) =>
      let m := first + p.1
      if m < 262144 ∧ m ≠ ownNum s ∧ (roster s m).serial ≤ p.2.serial then setRoster s m p.2 else s) s
    rewatch (if 262144 ≤ first + 96 then wrF s1 0x60000 62 62 0 else s1))

/-! ## Certificates and the roster (R267, R269, R292) -/

/-- R267: the entry is free, or names the device with a serial at or below the certificate's. -/
def certFits (s : State) (c : Cert) : Bool :=
  let e := roster s c.member.val
  e.state == 0 || (e.device == c.device && e.serial ≤ c.serial)

/-- R269: of two certificates for a number, the one kept. -/
def certWins (s : State) (c : Cert) : Bool :=
  let e := roster s c.member.val
  c.joinTime < e.joinTime || (c.joinTime == e.joinTime && c.device < e.device)

/-- A certificate is stored; a rejoin of its device loses the device's positions (11 R332). -/
def storeCert (s : State) (c : Cert) : State :=
  let e := roster s c.member.val
  let lost := e.state == 1 && (e.device != c.device || (e.serial < c.serial && e.joinTime != c.joinTime))
  let s1 := rewatch (setRoster (if e.serial == c.serial then s else dropPair s c.member.val) c.member.val (entryOfCert c))
  if lost then memberLost s1 c.member.val else s1

/-- The own certificate is void (R269): the module leaves. -/
def voidOwn (s : State) : State := leaveDomain (evtRec s 6 5 (srcWord 5 (ownNum s)) 0)

/-- The number and serial of a certificate have been seen (R292). -/
def seenCert (s : State) (c : Cert) : Bool :=
  let e := roster s c.member.val
  seenMark s c.member.val c.serial.toNat || (e.state == 1 && e.device == c.device && e.serial == c.serial)

/-- A certificate not seen before is passed on once. -/
def passCert (s : State) (c : Cert) (source : Nat) : State :=
  if seenCert s c then s
  else sendAround (markSeen s c.member.val c.serial.toNat) 0x0C (certFields c) source

/-- A certificate that verifies: kept, or found void; one that is held already changes nothing. -/
def takeCert (s : State) (c : Cert) (source : Nat) : State :=
  let m := c.member.val
  let s1 := passCert s c source
  if (roster s m).state = 1 ∧ (roster s m).device = c.device ∧ (roster s m).serial = c.serial then s1
  else if certFits s c then storeCert s1 c
  else if (roster s m).device ≠ c.device ∧ certWins s c = true then
    if m = ownNum s then voidOwn s1 else storeCert s1 c
  else s1

/-- A certificate that travels. -/
def addMsg (cert : Cert) : Msg := { body := certFields cert, sigsOk := cert.sigsOk }

/-- ROSTER_ADD (R267, R269, R292). -/
def execRosterAdd (h : EnvHdr) (cert : Cert) (s : State) : Result :=
  go (onEnv s h 0x0C (addMsg cert) fun s => takeCert s cert h.sender.val)

/-- A removed number's entry becomes free and keeps the serial that a later join follows. -/
def freeNumber (s : State) (m : Nat) : State :=
  rewatch (setRoster (dropPair s m) m { freeEntry with serial := (roster s m).serial })

/-- The removal of a number and serial takes effect here. -/
def removeNumber (s : State) (m : Nat) (serial : BitVec 32) : State :=
  if m = ownNum s ∧ serial = ownSerial s then leaveDomain s
  else if rosterActive s m && (roster s m).serial == serial then memberLost (freeNumber s m) m
  else s

/-- Some active member's device identity. -/
def memberDevice (s : State) (dev : Nat) : Bool := s.cu.roster.any fun p => p.2.state == 1 && p.2.device.toNat == dev

/-- The body of a ROSTER_DEL. -/
def delBody (m serial t1 t2 : Nat) : List (Nat × Nat) := [(4, m), (4, serial), (272, t1), (272, t2)]
def delMsg (number : Member) (serial : BitVec 32) (t1 t2 : Ticket) : Msg :=
  { body := delBody number.val serial.toNat t1.raw.toNat t2.raw.toNat }

/-- ROSTER_DEL (R292): two tickets of registered custodians for the number and serial, made for the member that issued it. -/
def execRosterDel (h : EnvHdr) (number : Member) (serial : BitVec 32) (t1 t2 : Ticket) (s : State) : Result :=
  let m := delMsg number serial t1 t2
  go (onEnv s h 0x0D m fun s =>
    let dev := tkTarget t1.raw
    let mark := 4294967296 + serial.toNat
    if !memberDevice s dev || !bodyPair s t1 t2 dev 3 (number.val + fld serial.toNat 32) then envFail s 63 48
    else if seenMark s number.val mark then s
    else removeNumber (sendAround (markSeen s number.val mark) 0x0D m.body h.sender.val) number.val serial)

/-- REMOVE (R292): CU_CMD OP 3h. -/
def removeCmd (s : State) : State :=
  let m := cuNumber s
  let serial := (roster s m).serial
  if isLocked s then cuDone s .locked 0xFF
  else if s.cu.member.isNone || !rosterActive s m then cuDone s .policy 0x10
  else
    match ticketPair s 3 (m + fld serial.toNat 32) with
    | none => cuDone s .policy 0x11
    | some t =>
      let mark := 4294967296 + serial.toNat
      let s1 := sendAround (markSeen (consumePair s t) m mark) 0x0D
        (delBody m serial.toNat t.1.raw.toNat t.2.raw.toNat) (ownNum s)
      cuDone (removeNumber s1 m serial) .done 0xFF
/-- REMOVE. -/
def execRemove (s : State) : Result :=
  managerWrite s 0x60020 fun s => cuGate s removeCmd

/-- A rotation of the transport identity: the member signs its next certificate and sends it out (R266). -/
def rotateCert (s : State) : State :=
  if s.cu.member.isNone then s
  else
    let g := signCert s (ownKeys s { s.cu.cert with serial := ownSerial s + 1 })
    let s1 := withCu g.2 fun c => { c with cert := g.1 }
    let e := { roster s1 (ownNum s) with serial := g.1.serial, digest := certDigest g.1 }
    sendAround (markSeen (setRoster s1 (ownNum s) e) (ownNum s) g.1.serial.toNat) 0x0C (certFields g.1) (ownNum s)

/-- KS_CMD OP 5h (08 R226, R266). -/
def rotateTransport (s : State) : State :=
  let s1 := ksCommand s 5 0 0
  if rd s1 0x40068 = rd s 0x40068 then s1 else rotateCert s1
/-- KS_ROTATE_TRANSPORT. -/
def execKsRotateTransport (s : State) : Result :=
  managerWrite s 0x40018 fun s => rotateTransport s

/-! ## Handshakes (R284 to R286) -/

/-- The clear parts of HELLO_ACK and HELLO_FIN (R280). -/
def ackLead (c : Cert) (x ct : Nat) : List (Nat × Nat) := certFields c ++ [(32, x), (1088, ct)]
def finLead (ct : Nat) : List (Nat × Nat) := [(1088, ct)]

/-- The handshake key of HELLO_ACK; the pair key, which is that of HELLO_FIN too (R284). -/
def ackKey (ssX ssI : Nat) (clear : List Nat) : Key256 := shakeKey "RWK-HS" [ssX, ssI] clear []
def finKey (ssX ssI ssR : Nat) (clear : List Nat) : Key256 := shakeKey "RWK-PAIR" [ssX, ssI, ssR] clear []

/-- A HELLO is answered: eR, and ctI under the initiator's certificate. -/
def answerHello (s : State) (i : ShakeIn) : State :=
  let m := i.peer.val
  let e := draw 256 s
  let r := draw 256 e.2
  let ssI := kemSecret i.ek.toNat r.1.toNat
  let ssX := x25519 e.1.toNat i.x.toNat
  let lead := ackLead s.cu.cert (x25519Pub e.1.toNat) (kemCt i.ek.toNat r.1.toNat)
  let clear := i.clear ++ layBytes lead
  let key := ackKey ssX ssI clear
  let id := tget 0 s.cu.peerIds m + 1
  let h : Shake := { peer := i.peer, mine := false, id := id, run := runNow s, eph := e.1, ssX := ssX, ssI := ssI, clear := clear }
  sendPlain (withCu r.2 fun c => { c with shakes := (c.shakes.filter fun x => x.peer.val != m) ++ [h], peerIds := tput 0 c.peerIds m id })
    { kind := 0x02, dst := m, lead := lead, body := [(32, (confirmation key clear).toNat)], key := key }

/-- A HELLO_ACK is answered: ctR under the responder's certificate, and the key is stored. -/
def answerAck (s : State) (h : Shake) (i : ShakeIn) : State :=
  let r := draw 256 s
  let ssX := x25519 h.eph.toNat i.x.toNat
  let lead := finLead (kemCt i.ek.toNat r.1.toNat)
  let clear := h.clear ++ i.clear ++ layBytes lead
  let key := finKey ssX (kemOpen s i.ct.toNat) (kemSecret i.ek.toNat r.1.toNat) clear
  drainOut (storePair (sendPlain r.2 { kind := 0x03, dst := i.peer.val, lead := lead, body := [(32, (confirmation key clear).toNat)],
                                       key := key }) i.peer.val h.id key)

/-- The handshake under way with a member that was begun here, or there. -/
def shakeWith (s : State) (m : Nat) (mine : Bool) : Option Shake := s.cu.shakes.find? fun h => h.peer.val == m && h.mine == mine

/-- The clear parts and the key of a HELLO_ACK or HELLO_FIN that comes in for a handshake. -/
def ackClear (h : Shake) (i : ShakeIn) : List Nat := h.clear ++ i.clear
def ackKeyIn (s : State) (h : Shake) (i : ShakeIn) : Key256 :=
  ackKey (x25519 h.eph.toNat i.x.toNat) (kemOpen s i.ct.toNat) (ackClear h i)
def finKeyIn (s : State) (h : Shake) (i : ShakeIn) : Key256 := finKey h.ssX h.ssI (kemOpen s i.ct.toNat) (ackClear h i)

/-- One step of a handshake: 1 a HELLO is answered, 2 a HELLO_ACK is answered and the key stored, 3 a HELLO_FIN stores it. -/
def shakeStep (s : State) (i : ShakeIn) : State :=
  let m := i.peer.val
  match i.step with
  | 1 => answerHello s i
  | 2 =>
    match shakeWith s m true with
    | some h => answerAck s h i
    | none => s
  | _ =>
    match shakeWith s m false with
    | some h => drainOut (storePair s m h.id (finKeyIn s h i))
    | none => s

/-- Steps run in the current second. -/
def shakeRan (s : State) : Nat := if s.cu.shakeSecond = runNow s / beatsPerSec then s.cu.shakeRun else 0

/-- Run a step, or let it wait in arrival order beyond 256 in a second (R286). -/
def runShake (s : State) (i : ShakeIn) : State :=
  if 256 ≤ shakeRan s || !s.cu.shakeQ.isEmpty then withCu s fun c => { c with shakeQ := c.shakeQ ++ [i] }
  else
    shakeStep (withCu s fun c => { c with shakeSecond := runNow s / beatsPerSec, shakeRun := shakeRan s + 1 }) i

/-- HANDSHAKE_STEP_RELEASE (R286). -/
def execHandshakeStepRelease (s : State) : Result :=
  match s.cu.shakeQ with
  | i :: rest =>
    if 256 ≤ shakeRan s then go s
    else
      let s1 := withCu s fun c => { c with
        shakeQ := rest, shakeSecond := runNow s / beatsPerSec, shakeRun := shakeRan s + 1 }
      go (shakeStep s1 i)
  | [] => go s

/-- A HELLO. -/
def helloMsg (cert : Cert) (x : BitVec 256) : Msg :=
  { body := certFields cert ++ [(32, x.toNat)], sigsOk := cert.sigsOk, serial := some cert.serial }

/-- HELLO (R284, R285): of two that cross, the one begun by the lower member number continues. -/
def execHello (h : EnvHdr) (cert : Cert) (x : BitVec 256) (s : State) : Result :=
  go (onEnv s h 0x01 (helloMsg cert x) fun s =>
    let m := h.sender.val
    if cert.member != h.sender || !certFits s cert then envFail s 63 48
    else if (shakeWith s m true).isSome && decide (ownNum s < m) then s
    else runShake s { step := 1, peer := h.sender, ek := cert.ek, x := x, clear := layBytes (helloMsg cert x).body })

/-- What a HELLO_ACK calls for, and the envelope as this initiator opens it. -/
def ackIn (h : EnvHdr) (cert : Cert) (x : BitVec 256) (ct : BitVec 8704) : ShakeIn :=
  { step := 2, peer := h.sender, ek := cert.ek, x := x, ct := ct, clear := layBytes (ackLead cert x.toNat ct.toNat) }
def helloAckMsg (s : State) (h : EnvHdr) (cert : Cert) (x : BitVec 256) (ct : BitVec 8704) (confirm : BitVec 256) : Msg :=
  { lead := ackLead cert x.toNat ct.toNat, body := [(32, confirm.toNat)], sigsOk := cert.sigsOk, serial := some cert.serial,
    key := match shakeWith s h.sender.val true with
      | some k => ackKeyIn s k (ackIn h cert x ct)
      | none => 0 }

/-- HELLO_ACK (R284): opened with the secrets of the handshake begun here, its confirmation checked, and answered. -/
def execHelloAck (h : EnvHdr) (cert : Cert) (x : BitVec 256) (ct : BitVec 8704) (confirm : BitVec 256) (s : State) : Result :=
  let i := ackIn h cert x ct
  go (onEnv s h 0x02 (helloAckMsg s h cert x ct confirm) fun s =>
    match shakeWith s h.sender.val true with
    | some k =>
      if cert.member != h.sender || !certFits s cert || confirm != confirmation (ackKeyIn s k i) (ackClear k i) then envFail s 63 48
      else runShake s i
    | none => s)

/-- What a HELLO_FIN calls for, and the envelope as this responder opens it. -/
def finIn (h : EnvHdr) (ct : BitVec 8704) : ShakeIn := { step := 3, peer := h.sender, ct := ct, clear := layBytes (finLead ct.toNat) }
def helloFinMsg (s : State) (h : EnvHdr) (ct : BitVec 8704) (confirm : BitVec 256) : Msg :=
  { lead := finLead ct.toNat, body := [(32, confirm.toNat)],
    key := match shakeWith s h.sender.val false with
      | some k => finKeyIn s k (finIn h ct)
      | none => 0 }

/-- HELLO_FIN (R284). -/
def execHelloFin (h : EnvHdr) (ct : BitVec 8704) (confirm : BitVec 256) (s : State) : Result :=
  let i := finIn h ct
  go (onEnv s h 0x03 (helloFinMsg s h ct confirm) fun s =>
    match shakeWith s h.sender.val false with
    | some k =>
      if confirm != confirmation (finKeyIn s k i) (ackClear k i) then envFail s 63 48 else runShake s i
    | none => s)

/-- PAIR_KEY_AGE_EXPIRY (R283): 2¹⁶ s. -/
def execPairKeyAgeExpiry (m : Member) (s : State) : Result :=
  match pairWith s m.val with
  | some q => if q.made + 65536 * beatsPerSec ≤ runNow s ∧ isLocked s = false then go (startShake s m.val) else go s
  | none => go s

/-- PREVIOUS_PAIR_KEY_EXPIRY (R283). -/
def execPreviousPairKeyExpiry (m : Member) (s : State) : Result :=
  match pairWith s m.val with
  | some q =>
    match q.prev with
    | some (_, run, _) =>
      if run + beatsPerSec ≤ runNow s then go (withCu s fun c => { c with pairs := tins c.pairs m.val { q with prev := none } })
      else go s
    | none => go s
  | none => go s

/-! ## Watching peers (R302 to R305) -/

/-- A BEAT makes or renews a return entry, or is counted as refused when the table is full. -/
def noteBeat (s : State) (m : Nat) : State :=
  match tfind s.cu.watch m with
  | some w => withCu s fun c => { c with watch := tins c.watch m { w with beat := some (runNow s) } }
  | none =>
    if 8192 ≤ s.cu.watch.length then cntUp s 0x60018 63 48
    else withCu s fun c => { c with watch := tins c.watch m { heard := runNow s, beat := some (runNow s) } }

/-- The body of a BEAT (R280). -/
def beatBody (mode now serial : Nat) : List (Nat × Nat) := [(8, mode), (8, now), (4, serial), (12, 0)]
def beatMsg (mode now : Word) (serial : BitVec 32) : Msg :=
  { body := beatBody mode.toNat now.toNat serial.toNat, serial := some serial }

/-- BEAT (R302, R303). -/
def execBeat (h : EnvHdr) (mode now : Word) (serial : BitVec 32) (s : State) : Result :=
  go (onEnv s h 0x10 (beatMsg mode now serial) fun s =>
    let s1 := noteBeat s h.sender.val
    if h.locked then markAbsent s1 h.sender.val 2 else s1)

/-- A LEAVE. -/
def leaveMsg (h : EnvHdr) (serial : BitVec 32) : Msg := { body := leaveBody h.sender.val serial.toNat, serial := some serial }

/-- LEAVE (R303, 11 R332). -/
def execLeave (h : EnvHdr) (serial : BitVec 32) (s : State) : Result :=
  go (onEnv s h 0x11 (leaveMsg h serial) fun s => memberLost (markAbsent s h.sender.val 3) h.sender.val)

/-- BEAT_SEND (R302). -/
def execBeatSend (s : State) : Result :=
  if s.cu.member.isSome ∧ s.cu.lastBeat + watchInterval s * beatsPerSec ≤ runNow s then
    let s1 := rewatch (withCu s fun c => { c with lastBeat := runNow s })
    go (s1.cu.watch.foldl (fun s p => sendEnv s 0x10 p.1 (beatBody (modeWord s.mode) (tbNow s).toNat (ownSerial s).toNat)) s1)
  else go s

/-- PEER_ABSENCE_TIMEOUT (R304). -/
def execPeerAbsenceTimeout (m : Member) (s : State) : Result :=
  match tfind s.cu.watch m.val with
  | some w => if w.heard + missBeats s ≤ runNow s then go (rewatch (markAbsent s m.val 1)) else go s
  | none => go s

/-- Isolation time in beats (01 R17, CU_CFG.ISO_TIME). -/
def isoBeats (s : State) : Nat := max 1 (rdF s 0x60010 31 0) * beatsPerSec

/-- ISOLATION_TIMEOUT (01 R17). -/
def execIsolationTimeout (s : State) : Result :=
  if s.cu.member.isSome ∧ s.mode.domain ≠ .isolated ∧ s.cu.heard + isoBeats s ≤ runNow s then
    go (setMode s fun m => { m with domain := .isolated })
  else go s

/-! ## Attestation (R290, R291) -/

/-- The body of a CHAL, and the signed part of a RESP. -/
def chalBody (nonce num : Nat) : List (Nat × Nat) := [(32, nonce), (4, num)]
def respPart (s : State) (nonce : Nat) : List (Nat × Nat) :=
  [(32, nonce), (48, (certDigest s.cu.cert).toNat), (8, modeWord s.mode), (8, (tbNow s).toNat)]

/-- The body of a RESP: the signed part, both signatures of the DATK, and the DAK's; the manual names no context for the
ML-DSA signature. -/
def respBody (s : State) (nonce : Nat) : List (Nat × Nat) × State :=
  let part := respPart s nonce
  let g := datkSign s part ""
  let k := drawNonce g.2
  (part ++ [(96, g.1.1), (3309, g.1.2), (96, p384Sign (dakScalar s) k.1 (layHash part))], k.2)

/-- CHALLENGE (R290): CU_CMD OP 5h. -/
def challengeCmd (s : State) (nonce : HostRead (BitVec 256)) : State :=
  if isLocked s then cuDone s .locked 0xFF
  else if s.cu.member.isNone then cuDone s .policy 0x10
  else
    match nonce with
    | .failed => cuDone (dmaErr s) .aborted 0xFF
    | .ok n => cuDone (sendEnv s 0x14 (cuPeer s) (chalBody n.toNat (ownNum s))) .done 0xFF
/-- CHALLENGE. -/
def execChallenge (nonce : HostRead (BitVec 256)) (s : State) : Result :=
  managerWrite s 0x60020 fun s => cuGate s fun s => challengeCmd s nonce

/-- A CHAL. -/
def chalMsg (nonce : BitVec 256) (answerTo : Member) : Msg := { body := chalBody nonce.toNat answerTo.val }

/-- CHAL (R290, R291): answered within CU_CFG.CHAL_RATE a second. -/
def execChal (h : EnvHdr) (nonce : BitVec 256) (answerTo : Member) (s : State) : Result :=
  go (onEnv s h 0x14 (chalMsg nonce answerTo) fun s =>
    let sec := runNow s / beatsPerSec
    let ran := if s.cu.chalSecond = sec then s.cu.chalRun else 0
    if rdF s 0x60010 47 32 ≤ ran then cntUp s envErr 15 0
    else
      let b := respBody (withCu s fun c => { c with chalSecond := sec, chalRun := ran + 1 }) nonce.toNat
      sendEnv b.2 0x15 answerTo.val b.1)

/-- A RESP: its nonce, and whether its signatures verify. -/
def respMsg (nonce : BitVec 256) (sigsOk : Bool) : Msg := { body := [(32, nonce.toNat)], sigsOk := sigsOk }

/-- RESP (R290): an answer to a challenge. -/
def execResp (h : EnvHdr) (nonce : BitVec 256) (sigsOk : Bool) (s : State) : Result :=
  go (onEnv s h 0x15 (respMsg nonce sigsOk) fun s => s)

/-! ## TICKET envelopes (12 R362, R363) -/

/-- A register entry with a higher serial replaces the one at its index; one with a zero key is a removal. -/
def takeEntry (s : State) (ix : Nat) (c : Custodian) : State :=
  match tfind s.sl.custody ix with
  | some old => if old.serial < c.serial then copyUnlock { s with sl := { s.sl with custody := tins s.sl.custody ix c } } else s
  | none => copyUnlock { s with sl := { s.sl with custody := tins s.sl.custody ix c } }

/-- Mark under which a register entry was passed on. -/
def entryMark (ix : Nat) : Nat := 2 ^ 20 + ix

/-- A signed register entry, with the tickets that it was made under, goes to every peer in the watch table and every member in
the ring map (12 R362). -/
def spreadEntry (s : State) (ix : Nat) (c : Custodian) (ts : List (BitVec 2176)) (but : Nat) : State :=
  sendAround (markSeen s (entryMark ix) c.serial.toNat) 0x40 (ticketBody ts (some (ix, c))) but

/-- The custodian of an entry that an envelope carries. -/
def custodianIn (e : RegEntry) : Custodian := { newCustodian e.pub e.kindB e.name e.serial with sig := e.sig }

/-- An entry that verifies is stored, and passed on once with the tickets beside it. -/
def takeReg (s : State) (e : RegEntry) (ts : List Ticket) (source : Nat) : State :=
  if seenMark s (entryMark e.ix.val) e.serial.toNat then s
  else takeEntry (spreadEntry s e.ix.val (custodianIn e) (ts.map fun t => t.raw) source) e.ix.val (custodianIn e)

/-- A TICKET envelope; it holds at most two tickets. -/
def ticketMsg (tickets : List Ticket) (entry : Option RegEntry) : Msg :=
  { body := ticketBody (tickets.map fun t => t.raw) (entry.map fun e => (e.ix.val, custodianIn e)),
    sigsOk := entry.all fun e => e.sigOk }
def ticketHdr (h : EnvHdr) (tickets : List Ticket) : EnvHdr := { h with formOk := h.formOk && decide (tickets.length ≤ 2) }

/-- TICKET (12 R363): each ticket is offered to the hold test; a register entry is stored and passed on once. -/
def execTicket (h : EnvHdr) (tickets : List Ticket) (entry : Option RegEntry) (s : State) : Result :=
  go (onEnv s (ticketHdr h tickets) 0x40 (ticketMsg tickets entry) fun s =>
    let s1 := tickets.foldl (fun s (t : Ticket) => (holdTicket s t.raw t.sigOk false).1) s
    match entry with
    | some e => takeReg s1 e tickets h.sender.val
    | none => s1)

end Machine
end Sys2Proof
end

