-- ==== Sys2Proof/Machine/Custody.lean ====
section
/-! DEFINITION. The custody protocols (11): refresh rounds, settlement, reconstruction, creation, change and deletion of groups,
and the backup and restore rings. -/

namespace Sys2Proof
namespace Machine

/-! ## Common tests -/

/-- A member takes part in a stage only while it is unlocked, not isolated, and its time status is not FREE (R320). -/
def canTakePart (s : State) : Bool :=
  s.cu.member.isSome && !isLocked s && s.mode.domain != .isolated && s.mode.time != .free

/-- The descriptor under which a round runs: a change's new one (R335). -/
def roundDesc (g : Group) (r : Round) : GroupDesc := if r.full then g.change.getD g.desc else g.desc

/-- The group as the round sees it. -/
def inRound (g : Group) (r : Round) : Group := { g with desc := roundDesc g r }

/-- The members of a round: the role members, and those that a change brings (R335). -/
def roundMembers (g : Group) (r : Round) : List Nat := (roleList g ++ descMembers (roundDesc g r)).eraseDups

/-- Send a custody kind to every member of a round. -/
def sendRound (s : State) (g : Group) (r : Round) (kind gen : Nat) (body : List (Nat × Nat)) : State :=
  (roundMembers g r).foldl (fun s m => sendEnv s kind m (cuHead g gen 0xFF ++ body)) s

/-- A share holder position. -/
def sharePos (j : Nat) : Pos := { active := false, ix := ⟨j % 64, Nat.mod_lt _ (by decide)⟩ }

/-- The index of the share holder position that a member has under a descriptor. -/
def shareIxOf (d : GroupDesc) (m : Nat) : Option Nat := (d.shares.findIdx? fun x => x.val == m).map fun i => i + 1

/-- The own share holder index in a round: the own position, or that which a full sharing names. -/
def myIx (g : Group) (r : Round) : Option Nat := if r.full then (if r.ix = 0 then none else some r.ix) else ownShareIx g

/-- A custody envelope: its lead, and the rest of its body. -/
def cuMsg (c : CuHdr) (body : List (Nat × Nat)) : Msg := { body := cuIn c ++ body }

/-- The descriptor by which a sender's position is judged: PREPARED and ACK claim the positions of a change under way. -/
def senderDesc (g : Group) (kind : Nat) : GroupDesc :=
  match g.round with
  | some r => if kind == 0x22 || kind == 0x24 then roundDesc g r else g.desc
  | none => g.desc

/-- A custody envelope whose sender holds the position it claims in the group state held here (R342). -/
def onGroup (s : State) (h : EnvHdr) (c : CuHdr) (kind : Nat) (body : List (Nat × Nat)) (f : State → Nat → Group → Nat → State) :
    Result :=
  go (onEnv s h kind (cuMsg c body) fun s =>
    match groupIx s c.group with
    | none => envFail s 63 48
    | some k =>
      match groupOf s k with
      | none => envFail s 63 48
      | some g =>
        match placeOf (senderDesc g kind) c.pos with
        | some i => if (descMembers (senderDesc g kind)).getD i 0 = h.sender.val then f s k g i else envFail s 63 48
        | none => envFail s 63 48)

/-- Beats of a second of domain time. -/
def secBeat (sec : Nat) : Nat := sec * beatsPerSec

/-- Whether a beat of domain time is reached. -/
def reached (s : State) (beat : Nat) : Bool := beat ≤ (tbNow s).toNat

/-- The beats of the deal cut-off and the decision cut-off of a round (R320). -/
def dealBeat (g : Group) (r : Round) : Nat := secBeat r.x - secBeat g.desc.rb / 2
def decisionBeat (g : Group) (r : Round) : Nat := secBeat r.x - secBeat g.desc.rb / 4

/-! ## What waits for a settlement (R319) -/

/-- The group with a member replaced at a place. -/
def withMember (g : Group) (i : Nat) (m : Member) : Group :=
  { g with desc := if i < g.desc.h then { g.desc with holders := g.desc.holders.set i m }
                   else { g.desc with shares := g.desc.shares.set (i - g.desc.h) m } }

/-- The end of a reconstruction in the group state: the position is confirmed, or the next attempt is named (R331). -/
def endRecon (s : State) (g : Group) (target : Pos) (done : Bool) : Group :=
  match g.recon, placeOf g.desc target with
  | some r, some i =>
    if r.target ≠ target then g
    else if done then { withState g i .confirmed with recon := none }
    else { g with recon := some { target := target, rc := reconStart s g (r.rc + g.desc.rb) } }
  | _, _ => g

/-- One change that waited. -/
def applyLater (s : State) (g : Group) : Later → Group
  | .mark p st =>
    match placeOf g.desc p with
    | some i => { withState g i st with recon := match g.recon with
                    | some r => if r.target = p then none else some r
                    | none => none }
    | none => g
  | .replace p m =>
    match placeOf g.desc p with
    | some i => withMember g i m
    | none => g
  | .recon p done => endRecon s g p done

/-- The changes that waited for the settlement (R319). -/
def applyWaiting (s : State) (g : Group) : Group := g.waiting.foldl (applyLater s) { g with waiting := [] }

/-- A round is over here: a coordinator makes and sends the changes that waited. -/
def afterRound (s : State) (k : Nat) (g : Group) : State :=
  if g.waiting.isEmpty then repair (setGroup s k g) k
  else if amCoord s (applyWaiting s g) then repair (announce s k (applyWaiting s g)) k
  else setGroup s k (applyWaiting s g)

/-! ## Refresh rounds (R320 to R325) -/

/-- The body of a DEAL after its lead. -/
def dealBody (full : Bool) (v : ShareVal) (b : CommitBlock) : List (Nat × Nat) :=
  [(1, b2n full), (15, 0), (32, v.sLo), (32, v.sHi), (32, v.tLo), (32, v.tHi)] ++ blockFields b

/-- DEALs of a sharing to every share holder of a descriptor but the own index. -/
def sendDeals (s : State) (g : Group) (gen own : Nat) (p : Polys) (full : Bool) : State :=
  (List.range g.desc.n).foldl (fun s j =>
    if j + 1 = own then s else sendPlace s g 0x21 gen (g.desc.h + j) (dealBody full (sharesAt p (j + 1)) (commitBlock p))) s

/-- The values of a dealer that is no share holder: it keeps the commitments alone. -/
def noShare : ShareVal := { sLo := 0, sHi := 0, tLo := 0, tHi := 0 }

/-- A dealer's deals of a round: sent, and the own values kept. -/
def dealAll (s : State) (k : Nat) (g : Group) (r : Round) (dealer own : Nat) (p : Polys) (full : Bool) : State :=
  setGroup (sendDeals s (inRound g r) (g.gen + 1) own p full) k
    { g with round := some { r with deals := r.deals ++ [(dealer, if own = 0 then noShare else sharesAt p own, commitBlock p)] } }

/-- Positions under a change: an active holder keeps its state, or is lost until it is rebuilt (R335). -/
def activeStates (g : Group) (d : GroupDesc) : List PosState :=
  (List.range d.h).map fun i =>
    match (List.range g.desc.h).find? fun j => memberAt g j == (descMembers d).getD i 0 with
    | some j => if lostAt g j then PosState.lost else .confirmed
    | none => .lost

/-- The coordinator deals a fresh sharing of K under a change, and names the new members first (R335). -/
def dealFresh (s : State) (k : Nat) (g : Group) (r : Round) (nd : GroupDesc) (key : Key256) : State :=
  let new := (descMembers nd).filter fun m => !(roleList g).contains m
  let g1 := { g with version := g.version + 1 }
  let named := { g1 with desc := nd, states := activeStates g nd ++ List.replicate nd.n .pending }
  let s1 := new.foldl (fun s m => sendEnv s 0x20 m (cuHead g (g.gen + 1) 0xFF ++ groupStateBody named)) s
  let p := drawPolys s1 nd (bits key 127 0) (bits key 255 128) true
  let own := (shareIxOf nd (ownNum s)).getD 0
  dealAll p.2 k g1 { r with full := true, deals := [], ix := own } 0 own p.1 true

/-- A group whose only sharing kept here is that of a generation (R322). -/
def keepOnly (g : Group) (gen : Nat) : Group :=
  { g with gen := gen, pend := none, old := none, round := none, lag := none,
           cur := (g.cur.toList ++ g.pend.toList ++ g.old.toList).find? fun r => r.gen == gen }

/-- The states after a settlement: every share holder that acknowledged is confirmed, every other lost; a change takes effect
with its own positions, and with E, RB and GEXP from the next switch (R324, R335). -/
def settledStates (g : Group) (r : Round) : Group :=
  let d := roundDesc g r
  let act := if r.full then activeStates g d else (List.range d.h).map fun i => stateAt g i
  let sh := (List.range d.n).map fun j => if r.acks.contains (j + 1) then PosState.confirmed else .lost
  { g with desc := { d with e := g.desc.e, rb := g.desc.rb, gexp := g.desc.gexp }, states := act ++ sh,
           change := if r.full then none else g.change, tune := if r.full then some d else g.tune }

/-- Some position of the second group is lost that was not lost in the first. -/
def newlyLost (g g1 : Group) : Bool :=
  (List.range (g1.desc.h + g1.desc.n)).any fun i => stateAt g1 i == .lost && stateAt g i != .lost

/-- The coordinator ends a round: SETTLE or REVERT goes to every role member, the states follow, and what waited is done. -/
def finishRound (s : State) (k : Nat) (g : Group) (r : Round) (ok : Bool) : State :=
  let s1 := gevt (sendRound s g r 0x25 (g.gen + 1) [(1, if ok then 1 else 2)]) 1
  let g1 := if ok then settledStates (keepOnly g (g.gen + 1)) r
    else { keepOnly g g.gen with change := if r.full then none else g.change }
  let g2 := applyWaiting s g1
  let s2 := if ok then (if newlyLost g g2 then gevt s1 2 else s1)
    else if r.full then gevt s1 6 else gevtRec s1 5 (srcWord 0 0) 0
  let own := (List.range (roleList g2).length).find? fun i => memberAt g2 i == ownNum s && !lostAt g2 i
  let g3 := { g2 with own := own.map (posAt g2.desc) }
  let s3 := announce s2 k g3
  let gone := (roundMembers g r).filter fun m => !(roleList g3).contains m
  let s4 := gone.foldl (fun s m => sendEnv s 0x20 m (cuHead g3 g3.gen 0xFF ++ groupStateBody { g3 with version := g3.version + 1 })) s3
  let s5 := if g.own.isSome && g3.own.isNone then loseRole s4 k else s4
  rewatch (planCustody (repair s5 k))

/-- Share holders known to hold the newer generation of an unsettled round, this module among them (R325). -/
def newerHolders (g : Group) (r : Round) : Nat :=
  let mine := match myIx g r, (g.cur.toList ++ g.pend.toList).find? fun x => x.gen == g.gen + 1 with
    | some j, some _ => if r.acks.contains j then [] else [j]
    | _, _ => []
  (r.acks ++ mine).length

/-- The coordinator, or the holder that the losses that wait make coordinator, settles an earlier round before it deals
(R325). -/
def settleLate (s : State) (k : Nat) : State :=
  match groupOf s k with
  | some g =>
    match g.round with
    | some r =>
      if r.x < g.nextR ∧ canTakePart s = true ∧ (r.decided.isSome ∨ amCoord s g = false) ∧ amCoord s (applyWaiting s g) = true then
        if g.waiting.isEmpty then finishRound s k g r ((roundDesc g r).k ≤ newerHolders g r)
        else
          let g1 := applyWaiting s g
          finishRound (announce s k g1) k { g1 with version := g1.version + 1 } r ((roundDesc g r).k ≤ newerHolders g r)
      else s
    | none => s
  | none => s

/-- What the own module deals in a round: a fresh sharing, a refresh, or nothing. -/
def dealsNow (s : State) (g : Group) : Bool :=
  (g.change.isSome && amCoord s g && (groupKey s g).isSome) || ((ownShareIx g).isSome && g.cur.isSome)

/-- One group's refresh round begins (R320 step 1, R325); the deals come with the end of their stage. -/
def beginRefresh (s : State) (k : Nat) : State :=
  let s1 := settleLate s k
  match groupOf s1 k with
  | none => s1
  | some g =>
    let r := match g.round with
      | some r => if r.x = g.nextR then r else { x := g.nextR }
      | none => { x := g.nextR }
    let s2 := setGroup s1 k { g with nextR := refreshAfter g.desc (secNow s1), round := some r }
    if canTakePart s1 && dealsNow s1 g then submitIntern s2 0xF0 (some (.refresh k r.x)) else s2

/-- The end of the dealing stage of a round (R320 step 1). -/
def refreshEnd (s : State) (k x : Nat) : State :=
  match groupOf s k with
  | none => s
  | some g =>
    match g.round with
    | none => s
    | some r =>
      if r.x ≠ x || r.prepSent || !canTakePart s then s
      else
        match g.change, amCoord s g, groupKey s g with
        | some nd, true, some key => dealFresh s k g r nd key
        | _, _, _ =>
          match ownShareIx g, g.cur with
          | some j, some _ =>
            let p := drawPolys s g.desc 0 0 false
            dealAll p.2 k g r j j p.1 false
          | _, _ => s

/-- The refresh entry fires: for every group whose round is due (R310, R320 step 1). -/
def fireRefresh (s : State) : State :=
  let due := s.cu.groups.filter fun p => reached s (secBeat (p.2.nextR - p.2.desc.rb))
  planCustody (due.foldl (fun s p => beginRefresh s p.1) s)

/-- E, RB and GEXP of a change count from the switch after the settlement on (R335). -/
def retime (s : State) (g : Group) (d : GroupDesc) : Group :=
  let d1 := { g.desc with e := d.e, rb := d.rb, gexp := d.gexp }
  { g with desc := d1, tune := none, nextX := switchAfter d1 (secNow s), nextR := refreshAfter d1 (secNow s) }

/-- A share of the switch at X that is not the new one is served until X + G: the round has not ended without one (01 R16). -/
def servesOld (g : Group) (x : Nat) : Bool :=
  (ownShareIx g).isSome && g.cur.isSome
    && (decide (g.nextR ≤ x) || (match g.round with
      | some r => r.x == x && !(g.cur.any fun c => c.gen == g.gen + 1)
      | none => false))

/-- The own sharing at a switch: a pending share becomes current and the old one is kept (R320 step 6). -/
def switchShare (s : State) (g : Group) : Group :=
  match g.round, g.pend with
  | some r, some p =>
    if canTakePart s then { g with round := some { r with switched := true }, old := g.cur, cur := some p, pend := none }
    else { g with round := some { r with switched := true } }
  | some r, none => { g with round := some { r with switched := true } }
  | none, _ => g

/-- One group passes an epoch switch (R320 step 6, R335). -/
def passSwitch (s : State) (k : Nat) : State :=
  match groupOf s k with
  | none => s
  | some g =>
    let g1 := switchShare s g
    let g2 := { g1 with lag := if servesOld g1 g.nextX then some (g.nextX + graceSec g.desc) else g1.lag,
                        nextX := switchAfter g.desc (secNow s) }
    match g.tune with
    | some d => if amCoord s g then announce s k (retime s g2 d) else setGroup s k (retime s g2 d)
    | none => setGroup s k g2

/-- The epoch switch entry fires. -/
def fireSwitch (s : State) : State :=
  let due := s.cu.groups.filter fun p => reached s (secBeat p.2.nextX)
  planCustody (due.foldl (fun s p => passSwitch s p.1) s)

/-- What a beat does to a group: a cut-off whose beat passes while this module cannot take part is skipped (R320); an old-epoch
share is served from a switch, though its entry be held, to the end of the grace window (01 R16, R21). -/
def groupBeat (s : State) (g : Group) : Group :=
  let g1 := match g.round with
    | some r =>
      if canTakePart s then g
      else
        { g with round := some { r with prepSent := r.prepSent || reached s (dealBeat g r), cutoff := r.cutoff || reached s (decisionBeat g r) } }
    | none => g
  match g1.lag with
  | some sec => if sec ≤ secNow s then { g1 with lag := none } else g1
  | none =>
    if reached s (secBeat g1.nextX) && servesOld g1 g1.nextX && decide (secNow s < g1.nextX + graceSec g1.desc) then
      { g1 with lag := some (g1.nextX + graceSec g1.desc) }
    else g1

/-- What a beat does to the groups. -/
def roundBeat (s : State) : State :=
  let t := tmapv s.cu.groups fun _ g => groupBeat s g
  if t = s.cu.groups then s else domainStatus (withCu s fun c => { c with groups := t })

/-- The share of a new group, which its creator deals in generation 1 (R334). -/
def firstShare (g : Group) (c : CuHdr) (i : Nat) : Bool := c.gen == 1 && g.round.isNone && g.cur.isNone && i == 0

/-- A full sharing takes the place of the refresh in a round (R335). -/
def roundFor (g : Group) (c : CuHdr) (full : Bool) : Round :=
  let r := g.round.getD { x := g.nextR }
  if full && !r.full then { r with full := true, deals := [], ix := c.dest.toNat % 64 } else r

/-- DEAL (R320 step 2): verified against its commitments, and kept pending; the sharing of a new group becomes the share. -/
def execDeal (h : EnvHdr) (c : CuHdr) (full : Bool) (v : ShareVal) (block : List (BitVec 256)) (s : State) : Result :=
  onGroup s h c 0x21 (dealBody full v block) fun s k g i =>
    let x := c.dest.toNat % 64
    let threshold := if full then block.length / 2 else g.desc.k
    if !canTakePart s || (!full && ownShareIx g != some x) || !shareVerifies threshold x v block || (!full && !zeroConstant threshold block)
    then s
    else if full && firstShare g c i then setGroup s k { g with cur := some { gen := c.gen.toNat, val := v, block := block } }
    else
      let r := roundFor g c full
      let dealer := i + 1 - g.desc.h
      if (r.full && !full) || c.gen.toNat != g.gen + 1 || (r.deals.any fun d => d.1 == dealer) || r.prepSent || reached s (dealBeat g r)
          || !reached s (secBeat r.x - secBeat g.desc.rb) then s
      else setGroup s k { g with round := some { r with deals := r.deals ++ [(dealer, v, block)] } }

/-- The bit of a dealer in a bitmap: share holder i has bit i − 1; the one dealer of a full sharing has bit 0. -/
def dealerBit (full : Bool) (i : Nat) : Nat := if full then i else i - 1
/-- The dealer of a bit. -/
def dealerOf (full : Bool) (b : Nat) : Nat := if full then b else b + 1
/-- Numbers of the bits set in a map. -/
def bitSet (m : BitVec 32) : List Nat := (List.range 32).filter fun i => bit m i
/-- The map of a list of bits. -/
def bitMap (l : List Nat) : Nat := l.foldl (fun a i => a ||| 2 ^ i) 0

/-- The body of a PREPARED: the map, then the digests in bit order. -/
def preparedBody (l : List (Nat × BitVec 256)) : List (Nat × Nat) :=
  [(4, bitMap (l.map fun d => d.1)), (12, 0)]
    ++ (List.range 32).filterMap fun b => (l.find? fun d => d.1 == b).map fun d => (32, d.2.toNat)

/-- The coordinator records a holder's PREPARED. -/
def notePrepared (g : Group) (r : Round) (ix : Nat) (l : List (Nat × BitVec 256)) : Group :=
  { g with round := some (if r.prepared.any fun p => p.1 == ix then r else { r with prepared := r.prepared ++ [(ix, l)] }) }

/-- The dealers that a holder verified, with their digests. -/
def verifiedDeals (r : Round) : List (Nat × BitVec 256) := r.deals.map fun d => (d.1, blockDigest d.2.2)

/-- DEAL_CUTOFF (R320 step 3). -/
def execDealCutoff (n : Fin 4096) (s : State) : Result :=
  match groupOf s n.val with
  | none => go s
  | some g =>
    match g.round with
    | none => go s
    | some r =>
      match myIx g r with
      | none => go s
      | some j =>
        if r.prepSent || !canTakePart s || !reached s (dealBeat g r) then go s
        else
          let r1 := { r with prepSent := true }
          if amCoord s g then go (setGroup s n.val (notePrepared g r1 j (verifiedDeals r)))
          else
            let s1 := setGroup s n.val { g with round := some r1 }
            match coordPlace g with
            | some i =>
              let claim := { g with own := some (sharePos j) }
              go (sendPlace s1 claim 0x22 (g.gen + 1) i (preparedBody ((verifiedDeals r).map fun d => (dealerBit r.full d.1, d.2))))
            | none => go s1

/-- PREPARED (R321), received by the decision cut-off. -/
def execPrepared (h : EnvHdr) (c : CuHdr) (dealers : List (Fin 32 × BitVec 256)) (s : State) : Result :=
  onGroup s h c 0x22 (preparedBody (dealers.map fun d => (d.1.val, d.2))) fun s k g i =>
    match g.round with
    | some r =>
      if amCoord s g && canTakePart s && r.decided.isNone && !r.cutoff && !reached s (decisionBeat g r + 1) && !c.pos.active
          && c.gen.toNat == g.gen + 1 then
        setGroup s k (notePrepared g r (i + 1 - (roundDesc g r).h) (dealers.map fun d => (dealerOf r.full d.1.val, d.2)))
      else s
    | none => s

/-- The digest under which enough PREPARED envelopes report a dealer (R321). -/
def agreedDigest (r : Round) (need dealer : Nat) : Option (BitVec 256) :=
  let all := (r.prepared.flatMap fun p => p.2).filter fun d => d.1 == dealer
  (all.find? fun d => need ≤ ((r.prepared.filter fun p => p.2.contains d).length)).map fun d => d.2

/-- D with its digests, and P (R321). -/
def decideSets (d : GroupDesc) (r : Round) : List (Nat × BitVec 256) × List Nat :=
  let ds := (if r.full then [0] else (List.range 32).map (· + 1)).filterMap fun i => (agreedDigest r (quorumOf d) i).map fun x => (i, x)
  let ps := (r.prepared.filter fun p => ds.all fun x => p.2.contains x).map fun p => p.1
  (ds, ps)

/-- The deals of D that are held here; none when one is missing. -/
def dealsOf (r : Round) (d : List Nat) : Option (List (ShareVal × CommitBlock)) :=
  let l := d.map fun i => (r.deals.find? fun x => x.1 == i).map fun x => x.2
  if l.any fun v => v.isNone then none else some (l.filterMap fun v => v)

/-- The share that a decision makes: the old one plus the deals of D, or the one full deal (R320, R335). -/
def newShare (g : Group) (r : Round) (d : List Nat) : Option ShareRec :=
  match dealsOf r d with
  | none => none
  | some l =>
    if r.full then l.head?.map fun v => { gen := g.gen + 1, val := v.1, block := v.2 }
    else g.cur.map fun c =>
      { gen := g.gen + 1, val := l.foldl (fun a v => addShares a v.1) c.val, block := l.foldl (fun a v => addBlocks a v.2) c.block }

/-- COMMIT applied by a holder in P: pending before the switch, current at once after it; one that is held already stays. -/
def takeCommit (g : Group) (r : Round) (new : ShareRec) (p d : List Nat) (digest : BitVec 256) : Group :=
  let g1 := { g with round := some { r with decided := some (true, p, d, digest) } }
  if (g1.cur.toList ++ g1.pend.toList).any fun c => c.gen == new.gen then g1
  else if r.switched then { g1 with old := g1.cur, cur := some new, lag := none } else { g1 with pend := some new }

/-- ABORT: the pending values go (R320 step 5). -/
def takeAbort (g : Group) : Group := { g with round := none, pend := none, lag := none }

/-- The body of a DECIDE. -/
def decideBody (commit : Bool) (p d digest : Nat) : List (Nat × Nat) :=
  [(1, if commit then 1 else 2), (3, 0), (4, p), (4, d), (8, 0), (32, digest)]

/-- The body of a DECIDE of a round's sets. -/
def decideOf (r : Round) (commit : Bool) (p d : List Nat) (digest : BitVec 256) : List (Nat × Nat) :=
  decideBody commit (bitMap (p.map fun j => j - 1)) (bitMap (d.map (dealerBit r.full))) digest.toNat

/-- The new commitment block, where the deals of D are held here. -/
def newBlock (g : Group) (r : Round) (d : List Nat) : Option CommitBlock :=
  match dealsOf r d with
  | none => none
  | some l => if r.full then l.head?.map fun v => v.2 else g.cur.map fun c => l.foldl (fun a v => addBlocks a v.2) c.block

/-- The digest of a decision. The manual gives a coordinator that is no share holder neither the deals nor the block that they
change. -/
def decisionDigest (g : Group) (r : Round) (ds : List (Nat × BitVec 256)) : BitVec 256 :=
  match newBlock g r (ds.map fun x => x.1) with
  | some b => blockDigest b
  | none => BitVec.ofNat 256 (Config.external 41 (g.gen :: ds.map fun x => x.2.toNat))

/-- The coordinator applies its own COMMIT when it is a share holder in P. -/
def ownCommit (g : Group) (r : Round) (ps ds : List Nat) (digest : BitVec 256) : Group :=
  match myIx g r, newShare g r ds with
  | some j, some v =>
    if ps.contains j then takeCommit g { r with acks := [j] } v ps ds digest
    else { g with round := some { r with decided := some (true, ps, ds, digest) } }
  | _, _ => { g with round := some { r with decided := some (true, ps, ds, digest) } }

/-- DECISION_CUTOFF (R320 step 4, R321, R323). -/
def execDecisionCutoff (n : Fin 4096) (s : State) : Result :=
  match groupOf s n.val with
  | none => go s
  | some g =>
    match g.round with
    | none => go s
    | some r =>
      if !amCoord s g || !canTakePart s || r.decided.isSome || r.cutoff || !reached s (decisionBeat g r) then go s
      else
        let d := roundDesc g r
        let sets := decideSets d r
        let ds := sets.1.map fun x => x.1
        let commit := quorumOf d ≤ sets.2.length && (if r.full then 1 ≤ ds.length else d.k ≤ ds.length)
        let digest := decisionDigest g r sets.1
        let s1 := sendRound s g r 0x23 (g.gen + 1) (decideOf r commit sets.2 ds digest)
        if commit then go (setGroup s1 n.val (ownCommit g { r with cutoff := true, sentRun := runNow s } sets.2 ds digest))
        else
          let s2 := if r.full then gevt s1 6 else gevtRec s1 5 (srcWord 0 0) 0
          go (planCustody (afterRound s2 n.val { takeAbort g with change := if r.full then none else g.change }))

/-- A holder in P takes a COMMIT whose digest it finds itself, and acknowledges; any other digest makes it an ABORT (R320 step 5,
R321). -/
def commitHere (s : State) (k : Nat) (g : Group) (r : Round) (i j : Nat) (ps ds : List Nat) (digest : BitVec 256) : State :=
  match newShare g r ds with
  | some v =>
    if blockDigest v.block = digest then
      sendPlace (setGroup s k (takeCommit g r v ps ds digest)) { g with own := some (sharePos j) } 0x24 (g.gen + 1) i [(1, 0x23)]
    else afterRound s k (takeAbort g)
  | none => afterRound s k (takeAbort g)

/-- DECIDE (R320 steps 5 and 7, R321). -/
def execDecide (h : EnvHdr) (c : CuHdr) (commit : Bool) (p d : BitVec 32) (digest : BitVec 256) (s : State) : Result :=
  onGroup s h c 0x23 (decideBody commit p.toNat d.toNat digest.toNat) fun s k g i =>
    match g.round with
    | none => s
    | some r =>
      if coordinator g ≠ some h.sender.val || c.gen.toNat != g.gen + 1 then s
      else if !commit then afterRound s k (takeAbort g)
      else
        let ps := (bitSet p).map (· + 1)
        let ds := (bitSet d).map (dealerOf r.full)
        match myIx g r with
        | some j =>
          if !canTakePart s then s
          else if ps.contains j then commitHere s k g r i j ps ds digest
          else setGroup s k { g with round := some { r with decided := some (true, ps, ds, digest) } }
        | none => setGroup s k { g with round := some { r with decided := some (true, ps, ds, digest) } }

/-- An ACK counts for a round: its sender is in P, or the decision is not known here (R322, R325). -/
def ackCounts (r : Round) (ix : Nat) : Bool :=
  !r.acks.contains ix && (match r.decided with
    | some (true, ps, _, _) => ps.contains ix
    | some _ => false
    | none => true)

/-- ACK (R322). -/
def execAck (h : EnvHdr) (c : CuHdr) (kind : Byte) (s : State) : Result :=
  onGroup s h c 0x24 [(1, kind.toNat)] fun s k g i =>
    match g.round with
    | some r =>
      let ix := i + 1 - (roundDesc g r).h
      if amCoord s (applyWaiting s g) && kind == 0x23 && !c.pos.active && c.gen.toNat == g.gen + 1 && ackCounts r ix then
        setGroup s k { g with round := some { r with acks := r.acks ++ [ix] } }
      else s
    | none => s

/-- DECIDE_RESEND (R320 step 7): every 16 s from the switch on, to each member of P that has not acknowledged. -/
def execDecideResend (n : Fin 4096) (s : State) : Result :=
  match groupOf s n.val with
  | none => go s
  | some g =>
    match g.round with
    | none => go s
    | some r =>
      match r.decided with
      | some (true, ps, ds, digest) =>
        if amCoord s g && canTakePart s && r.switched && !reached s (secBeat (r.x + graceSec g.desc))
            && decide (r.sentRun + 16 * beatsPerSec ≤ runNow s) then
          let late := ps.filter fun j => !r.acks.contains j
          let s1 := late.foldl (fun s j =>
            sendPlace s (inRound g r) 0x23 (g.gen + 1) ((roundDesc g r).h + j - 1) (decideOf r true ps ds digest)) s
          go (setGroup s1 n.val { g with round := some { r with sentRun := runNow s } })
        else go s
      | _ => go s

/-- Members of P that have acknowledged. -/
def ackedOf (r : Round) : Nat :=
  match r.decided with
  | some (_, ps, _, _) => (r.acks.filter fun j => ps.contains j).length
  | none => 0

/-- SETTLEMENT (R320 step 8, R322): at X + G. A holder without a decision discards its pending values then. -/
def execSettlement (n : Fin 4096) (s : State) : Result :=
  match groupOf s n.val with
  | none => go s
  | some g =>
    match g.round with
    | none => go s
    | some r =>
      if !reached s (secBeat (r.x + graceSec g.desc)) then go s
      else if r.decided.isNone then go (planCustody (afterRound s n.val (takeAbort g)))
      else if amCoord s g && canTakePart s then go (finishRound s n.val g r ((roundDesc g r).k ≤ ackedOf r))
      else go s

/-- SETTLE (R322): every holder keeps the settled generation, or on REVERT the one before it. -/
def execSettle (h : EnvHdr) (c : CuHdr) (ok : Bool) (s : State) : Result :=
  onGroup s h c 0x25 [(1, if ok then 1 else 2)] fun s k g _ =>
    if coordinator g ≠ some h.sender.val then s
    else gevt (afterRound s k (keepOnly g (if ok then c.gen.toNat else c.gen.toNat - 1))) 1

/-! ## Reconstruction (R326 to R331) -/

/-- The reconstruction entry fires: this module asks every share holder that is not lost (R327 step 1). -/
def askShares (s : State) (k : Nat) : State :=
  match groupOf s k with
  | none => s
  | some g =>
    match reconMine s g with
    | none => s
    | some r =>
      if !reached s (secBeat r.rc) then s
      else
        let g1 := { g with recon := some { r with asked := true } }
        if !canTakePart s then setGroup s k g1
        else
          let claim := { g with own := some r.target }
          (List.range g.desc.n).foldl (fun s j =>
            if lostAt g (g.desc.h + j) then s
            else sendPlace s claim 0x26 g.gen (g.desc.h + j) [(8, r.rc), (1, posByte r.target)]) (setGroup s k g1)

/-- The reconstruction entry fires. -/
def fireRecon (s : State) : State := planCustody (s.cu.groups.foldl (fun s p => askShares s p.1) s)

/-- The body of a SHARE. -/
def shareGen (gen : Nat) (v : ShareVal) (b : CommitBlock) : List (Nat × Nat) :=
  [(4, gen), (32, v.sLo), (32, v.sHi), (32, v.tLo), (32, v.tHi)] ++ blockFields b
def shareBody (rc n : Nat) (gens : List (List (Nat × Nat))) : List (Nat × Nat) := [(8, rc), (1, n)] ++ gens.flatten

/-- Every generation held (R327 step 2). -/
def heldShares (g : Group) : List ShareRec := (g.cur.toList ++ g.pend.toList ++ g.old.toList).take 2

/-- SHARE_REQ (R327 step 2): answered when the group state held here names this target at this position. -/
def execShareReq (h : EnvHdr) (c : CuHdr) (rc : Word) (target : Pos) (s : State) : Result :=
  go (onEnv s h 0x26 (cuMsg c [(8, rc.toNat), (1, posByte target)]) fun s =>
    match groupIx s c.group with
    | none => envFail s 63 48
    | some k =>
      match groupOf s k with
      | none => envFail s 63 48
      | some g =>
        match placeOf g.desc target, g.recon with
        | some i, some r =>
          if memberAt g i = h.sender.val ∧ r.target = target then
            let held := heldShares g
            if (ownShareIx g).isNone || held.isEmpty || !canTakePart s then s
            else sendEnv s 0x27 h.sender.val
              (cuHead g g.gen (posByte target) ++ shareBody rc.toNat held.length (held.map fun x => shareGen x.gen x.val x.block))
          else envFail s 63 48
        | _, _ => envFail s 63 48)

/-- The coordinator takes the outcome of a reconstruction (R327 step 5, R331), after the settlement of a round under way
(R319). -/
def reconOutcome (s : State) (k : Nat) (target : Pos) (done : Bool) : State :=
  match groupOf s k with
  | none => s
  | some g =>
    if (match g.recon with
      | some r => r.target == target
      | none => false) then
      let s1 := if done then s else gevtRec s 4 (srcWord 0 0) 0
      if g.round.isSome then setGroup s1 k { g with waiting := g.waiting ++ [.recon target done] }
      else
        let s2 := announce s1 k (endRecon s g target done)
        planCustody (if done then repair s2 k else s2)
    else s

/-- RECON_DONE goes to every role member, under the position rebuilt; the target that coordinates itself takes it at once. -/
def sendRecon (s : State) (k : Nat) (g : Group) (target : Pos) (done : Bool) (st : Status) : State :=
  let s1 := sendRoles s { g with own := some target } 0x28 g.gen [(1, posByte target), (1, if done then 1 else 2), (2, stCode st)]
  if amCoord s1 g then reconOutcome s1 k target done else s1

/-- The reconstruction fails at the target. -/
def reconFails (s : State) (k : Nat) (g : Group) (r : Recon) (st : Status) : State :=
  sendRecon (gevt (setGroup s k { g with recon := if amCoord s g then g.recon else none }) 4) k g r.target false st

/-- The shares of one generation and commitment block, by index (R327 step 3). -/
def sharesOf (r : Recon) (gen : BitVec 32) (block : CommitBlock) : List (Nat × ShareVal) :=
  (r.shares.filter fun x => x.2.gen == gen && x.2.block == block).map fun x => (x.1, x.2.val)

/-- What R328 asks of an interpolation at x. -/
def interpolationOk (g : Group) (x : Nat) (v : ShareVal) (b : CommitBlock) : Bool :=
  let c0 := fun (i s t : Nat) => match (b[i]?).bind decPoint with
    | some u => edEq (pedersen s t) u
    | none => false
  if x = 0 then
    decide (v.sLo < 2 ^ 128) && decide (v.sHi < 2 ^ 128) && c0 0 v.sLo v.tLo && c0 g.desc.k v.sHi v.tHi
  else shareVerifies g.desc.k x v b

/-- K, or a share, as rebuilt is written (R314, R327 step 4). -/
def rebuilt (s : State) (k : Nat) (g : Group) (r : Recon) (gen : Nat) (v : ShareVal) (b : CommitBlock) : State :=
  let g1 := { g with own := some r.target, recon := if amCoord s g then g.recon else none }
  if r.target.active then
    match writeGroupKey s k (keyOfHalves v.sLo v.sHi) with
    | (s1, .ok hd) => sendRecon (gevt (setGroup s1 k { g1 with key := some hd }) 3) k g r.target true .done
    | (s1, .error st) => reconFails s1 k g r st
  else
    sendRecon (gevt (setGroup s k { g1 with cur := some { gen := gen, val := v, block := b }, gen := gen }) 3) k g r.target true .done

/-- The end of an interpolation stage (R327 step 4, R328): over k shares of one generation and commitment block. -/
def interpolateEnd (s : State) (k rc gen : Nat) (b : CommitBlock) : State :=
  match groupOf s k with
  | none => s
  | some g =>
    match g.recon with
    | none => s
    | some r =>
      if r.rc ≠ rc || !canTakePart s then s
      else
        let x := if r.target.active then 0 else r.target.ix.val
        let v := interpolate ((sharesOf r (BitVec.ofNat 32 gen) b).take g.desc.k) x
        if interpolationOk g x v b then rebuilt s k g r gen v b else reconFails s k g r .quorum

/-- An interpolation stage that does not complete fails the reconstruction with its status (R330). -/
def interpolateFails (s : State) (k rc : Nat) (st : Status) : State :=
  match groupOf s k with
  | none => s
  | some g =>
    match g.recon with
    | some r => if r.rc = rc then reconFails s k g r st else s
    | none => s

/-- Generations in a SHARE that verify, and are new from that holder. -/
def newShares (g : Group) (r : Recon) (ix : Nat) (gens : List ShareGen) : List (Nat × ShareGen) :=
  (gens.filter fun x => shareVerifies g.desc.k ix x.val x.block && !(r.shares.any fun y => y.1 == ix && y.2.gen == x.gen)).map fun x => (ix, x)

/-- The highest generation that new shares bring to k (R329). -/
def wholeGen (g : Group) (r : Recon) (new : List (Nat × ShareGen)) : Option ShareGen :=
  (new.filter fun y => g.desc.k ≤ (sharesOf r y.2.gen y.2.block).length).foldl (fun (a : Option ShareGen) y =>
    match a with
    | some z => if z.gen < y.2.gen then some y.2 else a
    | none => some y.2) none

/-- SHARE (R327 steps 3 and 4, R329): verified, kept, and at the k-th of a generation the interpolation stage begins. -/
def execShare (h : EnvHdr) (c : CuHdr) (rc : Word) (target : Pos) (gens : List ShareGen) (s : State) : Result :=
  onGroup s h c 0x27 (shareBody rc.toNat gens.length (gens.map fun x => shareGen x.gen.toNat x.val x.block)) fun s k g i =>
    match g.recon with
    | some r =>
      if !r.asked || r.stage || r.target != target || BitVec.ofNat 64 r.rc != rc || c.pos.active || !canTakePart s
          || reached s (secBeat (r.rc + g.desc.rb) - 2 * beatsPerSec) then s
      else
        let new := newShares g r (i + 1 - g.desc.h) gens
        let r1 := { r with shares := r.shares ++ new }
        match wholeGen g r1 new with
        | some z =>
          submitIntern (setGroup s k { g with recon := some { r1 with stage := true } }) 0xF1
            (some (.interpolate k r.rc z.gen.toNat z.block))
        | none => setGroup s k { g with recon := some r1 }
    | none => s

/-- RECON_CUTOFF (R331). -/
def execReconCutoff (n : Fin 4096) (s : State) : Result :=
  match groupOf s n.val with
  | none => go s
  | some g =>
    match g.recon with
    | some r =>
      if r.asked && !r.stage && reached s (secBeat (r.rc + g.desc.rb) - 2 * beatsPerSec) then go (reconFails s n.val g r .quorum) else go s
    | none => go s

/-- RECON_DONE (R327 step 5, R331). -/
def execReconDone (h : EnvHdr) (c : CuHdr) (target : Pos) (done : Bool) (status : BitVec 16) (s : State) : Result :=
  onGroup s h c 0x28 [(1, posByte target), (1, if done then 1 else 2), (2, status.toNat)] fun s k g i =>
    if memberAt g i = h.sender.val ∧ placeOf g.desc target = some i then
      if amCoord s g then reconOutcome s k target done
      else setGroup s k { g with recon := none }
    else s

/-- POSITION_LOSS_TIMEOUT (R332): absent for 2^E s without a break. -/
def execPositionLossTimeout (n : Fin 4096) (p : Pos) (s : State) : Result :=
  match groupOf s n.val with
  | none => go s
  | some g =>
    match placeOf g.desc p with
    | none => go s
    | some i =>
      match tfind s.cu.watch (memberAt g i) with
      | some w =>
        if w.absent && decide (w.since + epochSec g.desc * beatsPerSec ≤ runNow s) then go (planCustody (markPosLost s n.val i)) else go s
      | none => go s

/-! ## Group state (R308, R318, R333) -/

/-- The own position in a state received, if it is held. -/
def heldPos (s : State) (g : Group) : Option Pos :=
  ((List.range (roleList g).length).find? fun i => memberAt g i == ownNum s && !lostAt g i).map fun i => posAt g.desc i

/-- The watch table would hold at most 8,192 peers with these members (R305). -/
def watchFits (s : State) (l : List Nat) : Bool :=
  ((s.cu.watch.map (fun p => p.1) ++ l.filter fun m => m != ownNum s).eraseDups).length ≤ 8192

/-- Lowest free local number. -/
def freeGroup (s : State) : Option Nat := (List.range (min 4096 (s.cu.groups.length + 1))).find? fun k => (tfind s.cu.groups k).isNone

/-- A fresh entry for a descriptor. -/
def newGroup (s : State) (d : GroupDesc) : Group :=
  { desc := d, nextX := switchAfter d (secNow s), nextR := refreshAfter d (secNow s) }

/-- The part of a GROUP_STATE body that replaces the state held. -/
def withBody (g : Group) (b : GroupStateBody) (gen : Nat) : Group :=
  let rc : Option Recon := match b.target with
    | some t =>
      (match g.recon with
        | some r => if r.target = t ∧ r.rc = b.rc.toNat then some r else some { target := t, rc := b.rc.toNat, shares := [] }
        | none => some { target := t, rc := b.rc.toNat, shares := [] })
    | none => none
  { g with desc := descOf b.desc, version := b.version.toNat, states := b.states, gen := gen, recon := rc }

/-- The body of a GROUP_STATE received, after its lead. -/
def bodyFields (b : GroupStateBody) : List (Nat × Nat) :=
  stateFields b.version.toNat (descOf b.desc) b.states b.rc.toNat (match b.target with
    | some p => posByte p
    | none => 0)

/-- Its descriptor has the form of one, and a state for every position. -/
def bodyOk (b : GroupStateBody) : Bool :=
  descForm b.desc && b.states.length == (descOf b.desc).h + (descOf b.desc).n

/-- The position at which a group names this module, held or not. -/
def namedPos (s : State) (g : Group) : Option Pos :=
  ((List.range (roleList g).length).find? fun i => memberAt g i == ownNum s).map fun i => posAt g.desc i

/-- ACCEPT or REFUSE of a role. -/
def answerRole (s : State) (h : EnvHdr) (c : CuHdr) (g : Group) (st : Status) : State :=
  sendEnv s 0x29 h.sender.val (cuHead { g with own := namedPos s g } c.gen.toNat (posByte c.pos)
    ++ [(1, if st = .done then 1 else 2), (1, 0), (2, stCode st)])

/-- A GROUP_STATE of a group that this module is being named into (R334, R342). -/
def namedInto (s : State) (h : EnvHdr) (c : CuHdr) (b : GroupStateBody) : State :=
  let g0 := withBody (newGroup s (descOf b.desc)) b c.gen.toNat
  let g := { g0 with own := heldPos s g0 }
  if !(roleList g).contains (ownNum s) || coordinator g != some h.sender.val then envFail s 63 48
  else
    match freeGroup s with
    | some k =>
      if watchFits s (roleList g) then planCustody (answerRole (rewatch (setGroup s k g)) h c g .done) else answerRole s h c g .quota
    | none => answerRole s h c g .quota

/-- The sender may change the state: the coordinator held here, or the one that the losses of the envelope make (R318). -/
def mayChange (g : Group) (b : GroupStateBody) (sender : Nat) : Bool :=
  let lost := (List.range (roleList g).length).foldl (fun g i =>
    if (b.states.getD i .none) == .lost then withState g i .lost else g) g
  coordinator g == some sender || coordinator lost == some sender

/-- A later state of a group held here is taken (R318); E, RB and GEXP that it changes count from now on. -/
def takeState (s : State) (k : Nat) (g : Group) (b : GroupStateBody) (gen : Nat) : State :=
  let g1 := withBody g b gen
  let d := g.desc
  let g2 := if g1.desc.e = d.e ∧ g1.desc.rb = d.rb ∧ g1.desc.gexp = d.gexp then g1 else retime s g1 g1.desc
  let own := heldPos s g2
  if g.own.isSome && own.isNone then loseRole (setGroup s k { g2 with own := g.own }) k else setGroup s k { g2 with own := own }

/-- GROUP_STATE (R318, R305). -/
def execGroupState (h : EnvHdr) (c : CuHdr) (body : GroupStateBody) (s : State) : Result :=
  go (onEnv s { h with formOk := h.formOk && bodyOk body } 0x20 (cuMsg c (bodyFields body)) fun s =>
    match groupIx s c.group with
    | none => namedInto s h c body
    | some k =>
      match groupOf s k with
      | none => s
      | some g =>
        if !mayChange g body h.sender.val then envFail s 63 48
        else if body.version.toNat ≤ g.version then s
        else if watchFits s (descMembers (descOf body.desc)) then planCustody (rewatch (takeState s k g body c.gen.toNat))
        else answerRole s h c (withBody g body c.gen.toNat) .quota)

/-- ACCEPT (R334, R332). -/
def execAccept (h : EnvHdr) (c : CuHdr) (yes : Bool) (status : BitVec 16) (s : State) : Result :=
  onGroup s h c 0x29 [(1, if yes then 1 else 2), (1, 0), (2, status.toNat)] fun s k g i =>
    if g.creating.isSome then
      setGroup s k (if yes then { g with accepts := i :: g.accepts.erase i } else withState g i .lost)
    else if !yes && amCoord s g then markPosLost s k i
    else s

/-- The body of a GROUP_DEL: the two tickets. -/
def delTickets (l : List (BitVec 2176)) : List (Nat × Nat) := l.map fun t => (272, t.toNat)

/-- SHA-256 of the descriptor under which a group was created: its identity was zero then. -/
def creationDigest (d : GroupDesc) : Nat := sha256 256 (packBytes (layBytes (descFields { d with group := 0 })))

/-- The tickets of a GROUP_DEL name the deletion of the group, or, of a group that is being created, its creation. -/
def delAllowed (s : State) (g : Group) (dev : Nat) (t1 t2 : Ticket) : Bool :=
  bodyPair s t1 t2 dev 7 g.desc.group.toNat || (g.version == 1 && bodyPair s t1 t2 dev 5 (creationDigest g.desc))

/-- GROUP_DEL (R336): with two tickets for the member that issued it. -/
def execGroupDel (h : EnvHdr) (c : CuHdr) (t1 t2 : Ticket) (s : State) : Result :=
  onGroup s h c 0x2A (delTickets [t1.raw, t2.raw]) fun s k g _ =>
    if delAllowed s g (roster s h.sender.val).device.toNat t1 t2 then dropGroup s k else envFail s 63 48

/-! ## CU_GCMD (R343) -/

/-- A CU_GCMD completes. -/
def gDone (s : State) (st : Status) (detail : Nat) : State :=
  gevt (wr s 0x61018 (BitVec.ofNat 64 (stCode st + fld detail 16))) 0

/-- CU_GCMD is ignored while BUSY or before SYS_MODE.READY; steps 1 to 4 of R343 come first. -/
def gGate (s : State) (f : State → State) : State :=
  if rdF s 0x61018 24 24 = 1 ∨ s.mode.ready = false then s
  else if isLocked s then gDone s .locked 0xFF
  else if s.mode.lc ≠ .production then gDone s .policy 0x20
  else if s.cu.member.isNone ∨ s.mode.domain = .isolated then gDone s .quorum 0x21
  else if s.mode.time = .free then gDone s .timeUntrusted 0xFF
  else f s

/-- R306. -/
def descValid (d : GroupDesc) : Bool :=
  1 ≤ d.h && d.h ≤ 8 && 2 ≤ d.n && d.n ≤ 32 && 2 ≤ d.k && d.k ≤ d.n && d.f + d.k ≤ d.n
    && 12 ≤ d.e && d.e ≤ 24 && [16, 32, 64, 128, 256].contains d.rb && 16 * d.rb ≤ 2 ^ d.e
    && 6 ≤ d.gexp && d.gexp + 1 ≤ d.e && 2 * d.rb ≤ 2 ^ d.gexp && d.holders.length == d.h && d.shares.length == d.n

/-- R307. -/
def descNames (s : State) (d : GroupDesc) : Bool :=
  let l := descMembers d
  l.eraseDups.length == l.length && l.all fun m => rosterActive s m

/-- GROUP_CREATE after its checks (R334): identity and K are drawn, the role members named; the sharing comes with the end of its
stage. -/
def createGroup (s : State) (k : Nat) (d : GroupDesc) (t : Held × Held) : State :=
  let id := draw 64 s
  let key := draw 256 id.2
  let d1 := { d with group := if id.1 = 0 then 1 else id.1 }
  match writeGroupKey (consumePair key.2 t) k key.1 with
  | (s1, .error st) => gDone s1 st 0xFF
  | (s1, .ok hd) =>
    let g : Group := { newGroup s1 d1 with
      version := 1, gen := 1, own := some (posAt d1 0), key := some hd,
      states := [PosState.confirmed] ++ List.replicate (d.h - 1) .lost ++ List.replicate d.n .pending,
      creating := some (runNow s + secBeat d.rb), tickets := [t.1.raw, t.2.raw] }
    let s2 := sendRoles (rewatch (setGroup s1 k g)) g 0x20 1 (groupStateBody g)
    submitIntern (wr s2 0x61018 (BitVec.ofNat 64 (fld 0xFF 16 + fld 1 24))) 0xF0 (some (.create k))

/-- The end of the dealing stage of a creation: the full sharing of K. -/
def createEnd (s : State) (k : Nat) : State :=
  match groupOf s k with
  | none => s
  | some g =>
    match g.creating, groupKey s g with
    | some _, some key =>
      let p := drawPolys s g.desc (bits key 127 0) (bits key 255 128) true
      sendDeals p.2 g 1 0 p.1 true
    | _, _ => s

/-- A creation fails: K goes, and GROUP_DEL is sent (R334). -/
def createFails (s : State) (k : Nat) : State :=
  match groupOf s k with
  | none => s
  | some g =>
    if g.creating.isSome then gDone (dropGroup (sendRoles s g 0x2A g.gen (delTickets g.tickets)) k) .quorum 0x28 else s

/-- The checks of CU_GCMD OP 1h, once the descriptor has been read or the read has failed. -/
def createCmd (s : State) (r : HostRead (BitVec 2048)) : State :=
  match r with
  | .failed => gDone (dmaErr s) .aborted 0xFF
  | .ok raw =>
    let d := descOf raw
    match ticketPair s 5 (descDigest raw) with
    | none => gDone s .policy 0x22
    | some t =>
      if !descForm raw || !descValid d || d.group != 0 then gDone s .malformed 0x24
      else if !descNames s d || d.holders.head? != s.cu.member then gDone s .malformed 0x25
      else
        match freeGroup s with
        | none => gDone s .quota 0x26
        | some k => if watchFits s (descMembers d) then createGroup s k d t else gDone s .quota 0x27

/-- GROUP_CREATE (R334, R343). -/
def execGroupCreate (d : HostRead (BitVec 2048)) (s : State) : Result :=
  managerWrite s 0x61010 fun s => gGate s fun s => createCmd s d

/-- GROUP_CREATE_DEADLINE (R334). -/
def execGroupCreateDeadline (s : State) : Result :=
  match s.cu.groups.find? fun p => (match p.2.creating with
      | some t => t ≤ runNow s
      | none => false) with
  | none => go s
  | some (k, g) =>
    let ok := (g.accepts.filter fun i => g.desc.h ≤ i).length
    if quorumOf g.desc ≤ ok then
      let st := (List.range (g.desc.h + g.desc.n)).map fun i =>
        if i = 0 ∨ (g.desc.h ≤ i ∧ g.accepts.contains i) then PosState.confirmed else .lost
      let s1 := announce s k { g with states := st, creating := none, tickets := [] }
      go (gDone (planCustody (repair s1 k)) .done 0xFF)
    else go (createFails s k)

/-- The checks of CU_GCMD OP 2h on group n. -/
def changeCmd (s : State) (n : Nat) (r : HostRead (BitVec 2048)) : State :=
  match r with
  | .failed => gDone (dmaErr s) .aborted 0xFF
  | .ok raw =>
    let d := descOf raw
    match ticketPair s 6 (descDigest raw), groupOf s n with
    | none, _ => gDone s .policy 0x22
    | _, none => gDone s .policy 0x23
    | some t, some g =>
      if !(amCoord s g && holdsActive g) then gDone s .policy 0x23
      else if !descForm raw || !descValid d || d.group != g.desc.group then gDone s .malformed 0x24
      else if !descNames s d then gDone s .malformed 0x25
      else if !watchFits s (descMembers d) then gDone s .quota 0x27
      else gDone (setGroup (consumePair s t) n { g with change := some d }) .done 0xFF

/-- GROUP_CHANGE (R335, R343): queued for the next switch. -/
def execGroupChange (n : Fin 4096) (d : HostRead (BitVec 2048)) (s : State) : Result :=
  managerWrite s 0x61010 fun s => gGate s fun s => changeCmd s n.val d

/-- A replacement is named for a lost position: it waits for a settlement, or for the reconstruction under way, or is rebuilt
(R319, R333). -/
def replaceAt (s : State) (k : Nat) (g : Group) (i : Nat) (m : Member) : State :=
  if g.round.isSome then setGroup s k { g with waiting := g.waiting ++ [.replace (posAt g.desc i) m] }
  else
    let g1 := withMember g i m
    if g.recon.isSome then announce s k g1
    else announce s k { withState g1 i .rebuilding with recon := some { target := posAt g.desc i, rc := reconStart s g 0 } }

/-- GROUP_REPLACE (R333, R343). -/
def execGroupReplace (n : Fin 4096) (m : Member) (p : Byte) (s : State) : Result :=
  managerWrite s 0x61010 fun s => gGate s fun s =>
    match groupOf s n.val with
    | none => gDone s .policy 0x23
    | some g =>
      if !amCoord s g then gDone s .policy 0x23
      else
        match placeOf g.desc (posOfByte p.toNat) with
        | none => gDone s .malformed 0x24
        | some i =>
          if stateAt g i != .lost then gDone s .malformed 0x24
          else if !rosterActive s m.val || ((roleList g).eraseIdx i).contains m.val then gDone s .malformed 0x25
          else if !watchFits s [m.val] then gDone s .quota 0x27
          else gDone (planCustody (rewatch (replaceAt s n.val g i m))) .done 0xFF

/-- GROUP_BIND (R315): CU_GCMD_ADDR gives the slice, and bit 10 binds. -/
def execGroupBind (n : Fin 4096) (s : State) : Result :=
  managerWrite s 0x61010 fun s => gGate s fun s =>
    match groupOf s n.val with
    | none => gDone s .policy 0x23
    | some g =>
      if !holdsActive g then gDone s .policy 0x23
      else
        let a := rd s 0x61020
        gDone (setGroup s n.val { g with bound := if bit a 10 then some (sliceIx (bits a 9 0)) else none }) .done 0xFF

/-- GROUP_DELETE (R336, R343). -/
def execGroupDelete (n : Fin 4096) (s : State) : Result :=
  managerWrite s 0x61010 fun s => gGate s fun s =>
    match groupOf s n.val with
    | none => gDone s .policy 0x23
    | some g =>
      match ticketPair s 7 g.desc.group.toNat with
      | none => gDone s .policy 0x22
      | some t =>
        if amCoord s g then gDone (dropGroup (sendRoles (consumePair s t) g 0x2A g.gen (delTickets [t.1.raw, t.2.raw])) n.val) .done 0xFF
        else gDone s .policy 0x23

/-- GROUP_SWEEP (R339): a backup of every chain of the group held here. -/
def execGroupSweep (n : Fin 4096) (s : State) : Result :=
  managerWrite s 0x61010 fun s => gGate s fun s =>
    match groupOf s n.val with
    | none => gDone s .policy 0x23
    | some g =>
      if !holdsActive g then gDone s .policy 0x23
      else
        let chains := s.ks.recs.filter fun p => p.2.part == 0 && p.2.complete && (match p.2.group with
          | some k => k.val == n.val
          | none => false)
        gDone (wrF (chains.foldl (fun s p => emitBackup s p.1) s) 0x61000 45 45 0) .done 0xFF

/-! ## The rings (R339 to R341) -/

/-- BACKUP_RING_HEAD_WRITE (R339). -/
def backupHead (s : State) (head : Nat) : State := drainBackups (wrF s 0x61210 43 32 head)
def execBackupRingHeadWrite (head : BitVec 12) (s : State) : Result :=
  managerWrite s 0x61210 fun s => backupHead s head.toNat

/-- A record line read back from a backup (08 R207), for a group and slice here. -/
def recOfLine (s : State) (l : BitVec 512) (k : Fin 4096) (sl : Slice) (ix gen : Nat) : Rec :=
  let v := l.toNat
  { typ := BitVec.ofNat 8 (byteOf v 7), gen := gen, index := ix, slice := sl, part := byteOf v 8 % 64,
    chainLen := byteOf v 9 % 64 + 1, matLen := byteOf v 10, sliceGen := BitVec.ofNat 6 (sliceGen s sl.val),
    policy := BitVec.ofNat 8 (byteOf v 12), test := byteOf v 13 % 2 == 1, imported := byteOf v 13 / 4 % 2 == 1,
    complete := byteOf v 8 % 64 == 0, group := some k, expiry := bytesOf v 16 4, created := BitVec.ofNat 64 (bytesOf v 20 8),
    mat := BitVec.ofNat 256 (bytesOf v 32 32), bornRun := runNow s }

/-- Every index of a chain is free, or lost, with a last generation at or below a backup's (R341). -/
def placeFree (s : State) (ix n gen : Nat) : Bool :=
  ix + n ≤ indexCount && (List.range n).all fun i =>
    let e := ixEntry s (ix + i)
    (e.1 == .free || e.1 == .lost) && e.2 ≤ gen

/-- A restored chain is written and journaled (R341). -/
def writeChain (s : State) (b : Backup) (k : Fin 4096) (sl : Slice) (ix gen : Nat) : State :=
  let n := b.lines.length
  let s1 := setRun s ix n .live gen
  ((List.range n).zip b.lines).foldl (fun s (p : Nat × BitVec 512) =>
    let s2 := putRec s (ix + p.1) (recOfLine s p.2 k sl ix gen)
    let s3 := { s2 with ks := { s2.ks with poisoned := s2.ks.poisoned.filter (· != ix + p.1), fresh := false } }
    journal (cacheDrop s3 sl (ix + p.1)) (ix + p.1)) s1

/-- The GCM tag of a backup verifies under the key that K gives its emitter (R338, R340 order 5). -/
def backupOpens (s : State) (g : Group) (b : Backup) : Bool :=
  match groupKey s g with
  | none => false
  | some key =>
    let head := backupLead b.group.toNat b.member.val b.bkGen.toNat b.handle.toNat b.time.toNat b.nonce.toNat b.lines.length
    let bytes := backupBytes (backupKey key b.group.toNat b.member.val b.bkGen.toNat) b.nonce.toNat head
      (b.lines.flatMap fun l => unpackBytes 64 l.toNat)
    bytes.drop (bytes.length - 16) == unpackBytes 16 b.tag.toNat

/-- The checks of R340 on one backup, and its restore: the status, and the handle that names the record. -/
def restoreOne (s : State) (b : Backup) (pick : Nat) : State × Status × Word :=
  if isLocked s then (s, .locked, 0)
  else if !s.mode.ready then (s, .notReady, 0)
  else if !b.formOk || b.lines.isEmpty || 64 < b.lines.length then (s, .malformed, 0)
  else
    match groupIx s b.group with
    | none => (s, .policy, 0)
    | some k =>
      match groupOf s k with
      | none => (s, .policy, 0)
      | some g =>
        if !holdsActive g then (s, .policy, 0)
        else if !groupUsable s k then (s, .quorum, 0)
        else if !backupOpens s g b then (s, .authFail, 0)
        else
          match g.bound with
          | none => (s, .policy, 0)
          | some sl =>
            let n := b.lines.length
            if quotaOf s sl.val < sliceUse s sl.val + n || journalFull s then (s, .quota, 0)
            else
              let kk : Fin 4096 := ⟨k % 4096, Nat.mod_lt _ (by decide)⟩
              let put := fun (ix gen : Nat) =>
                (writeChain s b kk sl ix gen, Status.done, mkHandle (hType b.handle) gen ix sl.val)
              if hSlice b.handle == sl.val && placeFree s (hIx b.handle) n (hGen b.handle) then put (hIx b.handle) (hGen b.handle)
              else
                match findRun s n pick with
                | some ix => put ix (newGen s ix n)
                | none => (s, .quota, 0)

/-- Backups from the ring are taken in order; each result is written over its slot before HEAD advances (R340). -/
def restoreAll : List Backup → List Nat → State → State
  | [], _, s => s
  | b :: bs, picks, s =>
    let slot := rdF s 0x61228 43 32
    if slot = rdF s 0x61228 11 0 then s
    else
      let r := restoreOne s b (picks.headD 0)
      let s1 := { r.1 with out := .restored slot r.2.1 b.handle r.2.2 :: r.1.out }
      let s2 := if r.2.1 = .done then s1 else cntUp s1 0x61230 63 49
      restoreAll bs picks.tail (wrF s2 0x61228 43 32 ((slot + 1) % ringSize s2 0x61220))

/-- RESTORE_RING_TAIL_WRITE (R340, R341). -/
def restoreTail (s : State) (tail : Nat) (backups : List Backup) (picks : List Nat) : State :=
  let s1 := wrF s 0x61228 11 0 tail
  if ringOn s1 0x61220 then restoreAll backups picks (wrF s1 0x61228 11 0 (tail % ringSize s1 0x61220)) else s1
def execRestoreRingTailWrite (tail : BitVec 12) (backups : List Backup) (picks : List Nat) (s : State) : Result :=
  managerWrite s 0x61228 fun s => restoreTail s tail.toNat backups picks

end Machine
end Sys2Proof
end

