-- ==== Sys2Proof/Machine/Stages.lean ====
section
/-! DEFINITION. The stages of the CU block that run as internal orders (10 R275, 11): what the end of an order brings with it. -/

namespace Sys2Proof
namespace Machine

/-- The effect of a stage that is DONE. -/
def runJob (s : State) : Job → State
  | .joinSend => joinSendEnd s
  | .joinIssue c x ct req t1 t2 => joinIssueEnd s c x ct req t1 t2
  | .joinInstall b => joinInstallEnd s b
  | .refresh k x => refreshEnd s k x
  | .create k => createEnd s k
  | .interpolate k rc gen b => interpolateEnd s k rc gen b

/-- A stage that ends otherwise: a join and a creation end with it, a reconstruction fails with its status (11 R330), and a
sponsor or a dealer sends nothing. -/
def failJob (s : State) (st : Status) : Job → State
  | .joinSend => joinFail s st 0xFF
  | .joinIssue .. => s
  | .joinInstall _ => joinFail s st 0xFF
  | .refresh .. => s
  | .create k => createFails s k
  | .interpolate k rc _ _ => interpolateFails s k rc st

/-- What the end of an order brings; one that completed with BUSY is submitted again at its retry beat (10 R275). -/
def stageEnd (s : State) (v : Order) : State :=
  match v.job, v.outcome with
  | some j, some (st, _) => if st = .done then runJob s j else if st = .busy then s else failJob s st j
  | _, _ => s

/-- An order's completion is issued, and the stage that it was ends with it. -/
def completeOrder (s : State) (o : Nat) (bursts : List Nat) : State :=
  match order? s o with
  | some v => if v.intern then stageEnd (issueCompletion s o bursts) v else issueCompletion s o bursts
  | none => s

/-- COMPLETION_WRITE. -/
def execCompletionWrite (o : Nat) (bursts : List Nat) (s : State) : Result := go (completeOrder s o bursts)

end Machine
end Sys2Proof
end

