-- ==== Sys2Proof/Machine/Beat.lean ====
section
/-! DEFINITION. What a beat brings that no command asks for: the deadline contract (01 R8, 04 R115), the idle count of 03 R68,
and the stages of custody rounds whose beat passes (11 R320). -/

namespace Sys2Proof
namespace Machine

/-- The watchdog's stop of an order that is overdue as the state has it now. -/
def watchdogEnd (s : State) (o : Nat) : State :=
  match order? s o with
  | some v => if overdue s v then watchdogStop s o v else s
  | none => s

/-- In beat D − 1, and at the end of a phase's window, the room stops an order that has not posted its completion (04 R115),
wherever in a bundle the commands left it. -/
def stopOverdue (s : State) : State :=
  (s.adm.orders.filter fun p => overdue s p.2).foldl (fun s p => watchdogEnd s p.1) s

/-- An accepted order whose completion is due in this beat at the latest (01 R8). -/
def completionDue (s : State) (v : Order) : Bool := v.accepted && v.phase == .ended && v.deadline ≤ runNow s

/-- The porch issues the completion write of every accepted order no later than its deadline beat (01 R8, 04 R116). -/
def issueDue (s : State) : State :=
  (s.adm.orders.filter fun p => completionDue s p.2).foldl (fun s p => completeOrder s p.1 []) s

/-- The beat that ends now: what falls due in it, and the next beat begins. -/
def beatEnds (s : State) : State := beatPass (roundBeat (noteBusy (issueDue (stopOverdue s))))

end Machine
end Sys2Proof
end

