-- ==== Sys2Proof/Machine/Attic.lean ====
section
/-! DEFINITION. The attic (17): entries and their sequence, the token buckets, the mirror, reading, copying and clearing, and
the load of a start. -/

namespace Sys2Proof
namespace Machine

/-! ## Entries (R460 to R462, R470) -/

/-- The 32 bytes of an entry. -/
def entryOf (code flags wrap seq time src data : Nat) : Entry :=
  BitVec.ofNat 256 (code % 2 ^ 16 + fld (flags % 256) 16 + fld (wrap % 256) 24 + fld (seq % 2 ^ 32) 32 + fld (time % 2 ^ 64) 64
    + fld (src % 2 ^ 32) 128 + fld (data % 2 ^ 96) 160)

/-- Sequence number of a key of the entry tables. -/
def seqOf (key : Nat) : Nat := key % 2 ^ 32
/-- A key of the circulating region. -/
def circKey (key : Nat) : Bool := 4096 ≤ seqOf key
/-- Mirror page of a key: 32 founding pages, then 512 circulating ones. -/
def pageOf (key : Nat) : Nat := if circKey key then 32 + seqOf key / 128 % 512 else seqOf key / 128

/-- Change the attic. -/
def withEv (s : State) (f : Ev → Ev) : State := { s with ev := f s.ev }

/-- Place an entry at the next sequence number, which has not wrapped: the oldest circulating entry gives way in the mirror
when its place is taken again (R470). -/
def placeEntry (s : State) (e : Nat → Nat → Entry) : State :=
  let key := s.ev.wrap * 2 ^ 32 + s.ev.nextSeq
  let pg := pageOf key
  withEv s fun v => { v with
    entries := tins v.entries key (e v.wrap v.nextSeq), nextSeq := v.nextSeq + 1,
    mirror := if circKey key then v.mirror.filter fun p => !(circKey p.1 && p.1 % 65536 == key % 65536) else v.mirror,
    pageRun := if tget 0 v.pageRun pg = 0 then tput 0 v.pageRun pg (runNow s + 1) else v.pageRun }

/-- FREE flag of an entry written now. -/
def freeFlag (s : State) : Nat := b2n (s.mode.time == .free)

/-- Place an entry of this moment, first the WRAP entry when the sequence number would pass FFFFFFFFh (R462). -/
def placeNow (s : State) (e : Nat → Nat → Entry) : State :=
  if s.ev.nextSeq < 2 ^ 32 then placeEntry s e
  else
    let s1 := withEv s fun v => { v with nextSeq := 0x10000, wrap := min 0xFFFFFFFF (v.wrap + 1) }
    let now := (tbNow s1).toNat
    placeEntry (placeEntry s1 fun w q => entryOf 0x365 (freeFlag s) w q now (srcWord 0 0) (w + fld 0xFFFFFFFF 32)) e

/-- An entry of this moment. -/
def entryNow (s : State) (code src data : Nat) : Nat → Nat → Entry :=
  fun w q => entryOf code (freeFlag s) w q (tbNow s).toNat src data

/-- A LOST entry: number lost and cause; it sets EV_EVT.LOST. -/
def lostEntry (s : State) (n cause : Nat) : State :=
  evt (placeNow s (entryNow s 0x362 (srcWord 0 0) (n % 2 ^ 32 + fld cause 32))) 13 1

/-- Circulating entries in attic SRAM. -/
def sramCirc (s : State) : List (Nat × Entry) := s.ev.entries.filter fun p => circKey p.1

/-- Entries beyond the newest 24,576 circulating ones leave attic SRAM; one that the mirror does not hold is lost
(R471). -/
def trimSram (s : State) : State :=
  let n := (sramCirc s).length - 24576
  if n = 0 then s
  else
    let gone := (sramCirc s).take n
    let lost := (gone.filter fun p => (tfind s.ev.mirror p.1).isNone).length
    let s1 := withEv s fun v => { v with
      entries := v.entries.filter fun p => !(gone.any fun g => g.1 == p.1), poisoned := v.poisoned.filter fun k => !(gone.any fun g => g.1 == k) }
    if lost = 0 then s1 else lostEntry (cntBy s1 0xD0030 31 16 lost) lost 3

/-- Write an entry. -/
def writeEntry (s : State) (code src data : Nat) : State := trimSram (placeNow s (entryNow s code src data))

/-! ## Reports and buckets (R464 to R468) -/

/-- Bucket of a code. -/
def bucketOf (s : State) (code : Nat) : Bucket := tget {} s.ev.buckets code
/-- Store a bucket. -/
def setBucket (s : State) (code : Nat) (b : Bucket) : State := withEv s fun v => { v with buckets := tput {} v.buckets code b }

/-- Judge one report: written, or suppressed for want of a token. -/
def judge (s : State) (r : Report) : State :=
  if exempt r.code then writeEntry s r.code r.src r.data
  else
    let b := bucketOf s r.code
    if b.tokens = 0 then
      setBucket s r.code { b with
        suppressed := min 0xFFFFFFFF (b.suppressed + 1), firstSec := if b.suppressed = 0 then secNow s else b.firstSec }
    else writeEntry (setBucket s r.code { b with tokens := b.tokens - 1 }) r.code r.src r.data

/-- ATTIC_REPORT (R464): the priority queue first; reports wait in the queues until the load of a start is done (R472). -/
def execAtticReport (s : State) : Result :=
  if !s.ev.loaded then go s
  else
    match s.ev.prio, s.ev.general with
    | r :: rest, _ => go (judge (withEv s fun v => { v with prio := rest }) r)
    | [], r :: rest => go (judge (withEv s fun v => { v with general := rest }) r)
    | [], [] => go s

/-- A bucket gains a token; a SUMMARY reports what it suppressed (R465). -/
def refill (s : State) (code : Nat) : State :=
  let b := bucketOf s code
  let s1 := setBucket s code { b with tokens := b.tokens + 1, suppressed := 0, firstSec := 0, gained := runNow s + 1 }
  if b.suppressed = 0 then s1
  else evt (writeEntry s1 0x361 (srcWord 0 0) (code + fld b.suppressed 32 + fld (b.firstSec % 2 ^ 32) 64)) 13 0

/-- A bucket that is not full gains a token at this beat: a multiple of its period in run count, once. -/
def refillDue (s : State) (b : Bucket) : Bool :=
  b.tokens < b.depth && runNow s % 2 ^ b.period == 0 && b.gained != runNow s + 1

/-- BUCKET_REFILL (R465). -/
def execBucketRefill (code : Fin 1024) (s : State) : Result :=
  if s.ev.loaded && !exempt code.val && refillDue s (bucketOf s code.val) then go (refill s code.val) else go s

/-- QUEUE_ROOM_LOST_ENTRY (R468). -/
def execQueueRoomLostEntry (s : State) : Result :=
  if s.ev.loaded && s.ev.dropped != 0 && s.ev.general.length < 256 then
    go (trimSram (lostEntry (withEv s fun v => { v with dropped := 0 }) s.ev.dropped 1))
  else go s

/-- A write to EV_RATE (R466, R467). -/
def rateWrite (s : State) (v : Word) : State :=
  let code := rdF s 0xD0080 9 0
  let d := max 1 (bits v 23 16)
  if exempt code then s
  else setBucket s code { tokens := d, depth := d, period := bits v 12 8, suppressed := 0, firstSec := 0 }
/-- RATE_WRITE (R467). -/
def execRateWrite (val : Word) (s : State) : Result :=
  managerWrite s 0xD0088 fun s => rateWrite s val

/-! ## The mirror (R471) -/

/-- A page is due: complete, or a second after its first new entry. -/
def mirrorDue (s : State) (page : Nat) : Bool :=
  let r := tget 0 s.ev.pageRun page
  r != 0 && ((s.ev.entries.filter fun p => pageOf p.1 == page).length == 128 || r + beatsPerSec ≤ runNow s + 1)

/-- MIRROR_PROGRAM (R471): a journal page that is due goes first (16 R457). -/
def execMirrorProgram (page : Nat) (s : State) : Result :=
  if s.keys.vault && s.ev.loaded && mirrorDue s page && !(pageDue s && decide (s.ks.durable.length < journalPages s)) then
    go (withEv s fun v => { v with
      mirror := (v.entries.filter fun p => pageOf p.1 == page && !v.poisoned.contains p.1).foldl
        (fun t p => tins t p.1 p.2) v.mirror,
      pageRun := tdel v.pageRun page })
  else go s

/-! ## Reading (R469, R474) -/

/-- The key that a sequence number names: founding entries keep theirs, any other is of the current wrap count. -/
def keyOfSeq (s : State) (seq : Nat) : Nat := if seq < 4096 then seq else s.ev.wrap * 2 ^ 32 + seq

/-- EV_DATA_0 to EV_DATA_3. -/
def setData (s : State) (e : Entry) : State :=
  (List.range 4).foldl (fun s n => wr s (0xD0048 + 8 * n) (BitVec.ofNat 64 (bits e (64 * n + 63) (64 * n)))) s

/-- EV_READ_STS. -/
def readSts (s : State) (busy valid : Bool) : State := wr s 0xD0040 (BitVec.ofNat 64 (2 * b2n busy + b2n valid))

/-- What a read of a poisoned entry without a copy returns. -/
def poisonEntry (key : Nat) : Entry := entryOf 0xFFFF 4 (key / 2 ^ 32) (seqOf key) 0 0 0

/-- The mirror pages that verify: none without the vault-flash key (16 R446). -/
def readable (s : State) : Tab Entry := if s.keys.vault then s.ev.mirror else []

/-- Fetch the entry of a key from attic SRAM (R469). -/
def fetchEntry (s : State) (key : Nat) (e : Entry) : State × Entry :=
  if s.ev.poisoned.contains key then
    match tfind (readable s) key with
    | some m =>
      (withEv s fun v => { v with entries := tins v.entries key m, poisoned := v.poisoned.filter (· != key) }, m)
    | none => (trimSram (lostEntry (cntUp s 0xD0030 47 32) 1 2), poisonEntry key)
  else (s, e)

/-- A write to EV_READ_SEQ. -/
def atticRead (s : State) (seq : Nat) : State :=
  let s0 := wr s 0xD0038 (BitVec.ofNat 64 seq)
  let key := keyOfSeq s seq
  match tfind s.ev.entries key with
  | some e =>
    let r := fetchEntry s0 key e
    readSts (setData (withEv r.1 fun v => { v with reading := none }) r.2) false true
  | none =>
    if (tfind (readable s) key).isSome then readSts (withEv s0 fun v => { v with reading := some key }) true false
    else readSts (setData (withEv s0 fun v => { v with reading := none }) 0) false false
/-- ATTIC_READ (R474). -/
def execAtticRead (seq : BitVec 32) (s : State) : Result :=
  managerWrite s 0xD0038 fun s => atticRead s seq.toNat

/-- ATTIC_READ_DONE (R474). -/
def execAtticReadDone (s : State) : Result :=
  match s.ev.reading with
  | none => go s
  | some key =>
    let s1 := withEv s fun v => { v with reading := none }
    match tfind (readable s) key with
    | some e => go (readSts (setData s1 e) false true)
    | none => go (readSts (setData s1 0) false false)

/-! ## Commands (R475 to R477) -/

/-- EV_CMD_STS at the end of a command. -/
def evDone (s : State) (st : Status) (detail : Nat) : State :=
  evt (wr s 0xD0018 (BitVec.ofNat 64 (stCode st + fld detail 16))) 13 3

/-- EV_CMD_STS.BUSY. -/
def evBusy (s : State) : Bool := s.ev.copying

/-- EV_CMD OP 1h. -/
def copyCmd (s : State) : State :=
  let n := rdF s 0xD0028 16 0
  if evBusy s then evt s 13 2
  else if n = 0 ∨ 69632 < n then evDone s .malformed 0xFF
  else wrF (withEv s fun v => { v with copying := true }) 0xD0018 24 24 1
/-- COPY (R475). -/
def execCopy (s : State) : Result :=
  managerWrite s 0xD0010 fun s => copyCmd s

/-- The entry that a copy writes for a key: a read of attic SRAM is one under R469. -/
def copyEntry (s : State) (key : Nat) : State × Entry :=
  match tfind s.ev.entries key with
  | some e => fetchEntry s key e
  | none => (s, (tfind (readable s) key).getD 0)

/-- The entries of a list of keys, in order. -/
def copyEntries (s : State) : List Nat → State × List Entry
  | [] => (s, [])
  | k :: r =>
    let a := copyEntry s k
    let b := copyEntries a.1 r
    (b.1, a.2 :: b.2)

/-- ATTIC_COPY_DONE (R475): the copy ends, or is aborted when a write fails under R97. -/
def execAtticCopyDone (readOk : Bool) (s : State) : Result :=
  if !s.ev.copying then go s
  else
    let s1 := withEv s fun v => { v with copying := false }
    if readOk && canIssue s true then
      let r := copyEntries s1 ((List.range (rdF s 0xD0028 16 0)).map fun i => keyOfSeq s (rdF s 0xD0028 63 32 + i))
      go (evDone { r.1 with out := .atticCopy (rd s 0xD0020) r.2 :: r.1.out } .done 0xFF)
    else go (evDone s1 .aborted 0xFF)

/-- Attic clears counted in OTP. -/
def clearsOf (s : State) : Nat := s.lc.otp.clears

/-- A refused clear (R476). -/
def clearRefused (s : State) (st : Status) (detail : Nat) : State := evt (evDone s st detail) 13 5

/-- Circulating keys held, in order. -/
def circHeld (s : State) : List Nat :=
  (s.ev.mirror.filter fun p => circKey p.1).map (·.1) ++ (sramCirc s).map (·.1)

/-- Custodian index as an attic entry carries it. -/
def ixByte (n : Nat) : Nat := if n < 64 then n else 0xFF

/-- The clearing (R477): fuse, tickets, entries, the CLEAR entry. -/
def clearNow (s : State) (t : Held × Held) : State :=
  let held := circHeld s
  let first := match held with
    | [] => 0
    | k :: r => seqOf (r.foldl min k)
  let last := seqOf (held.foldl max 0)
  let n := clearsOf s + 1
  let s1 := consumePair { s with lc := { s.lc with otp := { s.lc.otp with clears := n } } } t
  let s2 := withEv s1 fun v => { v with
    entries := v.entries.filter fun p => !circKey p.1, mirror := v.mirror.filter fun p => !circKey p.1,
    poisoned := v.poisoned.filter fun k => !circKey k, pageRun := v.pageRun.filter fun p => p.1 < 32 }
  let data := n % 256 + fld (ixByte t.1.index) 8 + fld (ixByte t.2.index) 16 + fld first 32 + fld last 64
  evDone (evt (placeNow s2 (entryNow s2 0x363 (srcWord 0 0) data)) 13 4) .done 0xFF

/-- EV_CMD OP 2h. -/
def clearCmd (s : State) : State :=
  if evBusy s then evt s 13 2
  else if isLocked s then clearRefused s .locked 0x90
  else if s.mode.lc ≠ .production then clearRefused s .policy 0x91
  else if 255 ≤ clearsOf s then clearRefused s .quota 0x92
  else
    match ticketPair s 0x0B (clearsOf s + 1) with
    | none => clearRefused s .policy 0x93
    | some t => clearNow s t
/-- CLEAR (R476, R477). -/
def execClear (s : State) : Result :=
  managerWrite s 0xD0010 fun s => clearCmd s

/-- EV_CMD with another OP. -/
def evBadOp (s : State) : State := if evBusy s then evt s 13 2 else evDone s .malformed 0xFF

/-! ## The load of a start (R467, R472, R473) -/

/-- The newest n entries of a table. -/
def newest (n : Nat) (t : List (Nat × Entry)) : List (Nat × Entry) := t.drop (t.length - n)

/-- Attic SRAM loaded from the mirror. -/
def fromMirror (v : Ev) : Tab Entry :=
  (v.mirror.filter fun p => !circKey p.1) ++ newest 24576 (v.mirror.filter fun p => circKey p.1)

/-- Buckets at their depth and nothing suppressed; DEPTH and PERIOD last as long as attic SRAM does. -/
def resetBuckets (t : Tab Bucket) : Tab Bucket :=
  t.filterMap fun p =>
    let b : Bucket := { p.2 with tokens := p.2.depth, suppressed := 0, firstSec := 0, gained := 0 }
    if b = {} then none else some (p.1, b)

/-- The entries after a start's load, and the number that only the unreadable mirror held. -/
def loadEntries (s : State) (kept first : Bool) : State × Nat :=
  let v := s.ev
  if kept then
    if first then
      let lost := (v.mirror.filter fun p => (tfind v.entries p.1).isNone).length
      (withEv s fun v => { v with mirror := v.entries, pageRun := [], buckets := resetBuckets v.buckets }, lost)
    else (withEv s fun v => { v with buckets := resetBuckets v.buckets }, 0)
  else if first then
    (setBit (withEv s fun v => { v with
      entries := [], mirror := [], nextSeq := 0, wrap := 0, buckets := [], poisoned := [], pageRun := [] }) 0xD0000 1, 0)
  else
    let e := fromMirror v
    let next := v.mirror.foldl (fun m p => max m (p.1 + 1)) 0
    (withEv s fun v => { v with
      entries := e, nextSeq := if next % 2 ^ 32 = 0 ∧ next ≠ 0 then 2 ^ 32 else next % 2 ^ 32,
      wrap := if next % 2 ^ 32 = 0 ∧ next ≠ 0 then next / 2 ^ 32 - 1 else next / 2 ^ 32,
      buckets := [], poisoned := [], pageRun := [] }, 0)

/-- An entry of the tamper event buffer copied with BATTERY set: code, time, source and data as the buffer holds them. -/
def batteryEntry (e : Entry) (w q : Nat) : Entry :=
  entryOf (bits e 15 0) (bits e 23 16 ||| 2) w q (bits e 127 64) (bits e 159 128) (bits e 255 160)

/-- The data of the START entry: the start count, and whether the start is first, kept its SRAM, is first or dark (R472). -/
def startData (s : State) (kept first dark : Bool) : Nat :=
  s.bbram.startCount.toNat + fld (b2n first + 2 * b2n kept + 4 * b2n (first || dark)) 64

/-- The data of the TAMPER_BUF entry: entries lost from the buffer. -/
def bufferData (s : State) : Nat := s.bbram.lost % 2 ^ 32

/-- An entry of the tamper event buffer, placed with the next sequence number. -/
def copyBattery (s : State) (e : Entry) : State := trimSram (placeNow s (batteryEntry e))

/-- The entries of the tamper event buffer, oldest first. -/
def copyBuffer (s : State) (l : List Entry) : State := l.foldl copyBattery s

/-- The TAMPER_BUF entry, when the buffer lost entries. -/
def bufferLost (s : State) (lost data : Nat) : State := if lost = 0 then s else writeEntry s 0x364 (srcWord 0 0) data

/-- The LOST entry of R473, when the unreadable mirror alone held entries. -/
def mirrorLost (s : State) (n : Nat) : State := if n = 0 then s else trimSram (lostEntry (cntBy s 0xD0030 15 0 n) n 4)

/-- The attic takes entries from here on, and the buffer is empty. -/
def atticLoaded (s : State) : State :=
  setBit { s with ev := { s.ev with loaded := true }, bbram := { s.bbram with events := [], lost := 0 } } 0xD0000 0

/-- R472: the load, the START entry, the copy of the tamper event buffer, the TAMPER_BUF entry when entries were lost from
it (13 R395), the LOST entry of R473; then the reports that waited follow from the queues. `dark` says that the module has no vault-flash key (18 R483). -/
def atticStart (s : State) (kept first dark : Bool) : State :=
  let r := loadEntries s kept (first || (dark && !kept))
  let s1 := copyBuffer (writeEntry r.1 0x360 (srcWord 0 0) (startData s kept first dark)) s.bbram.events
  atticLoaded (mirrorLost (bufferLost s1 s.bbram.lost (bufferData s)) r.2)

end Machine
end Sys2Proof
end

