-- ==== Sys2Proof/Machine/Foyer.lean ====
section
/-! DEFINITION. The foyer (12): card slots from insertion to removal, the T=1 dialogue, and the SL_CMD operations with the
custodian register and the routine signing keys. -/

namespace Sys2Proof
namespace Machine

/-- Slot n. -/
def cslot (s : State) (n : Fin 4) : CardSlot := tget {} s.sl.slots n.val
/-- Store a slot. -/
def setSlot (s : State) (n : Fin 4) (c : CardSlot) : State := { s with sl := { s.sl with slots := tput {} s.sl.slots n.val c } }
/-- SL_CNT_n. -/
def slCnt (n : Fin 4) : Nat := 0x80140 + 8 * n.val
/-- SL_CFG.EN bit n. -/
def slotOn (s : State) (n : Fin 4) : Bool := bit (rd s 0x80028) n.val
/-- SL_CFG.DEBOUNCE in beats. -/
def debounceBeats (s : State) : Nat := ceilDiv (max 1 (rdF s 0x80028 15 8) * beatsPerSec) 1000

/-! ## Completion of an SL_CMD (R365) -/

/-- An SL_CMD completes. -/
def slDone (s : State) (st : Status) (detail : Nat) : State :=
  evt (wr { s with sl := { s.sl with cmd := none } } 0x80018 (BitVec.ofNat 64 (stCode st + fld detail 16))) 8 5

/-- A command that uses a slot ends with ABORTED when the slot is deactivated. -/
def abortSlotCmd (s : State) (n : Fin 4) : State :=
  match s.sl.cmd with
  | some c => if c.slot = n ∨ (c.op = 4 ∧ c.donor = n) then slDone s .aborted 0xFF else s
  | none => s

/-! ## Slots (R344 to R351, 20 R515) -/

/-- A slot without power, in a state. -/
def unpowered (c : CardSlot) (st : SlotState) : CardSlot :=
  { found := c.found, det := c.det, detRun := c.detRun, sealed := c.sealed, err := c.err, blocked := c.blocked, seatCls := c.seatCls,
    state := st }

/-- Deactivate a slot (R351). -/
def deactivate (s : State) (n : Fin 4) (st : SlotState) : State := abortSlotCmd (setSlot s n (unpowered (cslot s n) st)) n

/-- A slot is deactivated and sets ERR. -/
def slotError (s : State) (n : Fin 4) (err : Nat) (st : SlotState) : State :=
  let s1 := deactivate s n st
  evt (setSlot s1 n { cslot s1 n with err := err }) 8 3

/-- The carrier counts as opened (R345). -/
def sealOpened (s : State) (n : Fin 4) : State :=
  let s1 := deactivate s n .refused
  evtRec (evt (setSlot s1 n { cslot s1 n with err := 6, sealed := false }) 8 3) 8 2 (srcWord 6 n.val) 0

/-- Activate a slot at a class, or at the class its card has reached (R346, R347). -/
def activate (s : State) (n : Fin 4) (cls : Nat) (noPps : Bool) : State :=
  let c := cslot s n
  let k := max cls c.seatCls
  let c1 := { unpowered c .activating with cls := k, seatCls := k, fi := 1, di := 1, clkDiv := 263, noPps := noPps, err := 0 }
  cntUp (setSlot s n c1) (slCnt n) 15 0

/-- The conditions of R344, with 20 R515. -/
def mayActivate (s : State) (n : Fin 4) : Bool :=
  let c := cslot s n
  c.found && slotOn s n && c.det && c.sealed && !c.blocked && decide (c.detRun + debounceBeats s ≤ runNow s)

/-- CARD_INSERT (R344, R345). -/
def execCardInsert (n : Fin 4) (s : State) : Result :=
  let c := cslot s n
  if c.det then go s
  else
    let c1 := { unpowered c .debounce with det := true, detRun := runNow s, err := 0, sealed := true, seatCls := 0 }
    go (setSlot s n (if c.found && slotOn s n then c1 else { c1 with state := .off }))

/-- SLOT_DEBOUNCE_DONE (R344, R346). -/
def execSlotDebounceDone (n : Fin 4) (s : State) : Result :=
  if (cslot s n).state == .debounce && mayActivate s n then go (activate s n 1 false) else go s

/-- Fi and fmax in kHz, and Di, of the codes of ISO/IEC 7816-3; 0 where a code is reserved. -/
def fiOf (code : Nat) : Nat × Nat :=
  match code with
  | 0 => (372, 4000) | 1 => (372, 5000) | 2 => (558, 6000) | 3 => (744, 8000) | 4 => (1116, 12000) | 5 => (1488, 16000)
  | 6 => (1860, 20000) | 9 => (512, 5000) | 10 => (768, 7500) | 11 => (1024, 10000) | 12 => (1536, 15000) | 13 => (2048, 20000)
  | _ => (0, 0)
def diOf (code : Nat) : Nat :=
  match code with
  | 1 => 1 | 2 => 2 | 3 => 4 | 4 => 8 | 5 => 16 | 6 => 32 | 7 => 64 | 8 => 12 | 9 => 20
  | _ => 0

/-- Fi/Di is at least 16 and both codes are defined (R348). -/
def rateOk (fi di : Nat) : Bool := diOf di != 0 && (fiOf fi).1 != 0 && 16 * diOf di ≤ (fiOf fi).1

/-- The Di code of the largest Di that is at most the card's and keeps Fi/Di at 16 or more. -/
def bestDi (fi di : Nat) : Nat :=
  (List.range 10).foldl (fun a c => if rateOk fi c && diOf c ≤ diOf di && diOf a < diOf c then c else a) 0

/-- The Fi and Di codes that PPS asks for; the initial ones when the card's allow none. -/
def ppsAsk (fi di : Nat) : Nat × Nat := if bestDi fi di = 0 then (1, 1) else (fi, bestDi fi di)

/-- The least divisor that keeps the card clock at or below 20 MHz and fmax (CORE_CLK 1,048,576 kHz). -/
def clkDivOf (fi : Nat) : Nat := ceilDiv 1048576 (min 20000 (fiOf fi).2)

/-- The custodian applet's AID (The card). -/
def custodianAid : List Nat := [0xF0, 0x43, 0x48, 0x4C, 0x4D, 0x43, 0x55]

/-- The slot becomes active: the applet is selected, then GET_IDENT (R349, The card). -/
def slotActive (s : State) (n : Fin 4) (fi di div : Nat) : State :=
  let c := { cslot s n with state := .active, fi := fi, di := di, clkDiv := div, ppsWait := false, tries := 0 }
  evt (toCard (toCard (setSlot s n c) n 0xA4 custodianAid) n 0x10 []) 8 0

/-- Whether a class indicator includes a class: 1 C, 2 B, 3 A. -/
def includesCls (i : Bool × Bool × Bool) (cls : Nat) : Bool := match cls with | 3 => i.1 | 2 => i.2.1 | _ => i.2.2

/-- The T=1 parameters are those the module supports (R349). -/
def t1Ok (a : Atr) : Bool :=
  !a.needsCrc
    && (match a.ifsc with
        | some n => 16 ≤ n.val && n.val ≤ 254
        | none => true)
    && (match a.bwi with
        | some n => n.val ≤ 9
        | none => true)

/-- An answer-to-reset whose class fits (R348, R349). -/
def atrParams (s : State) (n : Fin 4) (a : Atr) : State :=
  if !a.offersT1 || !t1Ok a then slotError s n 3 .refused
  else
    let c := { cslot s n with ifsc := (match a.ifsc with
                                | some n => n.val
                                | none => 32),
                              cwi := (match a.cwi with
                                | some n => n.val
                                | none => 13),
                              bwi := (match a.bwi with
                                | some n => n.val
                                | none => 4) }
    let s1 := setSlot s n c
    match a.ta2 with
    | some (fi, di) =>
      if rateOk fi.val di.val then slotActive s1 n fi.val di.val (clkDivOf fi.val) else slotError s1 n 4 .refused
    | none =>
      if c.noPps then slotActive s1 n 1 1 263
      else
        let p := ppsAsk a.ta1.1.val a.ta1.2.val
        setSlot s1 n { c with ppsWait := true, fi := p.1, di := p.2 }

/-- ANSWER_TO_RESET (R347 to R349). -/
def execAnswerToReset (n : Fin 4) (a : Atr) (s : State) : Result :=
  let c := cslot s n
  if c.state != .activating || c.ppsWait || c.higher != 0 then go s
  else
    match a.classInd with
    | some i =>
      if includesCls i c.cls then go (atrParams s n a)
      else
        match [2, 3].find? fun k => decide (c.cls < k) && includesCls i k with
        | some k => go (setSlot s n { unpowered c .activating with higher := k, detRun := c.detRun, noPps := c.noPps })
        | none => go (slotError s n 2 .refused)
    | none => go (atrParams s n a)

/-- ATR_TIMEOUT (R346). -/
def execAtrTimeout (n : Fin 4) (s : State) : Result :=
  let c := cslot s n
  if c.state == .activating && !c.ppsWait && c.higher == 0 then go (slotError s n 1 .refused) else go s

/-- CLASS_RETRY (R347): the class is never lowered while a card stays seated. -/
def execClassRetry (n : Fin 4) (s : State) : Result :=
  let c := cslot s n
  if c.state == .activating && c.higher != 0 then go (activate s n c.higher c.noPps) else go s

/-- The card does not confirm PPS: one more activation, without PPS (R348). -/
def ppsFallback (s : State) (n : Fin 4) : State := activate s n (cslot s n).cls true

/-- PPS_RESPONSE (R348). -/
def execPpsResponse (n : Fin 4) (confirmed : Bool) (s : State) : Result :=
  let c := cslot s n
  if c.state == .activating && c.ppsWait then
    go (if confirmed then slotActive s n c.fi c.di (clkDivOf c.fi) else ppsFallback s n)
  else go s

/-- PPS_TIMEOUT (R348). -/
def execPpsTimeout (n : Fin 4) (s : State) : Result :=
  let c := cslot s n
  if c.state == .activating && c.ppsWait then go (ppsFallback s n) else go s

/-- One more failure of a block: up to two R-blocks, one S(RESYNCH), then deactivation with ERR 05h and a timeout counted
(R349, R350). -/
def blockFailed (s : State) (n : Fin 4) : State :=
  let c := cslot s n
  if 3 ≤ c.tries then cntUp (slotError s n 5 .refused) (slCnt n) 47 32
  else setSlot s n { c with tries := c.tries + 1 }

/-- CARD_BLOCK_TIMEOUT (R350). -/
def execCardBlockTimeout (n : Fin 4) (s : State) : Result := if (cslot s n).state = .active then go (blockFailed s n) else go s

/-- CARD_REMOVE (R351). -/
def execCardRemove (n : Fin 4) (s : State) : Result :=
  let c := cslot s n
  if !c.det then go s
  else
    let s1 := deactivate s n .empty
    go (evt (cntUp (setSlot s1 n { cslot s1 n with det := false, blocked := false, sealed := false }) (slCnt n) 63 48) 8 1)

/-- SEAL_BREAK (R345). -/
def execSealBreak (n : Fin 4) (s : State) : Result :=
  if (cslot s n).sealed then go (sealOpened s n) else go s

/-- SLOT_OVERCURRENT (20 R515). -/
def execSlotOvercurrent (n : Fin 4) (s : State) : Result :=
  let c := cslot s n
  if c.state = .active ∨ c.state = .activating then
    let s1 := slotError s n 2 .refused
    go (setSlot s1 n { cslot s1 n with blocked := true })
  else go s

/-! ## SL_CMD (R364, R365) -/

/-- An SL_CMD is ignored while one is in progress; while locked only OP 1h, 2h, 3h and 8h go on. -/
def slGate (s : State) (op : Nat) (f : State → State) : State :=
  if s.sl.cmd.isSome then evt s 8 6
  else if isLocked s && !(op == 1 || op == 2 || op == 3 || op == 8) then slDone s .locked 0xFF
  else f s

/-- An undefined OP. -/
def slBadOp (s : State) : State := slGate s 1 fun s => slDone s .malformed 0xFF

/-- A slot is active and its card has been identified. -/
def slotReady (s : State) (n : Fin 4) : Bool := (cslot s n).state == .active && (cslot s n).card.isSome

/-- An SL_CMD waits for a card. -/
def setCmd (s : State) (c : SlCmd) : State := { s with sl := { s.sl with cmd := some c } }

/-- A command that waits for a card: BUSY, and VERIFY is sent (The card). -/
def slBegin (s : State) (c : SlCmd) (dest : Fin 4) (pin : BitVec 128) : State :=
  wr (sendPin (setCmd s c) dest pin) 0x80018 (BitVec.ofNat 64 (fld 0xFF 16 + fld 1 24))

/-- SIGN (R364). -/
def execSign (n : Fin 4) (buf : HostRead (BitVec 1408 × BitVec 128)) (s : State) : Result :=
  managerWrite s 0x80010 fun s => slGate s 1 fun s =>
    match buf with
    | .failed => slDone (dmaErr s) .aborted 0xFF
    | .ok (raw, pin) =>
      if slotReady s n then
        let d := draw 128 s
        let r1 := setBits raw 575 320 (keyIdOf (cardPub s n))
        slBegin d.2 { op := 1, slot := n, donor := n, raw := setBits r1 767 640 d.1.toNat, stage := 0 } n pin
      else slDone s .aborted 0xFF

/-- The signed ticket: written to the buffer, and held when its target is this module (R364). -/
def ticketSigned (s : State) (raw : BitVec 1408) (sig : BitVec 768) : State :=
  let t : BitVec 2176 := BitVec.ofNat 2176 (raw.toNat + fld sig.toNat 1408)
  let s1 := { s with out := .signed t :: s.out }
  if tkTarget t = deviceId.toNat then
    match holdTicket s1 t true true with
    | (s2, some (order, st)) => slDone s2 st order
    | (s2, none) => slDone s2 .done 0xFF
  else slDone s1 .done 0xFF

/-- HOLD (R355). -/
def execHold (t : HostRead Ticket) (s : State) : Result :=
  managerWrite s 0x80010 fun s => slGate s 2 fun s =>
    match t with
    | .failed => slDone (dmaErr s) .aborted 0xFF
    | .ok t =>
      match holdTicket s t.raw t.sigOk false with
      | (s1, some (order, st)) => slDone s1 st order
      | (s1, none) => slDone s1 .done 0xFF

/-- RELAY (R364). -/
def execRelay (m : Member) (t : HostRead Ticket) (s : State) : Result :=
  managerWrite s 0x80010 fun s => slGate s 3 fun s =>
    match t with
    | .failed => slDone (dmaErr s) .aborted 0xFF
    | .ok t =>
      if s.cu.member.isNone then slDone s .policy 0xFF
      else slDone (sendEnv s 0x40 m.val (ticketBody [t.raw] none)) .done 0xFF

/-- DROP (R357). -/
def execDrop (s : State) : Result :=
  managerWrite s 0x80010 fun s => slGate s 8 fun s => slDone (dropHeld s) .done 0xFF

/-- POWER_OFF (R364). -/
def execPowerOff (n : Fin 4) (s : State) : Result :=
  managerWrite s 0x80010 fun s => slGate s 9 fun s =>
    if (cslot s n).state = .active then slDone (deactivate s n .off) .done 0xFF else slDone s .aborted 0xFF

/-- POWER_ON (R344, R364). -/
def execPowerOn (n : Fin 4) (s : State) : Result :=
  managerWrite s 0x80010 fun s => slGate s 10 fun s =>
    if (cslot s n).state = .active then slDone s .done 0xFF
    else if mayActivate s n then slDone (activate s n 1 false) .done 0xFF
    else slDone s .aborted 0xFF

/-! ## SL_CFG and carriers (R344, 14 R418, 18 R490) -/

/-- A seated card in a slot that may be used begins its debounce. -/
def seatSlot (s : State) (n : Fin 4) : State :=
  let c := cslot s n
  if c.state == .off && c.found && slotOn s n && c.det then setSlot s n { c with state := .debounce } else s

/-- A slot that is not usable is deactivated (R351). -/
def offSlot (s : State) (n : Fin 4) : State :=
  if (cslot s n).state = .empty ∨ (cslot s n).state = .off then s else deactivate s n .off

/-- SL_CFG is written: a slot whose EN bit falls is deactivated, one whose bit rises may be activated. -/
def slCfg (s : State) (v : Word) : State :=
  (List.finRange 4).foldl (fun s n => if slotOn s n then seatSlot s n else offSlot s n) (wr s 0x80028 (v &&& 0xFF0F))

/-- A scan finds a slot's carrier, or finds it no longer. -/
def carrierFound (s : State) (n : Fin 4) (found : Bool) : State :=
  if found then seatSlot (setSlot s n { cslot s n with found := true }) n
  else
    let s1 := offSlot s n
    setSlot s1 n { cslot s1 n with found := false }

/-! ## The custodian register (R358 to R362) -/

/-- Entries in use. -/
def custUsed (s : State) : Tab Custodian := s.sl.custody.filter fun p => p.2.pub != 0

/-- Serial of the next entry at an index. -/
def nextSerial (s : State) (ix : Nat) : BitVec 32 :=
  match tfind s.sl.custody ix with
  | some c => c.serial + 1
  | none => 1

/-- An entry changes here: signed, stored, and sent out with its tickets (R360, R362). -/
def writeEntry64 (s : State) (ix : Nat) (c : Custodian) (t : Held × Held) : State :=
  let g := signEntry s ix c
  spreadEntry (copyUnlock { g.2 with sl := { g.2.sl with custody := tins g.2.sl.custody ix g.1 } }) ix g.1 [t.1.raw, t.2.raw] (ownNum s)

/-- Argument bytes of CUST_ADD and CUST_DEL tickets. -/
def custArgs (ix kind key : Nat) : Nat := ix + fld kind 8 + fld key 256

/-- Pack what CUST_ADD has to remember. -/
def custRaw (ix kind name : Nat) : BitVec 1408 := BitVec.ofNat 1408 (ix + fld kind 8 + fld name 16)

/-- The first refusal of CUST_ADD (R360). -/
def custAddRefusal (s : State) (n donor : Fin 4) (ix kind : Nat) : Option Status :=
  if !slotReady s n || !slotReady s donor || n == donor then some .aborted
  else if 1 < kind || 63 < ix then some .malformed
  else if s.cu.member.isNone then some .policy
  else if (s.sl.custody.any fun p => p.1 == ix && p.2.pub != 0) || 64 ≤ (custUsed s).length then some .quota
  else if (match (cslot s n).card with
      | some (_, k) => k != 0xFF
      | none => true) then some .policy
  else
    match custodianOf s (keyIdOf (cardPub s donor)) with
    | some (_, c) =>
      if b2n c.kindB ≠ kind then some .policy
      else if (ticketPair s 0x0F (custArgs ix kind (keyIdOf (cardPub s n)))).isNone then some .policy else none
    | none => some .policy

/-- CUST_ADD (R360). -/
def execCustAdd (n donor : Fin 4) (buf : HostRead (Fin 256 × Fin 256 × BitVec 128 × BitVec 128 × BitVec 128)) (s : State) : Result :=
  managerWrite s 0x80010 fun s => slGate s 4 fun s =>
    match buf with
    | .failed => slDone (dmaErr s) .aborted 0xFF
    | .ok (ix, kind, name, pin, donorPin) =>
      match custAddRefusal s n donor ix.val kind.val with
      | some st => slDone s st 0xFF
      | none =>
        slBegin s { op := 4, slot := n, donor := donor, raw := custRaw ix.val kind.val name.toNat, stage := 0, pin := pin,
                    donorPin := donorPin } donor donorPin

/-- The half is on the new card: the entry is signed, stored and sent out, and the tickets are consumed. -/
def custAdded (s : State) (c : SlCmd) : State :=
  let ix := bits c.raw 7 0
  let kind := bits c.raw 15 8
  let pub := cardPub s c.slot
  match ticketPair s 0x0F (custArgs ix kind (keyIdOf pub)) with
  | none => slDone s .policy 0xFF
  | some t =>
    let e := newCustodian pub (kind == 1) (BitVec.ofNat 128 (bits c.raw 143 16)) (nextSerial s ix)
    slDone (writeEntry64 (setCardKind (consumePair s t) c.slot kind) ix e t) .done 0xFF

/-- CUST_DEL (R361). -/
def execCustDel (buf : HostRead (Fin 256 × Fin 256 × BitVec 128)) (s : State) : Result :=
  managerWrite s 0x80010 fun s => slGate s 5 fun s =>
    match buf with
    | .failed => slDone (dmaErr s) .aborted 0xFF
    | .ok (ix, _, _) =>
      match (custUsed s).find? fun p => p.1 == ix.val with
      | none => slDone s .policy 0xFF
      | some (_, c) =>
        match ticketPair s 0x10 (custArgs ix.val 0 c.keyId.toNat) with
        | none => slDone s .policy 0xFF
        | some t =>
          if ((custUsed s).filter fun p => p.1 != ix.val && p.2.kindB == c.kindB).isEmpty then slDone s .policy 0xFF
          else
            let e : Custodian := { pub := 0, keyId := 0, kindB := false, name := 0, serial := c.serial + 1 }
            slDone (writeEntry64 (consumePair s t) ix.val e t) .done 0xFF

/-! ## Routine signing keys (R366, 07 R193) -/

/-- SIGNKEY_SET (R366): the slot, and over buffer bytes 000h to 80Fh the SHA-384 that its tickets name. -/
def execSignkeySet (buf : HostRead (BitVec 16512)) (s : State) : Result :=
  managerWrite s 0x80010 fun s => slGate s 6 fun s =>
    match buf with
    | .failed => slDone (dmaErr s) .aborted 0xFF
    | .ok raw =>
      let slot := byteOf raw.toNat 0
      if slot = 0 ∨ 8 < slot then slDone s .malformed 0xFF
      else
        match ticketPair s 0x08 (slot + fld (sha384 2064 raw.toNat) 128) with
        | none => slDone s .policy 0xFF
        | some t =>
          let s1 := unloadSigner (consumePair s t) slot
          slDone { s1 with ld := { s1.ld with keys := tins s1.ld.keys slot (BitVec.ofNat 16384 (bytesOf raw.toNat 16 2048)) } } .done 0xFF

/-- SIGNKEY_REVOKE (R366). -/
def execSignkeyRevoke (buf : HostRead (Fin 256)) (s : State) : Result :=
  managerWrite s 0x80010 fun s => slGate s 7 fun s =>
    match buf with
    | .failed => slDone (dmaErr s) .aborted 0xFF
    | .ok slot =>
      if slot.val = 0 ∨ 8 < slot.val then slDone s .malformed 0xFF
      else
        match ticketPair s 0x09 slot.val with
        | none => slDone s .policy 0xFF
        | some t =>
          let s1 := unloadSigner (consumePair s t) slot.val
          slDone { s1 with ld := { s1.ld with keys := tdel s1.ld.keys slot.val } } .done 0xFF

/-! ## What a card answers (R349, R352, R360, R364) -/

/-- Which card a waiting command waits for, and the step that an answer of that card completes. -/
def waitsFor (c : SlCmd) : Fin 4 := if c.op = 4 ∧ c.stage < 2 then c.donor else c.slot

/-- The next stage of a command. -/
def atStage (c : SlCmd) (n : Nat) : SlCmd := { c with stage := n }

/-- What a half read out of a donor card unwraps to goes to the card that takes it. -/
def halfOpened (s : State) (c : SlCmd) (r : Option Nat) : State :=
  match r with
  | some v => sendPin (setCmd s { atStage c 2 with half := BitVec.ofNat 256 v, eph := 0 }) c.slot c.pin
  | none => slDone s .aborted 0xFF

/-- READ_HALF's answer: the half is unwrapped, and the new card's PIN is sent; one that does not unwrap ends the command. -/
def halfRead (s : State) (c : SlCmd) (w : BitVec 1096) : State :=
  halfOpened s c (keyUnwrap (readKey c.eph.toNat (bytesOf w.toNat 0 97)) (bytesOf w.toNat 97 40))

/-- An answer to the command that waits: VERIFY, then SIGN for OP 1h; for OP 4h VERIFY and READ_HALF at the donor, VERIFY and
WRITE_HALF at the new card. -/
def cmdAnswer (s : State) (c : SlCmd) (a : CardAnswer) : State :=
  match a with
  | .verifyOk =>
    if c.op = 1 ∧ c.stage = 0 then toCard (setCmd s (atStage c 1)) c.slot 0x30 (unpackBytes 176 c.raw.toNat)
    else if c.op = 4 ∧ c.stage = 0 then
      let d := askHalf s c.donor
      setCmd d.2 { atStage c 1 with eph := BitVec.ofNat 384 d.1 }
    else if c.op = 4 ∧ c.stage = 2 then
      setCmd (giveHalf s c.slot c.half.toNat (bits c.raw 15 8)) { atStage c 3 with half := 0 }
    else slDone s .aborted 0xFF
  | .signature sig => if c.op = 1 ∧ c.stage = 1 then ticketSigned s c.raw sig else slDone s .aborted 0xFF
  | .half w => if c.op = 4 ∧ c.stage = 1 then halfRead s c w else slDone s .aborted 0xFF
  | .written => if c.op = 4 ∧ c.stage = 3 then custAdded s c else slDone s .aborted 0xFF
  | _ => slDone s .aborted 0xFF

/-- A wrong or blocked PIN: ERR 08h, and the command ends with AUTH_FAIL. -/
def pinFailed (s : State) (n : Fin 4) : State :=
  let s1 := evt (setSlot s n { cslot s n with err := 8 }) 8 3
  if s1.sl.cmd.isSome then slDone s1 .authFail 0xFF else s1

/-- A block that is right: GET_IDENT's answer, or the answer to the command that waits for this card. -/
def cardAnswer (s : State) (n : Fin 4) (a : CardAnswer) : State :=
  let c := cslot s n
  match c.card, a with
  | none, .ident pub half => setSlot s n { c with card := some (pub, half.val) }
  | none, _ => slotError s n 7 .refused
  | some _, .verifyFail => pinFailed s n
  | some _, _ =>
    match s.sl.cmd with
    | some k => if waitsFor k = n then cmdAnswer s k a else s
    | none => s

/-- CARD_BLOCK_RECEIVE (R349). -/
def execCardBlockReceive (n : Fin 4) (a : CardAnswer) (s : State) : Result :=
  if (cslot s n).state ≠ .active then go s
  else
    match a with
    | .badEdc => go (blockFailed (cntUp s (slCnt n) 31 16) n)
    | .unsupported => go (slotError s n 3 .refused)
    | _ => go (cardAnswer (setSlot s n { cslot s n with tries := 0 }) n a)

end Machine
end Sys2Proof
end

