-- ==== Sys2Proof/Machine/Resets.lean ====
section
/-! DEFINITION. Resets (18 R478 to R481, R486): the preparation of a warm start, what a reset of the main domain keeps, the
pins that hold and release it, and the beginning of a start. -/

namespace Sys2Proof
namespace Machine

/-! ## Preparation (R479) -/

/-- Every completion that waits is issued. -/
def issueAll (s : State) : State := s.adm.orders.foldl (fun s p => issueCompletion s p.1 []) s

/-- Accepted and parked orders complete with ABORTED, but for those already completed with LOCKED (R479 step 2). -/
def abortForReset (s : State) : State :=
  endAll s (fun v => (v.accepted || v.phase == .parked) && v.outcome.map (·.1) != some .locked) .aborted

/-- What the module does before it resets the main domain; `write` tells whether it still issues PCI Express writes. -/
def prepareReset (s : State) (write : Bool) : State :=
  let s1 := abortForReset { s with pch := { s.pch with fetching := false } }
  let s2 := if write then issueAll s1 else s1
  programAll s2 s2.ks.buffer.length

/-! ## The reset of the main domain (R480) -/

/-- Register words that vault flash keeps: next page sequence, spare and retired blocks (16 R444, R455), and the generation
floor, without which a start could issue a handle again (08 R205, R225). -/
def flashWord (a : Nat) : Bool := a == 0xC0020 || a == 0xC0030 || (0xC0200 ≤ a && a < 0xC0248) || a == 0x40058

/-- A group's entry of the group table, without what only the main domain held. -/
def keptGroup (g : Group) : Group := { g with recon := none, creating := none, accepts := [] }

/-- The domain state and the group table that vault flash keeps (10 R265, 11 R313). -/
def keptCu (c : Cu) : Cu :=
  { member := c.member, cert := c.cert, domainId := c.domainId, jk := c.jk, datkP := c.datkP, datkQ := c.datkQ, roster := c.roster,
    groups := tmapv c.groups fun _ g => keptGroup g }

/-- The cellar images and the journal of vault flash; FRESH reads 1 until the first record is created (08 R225). -/
def keptKs (k : Ks) : Ks := { image := k.image, older := k.older, durable := k.durable, starts := k.starts, fresh := k.fresh }

/-- A card slot after a reset: its contacts stay as they are. -/
def keptSlot (c : CardSlot) : CardSlot := { det := c.det, sealed := c.sealed, state := if c.det then .off else .empty }

/-- Every slot after a reset. -/
def keptSlots (t : Tab CardSlot) : Tab CardSlot :=
  t.filterMap fun p => if keptSlot p.2 = {} then none else some (p.1, keptSlot p.2)

/-- Attic SRAM is powered through a warm reset only; the mirror stands in vault flash (17 R472). Run counts begin again. -/
def keptEv (v : Ev) (warm : Bool) : Ev :=
  if warm then { v with loaded := false, reading := none, copying := false, pageRun := v.pageRun.map fun p => (p.1, 1) }
  else { mirror := v.mirror }

/-- Decisions on alarms stay with the battery domain; a grant falls with the command that asked for it. -/
def isAlarm : Decision → Bool
  | .alarm _ => true
  | _ => false

/-- The main domain is reset: OTP, BBRAM, the battery domain, vault flash and, on a warm reset, attic SRAM stay. -/
def mainReset (s : State) (warm : Bool) : State :=
  { pending := s.pending, fresh := s.fresh, out := s.out, pwrOk := s.pwrOk, perstN := s.perstN, starting := false,
    inReset := true, begun := false, startIn := none, cause := s.cause, alarmOut := s.alarmOut, mode := { lc := s.mode.lc },
    regs := s.regs.filter fun p => flashWord p.1,
    tb := {}, pch := {}, adm := {}, rooms := {}, mem := {},
    ld := { floors := s.ld.floors, serial := s.ld.serial, keys := s.ld.keys, flash := s.ld.flash },
    ks := keptKs s.ks, bbram := s.bbram, keys := {}, bn := {}, cu := keptCu s.cu, st := {},
    sl := { slots := keptSlots s.sl.slots, custody := s.sl.custody },
    tp := { s.tp with keyUse := false, e2 := s.tp.e2.filter fun d => isAlarm d.1 },
    lc := { otp := s.lc.otp, psel := s.lc.psel, stored := s.lc.stored },
    ns := {}, ec := { opened := s.ec.opened, erasing := s.ec.erasing, retired := s.ec.retired },
    ev := keptEv s.ev warm, sb := { lidCaps := s.sb.lidCaps } }

/-- A start of a kind begins (R478). -/
def beginStart (s : State) (cause : Nat) : State := { s with starting := true, inReset := false, cause := cause }

/-- A warm reset: preparation, reset, and a start of that kind begins. -/
def warmReset (s : State) (cause : Nat) : State := beginStart (mainReset (prepareReset s true) true) cause

/-! ## Pins (R478, R479, R486) -/

/-- PWR_OK_RISE: the later of PWR_OK and PERST_N begins a power-up start. -/
def execPwrOkRise (s : State) : Result :=
  if s.pwrOk then go s
  else
    let s1 := { s with pwrOk := true }
    go (if s.perstN then beginStart s1 1 else s1)

/-- PWR_OK_FALL: the main domain loses its contents; the shutters change to battery sample periods (13 R368). -/
def execPwrOkFall (now : Nat) (s : State) : Result :=
  if s.pwrOk then
    let s1 := { mainReset s false with pwrOk := false, cause := 1 }
    go { s1 with tp := { s1.tp with fell := now } }
  else go s

/-- PERST_FALL (R479): the preparation without PCI Express writes, and the main domain is held in reset. -/
def execPerstFall (s : State) : Result :=
  if !s.perstN then go s
  else if s.pwrOk && !s.inReset then
    go { mainReset (prepareReset s false) true with perstN := false, cause := 2 }
  else go { s with perstN := false }

/-- PERST_RISE: a power-up or host start begins. -/
def execPerstRise (s : State) : Result :=
  if s.perstN then go s
  else
    let s1 := { s with perstN := true }
    go (if s.pwrOk then beginStart s1 s.cause else s1)

/-- A write to SYS_RESET. -/
def resetWrite (s : State) (v : Word) : State :=
  if bits v 15 0 = 0x5A5A ∧ s.inReset = false then warmReset s 3 else s
/-- MANAGER_RESET: a write of 5A5Ah to SYS_RESET.CONFIRM. -/
def execManagerReset (s : State) : Result := go (resetWrite s 0x5A5A)

end Machine
end Sys2Proof
end

