-- ==== Sys2Proof/Machine/Shutters.lean ====
section
/-! DEFINITION. The shutters (13): sources, events and alarms, the responses under the policy and the life-cycle limit, the
zeroize line (08 R234), battery operation, policies, unlock and injection. -/

namespace Sys2Proof
namespace Machine

/-- Change the shutters. -/
def withTp (s : State) (f : Tp → Tp) : State := { s with tp := f s.tp }
/-- Change BBRAM. -/
def withBb (s : State) (f : Bbram → Bbram) : State := { s with bbram := f s.bbram }

/-! ## Policy (R367, R384, R385) -/

/-- Default entry of source n (R367), W in tamper-clock cycles of 125 ns. -/
def defaultSrc (n : Nat) : SrcPolicy :=
  match n with
  | 0x00 => ⟨3, 3, 512⟩
  | 0x01 | 0x02 | 0x03 | 0x04 | 0x05 | 0x06 => ⟨3, 2, 128⟩
  | 0x07 | 0x08 | 0x09 | 0x0A => ⟨2, 1000, 8192⟩
  | 0x0B => ⟨3, 4, 64000⟩
  | 0x0C => ⟨2, 4, 64000⟩
  | 0x0D => ⟨2, 2, 8000⟩
  | 0x0E => ⟨2, 4, 64⟩
  | 0x0F => ⟨1, 4, 4096000⟩
  | 0x10 => ⟨3, 2, 2⟩
  | 0x11 => ⟨2, 1, 1⟩
  | 0x12 => ⟨2, 1, 1⟩
  | _ => ⟨0, 0, 0⟩

/-- Entry of source n in the policy in force; a policy without entries is the default native one. -/
def srcPolicy (s : State) (n : Nat) : SrcPolicy := s.tp.policy.srcs.getD n (defaultSrc n)

/-- Strength of a response code (R376, R377, R379): 0 off, 1 record, 2 warn or interrupt, 3 lock, 4 reset, 5 breach or
zeroize. -/
def strength (code : Nat) : Nat :=
  match code with
  | 0x10 => 1
  | 0x01 => 2
  | 0x11 => 2
  | 0x02 => 3
  | 0x12 => 3
  | 0x14 => 4
  | 0x03 => 5
  | 0x13 => 5
  | _ => 0

/-- The largest response that the life-cycle state lets the module take (R378). -/
def respCap (lc : LifeCycle) : Nat :=
  match lc with
  | .blank | .test => 2
  | .production => 5
  | .analysis | .retired => 1

/-- n bytes of a block from an offset, little-endian. -/
def blockAt (l : List Byte) (off n : Nat) : Nat := packBytes (((l.drop off).take n).map BitVec.toNat)

/-- A signed byte. -/
def signedByte (n : Nat) : Int := if n < 128 then n else (n : Int) - 256

/-- The policy that 256 bytes spell (R384). -/
def policyOf (l : List Byte) : Policy :=
  { compat := blockAt l 6 1 == 1, pulse := blockAt l 7 1 % 2 == 1, tempLow := signedByte (blockAt l 8 1),
    tempHigh := signedByte (blockAt l 9 1),
    srcs := (List.range 24).map fun n => ⟨blockAt l (16 + 8 * n) 1, blockAt l (18 + 8 * n) 2, blockAt l (20 + 8 * n) 4⟩ }

/-- A response code belongs to a mode. -/
def codeOf (compat : Bool) (c : Nat) : Bool :=
  c == 0 || (if compat then 0x10 ≤ c && c ≤ 0x14 else 1 ≤ c && c ≤ 3)

/-- One source entry is valid (R385). -/
def entryOk (compat : Bool) (n : Nat) (p : SrcPolicy) : Bool :=
  if 0x13 ≤ n then p.resp == 0 && p.n == 0 && p.w == 0
  else
    codeOf compat p.resp && 1 ≤ p.n && p.n ≤ 4095
      && (if n = 0x10 then p.resp == (if compat then 0x13 else 3) && p.n == 2 && p.w == 2
          else (if n = 0x11 ∨ n = 0x12 then 1 else 8) ≤ p.w && p.w ≤ 16777215)
      && (n != 0x12 || p.resp != 0)

/-- A policy block is valid (R384, R385). -/
def policyOk (l : List Byte) : Bool :=
  let p := policyOf l
  l.length == 256 && blockAt l 0 4 == 0x4C4F5054 && blockAt l 4 2 == 1 && blockAt l 6 1 ≤ 1 && blockAt l 7 1 ≤ 1
    && decide (-40 ≤ p.tempLow) && decide (p.tempLow ≤ 0) && decide (70 ≤ p.tempHigh) && decide (p.tempHigh ≤ 125)
    && blockAt l 10 6 == 0 && blockAt l 208 48 == 0
    && ((List.range 24).all fun n => blockAt l (17 + 8 * n) 1 == 0)
    && (p.srcs.zipIdx.all fun q => entryOk p.compat q.2 q.1)

/-- A new policy takes effect: a source that it turns off leaves alarm level, SYS_MODE.TMODE follows (R387). -/
def setPolicy (s : State) (p : Policy) (override : Bool) : State :=
  let off := fun n => strength (p.srcs.getD n (defaultSrc n)).resp == 0
  let s1 := withTp s fun t => { t with
    policy := p, override := override,
    sources := t.sources.filterMap fun q =>
      let v := if off q.1 then { q.2 with level := false } else q.2
      if v = {} then none else some (q.1, v) }
  evt (setMode s1 fun m => { m with tmode := p.compat }) 9 7

/-! ## Sources (R367 to R370) -/

/-- Source n. -/
def tsrc (s : State) (n : Nat) : Source := tget {} s.tp.sources n
/-- Store source n. -/
def setTsrc (s : State) (n : Nat) (v : Source) : State := withTp s fun t => { t with sources := tput {} t.sources n v }

/-- TP_SRC_s.ENABLED (R370): the external inputs follow the lid's capability bits. -/
def srcEnabled (s : State) (n : Nat) : Bool :=
  if 5 ≤ n ∧ n ≤ 10 then bit s.sb.lidCaps (n - 5) else n < 0x13

/-- Source n produces events now (R368). -/
def srcSampled (s : State) (n : Nat) : Bool :=
  srcEnabled s n && (s.pwrOk || !(n == 0x0D || n == 0x0E || n == 0x11))

/-- Battery sample period in tamper-clock cycles (R367). -/
def batteryPeriod (n : Nat) : Nat :=
  if n = 0 then 8000 else if n ≤ 10 then 256 else if n ≤ 12 ∨ n = 15 then 512000 else if n = 16 then 1 else 0

/-- The window in force (R368). -/
def srcWindow (s : State) (n : Nat) : Nat :=
  let p := srcPolicy s n
  if s.pwrOk then p.w else max p.w (p.n * batteryPeriod n)

/-- Source n is at alarm level at a cycle (R369). -/
def atLevel (s : State) (n now : Nat) : Bool := (tsrc s n).level && now ≤ (tsrc s n).last + srcWindow s n

/-- The last n of a list. -/
def lastN {α : Type} (n : Nat) (l : List α) : List α := l.drop (l.length - n)

/-- One event of source n at a tamper-clock cycle. -/
def sourceEvent (s : State) (n now : Nat) : State :=
  if !srcSampled s n then s
  else
    let v := tsrc s n
    let w := srcWindow s n
    let v1 : Source := { times := lastN 4095 ((v.times.filter fun t => now ≤ t + w) ++ [now]), level := atLevel s n now, last := now }
    let s1 := setTsrc s n v1
    let s2 := if n = 0x0F then withTp s1 fun t => { t with batteryOk := false } else s1
    if s.pwrOk then cntUp s2 (0x90200 + 8 * n) 63 32 else s2

/-- Source n has counted N events within W and is not at alarm level, and its response is not off (R367, R369, R525). -/
def raises (s : State) (n : Nat) : Bool :=
  srcSampled s n && !(tsrc s n).level && strength (srcPolicy s n).resp != 0 && (srcPolicy s n).n ≤ (tsrc s n).times.length

/-! ## Outputs and records -/

/-- ALARM_OUT_N is low while the lock flag is 1, and during a pulse (R383). -/
def followAlarm (s : State) : State := { s with alarmOut := s.bbram.lockFlag || s.tp.pulse }

/-- An entry joins the event buffer in BBRAM (R394, R395). -/
def bufferEntry (s : State) (e : Entry) : State :=
  withBb s fun b =>
    if 50 ≤ b.events.length then { b with events := b.events.drop 1 ++ [e], lost := min 0xFFFFFFFF (b.lost + 1) }
    else { b with events := b.events ++ [e] }

/-- The record of an alarm: in the attic, or on battery in the event buffer. -/
def recordAlarm (s : State) (n now : Nat) : State :=
  let p := srcPolicy s n
  let data := p.resp + fld p.n 8 + fld ((tsrc s n).times.length % 2 ^ 32) 32
  if s.pwrOk then report s (0x260 + n) (srcWord 7 n) data
  else bufferEntry s (entryOf (0x260 + n) 0 0 0 (now - s.tp.fell) (srcWord 7 n) data)

/-- Source n raises its alarm: level, counts, record, E2's re-evaluation, the ZEROIZE_IN latch (R369, R373, R393, R525). -/
def raiseAlarm (now : Nat) (s : State) (n : Nat) : State :=
  let s1 := setTsrc s n { tsrc s n with level := true }
  let s2 := recordAlarm s1 n now
  let s3 := withTp s2 fun t => { t with e2 := t.e2 ++ [(Decision.alarm n, s.bbram.lockCount.toNat)] }
  let s4 := if n = 0x10 then withBb s3 fun b => { b with zinLatch := true } else s3
  if s.pwrOk then setBit (wrF (cntUp s4 (0x90200 + 8 * n) 31 0) 0x90000 55 48 n) 0x90008 0 else s4

/-- Attic data of a lock, zeroize or unlock. -/
def lockData (count cause : Nat) : Nat := count % 2 ^ 32 + fld (cause % 256) 32

/-- TP_EVT.LOCK, and ZEROIZE when it applies, with their attic entries (R380 step 5). -/
def lockTaken (s : State) (zero : Bool) (count cause : Nat) : State :=
  let s1 := evtRec s 9 2 (srcWord 0 0) (lockData count cause)
  if zero then evtRec s1 9 3 (srcWord 0 0) (lockData count cause) else s1

/-! ## The zeroize line (08 R234) -/

/-- Root, root check and root-valid bit overwritten (step 4). -/
def overwriteRoot (s : State) : State := withBb s fun b => { b with root := 0, check := 0, rootValid := false }

/-- An engine after step 3: key and block registers and their tags, round-key store, mask generator. -/
def zeroEngine (v : Engine) : Engine :=
  { v with core := { v.core with k := [], b := [], seals := [] }, roundKey := 0, portMask := 0 }

/-- A table of engines after a change of each. -/
def mapEngines (t : Tab Engine) (f : Engine → Engine) : Tab Engine :=
  t.filterMap fun p => if f p.2 = {} then none else some (p.1, f p.2)
/-- A table of big-number engines after a change of each. -/
def mapBnEngines (t : Tab BnEng) (f : BnEng → BnEng) : Tab BnEng :=
  t.filterMap fun p => if f p.2 = {} then none else some (p.1, f p.2)

/-- Step 3: key registers of the main domain. -/
def clearKeyRegs (s : State) : State :=
  { s with
    rooms := { s.rooms with engines := mapEngines s.rooms.engines zeroEngine }
    bn := { s.bn with engs := mapBnEngines s.bn.engs clearBn }
    cu := { s.cu with
      pairs := [], shakes := [], shakeQ := [], joined := [], dpKey := 0
      joining := s.cu.joining.map fun j => { j with jk := 0, eph := 0, ssS := 0 } }
    keys := {} }

/-- Step 6: key cache, frames, save areas, larder, pantry staging buffers, journal buffer, and the hearth's shares and pools
(15 R424) overwritten with zeros; the poison of the words goes with them (16 R438). -/
def clearSram (s : State) : State :=
  let s1 := { s with
    mem := {}
    rooms := { s.rooms with saved := [], hearth := [] }
    bn := { s.bn with psets := [] }
    adm := { s.adm with orders := tmapv s.adm.orders fun _ v => { v with input := [], staged := [] } }
    ks := { s.ks with cache := [], buffer := [] } }
  [0, 4, 5, 6].foldl (fun s m => clearPoisonIf s m fun _ => true) s1

/-- Steps 2, 3, 5 and 6, and step 4 when `root` says so. KS_EVT.ZEROIZE; READY falls and ZEROIZED rises (01 R12); held tickets
are dropped (12 R357); a start in progress ends (18 R487). -/
def zeroizeLine (s : State) (root : Bool) : State :=
  let s1 := clearKeyRegs (if root then overwriteRoot s else s)
  let s2 := dropHeld (clearSram (evt { s1 with startIn := none } 4 8))
  setMode (withBb s2 fun b => { b with zeroized := true }) fun m => { m with ready := false, zeroized := true }

/-! ## Responses (R376 to R381, R394, R525) -/

/-- R380 steps 1 and 2: the lock count, the lock flag and the cause in BBRAM, ALARM_OUT_N low, key use withdrawn. -/
def lockBbram (s : State) (cause : Nat) : State :=
  let s1 := withBb s fun b => { b with
    lockCount := BitVec.ofNat 32 (min 0xFFFFFFFF (b.lockCount.toNat + 1)), lockFlag := true, cause := BitVec.ofNat 8 cause }
  followAlarm (withTp s1 fun t => { t with keyUse := false })

/-- A response that locks: strength 3 lock, 4 reset, 5 zeroize (R380, R394). -/
def takeLock (s : State) (best cause : Nat) : State :=
  let s1 := lockBbram s cause
  let zero := best == 5
  let count := s1.bbram.lockCount.toNat
  if !s.pwrOk then
    let s2 := if zero then withBb (overwriteRoot s1) fun b => { b with zeroized := true } else s1
    withTp s2 fun t => { t with left := t.left ++ [(zero, count, cause)] }
  else
    let s2 := lockOrders s1
    let s3 := if zero then zeroizeLine s2 true else s2
    let s4 := lockTaken (setMode s3 fun m => { m with lock := true }) zero count cause
    if best = 4 then warmReset s4 6 else s4

/-- Response that source n's alarm takes. -/
def taken (s : State) (n : Nat) : Nat := min (strength (srcPolicy s n).resp) (respCap s.mode.lc)

/-- The strongest response of several alarms, and the first source that has it (R379). -/
def strongest (s : State) (l : List Nat) : Nat × Nat :=
  l.foldl (fun b n => if b.1 < taken s n then (taken s n, n) else b) (0, 0xFF)

/-- A warn or interrupt alarm: TP_EVT.WARN, and the pulse (R376, R377, R383). -/
def warn (s : State) : State :=
  let s1 := evt s 9 1
  if s.tp.policy.pulse then followAlarm (withTp s1 fun t => { t with pulse := true }) else s1

/-- In BLANK and TEST an alarm of ZEROIZE_IN runs the zeroize line without step 4, and sets no lock flag (R378). -/
def softZeroize (s : State) : State :=
  let s1 := zeroizeLine (lockOrders s) false
  evtRec s1 9 3 (srcWord 0 0) (lockData s1.bbram.lockCount.toNat 0x10)

/-- Alarms that fall in one tamper-clock cycle (R379). -/
def takeAlarms (s : State) (now : Nat) (l : List Nat) : State :=
  if l.isEmpty then s
  else
    let soft := l.contains 0x10 && (s.mode.lc == .blank || s.mode.lc == .test)
    let b := strongest s l
    let s1 := l.foldl (raiseAlarm now) s
    let s2 := if s.pwrOk && decide (2 ≤ b.1) then sendMsix s1 true 9 else s1
    let s3 := if b.1 = 2 ∧ s.pwrOk = true then warn s2
      else if b.1 = 2 ∧ s.tp.policy.pulse = true then followAlarm (withTp s2 fun t => { t with pulse := true }) else s2
    if 3 ≤ b.1 then takeLock s3 b.1 b.2
    else if soft && s.pwrOk then softZeroize s3 else s3

/-- Several sources see their conditions in one tamper-clock cycle. -/
def tamperEvents (s : State) (l : List Nat) (now : Nat) : State :=
  let s1 := l.foldl (fun s n => sourceEvent s n now) s
  takeAlarms s1 now (l.filter (raises s1))

/-- TAMPER_EVENT (R367). -/
def execTamperEvent (sources : List (Fin 24)) (now : Nat) (s : State) : Result :=
  go (tamperEvents s (sources.map Fin.val).eraseDups now)

/-- ALARM_LEVEL_EXIT (R369). -/
def execAlarmLevelExit (n : Fin 24) (now : Nat) (s : State) : Result :=
  let v := tsrc s n.val
  if v.level && decide (v.last + srcWindow s n.val ≤ now) then
    let s1 := setTsrc s n.val { v with level := false }
    go (if n.val = 0x0F then withTp s1 fun t => { t with batteryOk := true } else s1)
  else go s

/-- ALARM_PULSE_END (R383). -/
def execAlarmPulseEnd (s : State) : Result :=
  if s.tp.pulse then go (followAlarm (withTp s fun t => { t with pulse := false })) else go s

/-! ## The tamper clock (R371, R372) -/

/-- TAMPER_CLOCK_FAIL (R372): a lock limited by the life-cycle state. -/
def execTamperClockFail (s : State) : Result :=
  if !s.pwrOk || !s.tp.tclkOk then go s
  else
    let s1 := withTp s fun t => { t with tclkOk := false }
    let s2 := report (setBit s1 0x90008 9) 0x249 (srcWord 0 0) 0
    match s.mode.lc with
    | .analysis | .retired => go s2
    | .blank | .test => go (sendMsix s2 true 9)
    | .production =>
      let s3 := lockOrders (withTp (sendMsix s2 true 9) fun t => { t with lockPend := true, keyUse := false })
      let count := min 0xFFFFFFFF (s.bbram.lockCount.toNat + 1)
      go (lockTaken (setMode s3 fun m => { m with lock := true }) false count 0xFF)

/-- TAMPER_CLOCK_RETURN (R372): the pending lock flag and lock count are written into BBRAM. -/
def execTamperClockReturn (s : State) : Result :=
  if s.tp.tclkOk then go s
  else
    let s1 := withTp s fun t => { t with tclkOk := true, lockPend := false }
    go (if s.tp.lockPend then lockBbram s1 0xFF else s1)

/-- TAMPER_CLOCK_TRIM (R371): once per second, while main power is present. -/
def execTamperClockTrim (s : State) : Result :=
  if s.pwrOk && decide (s.tp.trims + beatsPerSec ≤ runNow s) then go (withTp s fun t => { t with trims := runNow s }) else go s

/-- VBAT_RETENTION_LOST (20 R509). -/
def execVbatRetentionLost (s : State) : Result :=
  if s.pwrOk then go s else go (withBb s fun b => { b with retentionLost := true })

/-! ## Commands (R386, R390, R391) -/

/-- A TP_CMD completes. -/
def tpDone (s : State) (st : Status) (detail source : Nat) : State :=
  evt (wr s 0x90018 (BitVec.ofNat 64 (stCode st + fld detail 16 + fld source 25))) 9 10

/-- Ignored while BUSY. -/
def tpGate (s : State) (f : State → State) : State := if rdF s 0x90018 24 24 = 1 then s else f s

/-- A refused unlock. -/
def unlockRefused (s : State) (st : Status) (detail source : Nat) : State := evt (tpDone s st detail source) 9 6

/-- Arguments of an UNLOCK ticket: start count, then lock count. -/
def unlockArgs (s : State) : Nat := s.bbram.startCount.toNat + fld s.bbram.lockCount.toNat 64

/-- The lowest source at alarm level whose response is lock or stronger. -/
def blocking (s : State) : Option Nat :=
  (List.range 24).find? fun n => (tsrc s n).level && 3 ≤ strength (srcPolicy s n).resp

/-- Steps 1 to 4 of R390; E2 then decides. -/
def unlockCmd (s : State) : State :=
  if s.mode.lc ≠ .production then unlockRefused s .policy 0x30 0xFF
  else if !s.bbram.lockFlag then unlockRefused s .policy 0x31 0xFF
  else if (ticketPair s 4 (unlockArgs s)).isNone then unlockRefused s .policy 0x32 0xFF
  else
    match blocking s with
    | some n => unlockRefused s .policy 0x33 n
    | none =>
      let s1 := withTp s fun t => { t with e2 := t.e2 ++ [(Decision.unlock, s.bbram.lockCount.toNat)] }
      wrF s1 0x90018 24 24 1

/-- UNLOCK (R390). -/
def execUnlock (s : State) : Result :=
  managerWrite s 0x90010 fun s => tpGate s unlockCmd

/-- R391: the unlock passes. -/
def unlockPass (s : State) : State :=
  match ticketPair s 4 (unlockArgs s) with
  | none => unlockRefused s .policy 0x32 0xFF
  | some t =>
    let count := s.bbram.lockCount.toNat
    let cause := s.bbram.cause.toNat
    let again := s.bbram.zeroized && s.mode.zeroized
    let s1 := consumePair s t
    if again then
      let s2 := followAlarm (withBb s1 fun b => { b with lockFlag := false })
      warmReset (tpDone s2 .done 0xFF 0xFF) 4
    else
      let s2 := withBb s1 fun b => { b with lockFlag := false, zinLatch := false }
      let s3 := followAlarm (withTp s2 fun t => { t with keyUse := true })
      let s4 := setMode s3 fun m => { m with lock := false }
      tpDone (evtRec s4 9 5 (srcWord 0 0) (lockData count cause)) .done 0xFF 0xFF

/-- The checks of R386 once the block has been read or the read has failed; its digest is known only then. -/
def policyCmd (s : State) (block : HostRead (List Byte)) : State :=
  if isLocked s then tpDone s .locked 0x40 0xFF
  else if s.mode.lc ≠ .test ∧ s.mode.lc ≠ .production then tpDone s .policy 0x41 0xFF
  else
    match block with
    | .failed =>
      if s.mode.lc = .production ∧ anyPair s 0x0D = false then tpDone s .policy 0x42 0xFF else tpDone (dmaErr s) .aborted 0x43 0xFF
    | .ok l0 =>
      let l := l0.take 256
      let t := ticketPair s 0x0D (sha256 256 (packBytes (l.map BitVec.toNat)))
      if s.mode.lc = .production ∧ t.isNone then tpDone s .policy 0x42 0xFF
      else if !policyOk l then tpDone s .malformed 0x44 0xFF
      else
        let s1 := match t with
          | some p => if s.mode.lc = .production then consumePair s p else s
          | none => s
        tpDone (setPolicy s1 (policyOf l) true) .done 0xFF 0xFF
/-- POLICY_OVERRIDE (R386, R387). -/
def execPolicyOverride (block : HostRead (List Byte)) (s : State) : Result :=
  managerWrite s 0x90010 fun s => tpGate s fun s => policyCmd s block

/-- TP_CMD OP 3h: one event in BLANK and TEST (R378). -/
def injectCmd (s : State) (n now : Nat) : State :=
  if s.mode.lc ≠ .blank ∧ s.mode.lc ≠ .test then tpDone s .policy 0x50 0xFF
  else if 0x13 ≤ n then tpDone s .malformed 0xFF 0xFF
  else tpDone (tamperEvents s [n] now) .done 0xFF 0xFF
/-- INJECT. -/
def execInject (n : Fin 32) (now : Nat) (s : State) : Result :=
  managerWrite s 0x90010 fun s => tpGate s fun s => injectCmd s n.val now

/-- TP_CMD with another OP. -/
def tpBadOp (s : State) : State := tpGate s fun s => tpDone s .malformed 0xFF 0xFF

end Machine
end Sys2Proof
end

