-- ==== Sys2Proof/Machine/LifeCycle.lean ====
section
/-! DEFINITION. The life-cycle block (14): marks and their decoding, transitions with their wipe, debug authorisation, stored
profiles, their load at a start and at a switch beat, and the commands of LC_CMD. -/

namespace Sys2Proof
namespace Machine

/-- Change the life-cycle block. -/
def withLc (s : State) (f : Lc → Lc) : State := { s with lc := f s.lc }

/-! ## Marks (R396, R397) -/

/-- Position of a state's mark among the state marks and among the begin marks; BLANK has none. -/
def markOf (c : LifeCycle) : Nat := lcCode c - 1

/-- The state mark and the begin mark of a state are set. -/
def stateMark (m : BitVec 8) (c : LifeCycle) : Bool := bit m (markOf c)
def beginMark (m : BitVec 8) (c : LifeCycle) : Bool := bit m (4 + markOf c)

/-- Life-cycle state decoded by priority. -/
def lcDecode (m : BitVec 8) : LifeCycle :=
  if stateMark m .retired || beginMark m .retired then .retired
  else if stateMark m .analysis || beginMark m .analysis then .analysis
  else if stateMark m .production || beginMark m .production then .production
  else if stateMark m .test || beginMark m .test then .test
  else .blank

/-- LC_STATUS.RESUME. -/
def resuming (s : State) : Bool :=
  let m := s.lc.otp.marks
  let c := lcDecode m
  c != .blank && beginMark m c && !stateMark m c

/-- Burn a mark. -/
def burnMark (s : State) (n : Nat) : State :=
  withLc s fun l => { l with otp := { l.otp with marks := l.otp.marks ||| BitVec.ofNat 8 (2 ^ n) } }

/-- Digest k of the OTP map: TEST, PRODUCTION, ANALYSIS, RETIRED, DEBUG. -/
def tokenDigest (s : State) (k : Nat) : Nat :=
  match s.lc.otp.tokens.drop k with
  | d :: _ => d.toNat
  | [] => packWords 8 ((List.range 4).map fun i => (Config.otpWord (8 + 4 * k + i)).toNat)

/-! ## Completion of an LC_CMD -/

/-- An LC_CMD completes. -/
def lcDone (s : State) (st : Status) (detail : Nat) : State :=
  evt (wr s 0xA0018 (BitVec.ofNat 64 (stCode st + fld detail 16))) 10 3

/-- Ignored while BUSY, with LC_EVT.CMD_IGN. -/
def lcGate (s : State) (f : State → State) : State := if rdF s 0xA0018 24 24 = 1 then evt s 10 4 else f s

/-- A refusal under R399: the copy of the token is cleared. -/
def lcRefused (s : State) (st : Status) (detail : Nat) : State :=
  evt (lcDone (withLc s fun l => { l with token := 0 }) st detail) 10 0

/-- Steps 2 and 3 of R399, on digest k; none when they pass. -/
def tokenCheck (s : State) (k : Nat) : Option State :=
  if 16 ≤ rdF s 0xA0000 23 16 then some (lcRefused s .rejectLimit 0x71)
  else if sha256 16 s.lc.token.toNat ≠ tokenDigest s k then some (lcRefused (cntUp s 0xA0000 23 16) .policy 0x72)
  else none

/-- A decision waits for E2, and the command is busy. -/
def lcAsk (s : State) (d : Decision) : State :=
  wrF (withTp s fun t => { t with e2 := t.e2 ++ [(d, s.bbram.lockCount.toNat)] }) 0xA0018 24 24 1

/-! ## Transitions (R398 to R402) -/

/-- State of a code. -/
def lcOfCode (n : Nat) : Option LifeCycle := [LifeCycle.blank, .test, .production, .analysis, .retired].find? fun c => lcCode c == n

/-- R398 allows the pair of states. -/
def allowed (a b : LifeCycle) : Bool :=
  match a, b with
  | .blank, .test | .test, .production | .production, .analysis | .analysis, .retired => true
  | .blank, .retired | .test, .retired | .production, .retired => true
  | _, _ => false

/-- The pair of states needs two LC_TRANSITION tickets. -/
def needsTickets (a : LifeCycle) : Bool := a == .production

/-- Checks 1 to 4 of R399; E2 then decides. -/
def transitionCmd (s : State) (target : Nat) : State :=
  let a := lcDecode s.lc.otp.marks
  match lcOfCode target with
  | none => lcRefused s .policy 0x70
  | some b =>
    if !allowed a b || resuming s then lcRefused s .policy 0x70
    else
      match tokenCheck s (markOf b) with
      | some s1 => s1
      | none =>
        if needsTickets a && (ticketPair s 0x0C target).isNone then lcRefused s .policy 0x73
        else lcAsk s (.transition b)
/-- TRANSITION (R399). -/
def execTransition (target : Fin 8) (s : State) : Result :=
  managerWrite s 0xA0010 fun s => lcGate s fun s => transitionCmd s target.val

/-- Areas of vault flash that a wipe erases (R401). -/
def wipeAreas (c : LifeCycle) : List Nat :=
  match c with
  | .blank | .test => []
  | .production | .analysis => [1, 2, 3, 6, 7]
  | .retired => [1, 2, 3, 4, 5, 6, 7]

/-- Vault-flash areas begin to be erased; nothing in them counts from then on. -/
def eraseAreas (s : State) (l : List Nat) : State :=
  let has := fun (a : Nat) => l.contains a
  let cu := if has 6 then { s.cu with groups := [] } else s.cu
  let ks := if has 3 then { s.ks with image := none, older := none, durable := [], building := none } else s.ks
  let ld := if has 4 then { s.ld with flash := [], keys := [] } else s.ld
  { s with
    cu := cu, ks := ks, ld := ld, lc := if has 5 then { s.lc with stored := [] } else s.lc
    ec := { s.ec with erasing := s.ec.erasing ++ l.filter fun a => !s.ec.erasing.contains a } }

/-- The wipe for a target (R401). -/
def wipe (s : State) (c : LifeCycle) : State :=
  match c with
  | .blank | .test => s
  | .production =>
    let s1 := clearSram (evt (clearKeyRegs s) 4 8)
    let s2 := withBb s1 fun b => { b with rootValid := false, floorValid := false }
    eraseAreas (forgetDomain (setMode s2 fun m => { m with ready := false })) (wipeAreas c)
  | .analysis | .retired =>
    let s1 := clearSram (evt (clearKeyRegs (overwriteRoot (leaveDomain s))) 4 8)
    let s2 := withBb s1 fun b => { b with unlock := [] }
    eraseAreas (dropDomain (setMode s2 fun m => { m with ready := false })) (wipeAreas c)

/-- Steps 4 and 5 of R400: the state mark, LC_EVT.DONE and its record, a warm reset. -/
def finishTransition (s : State) : State :=
  let s1 := burnMark s (markOf (lcDecode s.lc.otp.marks))
  warmReset (lcDone (evtRec s1 10 1 (srcWord 0 0) 0) .done 0xFF) 5

/-- No erasure of the wipe is left. -/
def wipeDone (s : State) : Bool := (wipeAreas (lcDecode s.lc.otp.marks)).all fun a => !s.ec.erasing.contains a

/-- Step 4 follows when the wipe's erasures are done. -/
def continueTransition (s : State) : State := if resuming s && wipeDone s then finishTransition s else s

/-- Steps 1 to 3 of R400, once E2 agrees. -/
def beginTransition (s : State) (b : LifeCycle) : State :=
  let a := lcDecode s.lc.otp.marks
  match ticketPair s 0x0C (lcCode b), needsTickets a with
  | none, true => lcRefused s .policy 0x73
  | t, need =>
    let s1 := match t with
      | some p => if need then consumePair s p else s
      | none => s
    let s2 := issueAll (endAll s1 (fun v => v.accepted || v.phase == .parked) .locked)
    let s3 := cancelProfile (setMode (burnMark s2 (4 + markOf b)) fun m => { m with lc := b })
    continueTransition (wipe (withLc s3 fun l => { l with jtag := false }) b)

/-! ## Debug authorisation (R405, R406) -/

/-- Code of the record of an opening; the manual does not give it. -/
def jtagCode : Nat := 0x2A0

/-- The JTAG port opens. -/
def openJtag (s : State) : State := lcDone (report (withLc s fun l => { l with jtag := true }) jtagCode (srcWord 0 0) 0) .done 0xFF

/-- LC_CMD OP 2h. -/
def debugCmd (s : State) : State :=
  match s.mode.lc with
  | .blank => lcDone s .done 0xFF
  | .production | .retired => lcDone s .policy 0x70
  | .test | .analysis =>
    match tokenCheck s 4 with
    | some s1 => s1
    | none => lcAsk s .jtag
/-- DEBUG (R405). -/
def execLcDebug (s : State) : Result :=
  managerWrite s 0xA0010 fun s => lcGate s debugCmd

/-! ## Profiles (R410 to R414) -/

/-- A list in pieces of k elements, n of them. -/
def piecesOf (k : Nat) : Nat → List Byte → List (List Byte)
  | 0, _ => []
  | n + 1, l => l.take k :: piecesOf k n (l.drop k)

/-- The 8-byte word at an offset of a block. -/
def wordAt (l : List Byte) (off : Nat) : Word := BitVec.ofNat 64 (blockAt l off 8)

/-- The 256-byte slice entries of a profile block. -/
def sliceEntries (l : List Byte) : List (List Byte) := piecesOf 256 1024 (l.drop 4096)

/-- The grants of one slice entry. -/
def entryGrants (sl : Nat) (e : List Byte) : List (Nat × (Word × Word × Word)) :=
  (List.range 8).map fun c => (gkey sl c, (wordAt e (24 * c), wordAt e (24 * c + 8), wordAt e (24 * c + 16)))

/-- A word of every slice entry, nonzero ones by slice. -/
def entryWords (es : List (List Byte × Nat)) (off : Nat) : Tab Word :=
  es.filterMap fun e => if wordAt e.1 off = 0 then none else some (e.2, wordAt e.1 off)

/-- SHA-256 of a list of bytes. -/
def digestBytes (l : List Byte) : Nat := sha256 l.length (packBytes (l.map BitVec.toNat))

/-- The profile that a block spells (R410). -/
def profileOf (l : List Byte) : Profile :=
  let es := (sliceEntries l).zipIdx
  { beCfg := wordAt l 8, beRooms := wordAt l 16, hold := wordAt l 24, stCfg := wordAt l 32, slCfg := wordAt l 40,
    policy := policyOf ((l.drop 64).take 256),
    grants := (es.flatMap fun e => entryGrants e.2 e.1).filter fun g => g.2 != (0, 0, 0),
    ctx := entryWords es 192, quota := entryWords es 200, ways := entryWords es 208,
    digest := BitVec.ofNat 256 (digestBytes l) }

/-- A state with every engine in service, a host capacity of 832 and the block's own DMAX (R411 step 5). -/
def planState (p : Profile) : State :=
  let s : State := { State.reset with pch := { up := true, width := 4, speed := 5 } }
  wr s 0x30020 (BitVec.ofNat 64 (dmaxRead (bits p.beCfg 15 0)))

/-- Install a grant if it passes R103; the second part is the failure. -/
def tryGrant (s : State) (key : Nat) (g : Grant) : State × Option (Status × Nat) :=
  match grantCheck s s.adm.grants s.adm.units key g with
  | .ok us => ({ s with adm := { s.adm with grants := tins s.adm.grants key g, units := us } }, none)
  | .error e => (s, some e)

/-- The grant of three profile words. -/
def grantOfTriple (w : Word × Word × Word) : Grant := grantOfWords w.1 w.2.1 w.2.2

/-- Every grant of a profile passes R103. -/
def grantsFit (p : Profile) : Bool :=
  (p.grants.foldl (fun (a : State × Bool) g =>
    match tryGrant a.1 g.1 (grantOfTriple g.2) with
    | (s, none) => (s, a.2)
    | (s, some _) => (s, false)) (planState p, true)).2

/-- Reserved bytes of a slice entry, GRANTED and IN_USE are zero. -/
def entryClean (e : List Byte) : Bool :=
  blockAt e 216 40 == 0 && bits (wordAt e 192) 48 32 == 0 && ((List.range 8).all fun c => !bit (wordAt e (24 * c + 16)) 0)

/-- Step 5 of R411. -/
def profileOk (slot : Nat) (l : List Byte) : Bool :=
  let p := profileOf l
  l.length == 266240 && blockAt l 0 4 == 0x4C465250 && blockAt l 4 2 == 1 && blockAt l 6 1 == slot && blockAt l 7 1 == 0
    && blockAt l 48 16 == 0 && blockAt l 320 3776 == 0 && (sliceEntries l).all entryClean
    && policyOk ((l.drop 64).take 256)
    && decide (1 ≤ bits p.hold 15 0) && decide (2 ≤ bits p.hold 47 16)
    && decide (sumOf p.ways (fun w => min 14 (bits w.2 3 0)) ≤ 14)
    && grantsFit p

/-- Arguments of a PROFILE_WRITE ticket: slot and digest. -/
def profArgs (slot digest : Nat) : Nat := slot + fld digest 256

/-- The contents of a slot: the working copy, the stored profile, or the Choelm default. -/
def profileIn (s : State) (slot : Nat) : Profile :=
  match tfind s.lc.working slot with
  | some p => p
  | none => (tfind s.lc.stored slot).getD {}

/-- The contents of a slot as committed before the present beat (R413). -/
def profileBefore (s : State) (slot : Nat) : Profile :=
  match tfind s.lc.wrote slot with
  | some w => if w.1 = runNow s then w.2 else profileIn s slot
  | none => profileIn s slot

/-- A slot is about to be written at this beat. -/
def noteWrite (s : State) (slot : Nat) : State :=
  withLc s fun c => { c with wrote := tins c.wrote slot (runNow s, profileBefore s slot) }

/-- Counted writes of a slot. -/
def profWrites (s : State) (slot : Nat) : Nat := tget 0 s.lc.otp.writes slot

/-- The checks of R411 once the block has been read or the read has failed; its digest is known only then. -/
def profileCmd (s : State) (slot : Nat) (block : HostRead (List Byte)) : State :=
  let prod := s.mode.lc == .production
  if isLocked s then lcDone s .locked 0x80
  else if s.mode.lc = .analysis ∨ s.mode.lc = .retired then lcDone s .policy 0x81
  else
    match block with
    | .failed => if prod && !anyPair s 0x0A then lcDone s .policy 0x82 else lcDone (dmaErr s) .aborted 0x83
    | .ok l0 =>
      let l := l0.take 266240
      let t := if prod then ticketPair s 0x0A (profArgs slot (digestBytes l)) else none
      if prod && t.isNone then lcDone s .policy 0x82
      else if !profileOk slot l then lcDone s .malformed 0x84
      else if prod && 15 ≤ profWrites s slot then lcDone s .quota 0x85
      else
        match t with
        | some p =>
          let s1 := withLc (noteWrite (consumePair s p) slot) fun c => { c with
            otp := { c.otp with writes := tput 0 c.otp.writes slot (tget 0 c.otp.writes slot + 1) },
            stored := tins c.stored slot (profileOf l) }
          lcDone s1 .done 0xFF
        | none => lcDone (withLc (noteWrite s slot) fun c => { c with working := tins c.working slot (profileOf l) }) .done 0xFF
/-- PROFILE_WRITE (R411, R412). -/
def execProfileWrite (slot : Fin 4) (block : HostRead (List Byte)) (s : State) : Result :=
  managerWrite s 0xA0010 fun s => lcGate s fun s => profileCmd s slot.val block

/-- LC_CMD OP 5h. -/
def fixCmd (s : State) (slot : Fin 4) : State :=
  if isLocked s then lcDone s .locked 0x80
  else if s.mode.lc ≠ .production then lcDone s .policy 0x81
  else
    match ticketPair s 0x0A (profArgs slot.val 0) with
    | none => lcDone s .policy 0x82
    | some t =>
      if s.lc.otp.fix.isSome then lcDone s .policy 0x86
      else lcDone (consumePair (withLc s fun c => { c with otp := { c.otp with fix := some slot } }) t) .done 0xFF
/-- FIX_PROFILE_SEL (R416). -/
def execFixProfileSel (slot : Fin 4) (s : State) : Result :=
  managerWrite s 0xA0010 fun s => lcGate s fun s => fixCmd s slot

/-- LC_CMD OP 4h. -/
def switchCmd (s : State) (slot : Fin 4) : State :=
  if s.mode.lc ≠ .test ∧ s.mode.lc ≠ .production then evtRec s 10 4 (srcWord 0 0) 0
  else if isLocked s then lcDone s .locked 0x80
  else
    let target := rd s 0xA0038
    let why := schedRefusal s 1 target
    let s1 := (schedPlace s 1 target (BitVec.ofNat 16 (rdF s 0x10060 15 0 + 1)) slot).1
    match why with
    | 0 => lcDone s1 .done 0xFF
    | 1 => lcDone s1 .malformed 0x60
    | 2 => lcDone s1 .quota 0x61
    | _ => lcDone s1 .quota 0x62
/-- SWITCH (R417, 01 R30). -/
def execSwitch (slot : Fin 4) (s : State) : Result :=
  managerWrite s 0xA0010 fun s => lcGate s fun s => switchCmd s slot

/-- LC_CMD with another OP. -/
def lcBadOp (s : State) : State := lcGate s fun s => lcDone s .malformed 0xFF

/-! ## The load of a profile (R418, 04 R123) -/

/-- A slice-table word that a profile supplies. -/
def layoutWord (a : Nat) : Bool :=
  0x200000 ≤ a && a < 0x400000 &&
    (let o := a % 0x800
     (0x200 ≤ o && o < 0x300 && o % 0x20 != 0x18) || o == 0x300 || o == 0x400 || o == 0x410)

/-- Install one grant of a profile; one that fails stays zero and is recorded. -/
def loadGrant (s : State) (g : Nat × (Word × Word × Word)) : State :=
  match tryGrant s g.1 (grantOfTriple g.2) with
  | (s1, none) => writeGrantWords s1 (g.1 / 8) (g.1 % 8) (some (grantOfTriple g.2))
  | (s1, some e) => grantRefused s1 (g.1 / 8) (g.1 % 8) e.1 e.2

/-- Write a field of every listed slice. -/
def loadWords (s : State) (t : Tab Word) (off hi : Nat) : State :=
  t.foldl (fun s p => wrF s (sltBase p.1 + off) hi 0 p.2.toNat) s

/-- The settings of a profile are loaded. -/
def loadProfile (s : State) (p : Profile) : State :=
  let be := dmaxRead (bits p.beCfg 15 0) + fld (bits p.beCfg 23 16) 16 + fld (bits p.beCfg 39 32) 32
  let s1 := { s with regs := s.regs.filter fun q => !layoutWord q.1, adm := { s.adm with grants := [], units := [] } }
  let s2 := wr (wr (wr s1 0x30020 (BitVec.ofNat 64 be)) 0x30028 p.beRooms) 0x10038 (p.hold &&& 0xFFFFFFFFFFFF)
  let s3 := p.grants.foldl loadGrant s2
  let s4 := loadWords (loadWords (loadWords s3 p.ctx 0x300 16) p.quota 0x400 25) p.ways 0x410 3
  setPolicy (slCfg (stCfg s4 p.stCfg) p.slCfg) p.policy false

/-- The active profile is loaded at a start (R415, R418). -/
def loadAtStart (s : State) (slot : Fin 4) : State :=
  loadProfile (setMode s fun m => { m with profile := slot }) (profileIn s slot.val)

/-- A profile switch beat (02 R60, 04 R123): the old layout stays alongside the new one until every room has applied the new
generation; each charge keeps its path and its big-number engine under the old one. -/
def fireProfile (s : State) (slot : Fin 4) : State :=
  let a := s.adm
  let s1 := { s with adm := { a with
    oldGrants := a.grants, oldUnits := a.units, oldBe := rd s 0x30020, oldBeRooms := rd s 0x30028
    charges := a.charges.map fun h => { h with oldRes := h.reserve, bnOld := h.bnEng } } }
  let s2 := wr (wrF s1 0x10060 15 0 (rdF s 0x10060 15 0 + 1)) 0x10068 0
  loadProfile (setMode s2 fun m => { m with switch := true, profile := slot }) (profileBefore s slot.val)

/-! ## Schedule entries fire (02 R58 to R60) -/

/-- Entry a goes before entry b of the same beat: by kind, then by index. -/
def firesBefore (a b : Nat × Sched) : Bool := a.2.kind < b.2.kind || (a.2.kind == b.2.kind && a.1 < b.1)

/-- An entry fires: it is emptied and recorded, and its round begins. -/
def fireEntry (s : State) (n : Nat) (e : Sched) : State :=
  let s1 := evtRec (schedEmpty s n) 1 7 (srcWord 0 0) (schedData n e)
  match e.kind with
  | 1 => fireProfile s1 e.slot
  | 2 => fireSwitch s1
  | 3 => fireRefresh s1
  | 4 => fireRecon s1
  | _ => s1

/-- An entry is due. -/
def entryDue (s : State) (e : Sched) : Bool := !e.held && e.target.toNat ≤ (tbNow s).toNat

/-- SCHED_ENTRY_FIRE (R58, R59): the first of the entries due at this beat fires; in FREE an entry of a custody kind is held. -/
def execSchedEntryFire (n : Fin 16) (s : State) : Result :=
  match tfind s.tb.sched n.val with
  | none => go s
  | some e =>
    if !entryDue s e || (s.tb.sched.any fun q => entryDue s q.2 && firesBefore q (n.val, e)) then go s
    else if s.mode.time = .free ∧ e.kind ≠ 1 then
      go { s with tb := { s.tb with sched := tins s.tb.sched n.val { e with held := true } } }
    else go (fireEntry s n.val e)

/-- SCHED_HELD_ENTRY_FIRE (R59): held entries fire once the status has left FREE. -/
def execSchedHeldEntryFire (n : Fin 16) (s : State) : Result :=
  match tfind s.tb.sched n.val with
  | none => go s
  | some e =>
    if s.mode.time = .free ∨ e.held = false ∨ (s.tb.sched.any fun q => q.2.held && firesBefore q (n.val, e)) = true then go s
    else go (fireEntry s n.val e)

/-! ## E2 (13 R373 to R375) -/

/-- The two evaluations disagree on an alarm or a grant: a count, and an event of SPLIT. -/
def splitEvent (s : State) (hi lo now : Nat) : State :=
  tamperEvents (if s.pwrOk then evt (cntUp s 0x90038 hi lo) 9 4 else s) [0x12] now

/-- A grant is not given. -/
def grantDenied (s : State) (d : Decision) : State :=
  match d with
  | .alarm _ => s
  | .unlock => unlockRefused s .aborted 0x34 0xFF
  | .transition _ => lcRefused s .aborted 0x74
  | .jtag => lcRefused s .aborted 0x74
  | .keyUse => s

/-- A grant is given. -/
def grantGiven (s : State) (d : Decision) : State :=
  match d with
  | .alarm _ => s
  | .unlock => unlockPass s
  | .transition b => beginTransition s b
  | .jtag => openJtag s
  | .keyUse => withTp s fun t => { t with keyUse := true }

/-- E2_EVALUATION (R373 to R375): the oldest decision that waits; a lock count that has moved refuses a grant without
SPLIT. -/
def execE2Evaluation (agrees : Bool) (now : Nat) (s : State) : Result :=
  match s.tp.e2 with
  | [] => go s
  | (d, count) :: rest =>
    let s1 := withTp s fun t => { t with e2 := rest }
    if isAlarm d then go (if agrees then s1 else splitEvent s1 31 0 now)
    else if s.bbram.lockCount.toNat ≠ count ∨ s.tp.lockPend = true then go (grantDenied s1 d)
    else if agrees then go (grantGiven s1 d)
    else
      let s2 := grantDenied s1 d
      go (splitEvent s2 63 32 now)

end Machine
end Sys2Proof
end

