-- ==== Sys2Proof/Machine/Upkeep.lean ====
section
/-! DEFINITION. Error correction and vault flash upkeep (16): the scrubber, program-store rewrites, and the end of programs,
erasures and refreshes of vault flash. -/

namespace Sys2Proof
namespace Machine

/-- Change the error-correction state. -/
def withEc (s : State) (f : Ec → Ec) : State := { s with ec := f s.ec }

/-! ## The scrubber (R435, R440) -/

/-- Room whose memory a word of class 0, 1 or 2 is: 16,384 frame words, 1,024 register-file words and 16,384 program-cache
words to a room. -/
def wordRoom (m w : Nat) : Nat := (if m = 1 then w / 1024 else w / 16384) % 64

/-- The order that owns a granule or a stream context ends with POISON, which releases the context (R435). -/
def poisonOwner (s : State) (o : Nat) : State :=
  match order? s o with
  | some v => if v.phase = .ended then s else endOrder s o .poison 0
  | none => s

/-- A key-cache line reads with an uncorrectable error: it is invalidated (08 R219). -/
def cacheWordFails (s : State) (w : Nat) : State :=
  let n := w / 8 / 16
  match (cacheSet s n).find? fun l => l.way == w / 8 % 16 with
  | some l => setCache (integ s 1 l.ix 4) n ((cacheSet s n).filter fun x => x.way != l.way)
  | none => s

/-- Class 9: nodes as 08 R219, a pair key dropped and its handshake run again, a change whose record is poisoned. -/
def cuWordFails (s : State) (h : ScrubHolds) : State :=
  match h with
  | .node l ix => nodeFails s (scopeOf ix (nodeSpan l)) (nodeSpan l)
  | .pair m => startShake (dropPair s m) m
  | .change ix =>
    let s1 := { s with ks := { s.ks with buffer := s.ks.buffer.filter fun c => c.ix != ix } }
    (s1.ks.recs.filter fun p => p.1 == ix).foldl poisonRec s1
  | _ => s

/-- Consequence of a poisoned word of a class (R435, 05 R139, R147). Words of the register files are counted 128 to an
engine, of the larder 32,768 to a big-number engine, of the key cache eight to a line, of the attic four to an entry. -/
def poisonRead (s : State) (m w : Nat) (h : ScrubHolds) : State :=
  match m with
  | 0 =>
    let t := secondError s m w
    if t.2 then takeOut t.1 (storeEngine w) else t.1
  | 1 =>
    let e := w / 128 % 512
    let s1 := match (eng s e).order with
      | some o => endOrder s o .poison 0
      | none => s
    let t := secondError s1 m w
    if t.2 then takeOut t.1 e else t.1
  | 3 => withEc s fun e => { e with rewrite := if e.rewrite.any fun r => r.1 == w then e.rewrite else e.rewrite ++ [(w, runNow s)] }
  | 4 => cacheWordFails s w
  | 5 | 7 => match h with
    | .order o => poisonOwner s o
    | _ => s
  | 6 =>
    let t := secondError s m w
    if t.2 then bnLeave t.1 ⟨w / 32768 % 16, Nat.mod_lt _ (by decide)⟩ else t.1
  | 8 =>
    match s.ev.entries.drop (w / 4) with
    | p :: _ => withEv s fun v => { v with poisoned := if v.poisoned.contains p.1 then v.poisoned else p.1 :: v.poisoned }
    | [] => s
  | 9 => cuWordFails s h
  | _ => s

/-- Classes whose words stay poisoned until they are written again: a register file is cleared with its order, a cache line
is refilled, an attic entry is kept in its own list. -/
def staysPoisoned (m : Nat) : Bool := m == 0 || m == 3 || m == 5 || m == 6 || m == 7 || m == 9

/-- A corrected word counts for its class, for its room, for the larder, and as a node's (R435, 05 R164, 08 R219, 09). -/
def wordCE (s : State) (m w : Nat) (h : ScrubHolds) : State :=
  match m, h with
  | 0, _ | 1, _ | 2, _ => roomCE (memCE s m 1) (wordRoom m w)
  | 6, _ => larderCE s
  | 9, .node l ix => integ (memCE s m 1) 2 (scopeOf ix (nodeSpan l)) 3
  | _, _ => memCE s m 1

/-- An uncorrectable word counts for its class, for its room and for the larder. -/
def wordUE (s : State) (m w : Nat) : State :=
  match m with
  | 0 | 1 | 2 => roomUE (memUE s m 1) (wordRoom m w)
  | 6 => larderUE s
  | _ => memUE s m 1

/-- One SRAM word is read. -/
def scrubWord (s : State) (m w : Nat) (h : ScrubHolds) (ecc : Ecc) : State :=
  match ecc with
  | .ok => s
  | .corrected => wordCE s m w h
  | .uncorrectable =>
    let s1 := wordUE s m w
    poisonRead (if staysPoisoned m then poisonWord s1 m w else s1) m w h

/-- A pass of the scrubber ends where the next begins, at word 0 of class 0 (EC_SCRUB). -/
def scrubPass (s : State) (m w : Nat) : State :=
  if m = 0 ∧ w = 0 then
    let s1 := if s.ec.scrubAt = 0 then s
      else wrF (cntUp s 0xC0018 63 32) 0xC0018 31 0 (min 0xFFFFFFFF ((runNow s - s.ec.scrubRun) / 1024))
    withEc s1 fun e => { e with scrubAt := 1, scrubRun := runNow s }
  else s

/-- SCRUB_READ (R440). -/
def execScrubRead (cls : Fin 10) (word : Nat) (holds : ScrubHolds) (ecc : Ecc) (s : State) : Result :=
  go (scrubWord (scrubPass s cls.val word) cls.val word holds ecc)

/-- PROGRAM_STORE_REWRITE (R435): the word is written again from the routine area. -/
def execProgramStoreRewrite (word : Nat) (s : State) : Result :=
  if s.ec.rewrite.any fun r => r.1 == word then
    go (clearPoison (withEc s fun e => { e with rewrite := e.rewrite.filter fun r => r.1 != word }) 3 [word])
  else go s

/-! ## Vault flash (R444, R451 to R456) -/

/-- Area of a logical block (R445). -/
def vfArea (block : Nat) : Option Nat :=
  (List.range 9).find? fun a =>
    let w := BitVec.ofNat 64 (areaWord a)
    bits w 15 0 ≤ block && block < bits w 15 0 + bits w 47 32

/-- Logical blocks of an area. -/
def areaBlocks (a : Nat) : Nat := bits (BitVec.ofNat 64 (areaWord a)) 47 32

/-- Last logical block of an area. -/
def lastBlock (a : Nat) : Nat := bits (BitVec.ofNat 64 (areaWord a)) 15 0 + areaBlocks a - 1

/-- A block of an area is retired (R455): a spare takes its place, or the area shrinks. `hi` and `lo` name the counter of
EC_VF_CNT. -/
def retireBlock (s : State) (block area hi lo : Nat) : State :=
  let s1 := evt (cntUp (cntUp s 0xC0028 hi lo) 0xC0030 48 32) 12 6
  let s2 := withEc s1 fun e => { e with retired := block :: e.retired }
  let spare := rdF s2 0xC0030 31 16
  let s3 := if spare = 0 then setBit (cntUp s2 (0xC0200 + 8 * area) 63 48) 0xC0000 4 else wrF s2 0xC0030 31 16 (spare - 1)
  if spare ≤ 64 then evt s3 12 7 else s3

/-- A page program ends (R444, R451, R455). -/
def programDone (s : State) (block area : Nat) (ok : Bool) : State :=
  let s1 := wr s 0xC0020 (rd s 0xC0020 + 1)
  if ok then withEc s1 fun e => { e with opened := if e.opened.contains block then e.opened else block :: e.opened }
  else retireBlock s1 block area 31 16

/-- VF_PROGRAM_DONE (R455); a block that no area holds is not programmed. -/
def execVfProgramDone (block : Nat) (ok : Bool) (s : State) : Result :=
  match vfArea block with
  | some a => go (programDone s block a ok)
  | none => go s

/-- The erasure of an area is done: at the last of its blocks (R454, R459, 14 R400). -/
def areaErased (s : State) (area : Nat) : State :=
  continueTransition (withEc s fun e => { e with erasing := e.erasing.filter (· != area), again := tdel e.again area })

/-- A block erase ends. -/
def eraseDone (s : State) (block area : Nat) (ok : Bool) : State :=
  if ok then
    let s1 := withEc s fun e => { e with
      opened := e.opened.filter (· != block), again := tput 0 e.again area (tget 0 e.again area - 1) }
    if s1.ec.erasing.contains area && block == lastBlock area then areaErased s1 area else s1
  else retireBlock s block area 15 0

/-- VF_ERASE_DONE (R455). -/
def execVfEraseDone (block : Nat) (ok : Bool) (s : State) : Result :=
  match vfArea block with
  | some a => go (eraseDone s block a ok)
  | none => go s

/-- An area holds the current image (R448). -/
def currentArea (s : State) (area : Nat) : Bool :=
  match s.ks.image with
  | some i => area == 1 + b2n i.copy
  | none => false

/-- A page that needed more than 24 corrections (R456). -/
def pageRefresh (s : State) (area : Nat) : State :=
  let s1 := evt s 12 3
  if currentArea s area then (if imgBusy s || imageRefused s then s1 else beginImage s1) else cntUp s1 0xC0028 47 32

/-- VF_PAGE_REFRESH (R456): a codeword corrects up to 32 bit errors (R442). -/
def execVfPageRefresh (area : Fin 9) (corrections : Nat) (s : State) : Result :=
  if 24 < corrections ∧ corrections ≤ 32 then go (pageRefresh s area.val) else go s

end Machine
end Sys2Proof
end

