-- ==== Sys2Proof/Machine/Startup.lean ====
section
/-! DEFINITION. Start-up and discovery (18): identity records and scans of the sideband, and the start sequence of R482 up
to the cellar restore. -/

namespace Sys2Proof
namespace Machine

/-! ## Identity records (R488, R489) -/

/-- Byte n of a record. -/
def recByte (r : BitVec 512) (n : Nat) : Nat := bits r (8 * n + 7) (8 * n)

/-- Type that belongs to device d. -/
def devType (d : Nat) : Nat := if d = 0 then 1 else if d ≤ 4 then 2 else if d = 5 then 3 else 4

/-- Capability bits that a type defines. -/
def capMask (t : Nat) : Nat := match t with | 1 => 0x3FF | 3 => 0xFFFF | 4 => 0x1FF | _ => 0

/-- Why a record is refused: ERR of ID_DEV_d, 0 when it is not. -/
def recordErr (d : Nat) (r : BitVec 512) : Nat :=
  if bits r 31 0 ≠ 0x4D4C4843 ∨ recByte r 4 ≠ 1 ∨ 0x80 ≤ recByte r 6 ∨ recByte r 7 ≠ 0
      ∨ ((List.range 16).any fun n => 0x80 ≤ recByte r (8 + n)) = true ∨ bits r 479 256 ≠ 0
      ∨ bits r 511 480 ≠ crc32 ((List.range 60).map (recByte r)) then 2
  else if recByte r 5 ≠ devType d then 3
  else if bits r 255 192 &&& capMask (devType d) ≠ bits r 255 192 then 2
  else if devType d = 4 ∧ bit r 200 = false then 5
  else 0

/-! ## Scans (R490 to R492) -/

/-- ID_DEV_d. -/
def idDev (d : Nat) : Nat := 0xE0100 + 8 * d

/-- Keep a record in ID_REC_d_n. -/
def keepRecord (s : State) (d : Nat) (r : BitVec 512) : State :=
  (List.range 8).foldl (fun s n => wr s (0xE0200 + 0x40 * d + 8 * n) (BitVec.ofNat 64 (bits r (64 * n + 63) (64 * n)))) s

/-- A device that is not found, with its reason. -/
def devAbsent (s : State) (d err : Nat) : State := wr s (idDev d) (BitVec.ofNat 64 (fld err 36))

/-- A device that is found. -/
def devFound (s : State) (d : Nat) (r : BitVec 512) : State :=
  wr (keepRecord s d r) (idDev d)
    (BitVec.ofNat 64 (fld 1 63 + fld (recByte r 5) 48 + fld (recByte r 6) 40 + bits r 223 192))

/-- One device of a scan. -/
def scanDev (i : ScanIn) (s : State) (d : Nat) : State :=
  match i.devs.getD d .nak with
  | .nak => devAbsent (cntUp s 0xE0020 31 16) d 1
  | .record r1 r2 =>
    if recordErr d r1 = 0 then devFound s d r1
    else
      let s1 := cntUp s 0xE0020 15 0
      if recordErr d r2 = 0 then devFound s1 d r2 else devAbsent (keepRecord (cntUp s1 0xE0020 15 0) d r2) d (recordErr d r2)

/-- The sideband fails in the scan (R492). -/
def scanFails (i : ScanIn) : Bool := (decide (3 ≤ i.clears) && i.stuck) || decide (3 ≤ i.timeouts)

/-- ID_STATUS.FOUND as the ID_DEV_d words give it. -/
def foundMask (s : State) : Nat :=
  (List.range 8).foldl (fun m d => m + (if bit (rd s (idDev d)) 63 then 2 ^ d else 0)) 0

/-- A carrier or cable of device d becomes usable or is treated as absent (R490, 12 R344, 10 R299). -/
def useDev (s : State) (d : Nat) : State :=
  let on := bit (rd s (idDev d)) 63
  if 1 ≤ d ∧ d ≤ 4 then carrierFound s ⟨(d - 1) % 4, Nat.mod_lt _ (by decide)⟩ on
  else if d = 6 ∨ d = 7 then
    let p := d == 7
    if (stPort s p).cable = on then s else portEnable (setPort s p { stPort s p with cable := on }) p
  else s

/-- A scan ends. `first` tells the start scan, which alone takes the lid's capability bits. -/
def scanDone (s : State) (i : ScanIn) (first : Bool) : State :=
  let failed := scanFails i
  let old := rdF s 0xE0000 7 0
  let s1 := cntBy (cntBy s 0xE0020 63 48 i.clears) 0xE0020 47 32 i.timeouts
  let s2 := if failed then (List.range 8).foldl (fun s d => devAbsent s d 4) s1 else (List.range 8).foldl (scanDev i) s1
  let new := foundMask s2
  let s3 := wrF (wrF (wrF (cntUp s2 0xE0000 63 32) 0xE0000 9 9 0) 0xE0000 8 8 (b2n failed)) 0xE0000 7 0 new
  let s4 := if failed then evtRec s3 14 2 (srcWord 0 0) 0 else s3
  let s5 := if (List.range 8).any fun d => bit (BitVec.ofNat 8 new) d && !bit (BitVec.ofNat 8 old) d then evt s4 14 0 else s4
  let s6 := if (List.range 8).any fun d => bit (BitVec.ofNat 8 old) d && !bit (BitVec.ofNat 8 new) d then evt s5 14 1 else s5
  let lid := bit (BitVec.ofNat 8 new) 0
  let caps := if lid then BitVec.ofNat 64 (rdF s6 (idDev 0) 31 0) else 0
  let s7 := { s6 with sb := { lastRun := runNow s, lidCaps := if first then caps else s.sb.lidCaps } }
  let s8 := (List.range 8).foldl useDev s7
  if lid then s8 else tamperEvents (evt s8 14 3) [0x11] i.now

/-- ID_CFG.PERIOD in beats; 0 is read as 1. -/
def scanPeriod (s : State) : Nat := max 1 (rdF s 0xE0010 15 8) * beatsPerSec

/-- A scan was asked for, or the period has passed. -/
def scanDue (s : State) : Bool :=
  !s.inReset && !s.starting && (rdF s 0xE0000 9 9 == 1 || decide (s.sb.lastRun + scanPeriod s ≤ runNow s))

/-- DISCOVERY_SCAN (R490). -/
def execDiscoveryScan (i : ScanIn) (s : State) : Result := if scanDue s then go (scanDone s i false) else go s

/-- SCAN_COMMAND (R490): ignored while BUSY. -/
def scanCmd (s : State) : State := setBit s 0xE0000 9
/-- SCAN_COMMAND: a write of 1 to ID_CMD.SCAN. -/
def execScanCommand (s : State) : Result :=
  managerWrite s 0xE0018 fun s => scanCmd s

/-! ## Root and keys (08 R225, R227 to R230, 14 R403, R404) -/

/-- The root check of a root: the first 8 bytes of CMAC-AES-256 over sixteen zero bytes. -/
def rootCheck (root : Key256) : Word := BitVec.ofNat 64 (cmac256 root.toNat 16 0 % 2 ^ 64)

/-- KS_ROOT.FIRST_CAUSE: 0 when a start is no first start. -/
def firstCause (s : State) (lost : Bool) : Nat :=
  if s.mode.lc = .analysis ∨ s.mode.lc = .retired then 0
  else if lost then 1
  else if !s.bbram.rootValid then 2
  else if s.bbram.check ≠ rootCheck s.bbram.root then 3
  else 0

/-- The module draws no root and derives no key (14 R403). -/
def isDark (s : State) : Bool := s.mode.lc == .analysis || s.mode.lc == .retired

/-- The test root: OTP bytes 0E0h to 0FFh. -/
def testRoot : Key256 := BitVec.ofNat 256 (packWords 64 ((List.range 4).map fun n => (Config.otpWord (28 + n)).toNat))

/-- Highest generation in the header of a copy, where its area holds one that decodes. -/
def headerGen (i : Option CellarImage) (readable : Bool × Bool) : Option Nat :=
  i.bind fun x => if (if x.copy then readable.2 else readable.1) then some x.maxGen else none

/-- KS_GEN_BASE.BASE of a first start (R225). -/
def firstBase (s : State) (readable : Bool × Bool) : Nat :=
  match headerGen s.ks.image readable, headerGen s.ks.older readable with
  | none, none => 1
  | a, b => min 0x1FFFFF (max (a.getD 0) (b.getD 0) + 1)

/-- The root's seed: 256 raw bits leave the reseed pool of each of the first eight rooms in service (15 R425). Bits that a
room delivers within the step are read with those that its pool holds. -/
def takeSeed (s : State) : State :=
  (((List.range 64).filter (sourceIn s)).take 8).foldl (fun s r => dropBits s r 8 256) s

/-- What a first start discards, and the new root (R230, 10 R271, 14 R414, 16 R459). -/
def firstStart (s0 : State) (readable : Bool × Bool) : State :=
  let s := takeSeed s0
  let base := firstBase s readable
  let r := draw 256 s
  let s1 := eraseAreas r.2 [1, 2, 3, 5, 6, 7]
  let s2 := withBb s1 fun b => { b with
    root := r.1, check := rootCheck r.1, rootValid := true, startCount := 1, floorValid := false }
  let s3 := { s2 with
    ks := { fresh := true }, cu := {}, sl := { s2.sl with custody := [] }, ld := { s2.ld with keys := [] } }
  wrF (wrF (wrF (wrF s3 0x40058 20 0 base) 0x40068 31 0 0) 0x40000 2 2 1) 0x40000 1 1 1

/-- A start that finds its root. -/
def nextStart (s : State) : State :=
  let s1 := withBb s fun b => { b with startCount := b.startCount + 1 }
  match s.ks.image with
  | some i => wrF s1 0x40068 31 0 i.tgen.toNat
  | none => s1

/-- The keys of R228. -/
def deriveKeys (s : State) : State :=
  let test := s.mode.lc == .test
  let k : Keys := { memory := true, cache := true, vault := true, dak := true, ident := true, base := if test then testRoot else s.bbram.root }
  wrF { s with keys := k } 0x40000 4 4 (b2n test)

/-! ## The start sequence (R482) -/

/-- SYS_START.STAGE. -/
def stage (s : State) (n : Nat) : State := wrF s 0x30 15 8 n

/-- BBRAM and the shutters when retention was lost (R481). -/
def afterRetention (s : State) : State :=
  if s.bbram.retentionLost then { s with bbram := { retentionLost := false }, tp := {} } else s

/-- Step 2: OTP read and state decoded, BBRAM read, TB_RUN started and TB_NOW set, VALID set (02 R54). -/
def startStep2 (s0 : State) (psel : Fin 4) : State :=
  let lost := s0.bbram.retentionLost
  let s := afterRetention s0
  let lc := lcDecode s.lc.otp.marks
  let s1 := setMode s fun m => { m with
    lc := lc, lock := s.bbram.lockFlag, zeroized := s.bbram.zeroized, tmode := s.tp.policy.compat, valid := true }
  let cause := firstCause s1 lost
  let floor := s1.bbram.floorValid && cause == 0
  let sec := if floor then s1.bbram.floor else 0
  let s2 := { s1 with
    tb := { running := true, offset := BitVec.ofNat 64 (sec * 1048576), floorValid := floor }
    lc := { s1.lc with psel := psel, jtag := lc == .blank } }
  let s3 := wrF (wr s2 0x10058 (BitVec.ofNat 64 sec)) 0x40050 3 0 cause
  wrF { s3 with ec := { s3.ec with again := s3.ec.erasing.map fun a => (a, areaBlocks a) } } 0x30 3 0 s.cause

/-- Step 3: the responses left by the battery domain, ALARM_OUT_N, and E1's grant of key use at a start that finds the lock
flag clear, on which E2 decides (13 R374, R394). -/
def startStep3 (s : State) : State :=
  let s1 := s.tp.left.foldl (fun (s : State) p => lockTaken (if p.1 then evt s 4 8 else s) p.1 p.2.1 p.2.2) s
  followAlarm (withTp s1 fun t => { t with
    left := [], keyUse := false
    e2 := if s1.bbram.lockFlag then t.e2 else t.e2 ++ [(Decision.keyUse, s1.bbram.lockCount.toNat)] })

/-- Step 4: the start-up test of source r (15 R423). -/
def startTest (i : StartIn) (s : State) (r : Nat) : State :=
  let code := (i.hearth.getD r 0).val
  if 1 ≤ code ∧ code ≤ 5 then failSource s r code else serve s r (hsrc s r)

/-- Step 8: the vault-flash start scan (16 R444, R453, R454). -/
def startStep8 (s : State) (torn : Nat) : State :=
  let s1 := withEc s fun e => { e with opened := [] }
  let s2 := if torn = 0 then s1 else evt (cntBy s1 0xC0028 63 48 torn) 12 4
  let s3 := if s2.ec.again.isEmpty then s2 else evt s2 12 5
  domainStatus (setBit s3 0xC0000 0)

/-- The alarms that the tamper event buffer holds show as alarms of this start (13 R525; DESIGN CHOICE, log entry 208). -/
def batteryAlarms (s : State) : State :=
  match s.bbram.events.getLast? with
  | some e => setBit (wrF s 0x90000 55 48 (bits e 15 0 - 0x260)) 0x90008 0
  | none => s

/-- Step 9: the attic, and what was copied from the tamper event buffer (13 R395). -/
def startStep9 (s : State) (ok first : Bool) : State :=
  let lost := s.bbram.lost
  let s1 := wr (batteryAlarms s) 0x90040 (BitVec.ofNat 64 (s.bbram.events.length + fld (min 0xFFFFFFFF lost) 32))
  atticStart (if lost = 0 then s1 else evt s1 9 8) (s.cause != 1 && ok) first (isDark s)

/-- Steps 8 to 12; the time without an envelope counts from step 12 (01 R17; DESIGN CHOICE, log entry 211). -/
def startRest (s : State) (i : StartIn) : State :=
  let first := rdF s 0x40050 3 0 != 0
  let s1 := startStep9 (startStep8 s i.torn) i.atticOk first
  let s2 := loadAtStart s1 (s1.lc.otp.fix.getD i.psel)
  let s3 := reloadAll s2 first
  let s4 := { s3 with pch := { s3.pch with fetching := true }, starting := false, begun := false, startIn := none,
                      cu := { s3.cu with heard := runNow s3 } }
  stage s4 (if isDark s4 then 13 else 12)

/-- Step 7, and the steps after it once a first start has its eight sources. -/
def startRoot (s : State) (i : StartIn) : State :=
  if isDark s then startRest (stage s 7) i
  else if rdF s 0x40050 3 0 = 0 then startRest (stage (deriveKeys (nextStart s)) 7) i
  else if sourcesIn s < 8 then s
  else startRest (stage (deriveKeys (firstStart s i.headers)) 7) i

/-- Step 6: the wipe of a transition that was interrupted runs again (14 R402). -/
def startResume (s : State) (i : StartIn) : State :=
  if resuming s then continueTransition (wipe (evt s 10 2) s.mode.lc) else startRoot (stage s 6) i

/-- Steps 1 to 6; an alarm during the scan may begin another start, or end this one (R487). -/
def startNow (s : State) (i : StartIn) : State :=
  let s1 := startStep3 (startStep2 { s with begun := true, startIn := some i } i.psel)
  let s2 := (List.range 64).foldl (startTest i) s1
  let s3 := stage (scanDone s2 i.scan true) 5
  if s3.startIn.isSome then startResume s3 i else s3

/-- START (R482). -/
def execStart (i : StartIn) (s : State) : Result := if s.starting && !s.begun then go (startNow s i) else go s

/-! ## Retests (15 R423, R428) -/

/-- A first start that waits for its sources goes on. -/
def startGoesOn (s : State) : State :=
  match s.startIn with
  | some i => if s.starting && rdF s 0x30 15 8 == 6 then startRoot s i else s
  | none => s

/-- SOURCE_RETEST_DONE (R428). -/
def execSourceRetestDone (r : Room) (fail : TestCode) (s : State) : Result := go (startGoesOn (retestDone s r.val fail.val))

/-- SOURCE_RETEST_TIMER (R423): every failed source, once per second while a first start waits. -/
def execSourceRetestTimer (s : State) : Result :=
  if s.starting && s.startIn.isSome && rdF s 0x30 15 8 == 6 && decide (s.ns.retestRun + beatsPerSec ≤ runNow s) then
    go ((List.range 64).foldl sourceReturn { s with ns := { s.ns with retestRun := runNow s } })
  else go s

end Machine
end Sys2Proof
end

