-- ==== Sys2Proof/Machine/Access.lean ====
section
/-! DEFINITION. A manager write to a register (19): the plain registers here, every register with a behaviour of its own by
the meaning that its own command has. A register whose command needs data from host memory, or a tamper-clock cycle, changes
nothing here: those commands come as rows of their own. -/

namespace Sys2Proof
namespace Machine

/-- The state of an outcome; the commands used here always have a next state. -/
def after (s : State) (r : Result) : State :=
  match r with
  | .next t => t
  | _ => s

/-- A write to a register without a behaviour of its own: RW fields take the value, W1C bits written 1 are cleared, the
rest stay. -/
def plainWrite (s : State) (a : Nat) (v : Word) : State :=
  match regDesc a with
  | some d =>
    let old := rd s a
    let rw := BitVec.ofNat 64 d.rw
    let w1c := BitVec.ofNat 64 d.w1c
    wr s a (((old &&& ~~~rw) ||| (v &&& rw)) &&& ~~~(v &&& w1c))
  | none => s

/-- Do something for every set bit of a field, lowest bit first. -/
def eachBit (s : State) (v : Word) (n : Nat) (f : State → Nat → State) : State :=
  (List.range n).foldl (fun s i => if bit v i then f s i else s) s

/-- Numbers as the commands' operands. -/
def cardSlotIx (n : Nat) : Fin 4 := ⟨n % 4, Nat.mod_lt _ (by decide)⟩
def groupNum (n : Nat) : Fin 4096 := ⟨n % 4096, Nat.mod_lt _ (by decide)⟩
def bnIx (n : Nat) : BnIx := ⟨n % 16, Nat.mod_lt _ (by decide)⟩

/-- SYS registers. -/
def sysWrite (s : State) (a : Nat) (v : Word) : State :=
  match a with
  | 0x38 => resetWrite s v
  | 0x108 =>
    match bits v 19 16 with
    | 1 | 3 => s
    | 2 => after s (execRoutineUnload (groupNum (bits v 11 0)) s)
    | op => ldBadOp s op (bits v 11 0)
  | _ => plainWrite s a v

/-- TB registers. -/
def tbWrite (s : State) (a : Nat) (v : Word) : State :=
  if a = 0x10020 then armLabel s (bits v 43 0)
  else if among 0x10108 0x10 16 a then (if bit v 63 then cancelEntry s ((a - 0x10108) / 0x10) else s)
  else plainWrite s a v

/-- PCH registers beside the doorbell page. -/
def pchWrite (s : State) (a : Nat) (v : Word) : State :=
  if a = 0x20010 then
    match bits v 15 12 with
    | 1 => qcmd s fun s => createPair s (bits v 9 0) (bits v 11 10)
    | 2 => qcmd s fun s => deletePair s (bits v 9 0) (bits v 11 10)
    | 3 => qcmd s fun s => abortSlice s (bits v 9 0)
    | _ => qcmd s fun s => qcmdStatus s .malformed
  else plainWrite s a v

/-- ADM registers. -/
def admWrite (s : State) (a : Nat) (v : Word) : State :=
  match a with
  | 0x30010 =>
    match bits v 19 16 with
    | 1 => grantCmd s (bits v 9 0) (bits v 14 12)
    | 2 => releaseCmd s (bits v 9 0) (bits v 14 12)
    | _ => admStatus s .malformed 0xFF
  | 0x30020 => writeBeCfg s v
  | _ => plainWrite s a v

/-- KS registers. -/
def ksWrite (s : State) (a : Nat) (v : Word) : State :=
  match a with
  | 0x40018 =>
    if bits v 27 24 = 5 then after s (execKsRotateTransport s)
    else ksCommand s (bits v 27 24) (sliceIx (bits v 9 0)) (BitVec.ofNat 8 (bits v 23 16))
  | 0x40058 => genBaseCmd s v
  | _ => plainWrite s a v

/-- BN registers. -/
def bnWrite (s : State) (a : Nat) (v : Word) : State :=
  match a with
  | 0x50018 =>
    match bits v 19 16 with
    | 1 => s
    | 2 => psetErase s (bits v 5 0)
    | _ => psetBadOp s
  | 0x50038 =>
    let s1 := eachBit s v 16 fun s b => bnLeave s (bnIx b)
    eachBit s1 (v >>> 16) 16 fun s b => bnReturn s (bnIx b)
  | _ => plainWrite s a v

/-- CU registers. -/
def cuWrite (s : State) (a : Nat) (v : Word) : State :=
  match a with
  | 0x60020 =>
    match bits v 19 16 with
    | 1 | 2 | 5 => s
    | 3 => cuGate s removeCmd
    | _ => cuBadOp s
  | 0x60048 => drainOut (plainWrite s a v)
  | 0x60050 => outHead s (bits v 43 32)
  | 0x60068 => inTail s (bits v 11 0)
  | 0x61010 =>
    let g := groupNum (bits v 11 0)
    match bits v 19 16 with
    | 1 | 2 => s
    | 3 => after s (execGroupReplace g (memberOf (bits v 39 22)) (BitVec.ofNat 8 (bits v 47 40)) s)
    | 4 => after s (execGroupBind g s)
    | 5 => after s (execGroupDelete g s)
    | 6 => after s (execGroupSweep g s)
    | _ => gGate s fun s => gDone s .malformed 0xFF
  | 0x61208 => drainBackups (plainWrite s a v)
  | 0x61210 => backupHead s (bits v 43 32)
  | 0x61228 => s
  | _ => plainWrite s a v

/-- ST registers. -/
def stWrite (s : State) (a : Nat) (v : Word) : State := if a = 0x70010 then stCfg s v else plainWrite s a v

/-- SL registers. -/
def slWrite (s : State) (a : Nat) (v : Word) : State :=
  match a with
  | 0x80010 =>
    match bits v 19 16 with
    | 1 | 2 | 3 | 4 | 5 | 6 | 7 => s
    | 8 => after s (execDrop s)
    | 9 => after s (execPowerOff (cardSlotIx (bits v 1 0)) s)
    | 10 => after s (execPowerOn (cardSlotIx (bits v 1 0)) s)
    | _ => slBadOp s
  | 0x80028 => slCfg s v
  | _ => plainWrite s a v

/-- TP registers. -/
def tpWrite (s : State) (a : Nat) (v : Word) : State :=
  match a with
  | 0x90010 =>
    match bits v 19 16 with
    | 1 => tpGate s unlockCmd
    | 2 | 3 => s
    | _ => tpBadOp s
  | _ => plainWrite s a v

/-- LC registers. -/
def lcWrite (s : State) (a : Nat) (v : Word) : State :=
  match a with
  | 0xA0010 =>
    match bits v 19 16 with
    | 1 => lcGate s fun s => transitionCmd s (bits v 10 8)
    | 2 => lcGate s debugCmd
    | 3 => s
    | 4 => lcGate s fun s => switchCmd s (cardSlotIx (bits v 1 0))
    | 5 => lcGate s fun s => fixCmd s (cardSlotIx (bits v 1 0))
    | _ => lcBadOp s
  | 0xA0020 => withLc s fun l => { l with token := setBits l.token 63 0 v.toNat }
  | 0xA0028 => withLc s fun l => { l with token := setBits l.token 127 64 v.toNat }
  | _ => plainWrite s a v

/-- NS registers. -/
def nsWrite (s : State) (a : Nat) (v : Word) : State :=
  match a with
  | 0xB0010 => nsCfg s v
  | 0xB0018 => eachBit s v 64 sourceReturn
  | 0xB0020 => eachBit s v 64 sourceOut
  | 0xB0028 =>
    let s1 := plainWrite s a v
    let s2 := if bit v 9 then captureAbort s1 else s1
    if bit v 8 then captureStart s2 (bits v 5 0) else s2
  | _ => plainWrite s a v

/-- EV registers. -/
def evWrite (s : State) (a : Nat) (v : Word) : State :=
  match a with
  | 0xD0010 =>
    match bits v 19 16 with
    | 1 => copyCmd s
    | 2 => clearCmd s
    | _ => evBadOp s
  | 0xD0038 => atticRead s (bits v 31 0)
  | 0xD0088 => rateWrite s v
  | _ => plainWrite s a v

/-- ID registers. -/
def idWrite (s : State) (a : Nat) (v : Word) : State :=
  if a = 0xE0018 then (if bit v 0 then scanCmd s else s) else plainWrite s a v

/-- The block of a register below 100000h. -/
def blockWrite (s : State) (a : Nat) (v : Word) : State :=
  match a / 0x10000 with
  | 0 => sysWrite s a v
  | 1 => tbWrite s a v
  | 2 => pchWrite s a v
  | 3 => admWrite s a v
  | 4 => ksWrite s a v
  | 5 => bnWrite s a v
  | 6 => cuWrite s a v
  | 7 => stWrite s a v
  | 8 => slWrite s a v
  | 9 => tpWrite s a v
  | 10 => lcWrite s a v
  | 11 => nsWrite s a v
  | 13 => evWrite s a v
  | 14 => idWrite s a v
  | _ => plainWrite s a v

/-- RM registers of room r at offset o of its block (05 R118, R157, R161). -/
def roomWrite (s : State) (r o : Nat) (v : Word) : State :=
  let a := rmBase r + o
  match o with
  | 0x10 =>
    let s1 := eachBit s v 8 fun s i => takeOut s (8 * r + i)
    eachBit s1 (v >>> 8) 8 fun s i => beginReturn s (8 * r + i)
  | 0x18 => if bit v 0 then doorSyncStart s r else s
  | 0x40 => doorWrite s r 0 v
  | 0x48 => doorWrite s r 1 v
  | 0x50 => doorWrite s r 2 v
  | 0x58 => doorWrite s r 3 v
  | _ => plainWrite s a v

/-- SLT_AUX_c.GRANTED after a write to one of the three words: they hold the grant in force, or they do not (04 R102). -/
def regrant (s : State) (sl c : Nat) : State :=
  wrF s (auxAddr sl c) 0 0 (b2n (tfind s.adm.grants (gkey sl c) == some (writtenGrant s sl c)))

/-- SLT_BIND (03 R70 to R72): the three fields, then ENABLE. -/
def bindWrite (s : State) (sl : Nat) (v : Word) : State :=
  let s1 := rebindSlice s sl (bits v 19 0) (bits v 35 20) (bits v 41 36)
  if bit v 63 then (if enabled s1 sl then s1 else enableSlice s1 sl)
  else if enabled s1 sl then disableSlice s1 sl else s1

/-- Slice-table words of slice sl at offset o of its entry. -/
def sltWrite (s : State) (sl o : Nat) (v : Word) : State :=
  let a := sltBase sl + o
  if o = 0 then bindWrite s sl v
  else if o = 0x410 then waysCmd s sl v
  else if 0x200 ≤ o ∧ o < 0x300 then regrant (plainWrite s a v) sl ((o - 0x200) / 0x20)
  else plainWrite s a v

/-- The larder window of engine b at offset o: slot-area words, then the slot table (09 R236 to R239). -/
def larderWrite (s : State) (b o : Nat) (v : Word) : State :=
  if o < 0x20000 then windowWrite s (bnIx b) (o / 8) v
  else if o < 0x22000 then descWrite s (bnIx b) ((o - 0x20000) / 8) v
  else accRefused s (larderBase b + o) 2 true

/-- An aligned 8-byte write. -/
def writeReg (s : State) (a : Nat) (v : Word) : State :=
  if 0x400000 ≤ a ∧ a < 0x800000 then larderWrite s ((a - 0x400000) / 0x40000) ((a - 0x400000) % 0x40000) v
  else if (regDesc a).isNone then accRefused s a 2 true
  else if a < 0x100000 then blockWrite s a v
  else if a < 0x200000 then roomWrite s ((a - 0x100000) / 0x4000) ((a - 0x100000) % 0x4000) v
  else sltWrite s ((a - 0x200000) / 0x800) ((a - 0x200000) % 0x800) v

/-- A write during a start: only SYS_RESET acts (18 R485). -/
def earlyWrite (s : State) (off size : Nat) (v : Word) : State :=
  if off = 0x38 ∧ size = 8 then resetWrite s v else accRefused s off 3 true

/-- REGISTER_WRITE (R494, R495, 18 R485): the slice 0 doorbell page follows 03 R79. Offsets beyond BAR0 reach no register. -/
def execRegisterWrite (off size : Nat) (val : Word) (s : State) : Result :=
  if s.inReset || decide (0x1000000 ≤ off) then go s
  else if s.starting then go (earlyWrite s off size val)
  else if 0x21000 ≤ off ∧ off < 0x21028 then go (doorbell s 0 none (off - 0x21000) size val)
  else if size ≠ 8 ∨ off % 8 ≠ 0 then go (accRefused s off 1 true)
  else go (writeReg s off val)

end Machine
end Sys2Proof
end

