-- ==== Sys2Proof/Machine/Dispatch.lean ====
section
/-! DEFINITION. The effect of each command: one arm for each constructor of Instr. -/

namespace Sys2Proof
namespace Machine

/-- The effect of a command on everything but the queue. -/
def exec (i : Instr) (s : State) : Host.Outcome State Fault Refusal :=
  match i with
  | .registerWrite off size val => Sys2Proof.Machine.execRegisterWrite off size val s
  | .pwrOkRise => Sys2Proof.Machine.execPwrOkRise s
  | .pwrOkFall now => Sys2Proof.Machine.execPwrOkFall now s
  | .perstFall => Sys2Proof.Machine.execPerstFall s
  | .perstRise => Sys2Proof.Machine.execPerstRise s
  | .managerReset => Sys2Proof.Machine.execManagerReset s
  | .start ix => Sys2Proof.Machine.execStart ix s
  | .cellarRestoreDone ix => Sys2Proof.Machine.execCellarRestoreDone ix s
  | .linkUp width speed => Sys2Proof.Machine.execLinkUp width speed s
  | .linkDown => Sys2Proof.Machine.execLinkDown s
  | .busMasterEnableChange pf1 on => Sys2Proof.Machine.execBusMasterEnableChange pf1 on s
  | .powerStateChange d3hot => Sys2Proof.Machine.execPowerStateChange d3hot s
  | .msixUnmask pf1 vec => Sys2Proof.Machine.execMsixUnmask pf1 vec s
  | .l1Entry => Sys2Proof.Machine.execL1Entry s
  | .sliceEnable sl => Sys2Proof.Machine.execSliceEnable sl s
  | .sliceDisable sl => Sys2Proof.Machine.execSliceDisable sl s
  | .sliceRebind sl pasid tenant gen => Sys2Proof.Machine.execSliceRebind sl pasid tenant gen s
  | .queueCreate sl q => Sys2Proof.Machine.execQueueCreate sl q s
  | .queueDelete sl q => Sys2Proof.Machine.execQueueDelete sl q s
  | .queueDeleteDone sl q => Sys2Proof.Machine.execQueueDeleteDone sl q s
  | .sliceAbort sl => Sys2Proof.Machine.execSliceAbort sl s
  | .sqTailWrite sl pasid off size val => Sys2Proof.Machine.execSqTailWrite sl pasid off size val s
  | .cqHeadWrite sl pasid off size val => Sys2Proof.Machine.execCqHeadWrite sl pasid off size val s
  | .sqBatchFetch sl q entries => Sys2Proof.Machine.execSqBatchFetch sl q entries s
  | .orderDispatch ch ce ue => Sys2Proof.Machine.execOrderDispatch ch ce ue s
  | .parkRelease o => Sys2Proof.Machine.execParkRelease o s
  | .chargeRelease o => Sys2Proof.Machine.execChargeRelease o s
  | .busyHintClear sl c => Sys2Proof.Machine.execBusyHintClear sl c s
  | .grant sl c => Sys2Proof.Machine.execGrant sl c s
  | .grantRelease sl c => Sys2Proof.Machine.execGrantRelease sl c s
  | .beCfgWrite val => Sys2Proof.Machine.execBeCfgWrite val s
  | .phaseStart o e => Sys2Proof.Machine.execPhaseStart o e s
  | .preempt r => Sys2Proof.Machine.execPreempt r s
  | .orderResume o e => Sys2Proof.Machine.execOrderResume o e s
  | .phaseOverrun o => Sys2Proof.Machine.execPhaseOverrun o s
  | .deadlineWatchdog o => Sys2Proof.Machine.execDeadlineWatchdog o s
  | .engineTakeOut r ix => Sys2Proof.Machine.execEngineTakeOut r ix s
  | .engineReturn r ix => Sys2Proof.Machine.execEngineReturn r ix s
  | .engineSelftestDone r ix => Sys2Proof.Machine.execEngineSelftestDone r ix s
  | .inputDmaComplete o data bursts => Sys2Proof.Machine.execInputDmaComplete o data bursts s
  | .inputReadTimeout o => Sys2Proof.Machine.execInputReadTimeout o s
  | .completionWrite o bursts => Sys2Proof.Machine.execCompletionWrite o bursts s
  | .irqCoalTimeout sl q => Sys2Proof.Machine.execIrqCoalTimeout sl q s
  | .nop e => Sys2Proof.Machine.execNop e s
  | .add e rd rs1 rs2 => Sys2Proof.Machine.execAdd e rd rs1 rs2 s
  | .sub e rd rs1 rs2 => Sys2Proof.Machine.execSub e rd rs1 rs2 s
  | .and e rd rs1 rs2 => Sys2Proof.Machine.execAnd e rd rs1 rs2 s
  | .or e rd rs1 rs2 => Sys2Proof.Machine.execOr e rd rs1 rs2 s
  | .xor e rd rs1 rs2 => Sys2Proof.Machine.execXor e rd rs1 rs2 s
  | .andn e rd rs1 rs2 => Sys2Proof.Machine.execAndn e rd rs1 rs2 s
  | .sll e rd rs1 rs2 => Sys2Proof.Machine.execSll e rd rs1 rs2 s
  | .srl e rd rs1 rs2 => Sys2Proof.Machine.execSrl e rd rs1 rs2 s
  | .sra e rd rs1 rs2 => Sys2Proof.Machine.execSra e rd rs1 rs2 s
  | .rol e rd rs1 rs2 => Sys2Proof.Machine.execRol e rd rs1 rs2 s
  | .ror e rd rs1 rs2 => Sys2Proof.Machine.execRor e rd rs1 rs2 s
  | .slt e rd rs1 rs2 => Sys2Proof.Machine.execSlt e rd rs1 rs2 s
  | .sltu e rd rs1 rs2 => Sys2Proof.Machine.execSltu e rd rs1 rs2 s
  | .mul e rd rs1 rs2 => Sys2Proof.Machine.execMul e rd rs1 rs2 s
  | .mulh e rd rs1 rs2 => Sys2Proof.Machine.execMulh e rd rs1 rs2 s
  | .mulhu e rd rs1 rs2 => Sys2Proof.Machine.execMulhu e rd rs1 rs2 s
  | .divu e rd rs1 rs2 => Sys2Proof.Machine.execDivu e rd rs1 rs2 s
  | .remu e rd rs1 rs2 => Sys2Proof.Machine.execRemu e rd rs1 rs2 s
  | .sel e rd rs1 rs2 => Sys2Proof.Machine.execSel e rd rs1 rs2 s
  | .popc e rd rs1 => Sys2Proof.Machine.execPopc e rd rs1 s
  | .clz e rd rs1 => Sys2Proof.Machine.execClz e rd rs1 s
  | .bswap e rd rs1 => Sys2Proof.Machine.execBswap e rd rs1 s
  | .addi e rd rs1 imm => Sys2Proof.Machine.execAddi e rd rs1 imm s
  | .andi e rd rs1 imm => Sys2Proof.Machine.execAndi e rd rs1 imm s
  | .ori e rd rs1 imm => Sys2Proof.Machine.execOri e rd rs1 imm s
  | .xori e rd rs1 imm => Sys2Proof.Machine.execXori e rd rs1 imm s
  | .shi e rd rs1 imm => Sys2Proof.Machine.execShi e rd rs1 imm s
  | .movz e rd hw imm => Sys2Proof.Machine.execMovz e rd hw imm s
  | .movk e rd hw imm => Sys2Proof.Machine.execMovk e rd hw imm s
  | .li32 e rd imm => Sys2Proof.Machine.execLi32 e rd imm s
  | .ld e sz rd rs1 imm ecc => Sys2Proof.Machine.execLd e sz rd rs1 imm ecc s
  | .st e sz rs rs1 imm ecc => Sys2Proof.Machine.execSt e sz rs rs1 imm ecc s
  | .ldq e bq rs1 imm ecc => Sys2Proof.Machine.execLdq e bq rs1 imm ecc s
  | .stq e bq rs1 imm => Sys2Proof.Machine.execStq e bq rs1 imm s
  | .ldl e m rs1 imm ecc => Sys2Proof.Machine.execLdl e m rs1 imm ecc s
  | .stl e m rs1 imm => Sys2Proof.Machine.execStl e m rs1 imm s
  | .ldg e rd rs1 imm => Sys2Proof.Machine.execLdg e rd rs1 imm s
  | .stg e rs rs1 imm => Sys2Proof.Machine.execStg e rs rs1 imm s
  | .ldgl e m rs1 imm => Sys2Proof.Machine.execLdgl e m rs1 imm s
  | .stgl e m rs1 imm => Sys2Proof.Machine.execStgl e m rs1 imm s
  | .dmaI e rf ra rl lmaxM1 => Sys2Proof.Machine.execDmaI e rf ra rl lmaxM1 s
  | .dmaO e rf ra rl lmaxM1 => Sys2Proof.Machine.execDmaO e rf ra rl lmaxM1 s
  | .dmaTransferDone r f ecc => Sys2Proof.Machine.execDmaTransferDone r f ecc s
  | .dmawait e => Sys2Proof.Machine.execDmawait e s
  | .fenceM e => Sys2Proof.Machine.execFenceM e s
  | .fenceD e => Sys2Proof.Machine.execFenceD e s
  | .time e rd => Sys2Proof.Machine.execTime e rd s
  | .runt e rd => Sys2Proof.Machine.execRunt e rd s
  | .dln e rd => Sys2Proof.Machine.execDln e rd s
  | .left e rd => Sys2Proof.Machine.execLeft e rd s
  | .dfr e rd rs1 => Sys2Proof.Machine.execDfr e rd rs1 s
  | .dfw e rd rs1 target ix => Sys2Proof.Machine.execDfw e rd rs1 target ix s
  | .beq e rs1 rs2 off => Sys2Proof.Machine.execBeq e rs1 rs2 off s
  | .bne e rs1 rs2 off => Sys2Proof.Machine.execBne e rs1 rs2 off s
  | .blt e rs1 rs2 off => Sys2Proof.Machine.execBlt e rs1 rs2 off s
  | .bge e rs1 rs2 off => Sys2Proof.Machine.execBge e rs1 rs2 off s
  | .bltu e rs1 rs2 off => Sys2Proof.Machine.execBltu e rs1 rs2 off s
  | .bgeu e rs1 rs2 off => Sys2Proof.Machine.execBgeu e rs1 rs2 off s
  | .j e target => Sys2Proof.Machine.execJ e target s
  | .call e target => Sys2Proof.Machine.execCall e target s
  | .ret e => Sys2Proof.Machine.execRet e s
  | .loop e rs bodyM1 count => Sys2Proof.Machine.execLoop e rs bodyM1 count s
  | .exit e status rs => Sys2Proof.Machine.execExit e status rs s
  | .yield e target => Sys2Proof.Machine.execYield e target s
  | .keyload e kd rs use part rd0 rdP => Sys2Proof.Machine.execKeyload e kd rs use part rd0 rdP s
  | .keyclr e k => Sys2Proof.Machine.execKeyclr e k s
  | .keyinfo e rd k => Sys2Proof.Machine.execKeyinfo e rd k s
  | .keyput e rd rs j rd0 pick => Sys2Proof.Machine.execKeyput e rd rs j rd0 pick s
  | .aesE e bd bs key sl q => Sys2Proof.Machine.execAesE e bd bs key sl q s
  | .aesD e bd bs key sl q => Sys2Proof.Machine.execAesD e bd bs key sl q s
  | .aesKd e bd bs kk w ks sl => Sys2Proof.Machine.execAesKd e bd bs kk w ks sl s
  | .ghmul e bd bs1 bs2 => Sys2Proof.Machine.execGhmul e bd bs1 bs2 s
  | .ghacc e bd bs1 bs2 => Sys2Proof.Machine.execGhacc e bd bs1 bs2 s
  | .pvmul e bd bs1 bs2 => Sys2Proof.Machine.execPvmul e bd bs1 bs2 s
  | .xtsdbl e bd bs1 => Sys2Proof.Machine.execXtsdbl e bd bs1 s
  | .bxor e bd bs1 bs2 q => Sys2Proof.Machine.execBxor e bd bs1 bs2 q s
  | .band e bd bs1 bs2 q => Sys2Proof.Machine.execBand e bd bs1 bs2 q s
  | .bmov e bd bs1 q => Sys2Proof.Machine.execBmov e bd bs1 q s
  | .bzero e bd q => Sys2Proof.Machine.execBzero e bd q s
  | .binc32 e bd bs1 imm => Sys2Proof.Machine.execBinc32 e bd bs1 imm s
  | .bctr4 e bd bs1 => Sys2Proof.Machine.execBctr4 e bd bs1 s
  | .bmrg e bd bs1 bs2 => Sys2Proof.Machine.execBmrg e bd bs1 bs2 s
  | .brev e bd bs1 q => Sys2Proof.Machine.execBrev e bd bs1 q s
  | .bseal e bd bs1 q => Sys2Proof.Machine.execBseal e bd bs1 q s
  | .binc128 e bd bs1 imm => Sys2Proof.Machine.execBinc128 e bd bs1 imm s
  | .binc32l e bd bs1 imm => Sys2Proof.Machine.execBinc32l e bd bs1 imm s
  | .bget e x ba h => Sys2Proof.Machine.execBget e x ba h s
  | .bput e x ba h => Sys2Proof.Machine.execBput e x ba h s
  | .bceq e x ba bb => Sys2Proof.Machine.execBceq e x ba bb s
  | .bceqh e x ba bb h => Sys2Proof.Machine.execBceqh e x ba bb h s
  | .hinit e rs alg => Sys2Proof.Machine.execHinit e rs alg s
  | .habs e rs rb alg ecc => Sys2Proof.Machine.execHabs e rs rb alg ecc s
  | .hkey e rs alg k pad ecc => Sys2Proof.Machine.execHkey e rs alg k pad ecc s
  | .hperm e rs alg ecc => Sys2Proof.Machine.execHperm e rs alg ecc s
  | .hearth e rd rc => Sys2Proof.Machine.execHearth e rd rc s
  | .bnset e op => Sys2Proof.Machine.execBnset e op s
  | .bnarg e rs n use => Sys2Proof.Machine.execBnarg e rs n use s
  | .bnin e ra slot window big len8M1 => Sys2Proof.Machine.execBnin e ra slot window big len8M1 s
  | .bnout e ra slot big len8M1 => Sys2Proof.Machine.execBnout e ra slot big len8M1 s
  | .bnOperationStart b reads ecc word => Sys2Proof.Machine.execBnOperationStart b reads ecc word s
  | .bnOperationEnd b => Sys2Proof.Machine.execBnOperationEnd b s
  | .bnOverrun b => Sys2Proof.Machine.execBnOverrun b s
  | .ecdsaSign b attempts => Sys2Proof.Machine.execEcdsaSign b attempts s
  | .ecdsaVerify b => Sys2Proof.Machine.execEcdsaVerify b s
  | .ecKeygen b attempts pick => Sys2Proof.Machine.execEcKeygen b attempts pick s
  | .rsaCrtPriv b => Sys2Proof.Machine.execRsaCrtPriv b s
  | .rsaKeygen b attempts pick => Sys2Proof.Machine.execRsaKeygen b attempts pick s
  | .mlkemDecaps b => Sys2Proof.Machine.execMlkemDecaps b s
  | .mldsaSign b attempts => Sys2Proof.Machine.execMldsaSign b attempts s
  | .hybridOpen b pick => Sys2Proof.Machine.execHybridOpen b pick s
  | .slotProgramStart b => Sys2Proof.Machine.execSlotProgramStart b s
  | .psel b set lm => Sys2Proof.Machine.execPsel b set lm s
  | .psetm b a => Sys2Proof.Machine.execPsetm b a s
  | .pull b d arg part countM1 => Sys2Proof.Machine.execPull b d arg part countM1 s
  | .sdef b d desc => Sys2Proof.Machine.execSdef b d desc s
  | .mmul b d a x => Sys2Proof.Machine.execMmul b d a x s
  | .madd b d a x => Sys2Proof.Machine.execMadd b d a x s
  | .msub b d a x => Sys2Proof.Machine.execMsub b d a x s
  | .tom b d a => Sys2Proof.Machine.execTom b d a s
  | .fromm b d a => Sys2Proof.Machine.execFromm b d a s
  | .mred b d a => Sys2Proof.Machine.execMred b d a s
  | .mexp b d a x => Sys2Proof.Machine.execMexp b d a x s
  | .minv b d a => Sys2Proof.Machine.execMinv b d a s
  | .bnMul b d a x => Sys2Proof.Machine.execBnMul b d a x s
  | .sump b d a x le terms => Sys2Proof.Machine.execSump b d a x le terms s
  | .vred b d le elems => Sys2Proof.Machine.execVred b d le elems s
  | .mov b d a => Sys2Proof.Machine.execMov b d a s
  | .zero b d => Sys2Proof.Machine.execZero b d s
  | .cmp b a x => Sys2Proof.Machine.execCmp b a x s
  | .rndm b d => Sys2Proof.Machine.execRndm b d s
  | .ntt b d a => Sys2Proof.Machine.execNtt b d a s
  | .intt b d a => Sys2Proof.Machine.execIntt b d a s
  | .pmul b d a x => Sys2Proof.Machine.execPmul b d a x s
  | .padd b d a x diff => Sys2Proof.Machine.execPadd b d a x diff s
  | .keccak b d => Sys2Proof.Machine.execKeccak b d s
  | .sample b d a => Sys2Proof.Machine.execSample b d a s
  | .skip b cond neg n => Sys2Proof.Machine.execSkip b cond neg n s
  | .bnLoop b bodyM1 timesM1 => Sys2Proof.Machine.execBnLoop b bodyM1 timesM1 s
  | .bnEnd b status => Sys2Proof.Machine.execBnEnd b status s
  | .echo e => Sys2Proof.Machine.execEcho e s
  | .rekeySlot e => Sys2Proof.Machine.execRekeySlot e s
  | .rekeyStep e rdKey picks => Sys2Proof.Machine.execRekeyStep e rdKey picks s
  | .transportOpen e => Sys2Proof.Machine.execTransportOpen e s
  | .attest e rd0 => Sys2Proof.Machine.execAttest e rd0 s
  | .hearthRaw e => Sys2Proof.Machine.execHearthRaw e s
  | .doorRegionWrite r n desc => Sys2Proof.Machine.execDoorRegionWrite r n desc s
  | .doorSync r => Sys2Proof.Machine.execDoorSync r s
  | .doorSyncApply e k => Sys2Proof.Machine.execDoorSyncApply e k s
  | .routineLoad len image sigOk => Sys2Proof.Machine.execRoutineLoad len image sigOk s
  | .routineCheck len image sigOk => Sys2Proof.Machine.execRoutineCheck len image sigOk s
  | .routineUnload rn => Sys2Proof.Machine.execRoutineUnload rn s
  | .chainExpiry ix => Sys2Proof.Machine.execChainExpiry ix s
  | .recordRestore block => Sys2Proof.Machine.execRecordRestore block s
  | .journalProgram => Sys2Proof.Machine.execJournalProgram s
  | .imageComplete => Sys2Proof.Machine.execImageComplete s
  | .ksDelete => Sys2Proof.Machine.execKsDelete s
  | .ksPurge sl => Sys2Proof.Machine.execKsPurge sl s
  | .ksRestrict clear => Sys2Proof.Machine.execKsRestrict clear s
  | .ksNewImage => Sys2Proof.Machine.execKsNewImage s
  | .ksRotateTransport => Sys2Proof.Machine.execKsRotateTransport s
  | .genBaseWrite val => Sys2Proof.Machine.execGenBaseWrite val s
  | .waysWrite sl val => Sys2Proof.Machine.execWaysWrite sl val s
  | .slotDescriptorWrite b n desc => Sys2Proof.Machine.execSlotDescriptorWrite b n desc s
  | .larderWindowWrite b w val => Sys2Proof.Machine.execLarderWindowWrite b w val s
  | .psetLoad set nocheck len desc => Sys2Proof.Machine.execPsetLoad set nocheck len desc s
  | .psetCheckDone => Sys2Proof.Machine.execPsetCheckDone s
  | .psetErase set => Sys2Proof.Machine.execPsetErase set s
  | .bnEngineTakeOut b => Sys2Proof.Machine.execBnEngineTakeOut b s
  | .bnEngineReturn b => Sys2Proof.Machine.execBnEngineReturn b s
  | .bnSelftestDone b => Sys2Proof.Machine.execBnSelftestDone b s
  | .found ok => Sys2Proof.Machine.execFound ok s
  | .join sponsor halves => Sys2Proof.Machine.execJoin sponsor halves s
  | .remove => Sys2Proof.Machine.execRemove s
  | .challenge nonce => Sys2Proof.Machine.execChallenge nonce s
  | .joinReqResend => Sys2Proof.Machine.execJoinReqResend s
  | .internalOrderResubmit => Sys2Proof.Machine.execInternalOrderResubmit s
  | .inRingTailWrite tail => Sys2Proof.Machine.execInRingTailWrite tail s
  | .outRingHeadWrite head => Sys2Proof.Machine.execOutRingHeadWrite head s
  | .hello h cert x => Sys2Proof.Machine.execHello h cert x s
  | .helloAck h cert x ct confirm => Sys2Proof.Machine.execHelloAck h cert x ct confirm s
  | .helloFin h ct confirm => Sys2Proof.Machine.execHelloFin h ct confirm s
  | .joinReq h cert x ct t1 t2 => Sys2Proof.Machine.execJoinReq h cert x ct t1 t2 s
  | .joinAck h body => Sys2Proof.Machine.execJoinAck h body s
  | .joinNak h status detail => Sys2Proof.Machine.execJoinNak h status detail s
  | .rosterAdd h cert => Sys2Proof.Machine.execRosterAdd h cert s
  | .rosterDel h number serial t1 t2 => Sys2Proof.Machine.execRosterDel h number serial t1 t2 s
  | .rosterSync h first entries => Sys2Proof.Machine.execRosterSync h first entries s
  | .rosterSyncSend => Sys2Proof.Machine.execRosterSyncSend s
  | .beat h mode now serial => Sys2Proof.Machine.execBeat h mode now serial s
  | .leave h serial => Sys2Proof.Machine.execLeave h serial s
  | .chal h nonce answerTo => Sys2Proof.Machine.execChal h nonce answerTo s
  | .resp h nonce sigsOk => Sys2Proof.Machine.execResp h nonce sigsOk s
  | .ticket h tickets entry => Sys2Proof.Machine.execTicket h tickets entry s
  | .pairKeyAgeExpiry m => Sys2Proof.Machine.execPairKeyAgeExpiry m s
  | .previousPairKeyExpiry m => Sys2Proof.Machine.execPreviousPairKeyExpiry m s
  | .beatSend => Sys2Proof.Machine.execBeatSend s
  | .peerAbsenceTimeout m => Sys2Proof.Machine.execPeerAbsenceTimeout m s
  | .isolationTimeout => Sys2Proof.Machine.execIsolationTimeout s
  | .stairData port f => Sys2Proof.Machine.execStairData port f s
  | .stairAck port seq => Sys2Proof.Machine.execStairAck port seq s
  | .stairScan port origin hops last farPort => Sys2Proof.Machine.execStairScan port origin hops last farPort s
  | .scanPeriodic => Sys2Proof.Machine.execScanPeriodic s
  | .stairRetransmitTimeout port => Sys2Proof.Machine.execStairRetransmitTimeout port s
  | .reassemblyTimeout src tag => Sys2Proof.Machine.execReassemblyTimeout src tag s
  | .stairLinkDown port => Sys2Proof.Machine.execStairLinkDown port s
  | .linkTrained port ok => Sys2Proof.Machine.execLinkTrained port ok s
  | .dozeIdleTimeout port => Sys2Proof.Machine.execDozeIdleTimeout port s
  | .dozeReq port => Sys2Proof.Machine.execDozeReq port s
  | .dozeAck port => Sys2Proof.Machine.execDozeAck port s
  | .dozeNak port => Sys2Proof.Machine.execDozeNak port s
  | .wakeRequest port => Sys2Proof.Machine.execWakeRequest port s
  | .dozeResidencyEnd port => Sys2Proof.Machine.execDozeResidencyEnd port s
  | .stCfgWrite val => Sys2Proof.Machine.execStCfgWrite val s
  | .schedEntryFire n => Sys2Proof.Machine.execSchedEntryFire n s
  | .schedHeldEntryFire n => Sys2Proof.Machine.execSchedHeldEntryFire n s
  | .roomApplyGeneration r => Sys2Proof.Machine.execRoomApplyGeneration r s
  | .schedCancel n => Sys2Proof.Machine.execSchedCancel n s
  | .custodySchedRetry kind => Sys2Proof.Machine.execCustodySchedRetry kind s
  | .dealCutoff g => Sys2Proof.Machine.execDealCutoff g s
  | .decisionCutoff g => Sys2Proof.Machine.execDecisionCutoff g s
  | .decideResend g => Sys2Proof.Machine.execDecideResend g s
  | .settlement g => Sys2Proof.Machine.execSettlement g s
  | .reconCutoff g => Sys2Proof.Machine.execReconCutoff g s
  | .positionLossTimeout g p => Sys2Proof.Machine.execPositionLossTimeout g p s
  | .groupState h c body => Sys2Proof.Machine.execGroupState h c body s
  | .deal h c full v block => Sys2Proof.Machine.execDeal h c full v block s
  | .prepared h c dealers => Sys2Proof.Machine.execPrepared h c dealers s
  | .decide h c commit p d digest => Sys2Proof.Machine.execDecide h c commit p d digest s
  | .ack h c kind => Sys2Proof.Machine.execAck h c kind s
  | .settle h c ok => Sys2Proof.Machine.execSettle h c ok s
  | .shareReq h c rc target => Sys2Proof.Machine.execShareReq h c rc target s
  | .share h c rc target gens => Sys2Proof.Machine.execShare h c rc target gens s
  | .reconDone h c target done status => Sys2Proof.Machine.execReconDone h c target done status s
  | .accept h c yes status => Sys2Proof.Machine.execAccept h c yes status s
  | .groupDel h c t1 t2 => Sys2Proof.Machine.execGroupDel h c t1 t2 s
  | .groupCreate d => Sys2Proof.Machine.execGroupCreate d s
  | .groupCreateDeadline => Sys2Proof.Machine.execGroupCreateDeadline s
  | .groupChange g d => Sys2Proof.Machine.execGroupChange g d s
  | .groupReplace g m p => Sys2Proof.Machine.execGroupReplace g m p s
  | .groupBind g => Sys2Proof.Machine.execGroupBind g s
  | .groupDelete g => Sys2Proof.Machine.execGroupDelete g s
  | .groupSweep g => Sys2Proof.Machine.execGroupSweep g s
  | .backupRingHeadWrite head => Sys2Proof.Machine.execBackupRingHeadWrite head s
  | .restoreRingTailWrite tail backups picks => Sys2Proof.Machine.execRestoreRingTailWrite tail backups picks s
  | .cardInsert n => Sys2Proof.Machine.execCardInsert n s
  | .slotDebounceDone n => Sys2Proof.Machine.execSlotDebounceDone n s
  | .answerToReset n a => Sys2Proof.Machine.execAnswerToReset n a s
  | .atrTimeout n => Sys2Proof.Machine.execAtrTimeout n s
  | .classRetry n => Sys2Proof.Machine.execClassRetry n s
  | .ppsResponse n confirmed => Sys2Proof.Machine.execPpsResponse n confirmed s
  | .cardBlockReceive n a => Sys2Proof.Machine.execCardBlockReceive n a s
  | .cardBlockTimeout n => Sys2Proof.Machine.execCardBlockTimeout n s
  | .cardRemove n => Sys2Proof.Machine.execCardRemove n s
  | .sealBreak n => Sys2Proof.Machine.execSealBreak n s
  | .slotOvercurrent n => Sys2Proof.Machine.execSlotOvercurrent n s
  | .sign n buf => Sys2Proof.Machine.execSign n buf s
  | .hold t => Sys2Proof.Machine.execHold t s
  | .relay m t => Sys2Proof.Machine.execRelay m t s
  | .custAdd n donor buf => Sys2Proof.Machine.execCustAdd n donor buf s
  | .custDel buf => Sys2Proof.Machine.execCustDel buf s
  | .signkeySet buf => Sys2Proof.Machine.execSignkeySet buf s
  | .signkeyRevoke buf => Sys2Proof.Machine.execSignkeyRevoke buf s
  | .drop => Sys2Proof.Machine.execDrop s
  | .powerOff n => Sys2Proof.Machine.execPowerOff n s
  | .powerOn n => Sys2Proof.Machine.execPowerOn n s
  | .ticketExpiry t => Sys2Proof.Machine.execTicketExpiry t s
  | .consumedEntryLapse digest => Sys2Proof.Machine.execConsumedEntryLapse digest s
  | .tamperEvent sources now => Sys2Proof.Machine.execTamperEvent sources now s
  | .e2Evaluation agrees now => Sys2Proof.Machine.execE2Evaluation agrees now s
  | .alarmLevelExit sl now => Sys2Proof.Machine.execAlarmLevelExit sl now s
  | .alarmPulseEnd => Sys2Proof.Machine.execAlarmPulseEnd s
  | .tamperClockFail => Sys2Proof.Machine.execTamperClockFail s
  | .tamperClockTrim => Sys2Proof.Machine.execTamperClockTrim s
  | .unlock => Sys2Proof.Machine.execUnlock s
  | .policyOverride block => Sys2Proof.Machine.execPolicyOverride block s
  | .inject sl now => Sys2Proof.Machine.execInject sl now s
  | .vbatRetentionLost => Sys2Proof.Machine.execVbatRetentionLost s
  | .transition target => Sys2Proof.Machine.execTransition target s
  | .lcDebug => Sys2Proof.Machine.execLcDebug s
  | .profileWrite slot block => Sys2Proof.Machine.execProfileWrite slot block s
  | .switch slot => Sys2Proof.Machine.execSwitch slot s
  | .fixProfileSel slot => Sys2Proof.Machine.execFixProfileSel slot s
  | .healthTestFail r code => Sys2Proof.Machine.execHealthTestFail r code s
  | .sourceTakeOut r => Sys2Proof.Machine.execSourceTakeOut r s
  | .sourceReturn r => Sys2Proof.Machine.execSourceReturn r s
  | .sourceRetestDone r fail => Sys2Proof.Machine.execSourceRetestDone r fail s
  | .sourceRetestTimer => Sys2Proof.Machine.execSourceRetestTimer s
  | .nsCfgWrite val => Sys2Proof.Machine.execNsCfgWrite val s
  | .captureStart r => Sys2Proof.Machine.execCaptureStart r s
  | .captureAbort => Sys2Proof.Machine.execCaptureAbort s
  | .captureDone => Sys2Proof.Machine.execCaptureDone s
  | .captureDataRead => Sys2Proof.Machine.execCaptureDataRead s
  | .scrubRead cls word holds ecc => Sys2Proof.Machine.execScrubRead cls word holds ecc s
  | .programStoreRewrite word => Sys2Proof.Machine.execProgramStoreRewrite word s
  | .vfProgramDone block ok => Sys2Proof.Machine.execVfProgramDone block ok s
  | .vfEraseDone block ok => Sys2Proof.Machine.execVfEraseDone block ok s
  | .vfPageRefresh area corrections => Sys2Proof.Machine.execVfPageRefresh area corrections s
  | .atticReport => Sys2Proof.Machine.execAtticReport s
  | .bucketRefill code => Sys2Proof.Machine.execBucketRefill code s
  | .queueRoomLostEntry => Sys2Proof.Machine.execQueueRoomLostEntry s
  | .mirrorProgram page => Sys2Proof.Machine.execMirrorProgram page s
  | .atticRead seq => Sys2Proof.Machine.execAtticRead seq s
  | .atticReadDone => Sys2Proof.Machine.execAtticReadDone s
  | .copy => Sys2Proof.Machine.execCopy s
  | .clear => Sys2Proof.Machine.execClear s
  | .rateWrite val => Sys2Proof.Machine.execRateWrite val s
  | .timepulseEdge off => Sys2Proof.Machine.execTimepulseEdge off s
  | .tbLabelWrite sec => Sys2Proof.Machine.execTbLabelWrite sec s
  | .holdoverTimeout => Sys2Proof.Machine.execHoldoverTimeout s
  | .freeEntry => Sys2Proof.Machine.execFreeEntry s
  | .stepApprovalTimeout => Sys2Proof.Machine.execStepApprovalTimeout s
  | .acqWindowClose => Sys2Proof.Machine.execAcqWindowClose s
  | .timeFloorWrite => Sys2Proof.Machine.execTimeFloorWrite s
  | .discoveryScan ix => Sys2Proof.Machine.execDiscoveryScan ix s
  | .scanCommand => Sys2Proof.Machine.execScanCommand s
  | .stgAcknowledged e => Sys2Proof.Machine.execStgAcknowledged e s
  | .rawBit r b fail => Sys2Proof.Machine.execRawBit r b fail s
  | .tamperClockReturn => Sys2Proof.Machine.execTamperClockReturn s
  | .ppsTimeout n => Sys2Proof.Machine.execPpsTimeout n s
  | .nodeReencryptionDone level node => Sys2Proof.Machine.execNodeReencryptionDone level node s
  | .loaderCommandDone => Sys2Proof.Machine.execLoaderCommandDone s
  | .atticCopyDone readOk => Sys2Proof.Machine.execAtticCopyDone readOk s
  | .handshakeStepRelease => Sys2Proof.Machine.execHandshakeStepRelease s

end Machine
end Sys2Proof
end

