-- ==== Sys2Proof/Machine/View.lean ====
section
/-! DEFINITION. What a manager read of each register returns (19 R494 to R497): the stored words of the register file, and
the read-only fields that show what the module holds. No command reads a register, so no meaning calls this file. -/

namespace Sys2Proof
namespace Machine

/-- Fields of a register word by their lowest bits. -/
def fields (l : List (Nat × Nat)) : Nat := l.foldl (fun m p => m + fld p.1 p.2) 0
/-- A count that reads at most its field's largest value. -/
def atMost (w n : Nat) : Nat := min (2 ^ w - 1) n
/-- A signed number as w bits. -/
def twosComp (w : Nat) (x : Int) : Nat := (x % (2 ^ w : Int)).toNat

/-! ## SYS and TB -/

/-- The image that SYS_RTN_SEL names. -/
def selected (s : State) : Option Image := tfind s.ld.dir (rdF s 0x130 11 0)

/-- SYS block (01, 05 R164, 07). -/
def sysView (s : State) (o : Nat) : Nat :=
  match o with
  | 0x020 => modeWord s.mode
  | 0x040 => sumOf (List.range 64) fun r => fld (b2n (rd s (rmBase r + 8) != 0)) r
  | 0x128 => fields [(granulesFree s, 32), (s.ld.dir.length, 0)]
  | 0x138 =>
    fields [((match selected s with | some i => i.hdr.version | none => 0), 32), (tget 0 s.ld.floors (rdF s 0x130 11 0), 0)]
  | 0x140 => match selected s with | some i => fields [(i.hdr.boundA, 32), (i.hdr.boundB, 0)] | none => 0
  | 0x148 =>
    let old := b2n ((s.ld.old.filter (inUse s)).any fun i => i.hdr.routine == rdF s 0x130 11 0)
    match selected s with
    | some i =>
      let h := i.hdr
      fields [(atMost 20 h.bnLen, 44), (h.fetch, 28), (h.minClass, 25), (b2n h.early, 24), (b2n h.ctx, 23), (b2n h.maint, 22),
              (b2n h.supv, 21), (h.signer, 17), (old, 1), (1, 0)]
    | none => fld old 1
  | _ => (rd s o).toNat

/-- KIND, STATE and the rest of TB_SCHED_CTL_n (02). -/
def schedCtl (e : Sched) : Nat := fields [(e.gen.toNat, 32), (if e.held then 2 else 1, 4), (e.kind, 0)]

/-- TB block (02). -/
def tbView (s : State) (o : Nat) : Nat :=
  match o with
  | 0x000 => (tbNow s).toNat
  | 0x008 => runNow s
  | 0x010 =>
    fields [(if s.mode.time = .free then 0xFFFFFFFF else atMost 32 (uncert s), 16), (b2n s.tb.floorValid, 7),
            (b2n s.tb.step.isSome, 6), (b2n s.tb.label.isSome, 5), (b2n s.tb.acqEdge.isSome, 4), (timeCode s.mode.time, 0)]
  | 0x028 => s.tb.offset.toNat
  | 0x030 => fields [(twosComp 32 s.tb.phase, 32), (twosComp 32 s.tb.rate, 0)]
  | 0x050 => match s.tb.step with | some p => fields [(1, 44), (p.sec, 0)] | none => 0
  | _ =>
    if among 0x100 16 16 o then
      (match tfind s.tb.sched ((o - 0x100) / 16) with | some e => e.target.toNat | none => 0)
    else if among 0x108 16 16 o then
      (match tfind s.tb.sched ((o - 0x108) / 16) with | some e => schedCtl e | none => 0)
    else (rd s (0x10000 + o)).toNat

/-! ## PCH, ADM, KS and BN -/

/-- PCH block (03). -/
def pchView (s : State) (o : Nat) : Nat :=
  match o with
  | 0x000 =>
    fields [(if s.pch.up then s.pch.speed else 0, 24), (if s.pch.up then s.pch.width else 0, 21), (2 * s.pch.queues.length, 4),
            (b2n s.pch.bme1, 3), (b2n s.pch.bme0, 2), (b2n s.pch.l1, 1), (b2n s.pch.up, 0)]
  | _ => (rd s (0x20000 + o)).toNat

/-- Density of the charges held in a room, of the charges on a big-number engine in their windows, and of its units. -/
def roomHeld (s : State) (r : Nat) : Nat := sumOf (s.adm.charges.filter fun h => h.held && h.room.val == r) fun h => h.den
def bnHeld (s : State) (b : Nat) : Nat :=
  sumOf (s.adm.charges.filter fun h => h.held && h.bnEng.map Fin.val == some b) fun h => ceilDiv (h.bnLen * 65536) (winW h.cls.val)
def bnGranted (s : State) (b : Nat) : Nat :=
  sumOf (s.adm.units.filter fun u => u.eng.map Fin.val == some b) fun u =>
    ceilDiv ((tget {} s.adm.grants u.key).bnMaxl * 65536) (winW (u.key % 8))

/-- ADM block (04). -/
def admView (s : State) (o : Nat) : Nat :=
  match o with
  | 0x000 => fields [(s.adm.park.length, 32), (sumOf s.ld.ctx fun p => p.2, 0)]
  | 0x030 => fields [(0xC00, 32), (hostCap s, 16), (0x4000, 0)]
  | 0x038 =>
    fields [(sumOf s.adm.grants fun p => p.2.stage, 32), (sumOf s.adm.grants fun p => p.2.host, 16),
            (sumOf s.adm.grants fun p => p.2.fetch, 0)]
  | _ =>
    if among 0x200 8 64 o then
      let r := (o - 0x200) / 8
      fields [(engIn s r, 60), (roomCap s (layoutNew s) r, 40), (grantedIn s.adm.grants r, 20), (atMost 20 (roomHeld s r), 0)]
    else if among 0x400 8 16 o then
      let b := (o - 0x400) / 8
      fields [((s.adm.units.filter fun u => u.eng.map Fin.val == some b).length, 56), (bnHeld s b, 24), (bnGranted s b, 0)]
    else (rd s (0x30000 + o)).toNat

/-- Byte n, eight at a time, of a number's n-th word. -/
def wordOf (v n : Nat) : Nat := bytesOf v (8 * n) 8

/-- KS block (08). -/
def ksView (s : State) (o : Nat) : Nat :=
  let stored := (rd s (0x40000 + o)).toNat
  match o with
  | 0x000 =>
    fields [(atMost 16 s.ks.buffer.length, 32), (b2n (imgBusy s), 7), (b2n (s.ks.table.any fun p => p.2.1 == .lost), 6),
            (b2n (!s.ks.poisoned.isEmpty), 5), (bits (rd s 0x40000) 4 4, 4), (b2n s.ks.fresh, 3), (bits (rd s 0x40000) 2 0, 0)]
  | 0x030 =>
    fields [((s.ks.table.filter fun p => p.2.1 == .retired).length, 32), ((s.ks.table.filter fun p => isAllocated p.2.1).length, 0)]
  | 0x048 =>
    fields [(rdF s 0x40048 63 32, 32), (atMost 16 s.ks.poisoned.length, 16),
            (atMost 16 (s.ks.table.filter fun p => p.2.1 == .lost).length, 0)]
  | 0x050 => fields [(s.bbram.startCount.toNat % 2 ^ 48, 16), (rdF s 0x40050 3 0, 0)]
  | 0x060 => waysSum s
  | _ =>
    if among 0x100 8 12 o then (if s.keys.dak then wordOf (p384Pub (dakScalar s)) ((o - 0x100) / 8) else 0)
    else if among 0x200 8 152 o then
      (if s.keys.ident then wordOf (identPub s + fld (mlkemPub s) 256) ((o - 0x200) / 8) else 0)
    else stored

/-- BN_PSET_p (09). -/
def psetView (p : Option PSet) (n : Nat) : Nat :=
  match p with
  | some v => fields [(1, 63), (b2n v.checked, 62), (b2n (n < 32), 61), (v.typ, 16), (v.bitLen, 0)]
  | none => fld (b2n (n < 32)) 61

/-- BN block (09). -/
def bnView (s : State) (o : Nat) : Nat :=
  let heldBit := fun (b : Nat) => b2n (areaHeld s.adm.charges (bnIx b))
  match o with
  | 0x000 => fields [(rdF s 0x50000 31 16, 16), (sumOf (List.range 16) fun b => fld (heldBit b) b, 0)]
  | _ =>
    if among 0x100 8 16 o then
      let b := (o - 0x100) / 8
      let g := bnEng s (bnIx b)
      fields [(b2n (!g.out), 63), (heldBit b, 62), (b2n g.running.isSome, 61), (g.queue.length, 32), (rdF s (0x50000 + o) 31 0, 0)]
    else if among 0x200 8 64 o then psetView (setOf s.bn.psets ((o - 0x200) / 8)) ((o - 0x200) / 8)
    else (rd s (0x50000 + o)).toNat

/-! ## CU, ST and SL -/

/-- Confirmed share holders, and the entry that CU_GSEL selects (11). -/
def selGroup (s : State) : Option Group := groupOf s (rdF s 0x61028 11 0)

/-- CU_GINFO, CU_GPARAM. -/
def ginfo (s : State) (g : Group) : Nat :=
  fields [(1, 63), (b2n (holdsActive g), 62), (b2n (amCoord s g), 61), (b2n g.round.isSome, 60), (confirmedOf g, 54),
          ((match g.own with | some p => posByte p | none => 0), 46), (g.gen, 0)]
def gparam (g : Group) : Nat :=
  fields [(g.desc.h, 52), (g.desc.n, 46), (g.desc.k, 40), (g.desc.f, 34), (g.desc.e, 29), (g.desc.rb, 20), (g.desc.gexp, 15),
          (b2n g.bound.isSome, 10), ((match g.bound with | some sl => sl.val | none => 0), 0)]

/-- Index in the position list of CU_GROLE_n: A1 to A8, then S1 to S32. -/
def rolePlace (g : Group) (n : Nat) : Option Nat :=
  if n < 8 then (if n < g.desc.h then some n else none) else if n - 8 < g.desc.n then some (g.desc.h + (n - 8)) else none

/-- CU_GROLE_n. -/
def grole (s : State) (g : Group) (n : Nat) : Nat :=
  match rolePlace g n with
  | none => 0
  | some i =>
    let st := match stateAt g i with | .pending => 1 | .lost => 2 | .rebuilding => 3 | _ => 0
    let away := match tfind s.cu.watch (memberAt g i) with | some w => w.absent | none => false
    fields [(1, 63), (st, 61), (b2n away, 60), (memberAt g i, 0)]

/-- The module's DATK public keys (10). -/
def datkPub (s : State) (q : Bool) : Nat := if q then mldsaPub s.cu.datkQ.toNat else p384Pub s.cu.datkP.toNat

/-- CU block (10, 11). -/
def cuView (s : State) (o : Nat) : Nat :=
  let stored := (rd s (0x60000 + o)).toNat
  let below := fun (f : Group → Bool) => (s.cu.groups.filter fun p => f p.2).length
  match o with
  | 0x000 =>
    fields [(b2n s.cu.member.isSome, 63), (rdF s 0x60000 62 62, 62), (rosterCount s, 42), (ownNum s, 24)]
  | 0x018 => fields [(rdF s 0x60018 63 48, 48), (s.cu.watch.length, 34), (stored % 2 ^ 20, 0)]
  | 0x080 => fields [(s.cu.pairs.length, 32), (stored % 2 ^ 32, 0)]
  | 0x088 => wordOf s.cu.domainId.toNat 0
  | 0x090 => wordOf s.cu.domainId.toNat 1
  | 0x098 => wordOf deviceId.toNat 0
  | 0x0A0 => wordOf deviceId.toNat 1
  | 0x1000 =>
    fields [(rdF s 0x61000 45 45, 45), (below fun g => confirmedOf g < g.desc.k, 32), (below fun g => confirmedOf g < g.desc.n, 16),
            (s.cu.groups.length, 0)]
  | 0x1030 => match selGroup s with | some g => ginfo s g | none => 0
  | 0x1038 => match selGroup s with | some g => gparam g | none => 0
  | 0x1040 => match selGroup s with | some g => g.desc.group.toNat | none => 0
  | 0x1230 => fields [(rdF s 0x61230 63 49, 49), (s.cu.pendBk.length, 32), (rdF s 0x61230 31 0, 0)]
  | _ =>
    if among 0x100 8 12 o then (if s.cu.member.isSome then wordOf (datkPub s false) ((o - 0x100) / 8) else 0)
    else if among 0x400 8 244 o then (if s.cu.member.isSome then wordOf (datkPub s true) ((o - 0x400) / 8) else 0)
    else if among 0x1080 8 40 o then (match selGroup s with | some g => grole s g ((o - 0x1080) / 8) | none => 0)
    else stored

/-- Code of a link state (10, Link states). -/
def linkCode : LinkState → Nat
  | .down => 0 | .train => 1 | .active => 2 | .entering => 3 | .doze => 4 | .disabled => 5

/-- ST block (10). -/
def stView (s : State) (o : Nat) : Nat :=
  match o with
  | 0x000 =>
    fields [(s.st.self, 48), (s.st.map.length, 40), (b2n s.st.closed, 39), (b2n s.st.oversize, 38), (linkCode s.st.p1.state, 3),
            (linkCode s.st.p0.state, 0)]
  | _ =>
    if among 0x100 8 16 o then
      let p := (o - 0x100) / 8
      match s.st.map[p]? with
      | some h => fields [(1, 63), (b2n (p == s.st.self), 62), (b2n h.enrolled, 61), (if h.enrolled then h.member.val else 0, 0)]
      | none => 0
    else (rd s (0x70000 + o)).toNat

/-- Code of a slot state (12). -/
def slotCode : SlotState → Nat
  | .empty => 0 | .debounce => 1 | .activating => 2 | .active => 3 | .refused => 4 | .off => 5

/-- SL_SLOT_n (12). -/
def slotView (s : State) (n : Nat) : Nat :=
  let c := tget {} s.sl.slots n
  let known : Option Nat := match c.card with
    | some k => (custodianOf s (keyIdOf k.1)).map fun (p : Nat × Custodian) => p.1
    | none => none
  fields [(b2n c.found, 63), (b2n c.det, 62), (b2n c.sealed, 61), (slotCode c.state, 58), (c.cls, 56), (c.fi, 52), (c.di, 48),
          (c.clkDiv, 40), (c.ifsc, 32), (c.cwi, 28), (c.bwi, 24), (known.getD 0, 18), (b2n known.isSome, 17),
          ((match c.card with | some k => b2n (k.2 == 1) | none => 0), 16), (c.err, 8)]

/-- SL_HELD_t (12). -/
def heldView (h : Held) : Nat :=
  fields [(1, 63), (b2n h.isLocal, 62), (h.index % 64, 56), (b2n (h.kind == 1), 55), (tkOp h.raw, 32),
          (tkNotAfter h.raw / beatsPerSec % 2 ^ 32, 0)]

/-- SL block (12). -/
def slView (s : State) (o : Nat) : Nat :=
  match o with
  | 0x000 => fields [(rdF s 0x80000 63 48, 48), (s.sl.consumed.length, 37), (s.sl.held.length, 0)]
  | 0x030 => sumOf (s.sl.custody.filter fun (p : Nat × Custodian) => p.2.pub != 0) fun p => fld 1 p.1
  | _ =>
    if among 0x100 8 4 o then slotView s ((o - 0x100) / 8)
    else if among 0x200 8 16 o then (match s.sl.held[(o - 0x200) / 8]? with | some h => heldView h | none => 0)
    else (rd s (0x80000 + o)).toNat

/-! ## TP, LC, NS, EC and EV -/

/-- Tamper-clock cycle by which a source's alarm level is shown: the last of its events. -/
def sourceActive (s : State) (n : Nat) : Bool := (tsrc s n).level

/-- TP block (13); what the start's step 2 loads reads as its Reset column before VALID. -/
def tpView (s : State) (o : Nat) : Nat :=
  match o with
  | 0x000 =>
    fields [(rdF s 0x90000 55 48, 48), (sumOf (List.range 24) fun n => fld (b2n (sourceActive s n)) n, 24),
            (b2n s.tp.override, 7), (b2n (s.mode.valid && s.tp.batteryOk), 6), (b2n s.tp.tclkOk, 5), (b2n s.bbram.zinLatch, 4),
            (b2n s.alarmOut, 3), (b2n s.bbram.zeroized, 2), (b2n s.bbram.lockFlag, 1), (b2n s.mode.tmode, 0)]
  | 0x028 => fields [(s.bbram.lockCount.toNat, 32), (s.bbram.cause.toNat, 24)]
  | _ =>
    if among 0x100 8 24 o then
      let n := (o - 0x100) / 8
      let p := srcPolicy s n
      if s.mode.valid then fields [(p.resp, 56), (p.n, 44), (p.w, 20), (b2n (srcEnabled s n), 0)] else 0
    else (rd s (0x90000 + o)).toNat

/-- Two fuses of a pair, both set or both clear (14 R396). -/
def fusePair (set : Bool) : Nat := if set then 3 else 0
/-- n set pairs of a counter, the lowest first. -/
def fuseCount (n : Nat) : Nat := 2 ^ (2 * n) - 1

/-- OTP word n (14, OTP layout, R404). -/
def otpView (s : State) (n : Nat) : Nat :=
  let lc := s.mode.lc
  let hidden := 28 ≤ n && n < 32 && !(lc == .blank || lc == .test)
  if hidden then 0
  else if 2 ≤ n ∧ n < 8 then bytesOf s.lc.otp.signer.toNat (8 * (n - 2)) 8
  else if 8 ≤ n ∧ n < 28 then bytesOf (tokenDigest s ((n - 8) / 4)) (8 * ((n - 8) % 4)) 8
  else if n < 32 then (Config.otpWord n).toNat
  else if n = 32 then sumOf (List.range 8) fun i => fld (fusePair (bit s.lc.otp.marks i)) (2 * i)
  else if 34 ≤ n ∧ n < 38 then fuseCount (profWrites s (n - 34))
  else if 38 ≤ n ∧ n < 46 then bytesOf (fuseCount s.lc.otp.clears) (8 * (n - 38)) 8
  else if n = 46 then
    (match s.lc.otp.fix with
    | some f => fusePair true + fld (fusePair (f.val % 2 == 1)) 2 + fld (fusePair (2 ≤ f.val)) 4
    | none => 0)
  else if n < 56 then 0
  else (Config.otpWord n).toNat

/-- LC block (14). -/
def lcView (s : State) (o : Nat) : Nat :=
  match o with
  | 0x000 =>
    fields [(s.lc.otp.clears, 24), (rdF s 0xA0000 23 16, 16), (s.lc.psel.val, 9), (b2n s.lc.otp.fix.isSome, 8),
            ((match s.lc.otp.fix with | some f => f.val | none => 0), 6), (b2n s.lc.jtag, 5), (b2n (resuming s), 4),
            (lcCode s.mode.lc, 0)]
  | 0x010 | 0x020 | 0x028 => 0
  | _ =>
    if among 0x100 8 4 o then
      let n := (o - 0x100) / 8
      fields [((profileIn s n).digest.toNat % 2 ^ 32, 32), (b2n (s.mode.valid && s.mode.profile.val == n), 7),
              (b2n (tfind s.lc.working n).isSome, 6), (b2n (tfind s.lc.stored n).isSome, 5), (profWrites s n, 0)]
    else if among 0x1000 8 64 o then otpView s ((o - 0x1000) / 8)
    else (rd s (0xA0000 + o)).toNat

/-- NS block (15). -/
def nsView (s : State) (o : Nat) : Nat :=
  match o with
  | 0x000 => sumOf (List.range 64) fun r => fld (b2n (hsrc s r).inService) r
  | 0x030 =>
    fields [(b2n s.ns.capBusy, 40), (s.ns.capRoom, 34), (b2n s.ns.capValid, 33), (s.ns.cap.length, 0)]
  | 0x038 => if s.ns.cap.length < 64 then 0 else bitsNum (s.ns.cap.take 64)
  | _ =>
    if among 0x100 8 64 o then
      let r := (o - 0x100) / 8
      let w := 0xB0000 + o
      fields [(rdF s w 63 48, 48), (rdF s w 43 40, 40), (b2n (hsrc s r).inService, 32), (rdF s w 31 0, 0)]
    else (rd s (0xB0000 + o)).toNat

/-- EC block (16). -/
def ecView (s : State) (o : Nat) : Nat :=
  match o with
  | 0x000 =>
    fields [(rdF s 0xC0000 4 4, 4), (b2n (journalFull s), 3),
            ((match s.ks.image with | some i => b2n i.copy | none => 0), 2), (b2n s.ks.image.isSome, 1), (rdF s 0xC0000 0 0, 0)]
  | 0x030 => fields [(rdF s 0xC0030 63 16, 16), (sumOf s.ec.again Prod.snd, 0)]
  | _ => (rd s (0xC0000 + o)).toNat

/-- Whether a code is defined (17 R463): an EVT bit of its block, a fixed meaning, or a record that sets no bit. -/
def codeDefined (c : Nat) : Bool :=
  let a := if c / 64 = 15 then rmBase 0 + 8 else evtAddr (c / 64)
  (match regDesc a with | some d => d.w1c.testBit (c % 64) | none => false)
    || (0x190 ≤ c && c < 0x198) || (0x260 ≤ c && c < 0x278) || (0x360 ≤ c && c < 0x366)
    || [0x020, 0x021, 0x060, 0x062, 0x086, 0x2A0, 0x3E0].contains c

/-- EV block (17). -/
def evView (s : State) (o : Nat) : Nat :=
  match o with
  | 0x000 =>
    fields [(s.ev.nextSeq, 32), ((circHeld s).length, 15), ((s.ev.entries.filter fun p => !circKey p.1).length, 2),
            (rdF s 0xD0000 1 0, 0)]
  | 0x088 =>
    let c := rdF s 0xD0080 9 0
    let b := bucketOf s c
    fields [(b.suppressed, 32), (b2n (s.mode.valid && codeDefined c), 31), (b2n (exempt c), 30), (b.depth, 16), (b.period, 8), (b.tokens, 0)]
  | 0x090 => s.ev.wrap
  | _ => (rd s (0xD0000 + o)).toNat

/-! ## Rooms, slices, the larder window, the doorbell pages -/

/-- Slice-table entry (03, 04, 08). -/
def sltView (s : State) (sl o : Nat) : Nat :=
  let w := rd s (sltBase sl + o)
  if o = 0x008 then fields [(bits w 63 16, 16), (b2n (sliceActive s sl), 0)]
  else if among 0x58 0x20 4 o then
    match tfind s.pch.queues (qnum sl ((o - 0x58) / 0x20)) with
    | some q => fields [(1, 63), (b2n q.phase, 48), (q.cqPos, 32), (q.tail, 16), (q.consumed, 0)]
    | none => 0
  else if among 0x218 0x20 8 o then
    let c := (o - 0x218) / 0x20
    let hs := s.adm.charges.filter fun h => h.held && h.slice.val == sl && h.cls.val == c
    fields [(atMost 24 (sumOf hs fun h => h.w), 40), (atMost 8 (hs.filter fun h => h.bnLen != 0).length, 32), (bits w 31 0, 0)]
  else if o = 0x300 then fields [(tget 0 s.ld.ctx sl, 32), (bits w 16 0, 0)]
  else if o = 0x408 then fields [(sliceEph s sl, 32), (sliceUse s sl, 0)]
  else w.toNat

/-- Larder window of a big-number engine (09 R238, R239). -/
def larderView (s : State) (b o : Nat) : Nat :=
  if areaTaken s (bnIx b) then 0
  else if o < 0x20000 then
    (if secretWord s b (o / 8) then 0 else (tget 0 s.mem.words (16384 * b + o / 8)).toNat)
  else if o < 0x22000 then (slotDesc s b ((o - 0x20000) / 8)).toNat
  else 0

/-- A doorbell page of a slice (03, Doorbell page). -/
def pageView (s : State) (sl o : Nat) : Nat :=
  let pos := fun (f : Queue → Nat) => sumOf (List.range 4) fun q =>
    match tfind s.pch.queues (qnum sl q) with
    | some v => fld (f v) (16 * q)
    | none => 0
  match o with
  | 0x000 => pos Queue.consumed
  | 0x008 => pos Queue.cqPos
  | 0x010 =>
    let w := rd s (pageAddr sl 0x10)
    let made := sumOf (List.range 4) fun q => fld (b2n (tfind s.pch.queues (qnum sl q)).isSome) q
    fields [(bits w 63 48, 48), (timeCode s.mode.time, 18), (b2n (isLocked s), 17), (b2n s.mode.ready, 16), (sliceGen s sl, 10),
            (made, 4), (bits w 1 1, 1), (b2n (enabled s sl), 0)]
  | 0x018 => (tbNow s).toNat
  | 0x020 =>
    let hints := sumOf (List.range 8) fun c => fld (b2n (tfind s.adm.hints (gkey sl c)).isSome) c
    fields [(rdF s (pageAddr sl 0x20) 39 8, 8), (hints, 0)]
  | _ => 0

/-- What a read of a slice's doorbell page returns (03 R4, R79, R80): an aligned 8-byte read the register, an aligned 4-byte
read the addressed half, and a read of any other size or alignment zero. -/
def pageRead (s : State) (sl : Slice) (off size : Nat) : Word :=
  let w := BitVec.ofNat 64 (pageView s sl.val (off / 8 * 8))
  if size = 8 ∧ off % 8 = 0 then w
  else if size = 4 ∧ off % 4 = 0 then (w >>> (8 * (off % 8))) &&& 0xFFFFFFFF
  else 0

/-- What an aligned 8-byte read of PF1 BAR0 returns (R494, R495). -/
def readReg (s : State) (a : Nat) : Word :=
  BitVec.ofNat 64 <|
    if 0x21000 ≤ a ∧ a < 0x21028 then pageView s 0 (a - 0x21000)
    else if (regDesc a).isNone then 0
    else if a < 0x100000 then
      match a / 0x10000 with
      | 0 => sysView s (a % 0x10000)
      | 1 => tbView s (a % 0x10000)
      | 2 => pchView s (a % 0x10000)
      | 3 => admView s (a % 0x10000)
      | 4 => ksView s (a % 0x10000)
      | 5 => bnView s (a % 0x10000)
      | 6 => cuView s (a % 0x10000)
      | 7 => stView s (a % 0x10000)
      | 8 => slView s (a % 0x10000)
      | 9 => tpView s (a % 0x10000)
      | 10 => lcView s (a % 0x10000)
      | 11 => nsView s (a % 0x10000)
      | 12 => ecView s (a % 0x10000)
      | 13 => evView s (a % 0x10000)
      | _ => (rd s a).toNat
    else if a < 0x200000 then rmView s ((a - 0x100000) / 0x4000) ((a - 0x100000) % 0x4000)
    else if a < 0x400000 then sltView s ((a - 0x200000) / 0x800) ((a - 0x200000) % 0x800)
    else larderView s ((a - 0x400000) / 0x40000) ((a - 0x400000) % 0x40000)

end Machine
end Sys2Proof
end

