-- ==== Sys2Proof/Safety.lean ====
section
/-! DEFINITION. What a safe run is: no step stops, and the memories keep their canonical form; and the conditions under
which claims say that a command has its own effect: the manager's writes are taken, an engine runs an order, a big-number
engine runs an operation, an envelope passes its checks. -/

namespace Sys2Proof
namespace Machine

/-- Every addressed memory of the block is in its canonical form: frame windows, pantry pages, slot areas. -/
def memoryWf (s : State) : Bool := s.mem.wf

/-- The stored registers are in their canonical form: none is listed that reads as its Reset column. -/
def regsWf (s : State) : Bool := twfFrom regReset 0 s.regs

/-- The step of a state goes on. -/
def stepGoes (s : State) : Prop := ∃ t, step s = .next t

/-- n steps go on from a state. -/
def safeFor : Nat → State → Prop
  | 0, _ => True
  | n + 1, s => ∃ t, step s = .next t ∧ safeFor n t

/-- A manager write reaches its register: the main domain is not in reset and no start is in progress (18 R485). -/
abbrev managerOpen (s : State) : Prop := s.starting = false ∧ s.inReset = false

/-- Engine e runs order o, whose record is v, and its bundle reads without a poisoned word (05, 16 R435). -/
abbrev engineRuns (s : State) (e : EngIx) (o : Nat) (v : Order) : Prop :=
  (eng s e.val).order = some o ∧ order? s o = some v ∧ bundlePoisoned s v (eng s e.val).core.pc = false

/-- A shipped routine is past its check of the arguments (07 R521): in its second phase, or with arguments that pass once
the bytes to be checked are in. Any other routine has no such check. -/
abbrev pastArgs (s : State) (v : Order) (second : Bool) : Prop :=
  second = true ∨ shipped s v = false ∨
  (libArgsOk v = true ∧ ¬ (v.routine = 0x44 ∧ v.inLen ≠ 0 ∧ v.inputIn = false))

/-- Engine e runs order o of library routine rn, and the order's input is in (07 R202). -/
abbrev routineRuns (s : State) (e : EngIx) (o : Nat) (v : Order) (rn : Nat) : Prop :=
  engineRuns s e o v ∧ v.routine = rn ∧ (v.inLen = 0 ∨ v.inputIn = true)

/-- Big-number engine b runs the slot program of order o, and its result is not fixed (09). -/
abbrev programRuns (s : State) (b : BnIx) (o : Nat) (v : Order) : Prop :=
  (bnEng s b).running = some o ∧ (bnEng s b).result = none ∧ order? s o = some v ∧ (bnEng s b).inProg = true

/-- Big-number engine b runs service operation op of order o on a set, and its result is not fixed (09). -/
abbrev serviceRuns (s : State) (b : BnIx) (o : Nat) (v : Order) (op : Fin 256) (set : Fin 64) : Prop :=
  (bnEng s b).running = some o ∧ (bnEng s b).result = none ∧ order? s o = some v ∧ v.hand.op = some (.service op set)

/-- An envelope passes every check of 10 R282. -/
abbrev envelopePasses (s : State) (h : EnvHdr) (kind : Nat) (m : Msg) : Prop := (acceptEnv s h kind m).2 = true

/-- The state in which a passed envelope has its effect: its checks counted and its sender heard (10 R282, R302). -/
abbrev heard (s : State) (h : EnvHdr) (kind : Nat) (m : Msg) : State := (acceptEnv s h kind m).1

/-- An envelope that passes its checks names group k, whose entry is g, and its sender holds place i there (11 R342). -/
abbrev groupHeard (s : State) (h : EnvHdr) (c : CuHdr) (kind : Nat) (body : List (Nat × Nat)) (k : Nat) (g : Group) (i : Nat) : Prop :=
  envelopePasses s h kind (cuMsg c body) ∧ groupIx (heard s h kind (cuMsg c body)) c.group = some k ∧
  groupOf (heard s h kind (cuMsg c body)) k = some g ∧
  placeOf (senderDesc g kind) c.pos = some i ∧ (descMembers (senderDesc g kind)).getD i 0 = h.sender.val

/-- A group command is taken: CU_GCMD is not BUSY, the module is READY, and steps 1 to 4 of 11 R343 pass. -/
abbrev groupGateOpen (s : State) : Prop :=
  managerOpen s ∧ rdF s 0x61018 24 24 ≠ 1 ∧ s.mode.ready = true ∧ isLocked s = false ∧ s.mode.lc = .production ∧
  s.cu.member.isNone = false ∧ s.mode.domain ≠ .isolated ∧ s.mode.time ≠ .free

end Machine
end Sys2Proof
end

