-- ==== Sys2Proof/Certificates/Slice0/Obligations.lean ====
section
/-! DEFINITION. The statements for the provers, in the terms of Safety.lean. -/

set_option linter.unusedVariables false

open Sys2Proof Sys2Proof.Machine

/-- With a command c at the front of the queue, step is exec of c on the state whose queue is the rest.
[03_porch_host_interface.md, 19_register_map.md] -/
def Obligations.StepRunsFrontCommand : Prop :=
  ∀ (c : Instr) (rest : List Instr) (s : State),
    step { s with pending := c :: rest } = exec c { s with pending := rest }

/-- With an empty queue a step goes on: an order that has passed beat D - 1 or its phase's window is stopped, a completion
due by its deadline is issued, a busy beat is noted, the rounds of the groups see the beat, and one beat of the time
base passes. While the time base runs, TB_RUN grows by 1; stopped, it stays. With no order overdue and none due, the
orders are as before the rounds. An overdue order alone in the table is ended as the deadline watchdog ends it, and a
due completion alone is issued. That an empty queue is a beat is the model's choice (log entry 2): the table has no
row for a tick. [02_domain_time.md, R8, R115] -/
def Obligations.EmptyQueuePassesOneBeat : Prop :=
  ∀ s : State, s.pending = [] →
    (let u := roundBeat (noteBusy (issueDue (stopOverdue s)))
     step s = .next (beatPass u) ∧ (beatPass u).pending = [] ∧ (beatPass u).adm.orders = u.adm.orders
      ∧ (beatPass u).mode = u.mode
      ∧ (u.tb.running = true → (beatPass u).tb.run = u.tb.run + 1)
      ∧ (u.tb.running = false → (beatPass u).tb.run = u.tb.run))
    ∧ ((∀ p ∈ s.adm.orders, overdue s p.2 = false ∧ completionDue s p.2 = false) →
        noteBusy (issueDue (stopOverdue s)) = noteBusy s ∧ (noteBusy s).adm.orders = s.adm.orders)
    ∧ (∀ o v, s.adm.orders = [(o, v)] → overdue s v = true → stopOverdue s = watchdogStop s o v)
    ∧ (∀ o v, s.adm.orders = [(o, v)] → completionDue s v = true → issueDue s = completeOrder s o [])

/-- For every command c and every state s: if exec c s answers a next state t, the queue of t is the queue of s. Only step
takes a command from the queue. [03_porch_host_interface.md] -/
def Obligations.CommandsKeepQueue : Prop :=
  ∀ (c : Instr) (s t : State), exec c s = .next t → t.pending = s.pending

/-- For every state s whose memories (frame windows, pantry pages, slot-area words, slot descriptors) are in canonical
form, addresses strictly rising and no entry equal to zero: if step s answers a next state t, the memories of t are in
canonical form. It holds over all commands, and over the beat that an empty queue lets pass. Equal memories are then
equal data, and a write reads back. [05_engine_core_isa.md, 09_bignum_engines.md] -/
def Obligations.EveryStepKeepsMemoryForm : Prop :=
  ∀ s t : State, memoryWf s = true → step s = .next t → memoryWf t = true

/-- The memories and the register file of State.reset are in their canonical form: nothing is listed. [19_register_map.md] -/
def Obligations.ResetMemoriesAreCanonical : Prop :=
  memoryWf State.reset = true ∧ regsWf State.reset = true ∧ State.reset.pending = []

/-- No command ever ends in a fault, in any state; and the only refusal is refusedByLoader, which an instruction answers
for a form that the loader refuses (05 R137, 06 R188, 09 R253), so that no engine meets it. [R137, R188, R253,
05_engine_core_isa.md] -/
def Obligations.RunningFormsNeverStop : Prop :=
  ∀ (c : Instr) (s : State),
    (∀ r, exec c s ≠ .fault r) ∧ (∀ r, exec c s = .refused r → r = .refusedByLoader)

/-- The table of commands numbers no bits: decodeTableWord answers none on every word, and withFetchWord leaves every
state as it is. This is the model's reading of the table (log entry 1). [19_register_map.md] -/
def Obligations.TableSpellsNoCommandBits : Prop :=
  ∀ (nbits w : Nat) (s : State), decodeTableWord nbits w = none ∧ s.withFetchWord nbits w = s

/-- After mainReset, whichever kind: the memories, the orders and charges, the engines, the big-number engines, the
derived keys, the time base, the PCI Express side and the noise source are at their reset values; SYS_MODE keeps only
the life-cycle state; OTP, BBRAM, the tamper policy latches, the cellar image, the durable journal, the roster and the
directory floors are kept; the attic's flash mirror is kept, and its SRAM entries are kept when warm and are gone when
not. [18_startup_and_discovery.md, R480, R472] -/
def Obligations.MainResetKeepsOnly : Prop :=
  ∀ (s : State) (warm : Bool), ∃ t, mainReset s warm = t
    ∧ t.inReset = true ∧ t.starting = false ∧ t.begun = false
    ∧ t.mem = {} ∧ t.adm = {} ∧ t.rooms = {} ∧ t.bn = {} ∧ t.keys = {} ∧ t.tb = {} ∧ t.pch = {} ∧ t.ns = {} ∧ t.st = {}
    ∧ t.mode = { lc := s.mode.lc }
    ∧ t.lc.otp = s.lc.otp ∧ t.bbram = s.bbram ∧ t.tp.policy = s.tp.policy
    ∧ t.ks.image = s.ks.image ∧ t.ks.durable = s.ks.durable ∧ t.ks.recs = [] ∧ t.ks.buffer = []
    ∧ t.cu.roster = s.cu.roster ∧ t.cu.member = s.cu.member ∧ t.ld.floors = s.ld.floors ∧ t.ld.dir = []
    ∧ t.ev.mirror = s.ev.mirror ∧ t.ev.entries = (if warm then s.ev.entries else [])

/-- A rise of PWR_OK with PERST_N high begins a power-up start (cause 1), and with PERST_N low only records the pin; a
rise of PERST_N with PWR_OK high begins the start whose cause is held, and with PWR_OK low only records the pin. A
fall of PWR_OK leaves the main domain reset with cause 1, and the shutters' fall time recorded. A fall of PERST_N out
of reset prepares without PCI Express writes, and holds the main domain in a warm reset with cause 2; in reset or
without power it records the pin. A write of 5A5Ah to SYS_RESET.CONFIRM out of reset prepares with writes, resets, and
begins a start of cause 3; in reset it changes nothing. Nothing else changes. [18_startup_and_discovery.md] -/
def Obligations.PinsBeginStartsAndHoldReset : Prop :=
  ∀ s : State,
    (s.pwrOk = false → s.perstN = true →
      exec .pwrOkRise s = .next { s with pwrOk := true, starting := true, inReset := false, cause := 1 })
    ∧ (s.pwrOk = false → s.perstN = false → exec .pwrOkRise s = .next { s with pwrOk := true })
    ∧ (s.perstN = false → s.pwrOk = true →
      exec .perstRise s = .next { s with perstN := true, starting := true, inReset := false })
    ∧ (s.perstN = false → s.pwrOk = false → exec .perstRise s = .next { s with perstN := true })
    ∧ (∀ now, s.pwrOk = true →
      exec (.pwrOkFall now) s
        = .next { mainReset s false with pwrOk := false, cause := 1, tp := { (mainReset s false).tp with fell := now } })
    ∧ (s.perstN = true → s.pwrOk = true → s.inReset = false →
      exec .perstFall s = .next { mainReset (prepareReset s false) true with perstN := false, cause := 2 })
    ∧ (s.perstN = true → (s.pwrOk = false ∨ s.inReset = true) → exec .perstFall s = .next { s with perstN := false })
    ∧ (s.inReset = false →
      exec .managerReset s
        = .next { mainReset (prepareReset s true) true with starting := true, inReset := false, cause := 3 })
    ∧ (s.inReset = true → exec .managerReset s = .next s)

/-- START, while a start has begun no stage, runs the start sequence startNow. Its step 2, of a state whose retention was
kept, decodes SYS_MODE.LC from the OTP marks, takes LOCK, ZEROIZED and the shutters' compatible mode into SYS_MODE,
sets VALID, starts TB_RUN at 0, samples the profile balls, and leaves BBRAM as it was. Step 3, with the lock flag
clear and no response left, queues E1's grant of key use for E2. The start-up test of a source with code 0 puts it
into service. With the root found the restore counter of starts grows by one; a first start stores a fresh root with a
start count of 1 and discards the cellar records, the domain and the signing keys. A finished retest goes on with a
start that waited for sources; the retest timer of such a start, one second after the last retest, retests every
failed source. [18_startup_and_discovery.md, 15_hearth_noise_source.md, 08_cellar_key_store.md, R482] -/
def Obligations.StartRunsItsStages : Prop :=
  ∀ s : State,
    (∀ i, s.starting = true → s.begun = false → exec (.start i) s = .next (startNow s i))
    ∧ (∀ psel : Fin 4, s.bbram.retentionLost = false →
        (startStep2 s psel).mode =
          { s.mode with lc := lcDecode s.lc.otp.marks, lock := s.bbram.lockFlag, zeroized := s.bbram.zeroized, tmode := s.tp.policy.compat, valid := true }
        ∧ (startStep2 s psel).tb.running = true ∧ (startStep2 s psel).tb.run = 0
        ∧ (startStep2 s psel).lc.psel = psel ∧ (startStep2 s psel).bbram = s.bbram)
    ∧ (∀ (i : StartIn) (r : Nat), i.hearth.getD r 0 = 0 →
        startTest i s r = serve s r (hsrc s r) ∧ (hsrc (startTest i s r) r).inService = true)
    ∧ (nextStart s).bbram = { s.bbram with startCount := s.bbram.startCount + 1 }
    ∧ (∀ hd, (firstStart s hd).bbram.rootValid = true ∧ (firstStart s hd).bbram.startCount = 1
        ∧ (firstStart s hd).bbram.check = rootCheck (firstStart s hd).bbram.root
        ∧ (firstStart s hd).ks.recs = [] ∧ (firstStart s hd).ks.fresh = true ∧ (firstStart s hd).cu = {} ∧ (firstStart s hd).ld.keys = [])
    ∧ (s.bbram.lockFlag = false → s.tp.left = [] → (startStep3 s).tp.keyUse = false
        ∧ (startStep3 s).tp.e2 = s.tp.e2 ++ [(Decision.keyUse, s.bbram.lockCount.toNat)])
    ∧ (∀ r fail, exec (.sourceRetestDone r fail) s = .next (startGoesOn (retestDone s r.val fail.val)))
    ∧ (s.starting = true → s.startIn.isSome = true → rdF s 0x30 15 8 = 6 → s.ns.retestRun + beatsPerSec ≤ runNow s →
        exec .sourceRetestTimer s
          = .next ((List.range 64).foldl sourceReturn { s with ns := { s.ns with retestRun := runNow s } }))

/-- Where manager writes are taken, SCAN_COMMAND sets ID_STATUS.BUSY (bit 9) and nothing else. Out of reset and start,
once BUSY is set or the period has passed since the last scan, DISCOVERY_SCAN ends a scan with its answers: scanDone.
A device that answers NAK is recorded absent with reason 1 and its NAK counted; a record that passes its checks makes
its device found. A record whose first word is not its magic number is refused with reason 2, and one of another type
with reason 3. [18_startup_and_discovery.md] -/
def Obligations.ScansOfTheSideband : Prop :=
  ∀ s : State,
    (managerOpen s → exec .scanCommand s = .next (wrF s 0xE0000 9 9 1))
    ∧ (∀ i, s.inReset = false → s.starting = false →
        (rdF s 0xE0000 9 9 = 1 ∨ s.sb.lastRun + scanPeriod s ≤ runNow s) →
        exec (.discoveryScan i) s = .next (scanDone s i false))
    ∧ (∀ (i : ScanIn) (d : Nat), i.devs.getD d .nak = .nak → scanDev i s d = devAbsent (cntUp s 0xE0020 31 16) d 1)
    ∧ (∀ (i : ScanIn) (d : Nat) (r1 r2 : BitVec 512), i.devs.getD d .nak = .record r1 r2 → recordErr d r1 = 0 →
        scanDev i s d = devFound s d r1)
    ∧ (∀ (d : Nat) (r : BitVec 512), bits r 31 0 ≠ 0x4D4C4843 → recordErr d r = 2)

/-- R398 allows seven pairs of states. Where manager writes are taken and LC_CMD is not busy: TRANSITION to an allowed
state, with nothing to resume, the token check passed and, from PRODUCTION, the two tickets present, waits for E2 with
the lock count of now and sets LC_STS.BUSY; one that is not allowed, or names no state, is refused with POLICY 70h.
DEBUG completes DONE in BLANK, waits for E2 in TEST and ANALYSIS once the token check passes, and is refused with
POLICY 70h in PRODUCTION and RETIRED. E2_EVALUATION takes the oldest waiting decision: an alarm both agree on changes
nothing else; a grant both agree on, at an unmoved lock count and no pending lock, is given; a moved lock count denies
it; a disagreement denies it and is a SPLIT. [14_lifecycle_otp_profiles.md, 13_shutters_tamper.md] -/
def Obligations.LifeCycleTransitionsAndDebug : Prop :=
  (∀ a b : LifeCycle, allowed a b = true ↔
      (a, b) ∈ [(.blank, .test), (.test, .production), (.production, .analysis), (.analysis, .retired), (.blank, .retired),
                (.test, .retired), (.production, .retired)])
  ∧ ∀ s : State,
    (∀ (target : Fin 8) (b : LifeCycle), managerOpen s → rdF s 0xA0018 24 24 ≠ 1 → lcOfCode target.val = some b →
        allowed (lcDecode s.lc.otp.marks) b = true → resuming s = false → tokenCheck s (markOf b) = none →
        (lcDecode s.lc.otp.marks = .production → (ticketPair s 0x0C target.val).isSome = true) →
        exec (.transition target) s
          = .next (wrF { s with tp := { s.tp with e2 := s.tp.e2 ++ [(.transition b, s.bbram.lockCount.toNat)] } } 0xA0018 24 24 1))
    ∧ (∀ target : Fin 8, managerOpen s → rdF s 0xA0018 24 24 ≠ 1 →
        (∀ b, lcOfCode target.val = some b → allowed (lcDecode s.lc.otp.marks) b = false) →
        exec (.transition target) s = .next (lcRefused s .policy 0x70))
    ∧ (managerOpen s → rdF s 0xA0018 24 24 ≠ 1 → s.mode.lc = .blank → exec .lcDebug s = .next (lcDone s .done 0xFF))
    ∧ (managerOpen s → rdF s 0xA0018 24 24 ≠ 1 → (s.mode.lc = .test ∨ s.mode.lc = .analysis) → tokenCheck s 4 = none →
        exec .lcDebug s
          = .next (wrF { s with tp := { s.tp with e2 := s.tp.e2 ++ [(.jtag, s.bbram.lockCount.toNat)] } } 0xA0018 24 24 1))
    ∧ (managerOpen s → rdF s 0xA0018 24 24 ≠ 1 → (s.mode.lc = .production ∨ s.mode.lc = .retired) →
        exec .lcDebug s = .next (lcDone s .policy 0x70))
    ∧ (∀ (d : Decision) (n now : Nat) (rest : List (Decision × Nat)), s.tp.e2 = (d, n) :: rest →
        (isAlarm d = true → exec (.e2Evaluation true now) s = .next { s with tp := { s.tp with e2 := rest } })
        ∧ (isAlarm d = false → s.bbram.lockCount.toNat = n → s.tp.lockPend = false →
            exec (.e2Evaluation true now) s = .next (grantGiven { s with tp := { s.tp with e2 := rest } } d)
            ∧ exec (.e2Evaluation false now) s
                = .next (splitEvent (grantDenied { s with tp := { s.tp with e2 := rest } } d) 63 32 now))
        ∧ (∀ agrees, isAlarm d = false → s.bbram.lockCount.toNat ≠ n →
            exec (.e2Evaluation agrees now) s = .next (grantDenied { s with tp := { s.tp with e2 := rest } } d)))

/-- Where manager writes are taken, LC_CMD is not busy and the module is not locked: in BLANK and TEST a PROFILE_WRITE of
a block that passes its checks stores the working copy of its slot; in PRODUCTION, with a ticket pair and fewer than
15 writes of the slot, it consumes the pair, counts the write and stores the profile; FIX_PROFILE_SEL in PRODUCTION
with a ticket pair and nothing fixed fixes the slot; SWITCH in TEST and PRODUCTION, whose target is at least 64 beats
ahead with a free entry and no profile entry, places a profile entry at the lowest free index. Each completes DONE.
The first due entry fires, and in FREE an entry of a custody kind is held; the first held entry fires once the status
has left FREE. [14_lifecycle_otp_profiles.md, 02_domain_time.md] -/
def Obligations.ProfilesAndTheirSchedule : Prop :=
  ∀ s : State,
    (∀ (slot : Fin 4) (l : List Byte), managerOpen s → rdF s 0xA0018 24 24 ≠ 1 → isLocked s = false →
        (s.mode.lc = .blank ∨ s.mode.lc = .test) → profileOk slot.val (l.take 266240) = true →
        exec (.profileWrite slot (.ok l)) s
          = .next (lcDone (withLc (noteWrite s slot.val) fun c =>
              { c with working := tins c.working slot.val (profileOf (l.take 266240)) }) .done 0xFF))
    ∧ (∀ (slot : Fin 4) (l : List Byte) p, managerOpen s → rdF s 0xA0018 24 24 ≠ 1 → isLocked s = false →
        s.mode.lc = .production → profileOk slot.val (l.take 266240) = true → profWrites s slot.val < 15 →
        ticketPair s 0x0A (profArgs slot.val (digestBytes (l.take 266240))) = some p →
        exec (.profileWrite slot (.ok l)) s
          = .next (lcDone (withLc (noteWrite (consumePair s p) slot.val) fun c => { c with
              otp := { c.otp with writes := tput 0 c.otp.writes slot.val (tget 0 c.otp.writes slot.val + 1) },
              stored := tins c.stored slot.val (profileOf (l.take 266240)) }) .done 0xFF))
    ∧ (∀ (slot : Fin 4) p, managerOpen s → rdF s 0xA0018 24 24 ≠ 1 → isLocked s = false → s.mode.lc = .production →
        s.lc.otp.fix = none → ticketPair s 0x0A (profArgs slot.val 0) = some p →
        exec (.fixProfileSel slot) s
          = .next (lcDone (consumePair { s with lc := { s.lc with otp := { s.lc.otp with fix := some slot } } } p) .done 0xFF))
    ∧ (∀ slot : Fin 4, managerOpen s → rdF s 0xA0018 24 24 ≠ 1 → isLocked s = false →
        (s.mode.lc = .test ∨ s.mode.lc = .production) → (tbNow s).toNat + 64 ≤ (rd s 0xA0038).toNat → s.tb.sched.length < 16 →
        s.mode.switch = false → (s.tb.sched.any fun e => e.2.kind == 1) = false →
        exec (.switch slot) s
          = (let e : Sched := ⟨1, false, rd s 0xA0038, BitVec.ofNat 16 (rdF s 0x10060 15 0 + 1), slot⟩
             .next (lcDone { s with tb := { s.tb with sched := tins s.tb.sched (schedFree s.tb.sched) e } } .done 0xFF)))
    ∧ (∀ (n : Fin 16) (e : Sched), tfind s.tb.sched n.val = some e → entryDue s e = true →
        (s.tb.sched.any fun q => entryDue s q.2 && firesBefore q (n.val, e)) = false →
        ((s.mode.time ≠ .free ∨ e.kind = 1) → exec (.schedEntryFire n) s = .next (fireEntry s n.val e))
        ∧ (s.mode.time = .free → e.kind ≠ 1 → exec (.schedEntryFire n) s
            = .next { s with tb := { s.tb with sched := tins s.tb.sched n.val { e with held := true } } }))
    ∧ (∀ (n : Fin 16) (e : Sched), tfind s.tb.sched n.val = some e → s.mode.time ≠ .free → e.held = true →
        (s.tb.sched.any fun q => q.2.held && firesBefore q (n.val, e)) = false →
        exec (.schedHeldEntryFire n) s = .next (fireEntry s n.val e))

/-- REGISTER_WRITE changes nothing in reset or beyond BAR0. During a start an 8-byte write to SYS_RESET acts and every
other write is refused with kind 3. After it, the slice 0 doorbell page follows its own rule; a write that is not of 8
aligned bytes is refused with kind 1 and one to an unassigned offset with kind 2; a refused access changes only
SYS_ACC, which counts it (saturating) and records write, kind and offset. A register of the EC block keeps its read-
only bits, takes the written bits of its RW fields, and clears the W1C bits written 1. A slot-area or slot-table
offset of the larder goes to its engine; nothing else changes in these cases. [19_register_map.md,
18_startup_and_discovery.md] -/
def Obligations.RegisterWritesReachTheirBlock : Prop :=
  ∀ (s : State) (off size : Nat) (v : Word),
    (s.inReset = true → exec (.registerWrite off size v) s = .next s)
    ∧ (0x1000000 ≤ off → exec (.registerWrite off size v) s = .next s)
    ∧ (s.inReset = false → s.starting = true → off < 0x1000000 →
        exec (.registerWrite off size v) s
          = .next (if off = 0x38 ∧ size = 8 then resetWrite s v else accRefused s off 3 true))
    ∧ (managerOpen s → 0x21000 ≤ off → off < 0x21028 →
        exec (.registerWrite off size v) s = .next (doorbell s 0 none (off - 0x21000) size v))
    ∧ (managerOpen s → off < 0x1000000 → (off < 0x21000 ∨ 0x21028 ≤ off) → (size ≠ 8 ∨ off % 8 ≠ 0) →
        exec (.registerWrite off size v) s = .next (accRefused s off 1 true))
    ∧ (managerOpen s → off < 0x1000000 → (off < 0x21000 ∨ 0x21028 ≤ off) → off % 8 = 0 →
        (off < 0x400000 ∨ 0x800000 ≤ off) → regDesc off = none →
        exec (.registerWrite off 8 v) s = .next (accRefused s off 2 true))
    ∧ (∀ d, managerOpen s → off / 0x10000 = 12 → off % 8 = 0 → regDesc off = some d →
        exec (.registerWrite off 8 v) s
          = .next (wr s off (((rd s off &&& ~~~(BitVec.ofNat 64 d.rw)) ||| (v &&& BitVec.ofNat 64 d.rw))
              &&& ~~~(v &&& BitVec.ofNat 64 d.w1c))))
    ∧ (managerOpen s → 0x400000 ≤ off → off < 0x800000 → off % 8 = 0 → (off - 0x400000) % 0x40000 < 0x20000 →
        exec (.registerWrite off 8 v) s
          = .next (windowWrite s (bnIx ((off - 0x400000) / 0x40000)) ((off - 0x400000) % 0x40000 / 8) v))
    ∧ (∀ (kind : Nat) (w : Bool), accRefused s off kind w
        = wr s 0 (BitVec.ofNat 64 (fld (min 0xFFFFFFFF (rdF s 0 63 32 + 1)) 32 + fld (b2n w) 31 + fld kind 29 + off % 2 ^ 24)))

/-- While the rate trim is within its limit of 256 ppm (1,099,511 in units of 2⁻³²) and the fraction is within one cycle,
a beat lasts between 998 and 1,002 cycles and leaves a fraction within one cycle; the rate trim's own share and at
most one cycle of phase slew make it up. An accepted edge and an acquisition leave the rate trim within its limit.
[R35] -/
def Obligations.BeatLengthStaysWithinTwoCycles : Prop :=
  (∀ t : Tb, -1099511 ≤ t.rate → t.rate ≤ 1099511 → 0 ≤ t.frac → t.frac < 4294967296 →
      998 ≤ (beatLength t).1 ∧ (beatLength t).1 ≤ 1002 ∧ 0 ≤ (beatLength t).2 ∧ (beatLength t).2 < 4294967296
      ∧ (∃ slew : Int, -1 ≤ slew ∧ slew ≤ 1 ∧ (beatLength t).1 = 1000 + (t.frac + 1000 * t.rate) / 4294967296 + slew))
  ∧ (∀ (s : State) (c off : Nat), -1099511 ≤ s.tb.rate → s.tb.rate ≤ 1099511 →
      -1099511 ≤ (edgeAccept s c off).tb.rate ∧ (edgeAccept s c off).tb.rate ≤ 1099511)
  ∧ (∀ (s : State) (sec c gap : Nat),
      -1099511 ≤ (acquire s sec c gap).tb.rate ∧ (acquire s sec c gap).tb.rate ≤ 1099511)

/-- In LOCKED, 1,572,864 beats on the run count after the last accepted edge, HOLDOVER_TIMEOUT makes the time status
HOLDOVER and sets TB_EVT.HOLD_ENTER, and changes no other mode field. In HOLDOVER, once the uncertainty reaches
TB_HOLD_CFG.LIMIT, FREE_ENTRY makes the status FREE, sets TB_EVT.FREE_ENTER and ends the parked orders with
TIME_UNTRUSTED. [02_domain_time.md] -/
def Obligations.TimeStatusChanges : Prop :=
  ∀ s : State,
    (s.mode.time = .locked → s.tb.heardRun + 1572864 ≤ runNow s →
      exec .holdoverTimeout s = .next (evt (setMode s fun m => { m with time := .holdover }) 1 1)
      ∧ (evt (setMode s fun m => { m with time := .holdover }) 1 1).mode = { s.mode with time := .holdover })
    ∧ (s.mode.time = .holdover → rdF s 0x10038 47 16 ≤ uncert s →
      (let t := evt (setMode { s with tb := { s.tb with acqEdge := none } } fun m => { m with time := .free }) 1 2
       exec .freeEntry s = .next (endAll t (fun v => v.phase == .parked) .timeUntrusted)
       ∧ t.mode = { s.mode with time := .free }))

/-- TB_LABEL_WRITE, where manager writes are taken, arms the label, stores it in TB_LABEL and discards a pending step. A
pending step not approved within 300 s is discarded with cause 1. The window of an acquisition edge closes: an edge
not counted is rejected. A rejected edge leaves the time base and the mode as they are. In LOCKED an edge outside
1,048,366,285 to 1,048,785,715 raw cycles after the last accepted one is rejected, and one inside is accepted. A beat
that brings the domain time, out of FREE, to a whole second that is a multiple of 64 makes a floor write due, and the
write stores those seconds in BBRAM as a valid floor; in FREE a due write falls. Cancelling a profile entry empties
and records it, and any other cancellation is only recorded. In a switch, ROOM_APPLY_GENERATION sets the room's bit of
TB_ROOM_APPLIED, and the last of the 64 ends the switch. [02_domain_time.md] -/
def Obligations.TimeLabelsStepsAndEdges : Prop :=
  ∀ s : State,
    (∀ sec : BitVec 44, managerOpen s →
      ∃ t, exec (.tbLabelWrite sec) s = .next t ∧ t.tb.label = some sec.toNat ∧ t.tb.run = s.tb.run ∧ t.tb.offset = s.tb.offset
        ∧ t.mode = s.mode ∧ t.tb.step = none)
    ∧ (∀ p, s.tb.step = some p → p.approved = false → p.run + 300 * 1048576 ≤ runNow s →
      exec .stepApprovalTimeout s
        = .next (evtRec { s with tb := { s.tb with step := none } } 1 6 (srcWord 0 0) (p.sec % 2 ^ 48 + fld 1 48)))
    ∧ (∀ c0 counted gap0, s.tb.acqEdge = some (c0, counted, gap0) → c0 + 1048785715 < s.tb.cycle →
      exec .acqWindowClose s
        = (let t := { s with tb := { s.tb with acqEdge := none } }
           .next (if counted then t else rejectEdge t gap0)))
    ∧ (∀ gap, (rejectEdge s gap).tb = s.tb ∧ (rejectEdge s gap).mode = s.mode)
    ∧ (∀ off, exec (.timepulseEdge off) s = .next (approveStep (timepulse s off)))
    ∧ (∀ (off : Nat) (l : Nat × Nat), s.tb.running = true → s.mode.time = .locked → s.tb.lastEdge = some l →
      (let gap := s.tb.cycle + off - l.1
       timepulse s off = if 1048366285 ≤ gap ∧ gap ≤ 1048785715 then edgeAccept s (s.tb.cycle + off) off else rejectEdge s gap))
    ∧ (∀ sec, s.tb.floorDue = some sec →
      (s.mode.time ≠ .free → exec .timeFloorWrite s
        = .next { s with tb := { s.tb with floorDue := none }, bbram := { s.bbram with floor := sec, floorValid := true } })
      ∧ (s.mode.time = .free → exec .timeFloorWrite s = .next { s with tb := { s.tb with floorDue := none } }))
    ∧ (s.tb.running = true → s.mode.time ≠ .free → bits (tbNow (tick s)) 19 0 = 0 → secNow (tick s) % 64 = 0 →
      (tick s).tb.floorDue = some (secNow (tick s)))
    ∧ (∀ (n : Fin 16) (e : Sched), managerOpen s → tfind s.tb.sched n.val = some e →
      (e.kind = 1 → exec (.schedCancel n) s
        = .next (report { s with tb := { s.tb with sched := tdel s.tb.sched n.val } } cancelCode (srcWord 0 0) (schedData n.val e)))
      ∧ (e.kind ≠ 1 → exec (.schedCancel n) s = .next (report s cancelIdleCode (srcWord 0 0) 0)))
    ∧ (∀ r : Room, s.mode.switch = true →
      (rd (wrF s 0x10068 r.val r.val 1) 0x10068 ≠ 0xFFFFFFFFFFFFFFFF →
        exec (.roomApplyGeneration r) s = .next (wrF s 0x10068 r.val r.val 1))
      ∧ (rd (wrF s 0x10068 r.val r.val 1) 0x10068 = 0xFFFFFFFFFFFFFFFF →
        ∃ t, exec (.roomApplyGeneration r) s = .next t ∧ t.mode = { s.mode with switch := false } ∧ t.tb = s.tb))

/-- LINK_UP records the link's width and speed and leaves L1; BUS_MASTER_ENABLE_CHANGE sets the bit of its function;
POWER_STATE_CHANGE records D3hot of PF0: each then lets a function that can issue again record its outage and send its
pending messages (resumeFunction), while one that cannot issue changes nothing more. LINK_DOWN takes the link down at
once and changes nothing else. MSIX_UNMASK clears the mask of its vector and lets a pending message out. L1_ENTRY
enters L1 exactly when the link is up, every slice is idle, and PCH_L1_CFG.IDLE beats have passed since the last beat
in which one was not. [03_porch_host_interface.md, 01_architecture.md] -/
def Obligations.LinkAndPowerEvents : Prop :=
  ∀ s : State,
    (∀ (w : Fin 5) (v : Fin 6), exec (.linkUp w v) s
      = .next (resumeFunction (resumeFunction { s with pch := { s.pch with up := true, width := w.val, speed := v.val, l1 := false } } false) true))
    ∧ exec .linkDown s = .next { s with pch := { s.pch with up := false, width := 0, speed := 0, l1 := false } }
    ∧ (∀ on, exec (.busMasterEnableChange true on) s = .next (resumeFunction { s with pch := { s.pch with bme1 := on } } true)
        ∧ exec (.busMasterEnableChange false on) s = .next (resumeFunction { s with pch := { s.pch with bme0 := on } } false))
    ∧ (∀ d, exec (.powerStateChange d) s = .next (resumeFunction { s with pch := { s.pch with d3hot := d } } false))
    ∧ (∀ pf1, canIssue s pf1 = false → resumeFunction s pf1 = s)
    ∧ (∀ pf1, canIssue s pf1 = true → resumeFunction s pf1 = flushMsix (endOutage s fun sl => (sl == 0) == pf1) pf1)
    ∧ (∀ v : Fin 2048, exec (.msixUnmask true v) s
          = .next (flushMsix { s with pch := { s.pch with masked1 := tput true s.pch.masked1 v.val false } } true)
        ∧ exec (.msixUnmask false v) s
          = .next (flushMsix { s with pch := { s.pch with masked0 := tput true s.pch.masked0 v.val false } } false))
    ∧ (s.pch.up = true → allIdle s = true → s.pch.busyRun + rdF s 0x20038 15 0 ≤ runNow s → exec .l1Entry s = .next { s with pch := { s.pch with l1 := true } })
    ∧ ((s.pch.up = false ∨ allIdle s = false ∨ runNow s < s.pch.busyRun + rdF s 0x20038 15 0) → exec .l1Entry s = .next s)

/-- Where manager writes are taken, SLICE_ENABLE of a slice other than slice 0 sets SLT_BIND.ENABLE, and changes nothing
else, when no other enabled slice is bound to its PASID; when one is, ENABLE stays as it is and PCH_EVT.BIND_REFUSED
is set. Slice 0 is enabled without that check, and its PASID is not counted for others. [R70] -/
def Obligations.SliceEnableAndPasidRule : Prop :=
  ∀ (sl : Slice) (s : State), managerOpen s →
    (sl ≠ 0 → (∀ t, t < 1024 → t ≠ sl.val → t ≠ 0 → enabled s t = true → pasidOf s t ≠ pasidOf s sl.val) →
      exec (.sliceEnable sl) s = .next (wrF s (sltBase sl.val) 63 63 1))
    ∧ (sl ≠ 0 → (∃ t, t < 1024 ∧ t ≠ sl.val ∧ t ≠ 0 ∧ enabled s t = true ∧ pasidOf s t = pasidOf s sl.val) →
      exec (.sliceEnable sl) s = .next (evt s 2 7))
    ∧ (sl = 0 → exec (.sliceEnable sl) s = .next (wrF s (sltBase 0) 63 63 1))

/-- Where manager writes are taken and PCH_QCMD_STS.BUSY is 1, a create, delete or abort command, and a write of PCH_QCMD
with any value, does nothing but set PCH_EVT.QCMD_IGN (bit 8 of block 2). [R78] -/
def Obligations.QueueCommandsWhileBusyAreIgnored : Prop :=
  ∀ (sl : Slice) (q : PairIx) (s : State), managerOpen s → rdF s 0x20018 16 16 = 1 →
    exec (.queueCreate sl q) s = .next (evt s 2 8)
    ∧ exec (.queueDelete sl q) s = .next (evt s 2 8)
    ∧ exec (.sliceAbort sl) s = .next (evt s 2 8)
    ∧ ∀ v : Word, exec (.registerWrite 0x20010 8 v) s = .next (evt s 2 8)

/-- Where manager writes are taken: SLICE_DISABLE clears ENABLE and completes the slice's fetched and parked orders with
ABORTED; SLICE_REBIND of a disabled, inactive slice stores PASID, tenant tag and generation, and of an enabled or
active one changes nothing but PCH_EVT.BIND_REFUSED. With no queue command in progress: QUEUE_CREATE of a pair not
created, on an enabled slice, with a size code of at most 10, aligned bases and room among 4,096 queues, creates the
pair with both ring positions 0, phase 1 and DONE; on a slice that is not enabled it answers POLICY; QUEUE_DELETE of a
created pair marks it deleting, ends its fetched and parked orders with ABORTED and sets BUSY; QUEUE_DELETE_DONE, once
no order of the pair is left, frees it with DONE; SLICE_ABORT completes the slice's fetched, parked and accepted
orders with ABORTED, and answers DONE. [03_porch_host_interface.md] -/
def Obligations.SlicesAndQueuePairs : Prop :=
  ∀ (sl : Slice) (q : PairIx) (s : State),
    (managerOpen s → exec (.sliceDisable sl) s
      = .next (abortParked (abortFetched (wrF s (sltBase sl.val) 63 63 0) fun g => sliceOfQ g == sl.val) fun g => sliceOfQ g == sl.val))
    ∧ (∀ (pasid : BitVec 20) (tenant : BitVec 16) (gen : BitVec 6), managerOpen s →
      (pasidOf s sl.val ≠ pasid.toNat ∨ tenantOf s sl.val ≠ tenant.toNat ∨ sliceGen s sl.val ≠ gen.toNat) →
      (enabled s sl.val = false → sliceActive s sl.val = false → exec (.sliceRebind sl pasid tenant gen) s
        = .next (wrF s (sltBase sl.val) 41 0 (pasid.toNat + fld tenant.toNat 20 + fld gen.toNat 36)))
      ∧ ((enabled s sl.val = true ∨ sliceActive s sl.val = true) → exec (.sliceRebind sl pasid tenant gen) s = .next (evt s 2 7)))
    ∧ (managerOpen s → rdF s 0x20018 16 16 ≠ 1 → enabled s sl.val = true → tfind s.pch.queues (4 * sl.val + q.val) = none →
      rdF s (qCfgAddr sl.val q.val) 3 0 ≤ 10 → bits (rd s (sqBaseAddr sl.val q.val)) 11 0 = 0 →
      bits (rd s (cqBaseAddr sl.val q.val)) 11 0 = 0 → 2 * s.pch.queues.length + 2 ≤ 4096 →
      (let v : Queue := { sqBase := rd s (sqBaseAddr sl.val q.val), cqBase := rd s (cqBaseAddr sl.val q.val),
                          size := 64 * 2 ^ rdF s (qCfgAddr sl.val q.val) 3 0 }
       exec (.queueCreate sl q) s = .next (qcmdStatus (setQueue s (4 * sl.val + q.val) v) .done)
       ∧ v.phase = true ∧ v.tail = 0 ∧ v.cqPos = 0 ∧ v.consumed = 0))
    ∧ (managerOpen s → rdF s 0x20018 16 16 ≠ 1 → enabled s sl.val = false →
      exec (.queueCreate sl q) s = .next (qcmdStatus s .policy))
    ∧ (∀ v, managerOpen s → rdF s 0x20018 16 16 ≠ 1 → tfind s.pch.queues (4 * sl.val + q.val) = some v →
      exec (.queueDelete sl q) s
        = .next (wrF (abortParked (abortFetched (setQueue s (4 * sl.val + q.val) { v with deleting := true })
            fun g => g == 4 * sl.val + q.val) fun g => g == 4 * sl.val + q.val) 0x20018 16 16 1))
    ∧ (∀ v, tfind s.pch.queues (4 * sl.val + q.val) = some v → v.deleting = true →
      (s.adm.orders.any fun p => !p.2.intern && qnum p.2.slice.val p.2.pair.val == 4 * sl.val + q.val) = false →
      exec (.queueDeleteDone sl q) s
        = .next (qcmdStatus { s with pch := { s.pch with queues := tdel s.pch.queues (4 * sl.val + q.val) } } .done))
    ∧ (managerOpen s → rdF s 0x20018 16 16 ≠ 1 → exec (.sliceAbort sl) s
      = .next (qcmdStatus (endAll (abortParked (abortFetched s fun g => sliceOfQ g == sl.val) fun g => sliceOfQ g == sl.val)
          (fun v => v.accepted && !v.intern && v.slice.val == sl.val) .aborted) .done))

/-- A write to the doorbell page of an enabled slice, with no PASID tag for slice 0 and no foreign one for another slice,
of 8 bytes at 00h or 08h or 4 bytes at the lower half: naming a created pair that is not being deleted, with an index
below the ring size, SQ_TAIL stores the tail and CQ_HEAD releases the entries up to the head, and the link leaves L1,
whose idle count begins again; nothing else changes. With another index, or a pair not created or being deleted, it is
discarded as a doorbell error. A write to the page of a slice other than slice 0 under a foreign PASID tag only counts
a spoof (SLICE_STATUS and PCH counters) and sets PCH_EVT.SPOOF; an untagged one to a slice that is not enabled changes
nothing; a tagged one to page 0 of PF0 only sets the doorbell-error event. [03_porch_host_interface.md] -/
def Obligations.DoorbellWrites : Prop :=
  (∀ (sl : Slice) (pasid : Option (BitVec 20)) (size : Nat) (val : Word) (s : State),
    (sl = 0 → pasid = none) → (∀ p, pasid = some p → p.toNat = pasidOf s sl.val) → enabled s sl.val = true →
    (size = 8 ∨ size = 4) →
    (let v := if size = 4 then val.toNat % 2 ^ 32 else val.toNat
     let g := 4 * sl.val + v / 65536 % 4
     (∀ q, tfind s.pch.queues g = some q → q.deleting = false → v % 65536 < q.size →
        exec (.sqTailWrite sl pasid 0 size val) s
          = (let s1 := setQueue s g { q with tail := v % 65536 }
             .next { s1 with pch := { s1.pch with l1 := false, busyRun := runNow s } })
        ∧ exec (.cqHeadWrite sl pasid 8 size val) s
          = (let s1 := setQueue s g (releaseCq q (v % 65536))
             .next { s1 with pch := { s1.pch with l1 := false, busyRun := runNow s } }))
     ∧ ((∀ q, tfind s.pch.queues g = some q → q.deleting = true ∨ q.size ≤ v % 65536) →
        exec (.sqTailWrite sl pasid 0 size val) s = .next (dbError s sl.val)
        ∧ exec (.cqHeadWrite sl pasid 8 size val) s = .next (dbError s sl.val))))
  ∧ (∀ (sl : Slice) (p : BitVec 20) (off size : Nat) (val : Word) (s : State),
    (sl ≠ 0 → p.toNat ≠ pasidOf s sl.val →
      exec (.sqTailWrite sl (some p) off size val) s
        = .next (evt (cntUp (cntUp s (pageAddr sl.val 0x10) 63 48) 0x20030 31 0) 2 0)
      ∧ exec (.cqHeadWrite sl (some p) off size val) s
        = .next (evt (cntUp (cntUp s (pageAddr sl.val 0x10) 63 48) 0x20030 31 0) 2 0))
    ∧ (enabled s sl.val = false → exec (.sqTailWrite sl none off size val) s = .next s
        ∧ exec (.cqHeadWrite sl none off size val) s = .next s)
    ∧ exec (.sqTailWrite 0 (some p) off size val) s = .next (evt s 2 1))

/-- SQ_BATCH_FETCH takes at most 32 entries, no more than are unconsumed, and keeps the fetched and unreleased orders
within the ring size. The pair whose turn it is has entries that may be fetched, on an enabled slice whose function
can issue, and no other such pair comes earlier, slices in turn after the last one fetched and pairs in turn within a
slice. With fetching running, the pair's turn come and a channel with a free bank, when every entry reads, they are
read under the slice's PASID from their ring addresses, the turn is noted, and they go into one bank in ring order,
the fetch position and the credit advance by their number, and the channel's write counter by one; nothing else
changes. Out of its turn, or with fetching stopped, a pair fetches nothing. [03_porch_host_interface.md] -/
def Obligations.OrdersAreFetchedInBatches : Prop :=
  ∀ (sl : Slice) (p : PairIx) (l : List OrderWord) (s : State) (q : Queue), tfind s.pch.queues (4 * sl.val + p.val) = some q →
    fetchRoom q ≤ 32 ∧ (q.credit ≤ q.size → fetchRoom q + q.credit ≤ q.size) ∧ fetchRoom q ≤ (q.tail + q.size - q.fetch) % q.size
    ∧ (∀ (ix : Nat) (d : OrderWord) (r : List (HostRead OrderWord)), takeEntries q ix (.ok d :: r)
        = (⟨ix, d, false⟩ :: (takeEntries q ((ix + 1) % q.size) r).1, (takeEntries q ((ix + 1) % q.size) r).2))
    ∧ (∀ g, nextFetch s = some g → ∃ qg, (g, qg) ∈ s.pch.queues ∧ fetchable s g qg = true ∧
        ∀ x ∈ s.pch.queues, fetchable s x.1 x.2 = true →
          8 * turnTo 1024 s.pch.rrSlice (sliceOfQ g) + turnTo 4 (tget 3 s.pch.rrPair (sliceOfQ g)) (g % 4)
            ≤ 8 * turnTo 1024 s.pch.rrSlice (sliceOfQ x.1) + turnTo 4 (tget 3 s.pch.rrPair (sliceOfQ x.1)) (x.1 % 4))
    ∧ (s.pch.fetching = true → nextFetch s = some (4 * sl.val + p.val) →
        (tget {} s.pch.chans ((4 * sl.val + p.val) % 8)).banks.length < 2 → l ≠ [] → l.length ≤ fetchRoom q →
        (let t := takeEntries q q.fetch (l.map HostRead.ok)
         let chan := tget {} s.pch.chans ((4 * sl.val + p.val) % 8)
         let c1 : Channel := { chan with banks := chan.banks ++ [⟨4 * sl.val + p.val, t.1⟩], wcnt := chan.wcnt + 1 }
         let s0 := hostRead (tookTurn s sl.val p.val) sl (q.sqBase.toNat + 64 * q.fetch) (64 * l.length)
         let s1 := setQueue s0 (4 * sl.val + p.val) { q with fetch := (q.fetch + l.length) % q.size, credit := q.credit + l.length }
         t.1.length = l.length ∧ t.2 = [] ∧
         exec (.sqBatchFetch sl p (l.map HostRead.ok)) s
          = .next { s1 with pch := { s1.pch with chans := tput {} s1.pch.chans ((4 * sl.val + p.val) % 8) c1 } }))
    ∧ (∀ es, (s.pch.fetching = false ∨ nextFetch s ≠ some (4 * sl.val + p.val)) →
        exec (.sqBatchFetch sl p es) s = .next s)

/-- ORDER_DISPATCH takes the order at the head of a channel's first bank. With no bad word: an order that passes R87 is
consumed and goes through the order-level checks to the porter; a slice tag that is not its slice's own is a SPOOF,
counted and completed; a malformed order is completed MALFORMED and the rest of its bank is dropped; another refusal
is completed with its status. An order whose entry could not be read twice is completed with POISON. The slice tag is
checked before the generation, and a routine not in the directory is MALFORMED. [03_porch_host_interface.md,
01_architecture.md] -/
def Obligations.DispatchFollowsThePorchChecks : Prop :=
  ∀ (ch : Fin 8) (s : State) (g : Nat) (x : BankSlot) (more : List BankSlot) (c : Channel),
    takeSlot (tget {} s.pch.chans ch.val) = some (g, x, more, c) →
    (let s0 := { s with pch := { s.pch with chans := tput {} s.pch.chans ch.val c } }
     let v := slotOrder g x
     let s1 := consume s0 g x.ix
     (x.bad = true → exec (.orderDispatch ch 0 0) s = .next (refuse s1 { v with noCookie := true } .poison (BitVec.ofNat 64 x.ix)))
     ∧ (x.bad = false →
        (∀ im, porchCheck s1 v = .ok im → exec (.orderDispatch ch 0 0) s = .next (admitChecked s1 v im))
        ∧ (porchCheck s1 v = .error .spoof → exec (.orderDispatch ch 0 0) s = .next (refuse (countSpoof s1 v.slice.val) v .spoof 0))
        ∧ (porchCheck s1 v = .error .malformed → exec (.orderDispatch ch 0 0) s
            = .next (dropRest (refuse s1 v .malformed 0) ch.val g (x.ix + 1) more.length (!more.isEmpty)))
        ∧ (porchCheck s1 v = .error .policy → exec (.orderDispatch ch 0 0) s = .next (refuse s1 v .policy 0))))
    ∧ (∀ v : Order, v.tag % 1024 ≠ v.slice.val → porchCheck s v = .error .spoof)
    ∧ (∀ (v : Order) (h : Hdr), s.mode.lc = .retired → orderCheck s v h = some .locked)
    ∧ (∀ (v : Order) (h : Hdr), s.mode.lc = .production → s.mode.lock = true → orderCheck s v h = some .locked)

/-- COMPLETION_WRITE of an ended order of a slice that can issue and whose pair is created writes the completion of 32
bytes into the next CQ entry: when the order has no output bytes, or its output bursts are the pages of its own output
window, the output is written first; both carry the slice and its PASID. A burst elsewhere fails the porch's
doorframe. The position advances, and wraps to 0 with the phase inverted. When the function cannot issue, the
completion is discarded and counted. Then the order is gone. IRQ_COAL_TIMEOUT sends the pair's vector once the
coalescing time has passed since the oldest counted completion. [03_porch_host_interface.md] -/
def Obligations.CompletionsAreWrittenInOrderOfTheRing : Prop :=
  ∀ (o : Nat) (s : State) (v : Order) (st : Status) (inl : Word),
    order? s o = some v → v.outcome = some (st, inl) → v.intern = false →
    (let g := 4 * v.slice.val + v.pair.val
     (∀ bursts, canIssue s (v.slice.val == 0) = false → exec (.completionWrite o bursts) s = .next (forget (discardCompletion s v g) o))
     ∧ (∀ q, canIssue s (v.slice.val == 0) = true → tfind s.pch.queues g = some q →
        (∀ bursts, outputBytes v st = none → exec (.completionWrite o bursts) s
          = .next (forget (completionIrq (writeCompletion s v st inl g q) v g) o))
        ∧ (∀ l s1 bursts, outputBytes v st = some l → s1 = { s with out := .output v.slice (prefixOf s v.slice) (BitVec.ofNat 64 v.outIova) l :: s.out } →
          (bursts.all (porchGrants v false) = true → exec (.completionWrite o bursts) s = .next (forget (completionIrq (writeCompletion s1 v st inl g q) v g) o))
          ∧ (bursts.all (porchGrants v false) = false → exec (.completionWrite o bursts) s = .next (porchDoor s o v false)))
        ∧ (∀ s1 : State, s1 = { s with out := .completion v.slice (prefixOf s v.slice) v.pair q.cqPos (completionWord s v st inl g q.phase) :: s.out } →
          (q.cqPos + 1 ≠ q.size → writeCompletion s v st inl g q = setQueue s1 g { q with cqPos := q.cqPos + 1, unread := q.unread + 1 })
          ∧ (q.cqPos + 1 = q.size → writeCompletion s v st inl g q = setQueue s1 g { q with cqPos := 0, phase := !q.phase, unread := q.unread + 1 }))))
    ∧ (∀ (sl : Slice) (p : PairIx) (q : Queue) (cfg : Word), rd s (qCfgAddr sl.val p.val) = cfg → tfind s.pch.queues (4 * sl.val + p.val) = some q →
        bit cfg 40 = true → q.coalCnt ≠ 0 → bits cfg 39 24 ≠ 0 → q.coalRun + bits cfg 39 24 ≤ runNow s →
        exec (.irqCoalTimeout sl p) s = .next (sendMsix (setQueue s (4 * sl.val + p.val) { q with coalCnt := 0 }) (sl.val == 0)
          (if sl.val = 0 then 16 + p.val else bits cfg 14 4)))

/-- Where manager writes are taken: GRANT, when its three words pass R103, puts the written grant into force with its
units placed, sets GRANTED and answers DONE; when they fail, the layout stays, the words return to the grant in force,
and the refusal is answered and recorded. GRANT_RELEASE takes the grant and its units out. BE_CFG_WRITE that keeps
every room's granted density within its capacity stores DMAX (0 read as 1, limited to 8000h) and the two shares; one
that does not is only an event. The capacity may be negative, and then holds nothing. PARK_RELEASE, once the not-
before time has come, decides the parked order under the routine's image in force, or completes it MALFORMED when the
routine is gone. CHARGE_RELEASE at or after the release beat frees all but staging of the order's charge.
BUSY_HINT_CLEAR clears the hint at its retry beat. [04_admission_contract.md] -/
def Obligations.AdmissionCommands : Prop :=
  ∀ s : State,
    (∀ (sl : Slice) (c : Sys2Proof.Class), managerOpen s →
      (∀ us, grantCheck s s.adm.grants s.adm.units (8 * sl.val + c.val) (writtenGrant s sl.val c.val) = .ok us →
        exec (.grant sl c) s
          = (let a := { s.adm with grants := tins s.adm.grants (8 * sl.val + c.val) (writtenGrant s sl.val c.val), units := us }
             .next (admStatus (wrF { s with adm := a } (auxAddr sl.val c.val) 0 0 1) .done 0xFF)))
      ∧ (∀ e, grantCheck s s.adm.grants s.adm.units (8 * sl.val + c.val) (writtenGrant s sl.val c.val) = .error e →
        exec (.grant sl c) s = .next (grantRefused (admStatus
          (writeGrantWords s sl.val c.val (tfind s.adm.grants (8 * sl.val + c.val))) e.1 e.2) sl.val c.val e.1 e.2))
      ∧ exec (.grantRelease sl c) s
          = (let us := s.adm.units.filter fun u => u.key != 8 * sl.val + c.val
             let a := { s.adm with grants := tdel s.adm.grants (8 * sl.val + c.val), units := us }
             .next (admStatus (wrF { s with adm := a } (auxAddr sl.val c.val) 0 0 0) .done 0xFF)))
    ∧ (∀ v : Word, managerOpen s →
      ((∀ r, r < 64 → capHolds (engIn s r) (dmaxWith s.adm.grants (dmaxRead (bits v 15 0)) r) (grantedIn s.adm.grants r) = true) →
        exec (.beCfgWrite v) s
          = .next (wr s 0x30020 (BitVec.ofNat 64 (dmaxRead (bits v 15 0) + fld (bits v 23 16) 16 + fld (bits v 39 32) 32))))
      ∧ ((∃ r, r < 64 ∧ capHolds (engIn s r) (dmaxWith s.adm.grants (dmaxRead (bits v 15 0)) r) (grantedIn s.adm.grants r) = false) →
        exec (.beCfgWrite v) s = .next (evt s 3 1)))
    ∧ (∀ e dmax den, capHolds e dmax den = true ↔ (den : Int) ≤ (if e = 0 then 0 else (e : Int) * 65536 - ((e : Int) - 1) * (dmax : Int)))
    ∧ dmaxRead 0 = 1 ∧ (∀ n, n ≠ 0 → dmaxRead n = min n 0x8000)
    ∧ (∀ (o : Nat) (v : Order) (s1 : State), order? s o = some v → v.phase = .parked → v.notBefore ≤ (tbNow s).toNat →
      s1 = { s with adm := { s.adm with orders := tdel s.adm.orders o, park := s.adm.park.filter (· != o) } } →
      (∀ im, tfind s.ld.dir v.routine = some im → exec (.parkRelease o) s
        = .next (decideOrder s1 { v with hdr := im.hdr, slotProg := im.slotProg, image := im.serial }))
      ∧ (tfind s.ld.dir v.routine = none → exec (.parkRelease o) s
        = .next (refuse (clearHint s1 (8 * v.slice.val + v.cls)) v .malformed 0)))
    ∧ (∀ o, exec (.chargeRelease o) s
        = (let chs := s.adm.charges.map fun h => if h.order = o ∧ h.release ≤ runNow s then { h with held := false } else h
           .next { s with adm := { s.adm with charges := chs.filter fun h => h.held || h.stgHeld } }))
    ∧ (∀ (sl : Slice) (c : Sys2Proof.Class) (t : Word), tfind s.adm.hints (8 * sl.val + c.val) = some t → t.toNat ≤ (tbNow s).toNat →
      exec (.busyHintClear sl c) s = .next { s with adm := { s.adm with hints := tdel s.adm.hints (8 * sl.val + c.val) } })

/-- PHASE_START of the first queued order of a room, on an idle in-service engine of that room with a free frame, no
earlier than the beat after admission, runs it in that frame: pc 0 and x1 to x9 from the order for a first phase, its
carried registers and its pc for a second. PREEMPT, with every engine of the room busy, a waiting order of earlier
window end and its engine at a boundary, saves the running order that ranks last and frees its engine. ORDER_RESUME of
the first preempted order runs it on with the registers of its save area. All three stop an engine at a bundle
boundary or in a wait: PHASE_OVERRUN of a running order, and DEADLINE_WATCHDOG of one at its limit, count and end it
with DEADLINE_FAULT there, and an overrun elsewhere changes nothing. INPUT_DMA_COMPLETE reads under the slice and
stores the input of an accepted order that waits for it, ends it ABORTED when the read failed, and DEADLINE_FAULT when
a burst fails the porch's doorframe; INPUT_READ_TIMEOUT within w + 1 beats of the deadline ends it ABORTED.
[05_engine_core_isa.md, 04_admission_contract.md, 03_porch_host_interface.md] -/
def Obligations.PhasesStartPreemptAndEnd : Prop :=
  ∀ (o : Nat) (s : State) (v : Order), order? s o = some v →
    (∀ (e : EngIx) (second : Bool) (f : Nat), v.phase = .queued second → v.room.val = e.val / 8 → idle s e.val = true → isFirst s v = true →
      v.adm + 1 ≤ runNow s → freeFrameOf s v.room.val = some f →
      exec (.phaseStart o e) s = .next (startPhase s o v e second f)
      ∧ (eng (startPhase s o v e second f) e.val).order = some o
      ∧ (eng (startPhase s o v e second f) e.val).core
          = { x := if second then carriedRegs v else startRegs v, supv := v.hdr.supv, pc := if second then v.yieldPc else 0 })
    ∧ (∀ (r : Room) (e : EngIx) (second : Bool), lastRanked (runningIn s r.val) = some (o, v) → v.phase = .running e second →
      (∀ i, i < 8 → idle s (8 * r.val + i) = false) → ((waiting s r.val).any fun p => phaseEnd p.2 < phaseEnd v) = true →
      (eng s e.val).core.atBoundary = true →
      exec (.preempt r) s = .next (preemptOrder s o v e second))
    ∧ (∀ (e : EngIx) (second : Bool), v.phase = .preempted second → v.room.val = e.val / 8 → idle s e.val = true → isFirst s v = true →
      ∃ t, exec (.orderResume o e) s = .next t ∧ order? t o = some { v with phase := .running e second }
        ∧ (eng t e.val).order = some o ∧ (eng t e.val).core = tget {} s.rooms.saved (frameKey v.room.val v.frame)
        ∧ t.mem = s.mem)
    ∧ (∀ (e : EngIx) (second : Bool), v.phase = .running e second →
      ((eng s e.val).core.atBoundary = true → exec (.phaseOverrun o) s = .next (deadlineFault (cntUp s 0x30050 63 32) o v 1))
      ∧ ((eng s e.val).core.atBoundary = false → exec (.phaseOverrun o) s = .next s))
    ∧ (∀ c : Core, c.slot = 0 → c.atBoundary = true)
    ∧ (v.accepted = true → v.phase ≠ .ended → (v.deadline ≤ runNow s + 1 ∨ phaseEnd v ≤ runNow s) → atBoundary s v = true →
      exec (.deadlineWatchdog o) s = .next (deadlineFault (cntUp s 0x30050 31 0) o v 2))
    ∧ (v.accepted = true → v.phase ≠ .ended → v.inLen ≠ 0 → v.inputIn = false →
      (∀ l b, b.all (porchGrants v true) = true → exec (.inputDmaComplete o (.ok l) b) s
          = .next (setOrder (hostRead s v.slice v.inIova v.inLen) o { v with input := l.take v.inLen, inputIn := true }))
      ∧ (∀ l b, b.all (porchGrants v true) = false → exec (.inputDmaComplete o (.ok l) b) s
          = .next (porchDoor (hostRead s v.slice v.inIova v.inLen) o v true))
      ∧ (∀ b, exec (.inputDmaComplete o .failed b) s = .next (endOrder (dmaErr (hostRead s v.slice v.inIova v.inLen)) o .aborted 0))
      ∧ (v.deadline ≤ runNow s + 1 + (need v).w → exec (.inputReadTimeout o) s = .next (endOrder (dmaErr s) o .aborted 0)))

/-- Where manager writes are taken: ENGINE_TAKE_OUT of an engine in service ends every running and preempted order of its
room with DEADLINE_FAULT, sets its ADM_ENG_OUT bit and the two events, and marks it out; an engine already out stays
as it is. ENGINE_RETURN of an engine that is out starts its self-test, and the test's end puts it back into service
and clears its bit. DOOR_REGION_WRITE of a descriptor, whose reserved bits are dropped, with no reason against it
stores RM_DOOR_n and stages region 12 + n in the doorframes it targets; with a reason it only records the refusal.
DOOR_SYNC makes the staged room regions of idle engines active at once and marks the others, and DOOR_SYNC_APPLY does
so for a marked doorframe whose engine is idle or at a bundle boundary or in a wait; the busy bit clears, with an
event, when none of the room waits. [05_engine_core_isa.md, 04_admission_contract.md] -/
def Obligations.EnginesLeaveAndReturn : Prop :=
  ∀ (s : State),
    (∀ (r : Room) (i : LocIx), managerOpen s →
      ((eng s (8 * r.val + i.val)).out = false → exec (.engineTakeOut r i) s = .next (engineLeaves s (8 * r.val + i.val)))
      ∧ ((eng s (8 * r.val + i.val)).out = true → exec (.engineTakeOut r i) s = .next s
        ∧ exec (.engineReturn r i) s = .next (setEng s (8 * r.val + i.val) { eng s (8 * r.val + i.val) with testing := true })))
    ∧ (∀ (r : Room) (i : LocIx), (eng s (8 * r.val + i.val)).testing = true →
      exec (.engineSelftestDone r i) s
        = .next (wrF (setEng s (8 * r.val + i.val) { eng s (8 * r.val + i.val) with out := false, testing := false })
            (0x30080 + 8 * ((8 * r.val + i.val) / 64)) ((8 * r.val + i.val) % 64) ((8 * r.val + i.val) % 64) 0))
    ∧ (∀ (r : Room) (n : Fin 4) (d0 d : Word), managerOpen s → d = d0 &&& descBits →
      (doorReason s r.val n.val d = 0 → exec (.doorRegionWrite r n d0) s
        = .next ((locals r.val).foldl (fun s e => setEng s e (stageDoor (eng s e) n.val d)) (wr s (rmBase r.val + 0x40 + 8 * n.val) d)))
      ∧ (doorReason s r.val n.val d ≠ 0 → exec (.doorRegionWrite r n d0) s
        = .next (doorRefused s r.val 0 (12 + n.val) (doorReason s r.val n.val d) true)))
    ∧ (∀ r : Room, managerOpen s → exec (.doorSync r) s
        = .next (syncDone ((locals r.val).foldl (fun s e =>
            if (eng s e).order.isNone then setEng s e (applyRoom (applyRoom (eng s e) .ls) .dma)
            else setEng s e { eng s e with syncLs := true, syncDma := true }) (wr s (rmBase r.val + 0x18) 0x100)) r.val))
    ∧ (∀ e : EngIx, ((eng s e.val).core.atBoundary = true ∨ (eng s e.val).order = none) → ((eng s e.val).syncLs = true → exec (.doorSyncApply e .ls) s
          = .next (syncDone (setEng s e.val { applyRoom (eng s e.val) .ls with syncLs := false }) (e.val / 8)))
        ∧ ((eng s e.val).syncDma = true → exec (.doorSyncApply e .dma) s
          = .next (syncDone (setEng s e.val { applyRoom (eng s e.val) .dma with syncDma := false }) (e.val / 8))))

/-- An access whose address has any of bits 63 to 36 set is granted by nothing. A routine-mode access is granted exactly
when some region in use covers its page, grants its kind and is not for supervisor code only. A supervisor access to a
covered page is decided by the first region that covers it alone, and one to a page that none covers by the default
map: pages 200000h to 200003h for all but DMA, 300000h to 300BFFh, and 400000h to 4003FFh for reads. The default map
and the regions look at the page alone, so two addresses of one page are decided alike. [05_engine_core_isa.md, R154] -/
def Obligations.DoorframesDecideAccesses : Prop :=
  ∀ (regs : Tab Word) (addr : Nat) (write dma : Bool),
    (∀ supv, 2 ^ 36 ≤ addr → doorGrants regs supv addr write dma = false)
    ∧ (addr < 2 ^ 36 → (doorGrants regs false addr write dma = true ↔ ∃ p ∈ regs, regCovers p.2 (addr / 4096) = true
          ∧ (if write then bit p.2 60 else bit p.2 61) = true ∧ bit p.2 62 = false))
    ∧ (addr < 2 ^ 36 → (∀ p ∈ regs, regCovers p.2 (addr / 4096) = false) →
        (doorGrants regs true addr write dma = true ↔
          (0x200000 ≤ addr / 4096 ∧ addr / 4096 ≤ 0x200003 ∧ dma = false)
          ∨ (0x300000 ≤ addr / 4096 ∧ addr / 4096 ≤ 0x300BFF)
          ∨ (0x400000 ≤ addr / 4096 ∧ addr / 4096 ≤ 0x4003FF ∧ write = false)))
    ∧ (∀ d : Word, addr < 2 ^ 36 → regCovers d (addr / 4096) = true →
        ∀ ix rest, regs = (ix, d) :: rest → doorGrants regs true addr write dma = (if write then bit d 60 else bit d 61))
    ∧ (∀ (other : Nat) supv, addr < 2 ^ 36 → other / 4096 = addr / 4096 →
        doorGrants regs supv other write dma = doorGrants regs supv addr write dma)

/-- On an engine that runs an order whose bundle is not poisoned, each three-register integer instruction (ADD to SEL)
writes to rd the value of its rule from a = rs1 and b = rs2 (shifts take rs2[5:0], comparisons give 0 or 1, MULH and
MULHU the high 64 bits, DIVU and REMU by zero all ones and rs1, SEL rs1 when rd is nonzero, else rs2) and continues
with the next slot; POPC, CLZ and BSWAP write their function of rs1; NOP writes nothing. Nothing but this engine's
register state changes, and storing it leaves every other engine, the memories, the orders and the registers of the
manager map as they are. rd may be x0: the write is then discarded. [05_engine_core_isa.md] -/
def Obligations.IntegerInstructionsResults : Prop :=
  ∀ (e : EngIx) (o : Nat) (v : Order) (s : State) (rd rs1 rs2 : XReg), engineRuns s e o v →
    (let c := (eng s e.val).core
     let a := xget c rs1
     let b := xget c rs2
     let put : Word → Result := fun x => .next (setCore s e (advance (xset c rd x) 1))
     exec (.add e rd rs1 rs2) s = put (a + b)
     ∧ exec (.sub e rd rs1 rs2) s = put (a - b)
     ∧ exec (.and e rd rs1 rs2) s = put (a &&& b)
     ∧ exec (.or e rd rs1 rs2) s = put (a ||| b)
     ∧ exec (.xor e rd rs1 rs2) s = put (a ^^^ b)
     ∧ exec (.andn e rd rs1 rs2) s = put (a &&& ~~~b)
     ∧ exec (.sll e rd rs1 rs2) s = put (a <<< (b.toNat % 64))
     ∧ exec (.srl e rd rs1 rs2) s = put (a >>> (b.toNat % 64))
     ∧ exec (.sra e rd rs1 rs2) s = put (a.sshiftRight (b.toNat % 64))
     ∧ exec (.rol e rd rs1 rs2) s = put (a.rotateLeft (b.toNat % 64))
     ∧ exec (.ror e rd rs1 rs2) s = put (a.rotateRight (b.toNat % 64))
     ∧ exec (.slt e rd rs1 rs2) s = put (if a.toInt < b.toInt then 1 else 0)
     ∧ exec (.sltu e rd rs1 rs2) s = put (if a.toNat < b.toNat then 1 else 0)
     ∧ exec (.mul e rd rs1 rs2) s = put (a * b)
     ∧ exec (.mulh e rd rs1 rs2) s = put (BitVec.ofInt 64 (a.toInt * b.toInt / 2 ^ 64))
     ∧ exec (.mulhu e rd rs1 rs2) s = put (BitVec.ofNat 64 (a.toNat * b.toNat / 2 ^ 64))
     ∧ exec (.divu e rd rs1 rs2) s = put (if b = 0 then 0xFFFFFFFFFFFFFFFF else BitVec.ofNat 64 (a.toNat / b.toNat))
     ∧ exec (.remu e rd rs1 rs2) s = put (if b = 0 then a else BitVec.ofNat 64 (a.toNat % b.toNat))
     ∧ exec (.sel e rd rs1 rs2) s = put (if xget c rd ≠ 0 then a else b)
     ∧ exec (.popc e rd rs1) s = put (BitVec.ofNat 64 ((List.range 64).filter fun i => bit a i).length)
     ∧ exec (.clz e rd rs1) s = put (BitVec.ofNat 64 (((List.range 64).find? fun i => bit a (63 - i)).getD 64))
     ∧ exec (.bswap e rd rs1) s = put (byteSwap a)
     ∧ exec (.nop e) s = .next (setCore s e (advance c 1)))
    ∧ (∀ c : Core, setCore s e c
        = { s with rooms := { s.rooms with engines := tput {} s.rooms.engines e.val { eng s e.val with core := c } } })

/-- When rs2 holds zero, DIVU writes FFFFFFFFFFFFFFFFh to rd and REMU writes rs1 to rd, and the engine goes on with the
next slot: neither raises an exception. A read of x0 returns zero in every register state; a write to x0 leaves the
register state as it is, so that an instruction whose destination is x0 only advances. [R124, R133] -/
def Obligations.DivisionByZeroAndX0 : Prop :=
  ∀ (e : EngIx) (o : Nat) (v : Order) (s : State) (rd rs1 rs2 : XReg), engineRuns s e o v →
    (let c := (eng s e.val).core
     (xget c rs2 = 0 →
       exec (.divu e rd rs1 rs2) s = .next (setCore s e (advance (xset c rd 0xFFFFFFFFFFFFFFFF) 1))
       ∧ exec (.remu e rd rs1 rs2) s = .next (setCore s e (advance (xset c rd (xget c rs1)) 1)))
     ∧ (∀ d : Core, xget d 0 = 0) ∧ (∀ (d : Core) (w : Word), xset d 0 w = d)
     ∧ exec (.add e 0 rs1 rs2) s = .next (setCore s e (advance c 1)))

/-- For a register state whose tables are in canonical form (that of a cleared engine is, and every write keeps it): after
a write to a general register other than x0 that register reads the value, and every other register reads as before;
after a write to a block register it reads the value and the seal, every other block register keeps both, and the
general registers stay. [05_engine_core_isa.md] -/
def Obligations.RegistersReadBack : Prop :=
  (twf 0 ({} : Core).x = true ∧ twf 0 ({} : Core).b = true ∧ twf false ({} : Core).seals = true)
  ∧ ∀ c : Core, twf 0 c.x = true → twf 0 c.b = true → twf false c.seals = true →
    (∀ (r : XReg) (w : Word), twf 0 (xset c r w).x = true ∧ (r ≠ 0 → xget (xset c r w) r = w)
      ∧ (∀ q, q ≠ r → xget (xset c r w) q = xget c q) ∧ (xset c r w).b = c.b ∧ (xset c r w).k = c.k)
    ∧ (∀ (r : BReg) (w : Block) (sl : Bool), twf 0 (bset c r w sl).b = true ∧ twf false (bset c r w sl).seals = true
      ∧ bget (bset c r w sl) r = w ∧ sealedB (bset c r w sl) r = sl
      ∧ (∀ q, q ≠ r → bget (bset c r w sl) q = bget c q ∧ sealedB (bset c r w sl) q = sealedB c q) ∧ (bset c r w sl).x = c.x)

/-- ADDI adds the sign-extended immediate to rs1; ANDI, ORI and XORI use the zero-extended one; SHI shifts or rotates rs1
by imm[5:0] as imm[7:6] says (SLLI, SRLI, SRAI, RORI), and a nonzero reserved field is a form the loader refuses; MOVZ
places its immediate at a halfword and MOVK replaces one halfword of rd; LI32 writes its sign-extended 32 bits and
fills two slots. Nothing else changes. [05_engine_core_isa.md] -/
def Obligations.ImmediateInstructionsResults : Prop :=
  ∀ (e : EngIx) (o : Nat) (v : Order) (s : State) (rd rs1 : XReg) (hw : Fin 4) (imm : BitVec 16) (w : BitVec 32), engineRuns s e o v →
    (let c := (eng s e.val).core
     let a := xget c rs1
     let put : Word → Result := fun x => .next (setCore s e (advance (xset c rd x) 1))
     exec (.addi e rd rs1 imm) s = put (a + imm.signExtend 64)
     ∧ exec (.andi e rd rs1 imm) s = put (a &&& imm.zeroExtend 64)
     ∧ exec (.ori e rd rs1 imm) s = put (a ||| imm.zeroExtend 64)
     ∧ exec (.xori e rd rs1 imm) s = put (a ^^^ imm.zeroExtend 64)
     ∧ (bits imm 15 8 = 0 →
        (bits imm 7 6 = 0 → exec (.shi e rd rs1 imm) s = put (a <<< bits imm 5 0))
        ∧ (bits imm 7 6 = 1 → exec (.shi e rd rs1 imm) s = put (a >>> bits imm 5 0))
        ∧ (bits imm 7 6 = 2 → exec (.shi e rd rs1 imm) s = put (a.sshiftRight (bits imm 5 0)))
        ∧ (bits imm 7 6 = 3 → exec (.shi e rd rs1 imm) s = put (a.rotateRight (bits imm 5 0))))
     ∧ (bits imm 15 8 ≠ 0 → exec (.shi e rd rs1 imm) s = .refused .refusedByLoader)
     ∧ exec (.movz e rd hw imm) s = put (BitVec.ofNat 64 (imm.toNat * 2 ^ (16 * hw.val)))
     ∧ exec (.movk e rd hw imm) s = put (setBits (xget c rd) (16 * hw.val + 15) (16 * hw.val) imm.toNat)
     ∧ exec (.li32 e rd w) s = .next (setCore s e (advance (xset c rd (w.signExtend 64)) 2)))

/-- A frame instruction's address is (rs1 + sign-extended offset) mod 1,024 with the low bits cleared to the access size,
and lies with its bytes inside the frame. With no poisoned word, no read error and no outstanding DMA.I that writes
the bytes, LD of 1, 2, 4 or 8 bytes writes the zero-extended little-endian bytes to rd, LDQ writes 16 bytes to its
block register and LDL 64 bytes to four, unsealed, for every value of rs1 and the offset; nothing but the engine's
registers changes. With such a DMA.I outstanding each of them completes too, every byte that no outstanding DMA.I
writes is the frame's, and nothing else changes but the counter of free values. A poisoned word ends the order with
POISON. [R128] -/
def Obligations.FrameLoadsReadTheFrame : Prop :=
  (∀ (c : Core) (r : XReg) (imm : BitVec 16) (n : Nat),
      frameAddr c r imm n = (xget c r + imm.signExtend 64).toNat % 1024 - (xget c r + imm.signExtend 64).toNat % 1024 % n)
  ∧ (∀ (c : Core) (r : XReg) (imm : BitVec 16) (n : Nat), (n = 1 ∨ n = 2 ∨ n = 4 ∨ n = 8 ∨ n = 16 ∨ n = 64) →
      frameAddr c r imm n + n ≤ 1024 ∧ frameAddr c r imm n % n = 0)
  ∧ ∀ (e : EngIx) (o : Nat) (v : Order) (s : State) (sz : Size) (rd rs1 : XReg) (bq : BReg) (m : Fin 4) (imm : BitVec 16), engineRuns s e o v →
    (let c := (eng s e.val).core
     let held := fun n => tbytes s.mem.win (winBase (frameOf v) + frameAddr c rs1 imm n) n
     let clean := fun n => poisoned s 0 (wordsOf (frameOf v) (frameAddr c rs1 imm n) n) = false
     let writes := fun (t : Dma) (b : Nat) => t ∈ tget [] s.rooms.dma (frameOf v) ∧ t.toFrame = true ∧ t.off ≤ b ∧ b < t.off + t.len
     let quiet := fun n => ∀ t ∈ tget [] s.rooms.dma (frameOf v), t.toFrame = true →
        t.off + t.len ≤ frameAddr c rs1 imm n ∨ frameAddr c rs1 imm n + n ≤ t.off
     let sees := fun (n : Nat) (r : Result) (put : Nat → Core) => ∃ x k, r = .next (setCore { s with fresh := k } e (advance (put x) 1))
        ∧ ∀ i, i < n → (∀ t, ¬ writes t (frameAddr c rs1 imm n + i)) → x / 256 ^ i % 256 = held n / 256 ^ i % 256
     (clean (sizeBytes sz) → quiet (sizeBytes sz) → exec (.ld e sz rd rs1 imm .ok) s
        = .next (setCore s e (advance (xset c rd (BitVec.ofNat 64 (held (sizeBytes sz)))) 1)))
     ∧ (clean 16 → quiet 16 → exec (.ldq e bq rs1 imm .ok) s
        = .next (setCore s e (advance (bset c bq (BitVec.ofNat 128 (held 16)) false) 1)))
     ∧ (clean 64 → quiet 64 → exec (.ldl e m rs1 imm .ok) s = .next (setCore s e (advance (loadQuad c m (held 64)) 1)))
     ∧ (clean (sizeBytes sz) → sees (sizeBytes sz) (exec (.ld e sz rd rs1 imm .ok) s) fun x => xset c rd (BitVec.ofNat 64 x))
     ∧ (clean 16 → sees 16 (exec (.ldq e bq rs1 imm .ok) s) fun x => bset c bq (BitVec.ofNat 128 x) false)
     ∧ (clean 64 → sees 64 (exec (.ldl e m rs1 imm .ok) s) fun x => loadQuad c m x)
     ∧ (∀ ecc, ¬ clean (sizeBytes sz) → exec (.ld e sz rd rs1 imm ecc) s = .next (endOrder s o .poison 0)))

/-- For a state whose memories are in canonical form: ST of 1, 2, 4 or 8 bytes with no poisoned word, and STQ and STL of
unsealed block registers, give a next state in which the stored bytes, from the order's frame base plus the
instruction's frame address, read as the low bytes of the source, every byte of the frame windows outside them reads
as before, and the pantry, the slot areas and descriptors, the orders, the big-number engines and the mode are
unchanged; the engine keeps its registers and moves to the next slot. STQ and STL of a sealed register end the order
with POLICY and store nothing. [05_engine_core_isa.md, 06_engine_crypto_instructions.md] -/
def Obligations.FrameStoresChangeOnlyTheirBytes : Prop :=
  ∀ (e : EngIx) (o : Nat) (v : Order) (s : State) (sz : Size) (rs rs1 : XReg) (bq : BReg) (m : Fin 4) (imm : BitVec 16), memoryWf s = true → engineRuns s e o v →
    (let c := (eng s e.val).core
     let stores := fun (n val : Nat) (r : Result) => ∃ t, r = .next t
        ∧ tbytes t.mem.win (winBase (frameOf v) + frameAddr c rs1 imm n) n = val % 256 ^ n
        ∧ (∀ b, (b < winBase (frameOf v) + frameAddr c rs1 imm n ∨ winBase (frameOf v) + frameAddr c rs1 imm n + n ≤ b) →
            tget 0 t.mem.win b = tget 0 s.mem.win b)
        ∧ t.mem.pantry = s.mem.pantry ∧ t.mem.words = s.mem.words ∧ t.mem.descs = s.mem.descs
        ∧ t.adm = s.adm ∧ t.bn = s.bn ∧ t.mode = s.mode ∧ (eng t e.val).core = advance c 1
     (poisoned s 0 (wordsOf (frameOf v) (frameAddr c rs1 imm (sizeBytes sz)) (sizeBytes sz)) = false →
        stores (sizeBytes sz) (xget c rs).toNat (exec (.st e sz rs rs1 imm .ok) s))
     ∧ (sealedB c bq = false → stores 16 (bget c bq).toNat (exec (.stq e bq rs1 imm) s))
     ∧ ((∀ i, i < 4 → sealedB c (quadOf m i) = false) → stores 64 (quadVal c m) (exec (.stl e m rs1 imm) s))
     ∧ (sealedB c bq = true → exec (.stq e bq rs1 imm) s = .next (endOrder s o .policy 0))
     ∧ (∀ i, i < 4 → sealedB c (quadOf m i) = true → exec (.stl e m rs1 imm) s = .next (endOrder s o .policy 0)))

/-- A global address is rs1 + sign-extended immediate with the low bits cleared to 8 or 64 bytes. When the load and store
doorframe grants it: LDG writes to rd the value of the engine's latest earlier unacknowledged STG to that address,
else the word that stands there; STG with fewer than eight writes outstanding posts the write and goes on, and with
eight waits without change; LDGL and STGL act behind the engine's posted writes and move 64 bytes. When it does not,
each ends the order with DOOR_FAULT. STG_ACKNOWLEDGED carries out the oldest posted write, and changes nothing with
none. [05_engine_core_isa.md] -/
def Obligations.GlobalLoadsAndPostedStores : Prop :=
  (∀ (c : Core) (r : XReg) (imm : BitVec 16) (n : Nat),
      globalAddr c r imm n = (xget c r + imm.signExtend 64).toNat - (xget c r + imm.signExtend 64).toNat % n)
  ∧ ∀ (e : EngIx) (o : Nat) (v : Order) (s : State) (rd rs rs1 : XReg) (m : Fin 4) (imm : BitVec 16), engineRuns s e o v →
    (let g := eng s e.val
     let c := g.core
     let a := globalAddr c rs1 imm 8
     let a64 := globalAddr c rs1 imm 64
     (lsGrants g v a false = true →
        (∀ p, (g.stg.reverse.find? fun q => q.1 == a) = some p →
          exec (.ldg e rd rs1 imm) s = .next (setCore s e (advance (xset c rd p.2.1) 1)))
        ∧ ((g.stg.reverse.find? fun q => q.1 == a) = none → exec (.ldg e rd rs1 imm) s
            = .next (setCore (globalRead s v a).2 e (advance (xset c rd (BitVec.ofNat 64 (globalRead s v a).1)) 1))))
     ∧ (lsGrants g v a true = true →
        (g.stg.length < 8 → exec (.stg e rs rs1 imm) s
            = .next (setEng s e.val { g with core := advance c 1, stg := g.stg ++ [(a, xget c rs, areaOf v)] }))
        ∧ (8 ≤ g.stg.length → exec (.stg e rs rs1 imm) s = .next s))
     ∧ (lsGrants g v a64 false = true → exec (.ldgl e m rs1 imm) s
          = .next (setCore (globalRead64 (drainStg s e) v a64 8).2 e (advance (loadQuad c m (globalRead64 (drainStg s e) v a64 8).1) 1)))
     ∧ (lsGrants g v a64 true = true → exec (.stgl e m rs1 imm) s
          = (let x := (List.range 4).foldl (storedBlock c m) (0, drainStg s e)
             .next (setCore ((List.range 8).foldl (fun s i => globalWrite s (e.val / 8) (areaOf v) (a64 + 8 * i)
               (BitVec.ofNat 64 (bytesOf x.1 (8 * i) 8))) x.2) e (advance c 1))))
     ∧ (lsGrants g v a false = false → exec (.ldg e rd rs1 imm) s = .next (doorFault s e.val o v a 1 false))
     ∧ (lsGrants g v a true = false → exec (.stg e rs rs1 imm) s = .next (doorFault s e.val o v a 1 true))
     ∧ (lsGrants g v a64 false = false → exec (.ldgl e m rs1 imm) s = .next (doorFault s e.val o v a64 1 false))
     ∧ (lsGrants g v a64 true = false → exec (.stgl e m rs1 imm) s = .next (doorFault s e.val o v a64 1 true))
     ∧ (∀ (addr : Nat) (w : Word) area rest, g.stg = (addr, w, area) :: rest →
          exec (.stgAcknowledged e) s = .next (globalWrite (setEng s e.val { g with stg := rest }) (e.val / 8) area addr w))
     ∧ (g.stg = [] → exec (.stgAcknowledged e) s = .next s))

/-- A DMA issue takes its length as min(rl, Lmax) rounded up to a multiple of 8, its frame offset and address with the low
3 bits cleared. With fewer than four transfers outstanding: a range past the frame's end, or a piece that the DMA
doorframe does not grant, ends the order with DOOR_FAULT and nothing is transferred; otherwise the transfer is queued
(none for length 0) and the engine goes on. With four it waits without change. The oldest transfer of a frame runs
when it is done, and not before the order's input is in. DMAWAIT goes on when no transfer of the frame is left,
FENCE.M when no posted write is left either, and otherwise they wait where the room may stop the engine, with nothing
else changed; FENCE.D makes the staged supervisor regions active. [05_engine_core_isa.md] -/
def Obligations.DmaTransfersAndFences : Prop :=
  ∀ (e : EngIx) (o : Nat) (v : Order) (s : State) (rf ra rl : XReg) (lmaxM1 : BitVec 10), engineRuns s e o v →
    (let g := eng s e.val
     let c := g.core
     let l := ceilDiv (min (xget c rl).toNat (lmaxM1.toNat + 1)) 8 * 8
     let f := (xget c rf).toNat / 8 * 8
     let a := (xget c ra).toNat / 8 * 8
     let busy := tget [] s.rooms.dma (frameOf v)
     let queued := fun (inw : Bool) =>
       if l = 0 then s else { s with rooms := { s.rooms with dma := tput [] s.rooms.dma (frameOf v) (busy ++ [⟨inw, f, a, l⟩]) } }
     (4 ≤ busy.length → exec (.dmaI e rf ra rl lmaxM1) s = .next s ∧ exec (.dmaO e rf ra rl lmaxM1) s = .next s)
     ∧ (busy.length < 4 → l ≠ 0 → 1024 < f + l → exec (.dmaI e rf ra rl lmaxM1) s = .next (doorFault s e.val o v a 2 false)
          ∧ exec (.dmaO e rf ra rl lmaxM1) s = .next (doorFault s e.val o v a 2 true))
     ∧ (busy.length < 4 → (l = 0 ∨ f + l ≤ 1024) →
          ((∀ p ∈ pieces a l, doorGrants g.dmaAct v.hdr.supv p false true = true) →
            exec (.dmaI e rf ra rl lmaxM1) s = .next (setCore (queued true) e (advance c 1)))
          ∧ ((∀ p ∈ pieces a l, doorGrants g.dmaAct v.hdr.supv p true true = true) →
            exec (.dmaO e rf ra rl lmaxM1) s = .next (setCore (queued false) e (advance c 1))))
     ∧ (busy = [] → exec (.dmawait e) s = .next (setCore s e (advance c 1)))
     ∧ (busy ≠ [] → exec (.dmawait e) s = .next (setCore s e { c with waits := true }))
     ∧ ((busy ≠ [] ∨ g.stg ≠ []) → exec (.fenceM e) s = .next (setCore s e { c with waits := true }))
     ∧ (busy = [] → g.stg = [] → exec (.fenceM e) s = .next (setCore s e (advance c 1)))
     ∧ exec (.fenceD e) s = .next (setEng s e.val { g with
          core := advance c 1, lsAct := applySupv g.lsAct g.lsStg, dmaAct := applySupv g.dmaAct g.dmaStg }))
    ∧ (∀ (r : Room) (fr : Fin 128) (ecc : Ecc) (t : Dma) (rest : List Dma), tget [] s.rooms.dma (frameKey r.val fr.val) = t :: rest →
        tfind s.rooms.frames (frameKey r.val fr.val) = some o →
        exec (.dmaTransferDone r fr ecc) s
          = .next (if inputMissing v t then s else dmaRun s (frameKey r.val fr.val) o v t rest ecc))

/-- TIME writes TB_NOW to rd, RUNT the run count, DLN the order's deadline, LEFT the beats to the end of the current
phase's window. In supervisor code DFR writes the staged region that rs1 names, and DFW stages the descriptor in rs1
when no reason stands against it and writes 0 to rd, else records the refusal and writes the reason; outside
supervisor code both are forms that the loader refuses. A descriptor that is not valid is never refused; a valid one
at an index outside 4 to 11 is reason 4. [05_engine_core_isa.md, 02_domain_time.md] -/
def Obligations.TimeAndDoorframeInstructions : Prop :=
  ∀ (e : EngIx) (o : Nat) (v : Order) (s : State) (rd rs1 : XReg) (k : DoorKind) (ix : Fin 16), engineRuns s e o v →
    (let g := eng s e.val
     let c := g.core
     exec (.time e rd) s = .next (setCore s e (advance (xset c rd (s.tb.run + s.tb.offset)) 1))
     ∧ exec (.runt e rd) s = .next (setCore s e (advance (xset c rd s.tb.run) 1))
     ∧ exec (.dln e rd) s = .next (setCore s e (advance (xset c rd (BitVec.ofNat 64 v.deadline)) 1))
     ∧ exec (.left e rd) s = .next (setCore s e (advance (xset c rd (BitVec.ofNat 64 (phaseEnd v - runNow s))) 1))
     ∧ (v.hdr.supv = true →
         exec (.dfr e rd rs1) s = .next (setCore s e (advance
            (xset c rd (tget 0 (stagedOf g (doorOf (bit (xget c rs1) 4))) (bits (xget c rs1) 3 0))) 1))
         ∧ (dfwReason g k ix.val (xget c rs1) = 0 → exec (.dfw e rd rs1 k ix) s
            = .next (setCore (setEng s e.val (stageSupv g k ix.val (xget c rs1))) e (advance (xset c rd 0) 1)))
         ∧ (dfwReason g k ix.val (xget c rs1) ≠ 0 → exec (.dfw e rd rs1 k ix) s
            = .next (setCore (doorRefused s (e.val / 8) (e.val % 8) ix.val (dfwReason g k ix.val (xget c rs1)) false) e
                (advance (xset c rd (BitVec.ofNat 64 (dfwReason g k ix.val (xget c rs1)))) 1))))
     ∧ (v.hdr.supv = false → exec (.dfr e rd rs1) s = .refused .refusedByLoader
         ∧ exec (.dfw e rd rs1 k ix) s = .refused .refusedByLoader)
     ∧ (bit (xget c rs1) 63 = false → dfwReason g k ix.val (xget c rs1) = 0)
     ∧ ((ix.val < 4 ∨ 11 < ix.val) → bit (xget c rs1) 63 = true → dfwReason g k ix.val (xget c rs1) = 4))

/-- With a nonzero offset each branch continues that many bundles on, at slot 0, when its comparison of rs1 and rs2 holds
(signed for BLT and BGE, unsigned for BLTU and BGEU), and otherwise with the next slot; an offset of 0 is a form the
loader refuses. J to a later bundle continues there; CALL with fewer than eight returns outstanding pushes the next
bundle and continues at its target, and RET returns to the bundle on top. The engine then waits for nothing. LOOP with
fewer than four loops and a body inside the program runs the body min(rs, count) times (count for x0): 0 skips it. At
the last bundle of the innermost loop with passes left the engine goes back to its first. No register but the place in
the program changes. [05_engine_core_isa.md] -/
def Obligations.ControlFlow : Prop :=
  ∀ (e : EngIx) (o : Nat) (v : Order) (s : State) (rs1 rs2 : XReg), engineRuns s e o v →
    (let c := (eng s e.val).core
     let a := xget c rs1
     let b := xget c rs2
     (∀ off : BitVec 16, off ≠ 0 →
       (let taken : Result := .next (setCore s e { c with pc := (c.pc + off.toNat) % 1024, slot := 0, waits := false })
        let onward : Result := .next (setCore s e (advance c 1))
        ((a = b) → exec (.beq e rs1 rs2 off) s = taken) ∧ (¬ (a = b) → exec (.beq e rs1 rs2 off) s = onward)
        ∧ ((a ≠ b) → exec (.bne e rs1 rs2 off) s = taken) ∧ (¬ (a ≠ b) → exec (.bne e rs1 rs2 off) s = onward)
        ∧ ((a.toInt < b.toInt) → exec (.blt e rs1 rs2 off) s = taken) ∧ (¬ (a.toInt < b.toInt) → exec (.blt e rs1 rs2 off) s = onward)
        ∧ ((b.toInt ≤ a.toInt) → exec (.bge e rs1 rs2 off) s = taken) ∧ (¬ (b.toInt ≤ a.toInt) → exec (.bge e rs1 rs2 off) s = onward)
        ∧ ((a.toNat < b.toNat) → exec (.bltu e rs1 rs2 off) s = taken) ∧ (¬ (a.toNat < b.toNat) → exec (.bltu e rs1 rs2 off) s = onward)
        ∧ ((b.toNat ≤ a.toNat) → exec (.bgeu e rs1 rs2 off) s = taken) ∧ (¬ (b.toNat ≤ a.toNat) → exec (.bgeu e rs1 rs2 off) s = onward)))
     ∧ exec (.beq e rs1 rs2 0) s = .refused .refusedByLoader
     ∧ (∀ t : BitVec 26, c.pc < t.toNat → t.toNat < 1024 → exec (.j e t) s = .next (setCore s e { c with pc := t.toNat % 1024, slot := 0, waits := false }))
     ∧ (∀ t : BitVec 26, c.rets.length < 8 → t.toNat < 1024 →
        exec (.call e t) s = .next (setCore s e { c with rets := (c.pc + 1) :: c.rets, pc := t.toNat % 1024, slot := 0, waits := false }))
     ∧ (∀ t rest, c.rets = t :: rest → exec (.ret e) s = .next (setCore s e { c with rets := rest, pc := t % 1024, slot := 0, waits := false }))
     ∧ (∀ (body : BitVec 12) (count : BitVec 16) (n : Nat), c.loops.length < 4 → c.pc + body.toNat + 1 < 1024 →
        n = (if rs1 = 0 then count.toNat else min a.toNat count.toNat) →
        (n ≠ 0 → exec (.loop e rs1 body count) s = .next (setCore s e
            (jumpTo { c with loops := ⟨c.pc + 1, c.pc + body.toNat + 1, n⟩ :: c.loops } (c.pc + 1))))
        ∧ (n = 0 → exec (.loop e rs1 body count) s = .next (setCore s e (afterBundle c (c.pc + body.toNat + 1)))))
     ∧ (∀ (f : LoopFrame) r, loopNext (f :: r) f.last
          = if 1 < f.left then ({ f with left := f.left - 1 } :: r, f.start) else loopNext r f.last)
     ∧ (∀ (f : LoopFrame) r pc, f.last ≠ pc → loopNext (f :: r) pc = (f :: r, pc + 1)))

/-- EXIT with one of the ten statuses of R144 goes on: in a routine whose code an image gives, the order's outcome is that
status with rs as inline result, or with 0 for AUTH_FAIL; a shipped second phase that hands an operation over exits
with the outcome in x16 (R247), and a shipped routine with a status of its table. YIELD in a first phase of such a
routine, with BN_LEN nonzero, a complete hand-off and no poisoned frame operand, copies the frame operands into the
hand-off, carries x1 to x15, sets the second phase's bundle, gives the frame and the engine up and queues the
operation on the order's big-number engine; a poisoned operand word ends the order with POISON. Fixing an outcome
frees the frame and clears the engine: its registers, key registers, block registers and tags. The order is then
ended, with staged output kept for DONE alone. [05_engine_core_isa.md, 06_engine_crypto_instructions.md,
09_bignum_engines.md, 07_routine_images_and_library.md] -/
def Obligations.RoutineEndsAndHandOffs : Prop :=
  ∀ (e : EngIx) (o : Nat) (v : Order) (s : State), engineRuns s e o v →
    (∀ (code : BitVec 16) (rs : XReg) (st : Status),
        (code.toNat, st) ∈ [(0x00, Status.done), (0x01, .authFail), (0x05, .policy), (0x06, .noKey), (0x0A, .malformed), (0x0C, .quorum),
          (0x0D, .timeUntrusted), (0x0E, .rejectLimit), (0x0F, .guardOverflow), (0x11, .quota)] →
        (∃ t, exec (.exit e code rs) s = .next t)
        ∧ (shipped s v = false →
            exec (.exit e code rs) s = .next (endOrder s o st (if st = .authFail then 0 else xget (eng s e.val).core rs)))
        ∧ (shipped s v = true → (eng s e.val).second = true → libHandsOff v.routine = true →
            exec (.exit e code rs) s = .next (exitOutcome s o (tget 0 (eng s e.val).core.x 16)))
        ∧ (shipped s v = true → libHandsOff v.routine = false → libArgsOk v = true → v.routine ≠ 0x44 → (libExits v.routine).contains st = true →
            exec (.exit e code rs) s = .next (endOrder s o st (libInline v.routine st (xget (eng s e.val).core rs)))))
    ∧ (∀ target : BitVec 26, (eng s e.val).second = false → v.hdr.bnLen ≠ 0 → handOk s v = true →
        pastArgs s v false →
        ((v.hand.ins.any fun i => !i.window && frameRangeOk i && poisoned s 0 (ioWords (frameOf v) i)) = false →
          exec (.yield e target) s
            = (let h1 := { copyFrame s (frameOf v) v.hand with eng := e.val }
               let v1 := { v with hand := h1, carry := carried (eng s e.val).core, yieldPc := target.toNat % 1024, phase := .bnQueued }
               .next (queueBn (setOrder (leaveRoom s v) o v1) o v.bnEng)))
        ∧ ((v.hand.ins.any fun i => !i.window && frameRangeOk i && poisoned s 0 (ioWords (frameOf v) i)) = true →
          exec (.yield e target) s = .next (endOrder s o .poison 0)))
    ∧ (∀ second, v.phase = .running e second → leaveRoom s v = freeFrame (idleEngine s e.val) (frameOf v))
    ∧ (idleEngine s e.val = (let g := eng s e.val
        let only := fun (t : Tab Word) => t.filter fun p => 12 ≤ p.1
        let g1 := { g with lsAct := only g.lsAct, lsStg := only g.lsStg, dmaAct := only g.dmaAct, dmaStg := only g.dmaStg }
        setEng s e.val { g1 with core := {}, order := none, second := false, frame := 0 }))
    ∧ (∀ (st : Status) (inl : Word), order? (endOrder s o st inl) o
        = (let left := if st = .done then v.staged else []
           some { v with phase := .ended, outcome := some (st, inl), ctx := v.ctx && st == .done, staged := left }))

/-- With the room's source in service and at least 64 unread bits in the issuing engine's share, HEARTH writes them to rd,
the earliest in bit 0, sets rc to 64 and removes them from the share, so that no bit is returned twice. With fewer it
sets rd and rc to 0; with the source out of service it sets rd to 0 and rc to FFFFFFFFFFFFFFFFh; no bit is then
removed. [R184] -/
def Obligations.HearthBitsAreReturnedOnce : Prop :=
  ∀ (e : EngIx) (o : Nat) (v : Order) (s : State) (rd rc : XReg), engineRuns s e o v →
    (let c := (eng s e.val).core
     let share := tget [] s.rooms.hearth (9 * (e.val / 8) + e.val % 8)
     (sourceIn s (e.val / 8) = true → 64 ≤ share.length →
        exec (.hearth e rd rc) s
          = (let rest := tput [] s.rooms.hearth (9 * (e.val / 8) + e.val % 8) (share.drop 64)
             .next (setCore { s with rooms := { s.rooms with hearth := rest } } e
               (advance (xset (xset c rd (BitVec.ofNat 64 (bitsNum (share.take 64)))) rc 64) 1))))
     ∧ (sourceIn s (e.val / 8) = true → share.length < 64 → exec (.hearth e rd rc) s = .next (setCore s e (advance (xset (xset c rd 0) rc 0) 1)))
     ∧ (sourceIn s (e.val / 8) = false →
        exec (.hearth e rd rc) s = .next (setCore s e (advance (xset (xset c rd 0) rc 0xFFFFFFFFFFFFFFFF) 1)))
     ∧ (∀ (b : Bool) (r : List Bool), bitsNum (b :: r) = (if b then 1 else 0) + 2 * bitsNum r))

/-- BGET of a sealed register, and STQ or STL of one, end the order with POLICY, with no store. BCEQ and BCEQH of
registers, sealed or not, write 1 to the general register when the two blocks, or the named halves, are equal and 0
when they are not; a general register has no seal. [R173] -/
def Obligations.SealedRegistersStayInside : Prop :=
  ∀ (e : EngIx) (o : Nat) (v : Order) (s : State) (x rs1 : XReg) (ba bb : BReg) (m : Fin 4) (h : Bool) (imm : BitVec 16), engineRuns s e o v →
    (let c := (eng s e.val).core
     (sealedB c ba = true → exec (.bget e x ba h) s = .next (endOrder s o .policy 0))
     ∧ (sealedB c ba = true → exec (.stq e ba rs1 imm) s = .next (endOrder s o .policy 0))
     ∧ (∀ i, i < 4 → sealedB c (quadOf m i) = true → exec (.stl e m rs1 imm) s = .next (endOrder s o .policy 0))
     ∧ exec (.bceq e x ba bb) s = .next (setCore s e (advance (xset c x (if bget c ba = bget c bb then 1 else 0)) 1))
     ∧ exec (.bceqh e x ba bb h) s = .next (setCore s e (advance (xset c x
          (if halfOf (bget c ba) h = halfOf (bget c bb) h then 1 else 0)) 1)))

/-- KEYLOAD, past the argument check of a shipped routine, of a handle the order may name, with the key-use permission,
whose checks pass, loads the part's material with its use, type, part and length into kd under a fresh mask of the key
port, and its failing check ends the order with that status; a handle of another slice is a SPOOF and without the
permission the order ends LOCKED. KEYCLR clears the register and its tag. KEYINFO writes the tag (bit 63 loaded, use
at 56, type at 48, part at 40, length at 32), or 0. KEYPUT of supervisor code from a sealed pair, when the key store
takes the record, writes its handle to rd, and ends the order with the store's status otherwise; an unsealed pair ends
it with POLICY. [06_engine_crypto_instructions.md, 08_cellar_key_store.md] -/
def Obligations.KeyRegisterInstructions : Prop :=
  ∀ (e : EngIx) (o : Nat) (v : Order) (s : State) (rd rs : XReg) (k : KReg), engineRuns s e o v →
    (let c := (eng s e.val).core
     (∀ (use : Fin 8) (part : PartSel) (rd0 rdP : CellarRead), pastArgs s v (eng s e.val).second →
        (mayNameKey v (xget c rs) = false → exec (.keyload e k rs use part rd0 rdP) s
            = .next (endOrder (countSpoof s v.slice.val) o .spoof 0))
        ∧ (mayNameKey v (xget c rs) = true → s.tp.keyUse = false → exec (.keyload e k rs use part rd0 rdP) s = .next (endOrder s o .locked 0))
        ∧ (mayNameKey v (xget c rs) = true → s.tp.keyUse = true →
            (∀ s1 r, keyChecks s (xget c rs) use.val (partOf c part) rd0 rdP = (s1, .ok r) →
              exec (.keyload e k rs use part rd0 rdP) s
                = (let t : KeyReg := ⟨r.mat, true, use.val, r.typ, partOf c part, r.matLen⟩
                   let m := BitVec.ofNat 512 (portMask s1 v.slice (r.index + partOf c part))
                   .next (setEng s1 e.val { eng s1 e.val with core := advance (kset c k t) 1, portMask := m })))
            ∧ (∀ s1 st, keyChecks s (xget c rs) use.val (partOf c part) rd0 rdP = (s1, .error st) →
              exec (.keyload e k rs use part rd0 rdP) s = .next (endOrder s1 o st 0))))
     ∧ exec (.keyclr e k) s = .next (setCore s e (advance (kset c k {}) 1))
     ∧ exec (.keyinfo e rd k) s = .next (setCore s e (advance (xset c rd
          (let t := kget c k
           if t.loaded then BitVec.ofNat 64 (2 ^ 63 + t.use * 2 ^ 56 + t.typ.toNat * 2 ^ 48 + t.part % 64 * 2 ^ 40 + t.len * 2 ^ 32) else 0)) 1))
     ∧ (∀ (rd0 : CellarRead) (pick : Nat), v.hdr.supv = true →
        (pairSealed c k = false → exec (.keyput e rd rs k rd0 pick) s = .next (endOrder s o .policy 0))
        ∧ (∀ s1 x, pairSealed c k = true → frameRead s o v (frameAddr c rs 0 64) 64 .ok = (s1, some x) →
            (∀ s2 h, keyStorePut s1 (originOf v) v.slice (tmplOf x) (pairKey c k) rd0 pick = (s2, .ok h) →
              exec (.keyput e rd rs k rd0 pick) s = .next (setCore s2 e (advance (xset c rd h) 1)))
            ∧ (∀ s2 st, keyStorePut s1 (originOf v) v.slice (tmplOf x) (pairKey c k) rd0 pick = (s2, .error st) →
              exec (.keyput e rd rs k rd0 pick) s = .next (endOrder s2 o st 0)))))

/-- With a usable key register, or a register pair as key, AES E and D encrypt or decrypt block bs, or four blocks, into
bd: each result is sealed when the key is for unwrap, for a wrap key only when S is 1, and else when S is 1 or the
data block is sealed. An unusable key ends the order with its status. AES KD encrypts bytes 0 to 7 of bs with eight
key bytes of ks, unsealed. Every AES instruction counts its blocks, and its key stays in the unit's round-key store.
GHMUL, GHACC, PVMUL and XTSDBL write the product of their rule to bd, sealed when an operand they read is. A four-
block form at a register that is not a multiple of 4 is a form the loader refuses. [06_engine_crypto_instructions.md] -/
def Obligations.CipherUnitResults : Prop :=
  ∀ (e : EngIx) (o : Nat) (v : Order) (s : State) (bd bs bs2 : BReg) (k ks : KReg) (w : Fin 4) (s0 q : Bool), engineRuns s e o v →
    (let c := (eng s e.val).core
     let kr := kget c k
     let cipher := fun (src : AesKey) (inv : Bool) (nk key : Nat) =>
       (quadIx q).foldl (fun d i => bset d (bplus bd i) (BitVec.ofNat 128
           (if inv then aesDec nk key (bget c (bplus bs i)).toNat else aesEnc nk key (bget c (bplus bs i)).toNat))
         (aesSeals src c s0 (sealedB c (bplus bs i)))) c
     let n := if q then 4 else 1
     let quads := q = false ∨ (bd.val % 4 = 0 ∧ bs.val % 4 = 0)
     (quads →
        (aesCheck kr .enc = none → exec (.aesE e bd bs (.reg k) s0 q) s
           = .next (aesCount (setCore s e (advance (cipher (.reg k) false (kr.len / 4) (kr.mat.toNat % 2 ^ (8 * kr.len))) 1)) e.val n (kr.mat.toNat % 2 ^ (8 * kr.len))))
        ∧ (aesCheck kr .dec = none → exec (.aesD e bd bs (.reg k) s0 q) s
           = .next (aesCount (setCore s e (advance (cipher (.reg k) true (kr.len / 4) (kr.mat.toNat % 2 ^ (8 * kr.len))) 1)) e.val n (kr.mat.toNat % 2 ^ (8 * kr.len))))
        ∧ exec (.aesE e bd bs (.pair k) s0 q) s
           = .next (aesCount (setCore s e (advance (cipher (.pair k) false 8 (pairKey c k).toNat) 1)) e.val n (pairKey c k).toNat)
        ∧ exec (.aesD e bd bs (.pair k) s0 q) s
           = .next (aesCount (setCore s e (advance (cipher (.pair k) true 8 (pairKey c k).toNat) 1)) e.val n (pairKey c k).toNat)
        ∧ (∀ st, aesCheck kr .enc = some st → exec (.aesE e bd bs (.reg k) s0 q) s = .next (endOrder s o st 0)))
     ∧ (¬ quads → ∀ src, exec (.aesE e bd bs src s0 q) s = .refused .refusedByLoader
           ∧ exec (.aesD e bd bs src s0 q) s = .refused .refusedByLoader)
     ∧ (kr.use = 2 → aesSeals (.reg k) c s0 (sealedB c bs) = true) ∧ (kr.use = 1 → aesSeals (.reg k) c s0 (sealedB c bs) = s0)
     ∧ (kr.use ≠ 1 → kr.use ≠ 2 → aesSeals (.reg k) c s0 (sealedB c bs) = (s0 || sealedB c bs))
     ∧ (aesCheck kr .kd = none → (kget c ks).loaded = true → (kget c ks).use = 7 → exec (.aesKd e bd bs k w ks s0) s
           = .next (aesCount (setCore s e (advance (bset c bd (BitVec.ofNat 128 (aesEnc (kr.len / 4) (kr.mat.toNat % 2 ^ (8 * kr.len))
               (kdBlock (bget c bs) (kget c ks).mat w.val).toNat)) false) 1)) e.val 1 (kr.mat.toNat % 2 ^ (8 * kr.len))))
     ∧ exec (.ghmul e bd bs bs2) s = .next (setCore s e (advance (bset c bd
           (BitVec.ofNat 128 (ghMul (bget c bs).toNat (bget c bs2).toNat)) (sealedB c bs || sealedB c bs2)) 1))
     ∧ exec (.ghacc e bd bs bs2) s = .next (setCore s e (advance (bset c bd
           (BitVec.ofNat 128 (ghMul (bget c bd ^^^ bget c bs).toNat (bget c bs2).toNat)) (sealedB c bd || (sealedB c bs || sealedB c bs2))) 1))
     ∧ exec (.pvmul e bd bs bs2) s = .next (setCore s e (advance (bset c bd
           (BitVec.ofNat 128 (pvMul (bget c bs).toNat (bget c bs2).toNat)) (sealedB c bs || sealedB c bs2)) 1))
     ∧ exec (.xtsdbl e bd bs) s = .next (setCore s e (advance (bset c bd (BitVec.ofNat 128 (xtsDbl (bget c bs).toNat)) (sealedB c bs)) 1)))

/-- In the one-register form BXOR, BAND, BMOV, BREV and BZERO write their result of bs1 and bs2 to bd, and in the four-
register form do so for each of four registers; a result is sealed when an operand is, BZERO's never, BSEAL's always.
BINC32, BINC128 and BINC32L add their immediate to the counter bytes of bs1, BCTR4 writes bs1's counter plus 1 to 4 to
four registers, BMRG joins the low half of bs1 and the high half of bs2: sealed as bs1 or bs2 is. BGET of an unsealed
register writes the named half to the general register and BPUT replaces the named half, keeping the seal. A four-
register form at a register that is not a multiple of 4 is a form that the loader refuses.
[06_engine_crypto_instructions.md] -/
def Obligations.BlockRegisterOperations : Prop :=
  ∀ (e : EngIx) (o : Nat) (v : Order) (s : State) (bd bs1 bs2 : BReg) (x : XReg) (q h : Bool) (imm : BitVec 9), engineRuns s e o v →
    (let c := (eng s e.val).core
     let each := fun (f : Nat → Block) (sl : Nat → Bool) => Host.Outcome.next (φ := Fault) (ρ := Refusal)
       (setCore s e (advance ((if q then [0, 1, 2, 3] else [0]).foldl (fun d i => bset d (bplus bd i) (f i) (sl i)) c) 1))
     let one := fun (w : Block) (sl : Bool) => Host.Outcome.next (φ := Fault) (ρ := Refusal) (setCore s e (advance (bset c bd w sl) 1))
     let sealed1 := fun i => sealedB c (bplus bs1 i)
     let sealed2 := fun i => sealedB c (bplus bs1 i) || sealedB c (bplus bs2 i)
     ((q = false ∨ (bd.val % 4 = 0 ∧ bs1.val % 4 = 0 ∧ bs2.val % 4 = 0)) →
        exec (.bxor e bd bs1 bs2 q) s = each (fun i => bget c (bplus bs1 i) ^^^ bget c (bplus bs2 i)) sealed2
        ∧ exec (.band e bd bs1 bs2 q) s = each (fun i => bget c (bplus bs1 i) &&& bget c (bplus bs2 i)) sealed2
        ∧ exec (.bmov e bd bs1 q) s = each (fun i => bget c (bplus bs1 i)) sealed1
        ∧ exec (.brev e bd bs1 q) s = each (fun i => BitVec.ofNat 128 (revBytes 16 (bget c (bplus bs1 i)).toNat)) sealed1
        ∧ exec (.bseal e bd bs1 q) s = each (fun i => bget c (bplus bs1 i)) (fun _ => true)
        ∧ exec (.bzero e bd q) s = each (fun _ => 0) (fun _ => false))
     ∧ (q = true → bd.val % 4 ≠ 0 → exec (.bzero e bd q) s = .refused .refusedByLoader)
     ∧ exec (.binc32 e bd bs1 imm) s = one (incBytes (bget c bs1) 12 4 imm.toNat) (sealedB c bs1)
     ∧ exec (.binc128 e bd bs1 imm) s = one (incBytes (bget c bs1) 0 16 imm.toNat) (sealedB c bs1)
     ∧ exec (.binc32l e bd bs1 imm) s = one (BitVec.ofNat 128 ((bget c bs1).toNat - (bget c bs1).toNat % 2 ^ 32
          + ((bget c bs1).toNat + imm.toNat) % 2 ^ 32)) (sealedB c bs1)
     ∧ (bd.val % 4 = 0 → exec (.bctr4 e bd bs1) s = .next (setCore s e (advance ((List.range 4).foldl (fun d i =>
          bset d (bplus bd i) (incBytes (bget c bs1) 12 4 (i + 1)) (sealedB c bs1)) c) 1)))
     ∧ exec (.bmrg e bd bs1 bs2) s = one (BitVec.ofNat 128 ((bget c bs1).toNat % 2 ^ 64 + fld ((bget c bs2).toNat >>> 64) 64))
          (sealedB c bs1 || sealedB c bs2)
     ∧ (sealedB c bs1 = false → exec (.bget e x bs1 h) s = .next (setCore s e (advance (xset c x
          (BitVec.ofNat 64 ((bget c bs1).toNat >>> (if h then 64 else 0)))) 1)))
     ∧ exec (.bput e x bd h) s = one (if h then setBits (bget c bd) 127 64 (xget c x).toNat else setBits (bget c bd) 63 0 (xget c x).toNat)
          (sealedB c bd))

/-- HINIT writes the initial state of its algorithm to the frame at rs. With every word readable: HABS absorbs the block
at rb into the state at rs; HKEY of a loaded key whose use allows hashing absorbs its padded key block; HPERM of a
sponge algorithm permutes the state. The state is written back and nothing else of the frame. An uncorrectable word
ends the order with POISON without a write of the state, a key register that is not loaded ends it with NO_KEY, and
one loaded for another use with POLICY. HPERM of a SHA-2 algorithm is a form the loader refuses.
[06_engine_crypto_instructions.md] -/
def Obligations.HashUnitResults : Prop :=
  ∀ (e : EngIx) (o : Nat) (v : Order) (s : State) (rs rb : XReg) (alg : HashAlg) (k : KReg) (pad : Bool), engineRuns s e o v →
    (let c := (eng s e.val).core
     let a := ringOff c rs
     exec (.hinit e rs alg) s = .next (setCore (ringWrite s v a (stateBytes alg) (initState alg)) e (advance c 1))
     ∧ (∀ st, ringRead s v a (stateBytes alg) = some st →
         (∀ b, ringRead s v (ringOff c rb) (blockBytes alg) = some b → exec (.habs e rs rb alg .ok) s
            = .next (setCore (ringWrite s v a (stateBytes alg) (absorb alg st b)) e (advance c 1)))
         ∧ ((kget c k).loaded = true → ((kget c k).use = 0 ∨ (kget c k).use = 5 ∨ (kget c k).use = 6) → exec (.hkey e rs alg k pad .ok) s
            = .next (setCore (ringWrite s v a (stateBytes alg) (absorb alg st (keyBlock alg (kget c k) pad))) e (advance c 1)))
         ∧ (hashWord alg = 0 → exec (.hperm e rs alg .ok) s
            = .next (setCore (ringWrite s v a (stateBytes alg) (keccakF st)) e (advance c 1))))
     ∧ exec (.habs e rs rb alg .uncorrectable) s
         = .next (frameFails s o v (128 * frameOf v + a / 8))
     ∧ ((kget c k).loaded = false → ∀ ecc, exec (.hkey e rs alg k pad ecc) s = .next (endOrder s o .noKey 0))
     ∧ ((kget c k).loaded = true → (kget c k).use = 7 → ∀ ecc, exec (.hkey e rs alg k pad ecc) s = .next (endOrder s o .policy 0))
     ∧ (hashWord alg ≠ 0 → ∀ ecc, exec (.hperm e rs alg ecc) s = .refused .refusedByLoader))

/-- In a first phase of an order with a BN_LEN: BNSET sets the operation when none is set, BNARG notes a handle with its
use, BNIN and BNOUT add an operand, of at most eight each (a frame operand of BNIN is at most 1,024 bytes); a second
BNSET or a ninth operand is a form the loader refuses. A start takes the queued operation with the earliest window
once its input is in and its operands lie inside their ranges: a handle argument that fails ends the order with its
status, an uncorrectable larder word with POISON (and the second of one word takes the engine out), an operand outside
with a door fault, and else the operation runs; a slot program then starts at its first instruction. A poisoned result
word of a DONE operation completes the order with POISON; else an operation with a result gives the engine up, counts,
stages its outputs for DONE alone, puts its outcome word into x16 and queues the second phase. One that has run past
BN_LEN × 998 cycles ends the order with DEADLINE_FAULT. x16 is the value for DONE and else FFFFh at 48, the attempts
at 16 and the status code. [09_bignum_engines.md, 05_engine_core_isa.md] -/
def Obligations.HandOffAndOperationLifetime : Prop :=
  (∀ (e : EngIx) (o : Nat) (v : Order) (s : State), engineRuns s e o v → (eng s e.val).second = false → v.hdr.bnLen ≠ 0 →
    (let c := (eng s e.val).core
     let put := fun (h : HandOff) => (Host.Outcome.next (setCore (setOrder s o { v with hand := h }) e (advance c 1)) : Result)
     (∀ op : BnSet, (v.hand.op = none → exec (.bnset e op) s = put { v.hand with op := some op })
        ∧ (v.hand.op ≠ none → exec (.bnset e op) s = .refused .refusedByLoader))
     ∧ (∀ (rs : XReg) (n : Fin 4) (use : Fin 8),
          exec (.bnarg e rs n use) s = put { v.hand with args := tins v.hand.args n.val (xget c rs, use.val) })
     ∧ (∀ (ra : XReg) (slot : Fin 1024) (window big : Bool) (len : BitVec 9),
          (v.hand.ins.length < 8 → (window = true ∨ ioLen len ≤ 1024) →
            exec (.bnin e ra slot window big len) s = put { v.hand with ins := v.hand.ins ++ [⟨slot.val, window, big, ioLen len, xget c ra, []⟩] })
          ∧ (¬ (v.hand.ins.length < 8 ∧ (window = true ∨ ioLen len ≤ 1024)) →
            exec (.bnin e ra slot window big len) s = .refused .refusedByLoader)
          ∧ (v.hand.outs.length < 8 →
            exec (.bnout e ra slot big len) s = put { v.hand with outs := v.hand.outs ++ [⟨slot.val, true, big, ioLen len, xget c ra, []⟩] })
          ∧ (8 ≤ v.hand.outs.length → exec (.bnout e ra slot big len) s = .refused .refusedByLoader))))
  ∧ (∀ (b : BnIx) (o : Nat) (v : Order) (s : State) (reads : List CellarRead) (ecc : Ecc) (w : Fin 32768),
    (bnEng s b).out = false → (bnEng s b).running = none → nextBn s b = some (o, v) → inputWaits v = false →
    (∀ f, ioFault v = some f → exec (.bnOperationStart b reads ecc w) s = .next (bnDoorFault s o v f.1 f.2))
    ∧ (ioFault v = none →
        (∀ s1 st, pullArgs v v.hand.args s reads [] = (s1, .error st) → exec (.bnOperationStart b reads ecc w) s = .next (endOrder s1 o st 0))
        ∧ (∀ s1 keys, pullArgs v v.hand.args s reads [] = (s1, .ok keys) →
            exec (.bnOperationStart b reads .ok w) s = .next (beginBn s1 b o v keys)
            ∧ exec (.bnOperationStart b reads .corrected w) s = .next (beginBn (larderCE s1) b o v keys)
            ∧ exec (.bnOperationStart b reads .uncorrectable w) s = .next (larderFails s1 b o w.val))))
  ∧ (∀ (b : BnIx) (o : Nat) (v : Order) (s : State), (bnEng s b).running = some o → order? s o = some v →
    (∀ f n, v.hand.op = some (.slots f n) → (bnEng s b).result = none → (bnEng s b).inProg = false →
        exec (.slotProgramStart b) s = (let g := { bnEng s b with inProg := true, pc := 0, loops := [] }
          .next (setBn s b g)))
    ∧ (∀ st val att, (bnEng s b).result = some (st, val, att) → st = .done → outsPoisoned s b v = true →
        exec (.bnOperationEnd b) s = .next (endOrder s o .poison 0))
    ∧ (∀ st val att, (bnEng s b).result = some (st, val, att) → (st ≠ .done ∨ outsPoisoned s b v = false) → exec (.bnOperationEnd b) s
        = (let staged := if st = .done then stageOuts s b v else v.staged
           let v1 := { v with phase := .queued true, x16 := outcomeWord st val att, staged := staged }
           .next (setOrder (cntUp (setBn s b (clearBn (bnEng s b))) (0x50100 + 8 * b.val) 31 0) o v1)))
    ∧ ((bnEng s b).result = none → 998 * v.hdr.bnLen < 1000 * (runNow s + 1 - (bnEng s b).started) →
        exec (.bnOverrun b) s = .next (endOrder (evt (cntUp s 0x50028 31 0) 5 3) o .deadlineFault 0))
    ∧ ((bnEng s b).result = none → 1000 * (runNow s + 1 - (bnEng s b).started) ≤ 998 * v.hdr.bnLen → exec (.bnOverrun b) s = .next s))
  ∧ (∀ val att, outcomeWord .done val att = val)
  ∧ (∀ st val att, st ≠ .done → outcomeWord st val att = BitVec.ofNat 64 (0xFFFF * 2 ^ 48 + att % 65536 * 2 ^ 16 + stCode st))

/-- A service operation that runs fixes a result. ECDSA_VERIFY: DONE with 0 when the signature verifies on the set's
curve, else AUTH_FAIL. RSA_CRT_PRIV: the CRT recombination. MLKEM_DECAPS: 32 bytes, a function of key and ciphertext
that the model leaves free. ECDSA_SIGN, with its random source ready: the signature of the digest under a nonce drawn
below the group order; MLDSA_SIGN: a signature left free; both with the attempts as value, or REJECT_LIMIT past 2, 24
or 100 attempts. The key generations without HDR.SUPV: POLICY; past 2 or 8,192 attempts REJECT_LIMIT; else the record
R249 makes. A service that draws random values while its reseed has no source: REJECT_LIMIT. HYBRID_OPEN: POLICY
without HDR.SUPV, NO_KEY without an identity, MALFORMED when no transport key comes, else a transport record's handle
or the status of its refusal. [09_bignum_engines.md, 07_routine_images_and_library.md, 08_cellar_key_store.md] -/
def Obligations.BigNumberServices : Prop :=
  ∀ (b : BnIx) (o : Nat) (v : Order) (s : State) (op : Fin 256) (set : Fin 64), serviceRuns s b o v op set →
    (op = 2 → exec (.ecdsaVerify b) s = .next (setResult s b (if svcVerifies s b set.val v then .done else .authFail) 0 0))
    ∧ (op = 8 → exec (.rsaCrtPriv b) s
        = .next (svcDone s b (rsaCrt (ceilDiv (svcSet s b set.val).bitLen 16) (svcKey s b) (svcIn s b 0)) 0 0))
    ∧ (op = 16 → exec (.mlkemDecaps b) s = .next (svcDone s b (Config.external 12 [svcKey s b, svcIn s b 0] % 2 ^ 256) 0 0))
    ∧ (∀ s1, drbgReady s b = (false, s1) →
        (op = 1 → ∀ n, exec (.ecdsaSign b n) s = .next (setResult s1 b .rejectLimit 0 0))
        ∧ (op = 3 → ∀ n pick, exec (.ecKeygen b n pick) s = .next (setResult s1 b .rejectLimit 0 0))
        ∧ (op = 10 → ∀ n pick, exec (.rsaKeygen b n pick) s = .next (setResult s1 b .rejectLimit 0 0))
        ∧ (op = 20 ∨ op = 21 → ∀ n, exec (.mldsaSign b n) s = .next (setResult s1 b .rejectLimit 0 0)))
    ∧ (∀ s1, drbgReady s b = (true, s1) →
        (op = 1 → exec (.ecdsaSign b 0) s = .next (setResult (drbgCount s1 b 2) b .rejectLimit 0 2)
          ∧ (∀ n : Fin 3, n ≠ 0 → exec (.ecdsaSign b n) s
              = (let q := drbgCount s1 b n.val
                 let p := svcSet q b set.val
                 let d := drawScalar q p
                 let c := setCurve p
                 let sig := c.sign (svcKey q b) d.1 (svcDigest q b v c)
                 .next (svcDone d.2 b (sig.1 * 2 ^ (8 * fieldBytes p) + sig.2) (BitVec.ofNat 64 n.val) n.val))))
        ∧ (op = 3 → ∀ pick,
            (v.hdr.supv = false → ∀ n : Fin 3, n ≠ 0 → exec (.ecKeygen b n pick) s = .next (setResult (drbgCount s1 b n.val) b .policy 0 0))
            ∧ (v.hdr.supv = true → exec (.ecKeygen b 0 pick) s = .next (setResult (drbgCount s1 b 2) b .rejectLimit 0 2))
            ∧ (v.hdr.supv = true → ∀ n : Fin 3, n ≠ 0 → exec (.ecKeygen b n pick) s
                = (let q := drbgCount s1 b n.val
                   let d := drawScalar q (svcSet q b set.val)
                   .next (makeRecord d.2 b v (if (svcSet q b set.val).bitLen ≤ 256 then 0x10 else 0x11) d.1 pick n.val))))
        ∧ (op = 10 → ∀ pick n, 0 < n → n ≤ 8192 →
            (v.hdr.supv = false → exec (.rsaKeygen b n pick) s = .next (setResult (drbgCount s1 b n) b .policy 0 0))
            ∧ (v.hdr.supv = true → exec (.rsaKeygen b n pick) s
                = (let k := rsaKey (if set = 8 then 128 else if set = 9 then 192 else 256) (drbgCount s1 b n)
                   .next (makeRecord k.2 b v (if set = 8 then 0x20 else if set = 9 then 0x21 else 0x22) k.1 pick n))))
        ∧ (op = 10 → v.hdr.supv = true → ∀ pick n, 8192 < n →
            exec (.rsaKeygen b n pick) s = .next (setResult (drbgCount s1 b 8192) b .rejectLimit 0 8192))
        ∧ (op = 20 ∨ op = 21 →
            (let limit := if op = 20 then 24 else 100
             (∀ n, 0 < n → n ≤ limit → exec (.mldsaSign b n) s
                = (let q := drbgCount s1 b n
                   let d := draw 256 q
                   .next (svcDone d.2 b (Config.external 13 [svcKey q b, svcIn q b 0, d.1.toNat] % 2 ^ (8 * 3309)) (BitVec.ofNat 64 n) n)))
             ∧ (∀ n, limit < n → exec (.mldsaSign b n) s = .next (setResult (drbgCount s1 b limit) b .rejectLimit 0 limit)))))
    ∧ (op = 24 → ∀ pick,
        (v.hdr.supv = false → exec (.hybridOpen b pick) s = .next (setResult s b .policy 0 0))
        ∧ (v.hdr.supv = true → s.keys.ident = false → exec (.hybridOpen b pick) s = .next (setResult s b .noKey 0 0))
        ∧ (v.hdr.supv = true → s.keys.ident = true →
            (transportKey s (svcIn s b 1) (svcIn s b 0) v.tag = none → exec (.hybridOpen b pick) s = .next (setResult s b .malformed 0 0))
            ∧ (∀ k, transportKey s (svcIn s b 1) (svcIn s b 0) v.tag = some k →
                (∀ s1 st, keyStorePut s (originOf v) v.slice transportTmpl k .clean pick = (s1, .error st) →
                  exec (.hybridOpen b pick) s = .next (setResult s1 b st 0 0))
                ∧ (∀ s1 h, keyStorePut s (originOf v) v.slice transportTmpl k .clean pick = (s1, .ok h) →
                  exec (.hybridOpen b pick) s = .next (setResult s1 b .done h 0)))))

/-- PSEL of a checked or BLANK/TEST set with a modulus makes it active; an undefined set or one without modulus is
MALFORMED, an unchecked one POLICY elsewhere. PSETM takes an odd modulus from a slot, MALFORMED for an even one,
POLICY in PRODUCTION outside a maintenance order. PULL stores parts of an argument's material and makes the slot
SECRET. SDEF writes a descriptor. MOV, ZERO and KECCAK write the destination slot, CMP sets EQ and LT, RNDM writes a
masked DRBG value and REJ. A poisoned source word ends the order with POISON. SKIP goes past n instructions when its
flag's condition holds, LOOP starts a loop of at most two levels, END fixes the result with a status a routine may end
with. Each continues with the next instruction unless said otherwise. [09_bignum_engines.md] -/
def Obligations.SlotProgramControlAndData : Prop :=
  ∀ (b : BnIx) (o : Nat) (v : Order) (s : State), programRuns s b o v →
    (let g := bnEng s b
     let wordsOf := fun (x : Fin 1024) => slotLen (slotDesc s b.val x.val)
     let okSlot := fun (x : Fin 1024) => slotValid (slotDesc s b.val x.val) = true
     let clean := fun (x : Fin 1024) => poisoned s 6 (slotWords s b.val x.val (wordsOf x)) = false
     (∀ (set : Fin 64) (lm : Fin 1024) (p : Sys2Proof.Machine.PSet), setOf g.sets set.val = some p →
        (p.checked = true ∨ s.mode.lc = .blank ∨ s.mode.lc = .test →
          (p.modulus = 0 → exec (.psel b set lm) s = .next (setResult s b .malformed 0 0))
          ∧ (p.modulus ≠ 0 → set.val < 32 → exec (.psel b set lm) s
              = (let g1 := { g with modulus := p.modulus, lm := ceilDiv p.bitLen 64, set := set.val }
                 .next (bnStep (setBn s b g1) b)))
          ∧ (p.modulus ≠ 0 → 32 ≤ set.val → 0 < lm.val → lm.val ≤ 256 → ceilDiv p.bitLen 64 ≤ lm.val → exec (.psel b set lm) s
              = (let g1 := { g with modulus := p.modulus, lm := lm.val, set := set.val }
                 .next (bnStep (setBn s b g1) b))))
        ∧ (p.checked = false → s.mode.lc ≠ .blank → s.mode.lc ≠ .test → exec (.psel b set lm) s = .next (setResult s b .policy 0 0)))
     ∧ (∀ (set : Fin 64) (lm : Fin 1024), setOf g.sets set.val = none → exec (.psel b set lm) s = .next (setResult s b .malformed 0 0))
     ∧ (∀ a, okSlot a → clean a → wordsOf a ≤ 256 →
        (s.mode.lc = .production → v.hdr.maint = false → exec (.psetm b a) s = .next (setResult s b .policy 0 0))
        ∧ (¬ (s.mode.lc = .production ∧ v.hdr.maint = false) →
            (slotLow s b a (wordsOf a) % 2 = 0 → exec (.psetm b a) s = .next (setResult s b .malformed 0 0))
            ∧ (slotLow s b a (wordsOf a) % 2 ≠ 0 → exec (.psetm b a) s
                = (let g1 := { g with modulus := slotLow s b a (wordsOf a), lm := wordsOf a, set := 64 }
                   .next (bnStep (setBn s b g1) b)))))
     ∧ (∀ (d part : Fin 1024) (arg : Fin 4) (n : Fin 64) (h : Word × Nat), okSlot d → 4 * (n.val + 1) ≤ wordsOf d →
        tfind v.hand.args arg.val = some h → part.val + (n.val + 1) ≤ execPull.hLen s h.1 →
        exec (.pull b d arg part n) s = (let s1 := setDesc s b.val d.val (setBits (slotDesc s b.val d.val) 62 62 1)
          .next (slotStore s1 b d (4 * (n.val + 1)) (bytesOf (tget 0 g.keyIn arg.val) (32 * part.val) (32 * (n.val + 1))))))
     ∧ (∀ (d : Fin 1024) (desc : BitVec 46) (w : Word), w = BitVec.ofNat 64 (desc.toNat + 2 ^ 63) →
        (tfind g.inputs d.val = none ∨ slotRefused s b.val d.val w = true →
          exec (.sdef b d desc) s = .next (bnStep (slotDefine s b.val d.val w) b))
        ∧ (∀ x, tfind g.inputs d.val = some x → slotRefused s b.val d.val w = false → exec (.sdef b d desc) s
            = (let s1 := slotDefine s b.val d.val w
               let g1 := { bnEng s1 b with inputs := tdel g.inputs d.val }
               .next (bnStep (slotPut (setBn s1 b g1) b.val d.val x) b))))
     ∧ (∀ d, okSlot d → exec (.zero b d) s = .next (slotStore s b d (wordsOf d) 0)
          ∧ (∀ a, okSlot a → wordsOf d ≤ wordsOf a →
              (poisoned s 6 (slotWords s b.val a.val (wordsOf d)) = false →
                exec (.mov b d a) s = .next (slotStore s b d (wordsOf d) (slotLow s b a (wordsOf d))))
              ∧ (poisoned s 6 (slotWords s b.val a.val (wordsOf d)) = true → exec (.mov b d a) s = .next (endOrder s o .poison 0)))
          ∧ (25 ≤ wordsOf d → poisoned s 6 (slotWords s b.val d.val 25) = false →
              exec (.keccak b d) s = .next (slotStore s b d 25 (keccakF (slotLow s b d 25)))))
     ∧ (∀ a x, okSlot a → okSlot x → clean a → clean x → exec (.cmp b a x) s
          = (let g1 := { g with eq := decide (slotLow s b a (wordsOf a) = slotLow s b x (wordsOf x)), lt := decide (slotLow s b a (wordsOf a) < slotLow s b x (wordsOf x)) }
             .next (bnStep (setBn s b g1) b)))
     ∧ (∀ d, okSlot d → g.lm ≤ wordsOf d → g.modulus ≠ 0 →
          (∀ s1, drbgReady s b = (true, s1) → exec (.rndm b d) s
            = (let r := draw 16384 (drbgCount s1 b 1)
               let x := r.1.toNat % 2 ^ bitLength g.modulus
               let g1 := { bnEng r.2 b with rej := decide (g.modulus ≤ x) }
               .next (slotStore (setBn r.2 b g1) b d g.lm x)))
          ∧ (∀ s1, drbgReady s b = (false, s1) → exec (.rndm b d) s = .next (setResult s1 b .rejectLimit 0 0)))
     ∧ (∀ (cond : SkipFlag) (neg : Bool) (n : BitVec 16) (flag : Bool), bnFlag g cond.val = some flag →
          ((∀ f r, g.loops = f :: r → g.pc + n.toNat ≤ f.last) →
            exec (.skip b cond neg n) s = .next (bnNext s b (if flag = neg then g.pc else g.pc + n.toNat)))
          ∧ (∀ f r, g.loops = f :: r → f.last < g.pc + n.toNat → exec (.skip b cond neg n) s = .refused .refusedByLoader))
     ∧ (∀ (body : Fin 1024) (times : BitVec 16),
          (g.loops = [] ∨ (∃ f, g.loops = [f] ∧ g.pc + 1 + body.val ≤ f.last) → exec (.bnLoop b body times) s
            = (let g1 := { g with loops := ⟨g.pc + 1, g.pc + 1 + body.val, times.toNat + 1⟩ :: g.loops, pc := g.pc + 1 }
               .next (setBn s b g1)))
          ∧ (1 < g.loops.length → exec (.bnLoop b body times) s = .refused .refusedByLoader))
     ∧ (∀ (status : BitVec 16) (st : Status), stOfCode status.toNat = some st →
          (exitOk st = true → exec (.bnEnd b status) s = .next (setResult s b st 0 0))
          ∧ (exitOk st = false → exec (.bnEnd b status) s = .refused .refusedByLoader)))

/-- With an active modulus m, operand slots that hold Lm words without poison and a destination that does: MADD, MSUB,
MMUL, TOM, FROMM and MINV write the value of their formula modulo m when every operand is below m, and MEXP the power;
MRED reduces 2Lm words; MUL writes the 2Lm-word product; the Montgomery radix, the NTT and INTT values and SAMPLE's
coefficients are left free. PMUL and PADD work coefficient by coefficient modulo q of an active NTT set. SUMP writes
the sum of products modulo m, or sets GUARD and writes nothing when the sum leaves bit 767. VRED reduces each element
in place. Without a modulus, or without an NTT set, the operation ends MALFORMED. [09_bignum_engines.md] -/
def Obligations.SlotProgramArithmetic : Prop :=
  ∀ (b : BnIx) (o : Nat) (v : Order) (s : State) (d a x : Fin 1024), programRuns s b o v →
    (let g := bnEng s b
     let m := g.modulus
     let val := fun (y : Fin 1024) => slotLow s b y g.lm
     let holds := fun (y : Fin 1024) (n : Nat) => slotHolds s b n y = true ∧ poisoned s 6 (slotWords s b.val y.val n) = false
     let out := fun (r : Nat) => (Host.Outcome.next (slotStore s b d g.lm (r % m)) : Result)
     (slotHolds s b g.lm d = true → holds a g.lm → m ≠ 0 → val a < m →
        exec (.tom b d a) s = out (val a * radix m g.lm) ∧ exec (.fromm b d a) s = out (val a * radixInv m g.lm)
        ∧ exec (.minv b d a) s = out (powMod m (val a) (m - 2) (64 * g.lm))
        ∧ (holds x g.lm → val x < m →
            exec (.madd b d a x) s = out (val a + val x) ∧ exec (.msub b d a x) s = out (val a + (m - val x))
            ∧ exec (.mmul b d a x) s = out (val a * val x * radixInv m g.lm))
        ∧ (let lb := slotLen (slotDesc s b.val x.val)
           holds x lb → exec (.mexp b d a x) s = .next (slotStore s b d g.lm (powMod m (val a) (slotLow s b x lb) (64 * lb)))))
     ∧ (slotHolds s b g.lm d = true → holds a (2 * g.lm) → m ≠ 0 → exec (.mred b d a) s = out (slotLow s b a (2 * g.lm)))
     ∧ (slotHolds s b (2 * g.lm) d = true → holds a g.lm → holds x g.lm →
          exec (.bnMul b d a x) s = .next (slotStore s b d (2 * g.lm) (val a * val x)))
     ∧ (∀ (le : Fin 1024) (terms : BitVec 16), slotHolds s b g.lm d = true → m ≠ 0 → m < 2 ^ 376 → 0 < le.val → le.val ≤ 6 → g.lm ≤ 6 →
          (let n := terms.toNat + 1
           let va := slotLow s b a (n * le.val)
           let vx := slotLow s b x (n * le.val)
           let t := sumProducts va vx le.val n
           holds a (n * le.val) → holds x (n * le.val) →
             (t.2 = true → exec (.sump b d a x le terms) s
                = (let s1 := evt (cntUp s 0x50028 63 32) 5 7
                   let g1 := { g with guard := true }
                   .next (bnStep (setBn s1 b g1) b)))
             ∧ (t.2 = false → (∀ i, i < n → elem va le.val i < m ∧ elem vx le.val i < m) → exec (.sump b d a x le terms) s
                = (let g1 := { g with guard := false }
                   .next (slotStore (setBn s b g1) b d g.lm (t.1 % m))))))
     ∧ (∀ (le : Fin 1024) (elems : BitVec 16), m ≠ 0 → holds d ((elems.toNat + 1) * le.val) →
          exec (.vred b d le elems) s = (let n := elems.toNat + 1
            .next (slotStore s b d (n * le.val) (packWords (8 * le.val)
              ((List.range n).map fun i => elem (slotLow s b d (n * le.val)) le.val i % m)))))
     ∧ (∀ q n z, nttSet g = some (q, n, z) → slotHolds s b (polyWords g) d = true →
          (let poly := fun (f : Nat → Nat) => (Host.Outcome.next (slotStore s b d (polyWords g) (packWords 4 ((List.range n).map fun i => f i % q))) : Result)
           let pv := fun (y : Fin 1024) => slotLow s b y (polyWords g)
           (holds a (polyWords g) →
              exec (.ntt b d a) s = poly (fun i => Config.external 21 [q, n, z, pv a, i])
              ∧ exec (.intt b d a) s = poly (fun i => Config.external 22 [q, n, z, pv a, i])
              ∧ (holds x (polyWords g) → exec (.pmul b d a x) s = poly (fun i => coeff (pv a) i * coeff (pv x) i)
                  ∧ exec (.padd b d a x false) s = poly (fun i => coeff (pv a) i + coeff (pv x) i)
                  ∧ exec (.padd b d a x true) s = poly (fun i => coeff (pv a) i + (q - coeff (pv x) i % q))))
           ∧ (let la := slotLen (slotDesc s b.val a.val)
              holds a la → exec (.sample b d a) s
                = (let g1 := { g with short := Config.external 24 [q, n, la, slotLow s b a la] % 2 == 1 }
                   .next (slotStore (setBn s b g1) b d (polyWords g)
                     (packWords 4 ((List.range n).map fun i => Config.external 23 [q, n, la, slotLow s b a la, i] % q)))))))
     ∧ (m = 0 → slotHolds s b g.lm d = true → holds a g.lm → holds x g.lm →
          exec (.madd b d a x) s = .next (setResult s b .malformed 0 0))
     ∧ (nttSet g = none → slotHolds s b (polyWords g) d = true → holds a (polyWords g) →
          exec (.ntt b d a) s = .next (setResult s b .malformed 0 0)))

/-- ECHO ends its order with TB_NOW. REKEY_SLOT with well-formed arguments ends with the jittered time, else MALFORMED.
REKEY_STEP with a usable derive key writes the new handles as output, or ends with the refusing status. TRANSPORT_OPEN
and ATTEST hand an operation over in their first phase and end with its outcome in the second; a bad request is
MALFORMED. HEARTH_RAW returns captured bits, or REJECT_LIMIT when there are too few. A loader command that is taken is
answered BUSY at once, with its outcome fixed: LOCKED while locked, ABORTED for an unread image, MALFORMED for a
malformed one, QUOTA without room, and else what the tests found; when it is done, a load of DONE commits the image
and an unload empties the entry. A command while BUSY changes nothing. [07_routine_images_and_library.md,
08_cellar_key_store.md, 09_bignum_engines.md] -/
def Obligations.LibraryRoutinesAndTheLoader : Prop :=
  (∀ (e : EngIx) (o : Nat) (v : Order) (s : State),
    (routineRuns s e o v 0x00 → exec (.echo e) s = .next (endOrder s o .done (tbNow s)))
    ∧ (routineRuns s e o v 0x34 →
        (rekeySlotOk v = true → exec (.rekeySlot e) s = .next (endOrder s o .done (rekeyTime v)))
        ∧ (rekeySlotOk v = false → exec (.rekeySlot e) s = .next (endOrder s o .malformed 0)))
    ∧ (routineRuns s e o v 0x35 → ∀ (rdKey : CellarRead) (picks : List Nat),
        (rekeyCount v = none → exec (.rekeyStep e rdKey picks) s = .next (endOrder s o .malformed 0))
        ∧ (∀ n s1 r, rekeyCount v = some n → rekeyTmplOk (tmplOf (inputNum v % 2 ^ 512)) = true → mayNameKey v v.handle = true →
            keyChecks s v.handle 0 0 rdKey .clean = (s1, .ok r) → aesCheck ⟨r.mat, true, 0, r.typ, 0, r.matLen⟩ .enc = none →
            (∀ s2 hs, rekeyAll s1 v (tmplOf (inputNum v % 2 ^ 512)) ⟨r.mat, true, 0, r.typ, 0, r.matLen⟩ picks n = (s2, .ok hs) →
              exec (.rekeyStep e rdKey picks) s = .next (endOrder (updOrder s2 o fun v =>
                { v with staged := tstoreList [] 0 (hs.flatMap fun h => (unpackBytes 8 h.toNat).map (BitVec.ofNat 8)) }) o .done 0))
            ∧ (∀ s2 st, rekeyAll s1 v (tmplOf (inputNum v % 2 ^ 512)) ⟨r.mat, true, 0, r.typ, 0, r.matLen⟩ picks n = (s2, .error st) →
              exec (.rekeyStep e rdKey picks) s = .next (endOrder s2 o st 0))))
    ∧ (routineRuns s e o v 0x50 →
        ((eng s e.val).second = false → v.inLen = 1120 → exec (.transportOpen e) s
          = (let h : HandOff := { op := some (.service 0x18 2), ins := [windowIn 0 0 32, windowIn 1 32 1088] }
             .next (handOver s e o v h v.staged)))
        ∧ ((eng s e.val).second = false → v.inLen ≠ 1120 → exec (.transportOpen e) s = .next (endOrder s o .malformed 0))
        ∧ ((eng s e.val).second = true → exec (.transportOpen e) s = .next (exitOutcome s o (tget 0 (eng s e.val).core.x 16))))
    ∧ (routineRuns s e o v 0x58 → ∀ rd0,
        ((eng s e.val).second = true → exec (.attest e rd0) s = .next (exitOutcome s o (tget 0 (eng s e.val).core.x 16)))
        ∧ ((eng s e.val).second = false → attestOk v = false → exec (.attest e rd0) s = .next (endOrder s o .malformed 0))
        ∧ ((eng s e.val).second = false → attestOk v = true → hSlice (BitVec.ofNat 64 (bytesOf (inputNum v) 0x28 8)) ≠ v.slice.val →
            exec (.attest e rd0) s
            = (let dig := (unpackBytes 48 (sha384 224 (packBytes (attestBody s v none)))).map (BitVec.ofNat 8)
               let h : HandOff := { op := some (.service 1 1), args := [(0, 0, 5)], ins := [⟨0, false, true, 48, 0, dig⟩], outs := [⟨0, true, true, 96, 0x1010000E0, []⟩] }
               .next (handOver s e o v h (tstoreList [] 0 ((attestBody s v none).map (BitVec.ofNat 8)))))))
    ∧ (routineRuns s e o v 0xE0 →
        (inputNum v ≤ 63 → 0 < v.outLen → v.outLen ≤ 65536 → v.outLen % 8 = 0 → s.ns.capValid = true → s.ns.capRoom = inputNum v →
          (8 * v.outLen ≤ s.ns.cap.length → exec (.hearthRaw e) s
            = (let n1 := { s.ns with cap := s.ns.cap.drop (8 * v.outLen) }
               let v1 := { v with staged := tstoreList [] 0 (bitBytes s.ns.cap v.outLen) }
               .next (endOrder (setOrder { s with ns := n1 } o v1) o .done 0)))
          ∧ (s.ns.cap.length < 8 * v.outLen → exec (.hearthRaw e) s = .next (endOrder s o .rejectLimit 4)))
        ∧ (s.ns.capValid = false → exec (.hearthRaw e) s = .next (endOrder s o .malformed 0))))
  ∧ (∀ (s : State) (len : BitVec 32) (image : HostRead (List Byte)) (sigOk : Bool) (rn : Fin 4096), managerOpen s →
    exec (.routineLoad len image sigOk) s = .next (loadImage s 1 len.toNat image sigOk)
    ∧ exec (.routineCheck len image sigOk) s = .next (loadImage s 3 len.toNat image sigOk)
    ∧ exec (.routineUnload rn) s = .next (unloadCmd s rn.val)
    ∧ (∀ c, s.ld.cmd = some c → loadImage s 1 len.toNat image sigOk = s ∧ loadImage s 3 len.toNat image sigOk = s ∧ unloadCmd s rn.val = s)
    ∧ (s.ld.cmd = none → ∀ op : Nat,
        (isLocked s = true → loadImage s op len.toNat image sigOk = ldBegin s ⟨op, none, 1, .locked, 0, 0⟩
          ∧ unloadCmd s rn.val = ldBegin s ⟨2, none, 1, .locked, 0, rn.val⟩)
        ∧ (ldGate s = none →
            loadImage s op len.toNat .failed sigOk = ldBegin (dmaErr s) ⟨op, none, 3, .aborted, 0, 0⟩
            ∧ (∀ l, imageFormOk len.toNat l = false → loadImage s op len.toNat (.ok l) sigOk = ldBegin s ⟨op, none, 4, .malformed, 0, 0⟩)
            ∧ (∀ l reason st k, imageFormOk len.toNat l = true → imageTests s (imageOfBytes l) sigOk = (reason, st, k, none) → reason ≠ 0 →
                loadImage s op len.toNat (.ok l) sigOk
                  = ldBegin s ⟨op, some (imageOfBytes l), reason, st, k, (imageOfBytes l).hdr.routine⟩)
            ∧ (∀ l f, imageFormOk len.toNat l = true → imageTests s (imageOfBytes l) sigOk = (0, .done, 0, some f) →
                loadImage s op len.toNat (.ok l) sigOk
                  = (let im := { imageOfBytes l with slotProg := f.slotProg }
                     let full : Bool := granulesFree s < granules im.hdr
                     ldBegin (ldFigures s f) ⟨op, some im, if full then 0x0B else 0, if full then .quota else .done, 0, im.hdr.routine⟩))
            ∧ (tfind s.ld.dir rn.val = none → unloadCmd s rn.val = ldBegin s ⟨2, none, 0x0C, .malformed, 0, rn.val⟩)
            ∧ (tfind s.ld.dir rn.val ≠ none → unloadCmd s rn.val = ldBegin s ⟨2, none, 0, .done, 0, rn.val⟩)))
    ∧ (∀ c, s.ld.cmd = some c →
        (let l1 := { s.ld with cmd := none }
         let s1 := ldReport (ldSts { s with ld := l1 } false c.routine c.reason c.bundle c.status) c
         (c.status ≠ .done → exec .loaderCommandDone s = .next s1)
         ∧ (c.status = .done → c.op = 1 → ∀ im, c.image = some im → exec .loaderCommandDone s = .next (commitImage s1 im))
         ∧ (c.status = .done → c.op = 2 → exec .loaderCommandDone s = .next (unloadEntry s1 c.routine))
         ∧ (c.status = .done → c.op = 3 → exec .loaderCommandDone s = .next s1))))

/-- A key-store command while one waits or before the restore, is turned away with its event; while locked it ends LOCKED;
a delete, purge or restriction waits with BUSY set while the journal has no room; else it acts: delete and restrict
name a chain by KS_CMD_ARG (NO_KEY when none, POLICY for a domain ring), purge deletes the slice's stale chains, a new
image begins unless one is being built, a rotation raises the transport generation, and a new certificate follows
where it did. An incomplete chain expires one second after its creation, with its event. A due page of the journal is
programmed; a complete image becomes current and releases the journal before its mark; the image that was current is
kept as the older copy; poisoned records of a block are restored from the newest copy, unless a wider span that starts
earlier waits. The restore ends with RESTORED and READY, and waits while the journal area is being erased.
[08_cellar_key_store.md, 16_ecc_and_vault_flash.md] -/
def Obligations.KeyStoreCommands : Prop :=
  ∀ (s : State),
    (managerOpen s → ∀ (sl : Slice) (clear : Byte) (val : Word),
      exec .ksDelete s = .next (ksCommand s 1 0 0) ∧ exec (.ksPurge sl) s = .next (ksCommand s 2 sl 0)
      ∧ exec (.ksRestrict clear) s = .next (ksCommand s 3 0 clear) ∧ exec .ksNewImage s = .next (ksCommand s 4 0 0)
      ∧ exec .ksRotateTransport s = .next (if rd (ksCommand s 5 0 0) 0x40068 = rd s 0x40068 then ksCommand s 5 0 0 else rotateCert (ksCommand s 5 0 0))
      ∧ (s.ks.fresh = true → rdF s 0x40058 20 0 ≤ bits val 20 0 → exec (.genBaseWrite val) s = .next (wrF s 0x40058 20 0 (bits val 20 0)))
      ∧ (s.ks.fresh = false → exec (.genBaseWrite val) s = .next s)
      ∧ (waysSum s - minWays s sl.val + min 14 (bits val 3 0) ≤ 14 → exec (.waysWrite sl val) s
          = .next (wrF s (sltBase sl.val + 0x410) 3 0 (bits val 3 0)))
      ∧ (14 < waysSum s - minWays s sl.val + min 14 (bits val 3 0) → exec (.waysWrite sl val) s = .next (evt s 4 5)))
    ∧ (∀ op (sl : Slice) clear,
        ((∃ c, s.ks.cmd = some c) ∨ ksRestored s = false → ksCommand s op sl clear = evt s 4 10)
        ∧ (s.ks.cmd = none → ksRestored s = true →
            (isLocked s = true → ksCommand s op sl clear = ksDone s .locked)
            ∧ (isLocked s = false → op = 1 ∨ op = 2 ∨ op = 3 → journalFull s = true → ksCommand s op sl clear
                = (let k1 := { s.ks with cmd := some ⟨op, sl, clear⟩ }
                   evt (wrF { s with ks := k1 } 0x40020 16 16 1) 12 8))
            ∧ (isLocked s = false → (op = 1 ∨ op = 3) → journalFull s = false →
                (chainOf s (rd s 0x40028) = none → ksCommand s op sl clear = ksDone s .noKey)
                ∧ (∀ r, chainOf s (rd s 0x40028) = some r → r.typ = 0x40 → ksCommand s op sl clear = ksDone s .policy)
                ∧ (∀ r, chainOf s (rd s 0x40028) = some r → r.typ ≠ 0x40 → ksCommand s op sl clear
                    = ksDone (if op = 1 then deleteChain s r else restrictChain s r clear) .done))
            ∧ (isLocked s = false → journalFull s = false → ksCommand s 2 sl clear = ksDone ((staleChains s sl.val).foldl deleteChain s) .done)
            ∧ (isLocked s = false → imgBusy s = false → imageRefused s = false → ksCommand s 4 sl clear = ksDone (beginImage s) .done)
            ∧ (isLocked s = false → ksCommand s 5 sl clear = ksDone (wrF s 0x40068 31 0 (rdF s 0x40068 31 0 + 1)) .done)))
    ∧ (∀ ix r, tfind s.ks.recs ix = some r → r.part = 0 → r.complete = false →
        (r.bornRun + beatsPerSec ≤ runNow s → exec (.chainExpiry ix) s
          = .next (evtRec (deleteChain s r) 4 6 (srcWord 0 0) (recHandle r).toNat))
        ∧ (runNow s < r.bornRun + beatsPerSec → exec (.chainExpiry ix) s = .next s))
    ∧ (pageDue s = true → s.ks.durable.length < journalPages s → exec .journalProgram s = .next (ksResume (imageDue (programPage s))))
    ∧ (∀ im mark, s.ks.building = some (im, mark) → exec .imageComplete s
        = (let k1 := { s.ks with image := some im, older := s.ks.image, building := none, durable := s.ks.durable.drop mark }
           .next (ksResume (imageDue (evt { s with ks := k1 } 4 7)))))
    ∧ (∀ block, (∃ ix, ix ∈ s.ks.poisoned ∧ ix / 64 = block) → restoredLater s block = false → exec (.recordRestore block) s
        = (let s1 := settleWide ((s.ks.poisoned.filter fun ix => ix / 64 == block).foldl restoreRec s)
           .next (if s1.ks.poisoned.isEmpty then evt s1 4 3 else s1)))
    ∧ (∀ (level : Fin 4) node, exec (.nodeReencryptionDone level node) s
        = (let k1 := { s.ks with reenc := s.ks.reenc.eraseP fun r => r.1 == level.val && r.2.1 == node }
           .next { s with ks := k1 }))
    ∧ (managerOpen s → s.keys.memory = true → ksRestored s = false → s.ec.erasing.contains 3 = false → ∀ i, ∃ t,
        exec (.cellarRestoreDone i) s = .next t ∧ t.mode.ready = true ∧ t.mode.zeroized = false)
    ∧ (managerOpen s → s.ec.erasing.contains 3 = true → ∀ i, exec (.cellarRestoreDone i) s = .next s)

/-- With no order holding an engine's area, the manager stores a slot descriptor that fits beside the others, and a word
outside a SECRET slot; an area that is held, or a descriptor that overlaps or leaves the area, raises its event and
changes nothing else; a word of a SECRET slot is not written. A set load that passes its gate and form is checked
before it is installed as checked, or is left out with the first reason that the checker finds; NOCHECK installs it
unchecked; an erase removes the set; a built-in number is POLICY, an unread descriptor ABORTED. A big-number engine
taken out of service ends the orders placed on it, loses its area and its units, and re-enters service only after its
self-test. [09_bignum_engines.md] -/
def Obligations.LarderAndParameterSets : Prop :=
  ∀ (s : State) (b : BnIx),
    (managerOpen s → ∀ (n : Fin 1024) (desc val : Word) (w : Fin 16384),
      (areaTaken s b = true → exec (.slotDescriptorWrite b n desc) s = .next (evt s 5 1)
          ∧ exec (.larderWindowWrite b w val) s = .next (evt s 5 1))
      ∧ (areaTaken s b = false → slotRefused s b.val n.val desc = true → exec (.slotDescriptorWrite b n desc) s = .next (evt s 5 0))
      ∧ (areaTaken s b = false → slotRefused s b.val n.val desc = false → bit (slotDesc s b.val n.val) 62 = false →
          exec (.slotDescriptorWrite b n desc) s = .next (setDesc s b.val n.val (slotStored desc)))
      ∧ (areaTaken s b = false → slotRefused s b.val n.val desc = false → bit (slotDesc s b.val n.val) 62 = true →
          exec (.slotDescriptorWrite b n desc) s
            = .next (setDesc (zeroWords s b.val (inSlot (slotDesc s b.val n.val))) b.val n.val (slotStored desc)))
      ∧ (areaTaken s b = false → secretWord s b.val w.val = true → exec (.larderWindowWrite b w val) s = .next s)
      ∧ (areaTaken s b = false → secretWord s b.val w.val = false → exec (.larderWindowWrite b w val) s
          = .next (putWords s b.val w.val 1 val.toNat))
      ∧ (twf 0 s.mem.descs = true → ∀ m, tget 0 (setDesc s b.val n.val desc).mem.descs m = if m = 1024 * b.val + n.val then desc else tget 0 s.mem.descs m))
    ∧ (managerOpen s → s.bn.cmd = none → ∀ (set : Fin 64) (nocheck : Bool) (len : BitVec 32),
      (∀ r, psetGate s set.val nocheck = some r → ∀ d, exec (.psetLoad set nocheck len d) s = .next (psetDone s r.1 r.2))
      ∧ (∀ r, psetGate s set.val false = some r → exec (.psetErase set) s = .next (psetDone s r.1 r.2))
      ∧ (isLocked s = true → psetGate s set.val nocheck = some (1, .locked))
      ∧ (isLocked s = false → set.val < 32 → psetGate s set.val nocheck = some (2, .policy))
      ∧ (psetGate s set.val nocheck = none →
          exec (.psetLoad set nocheck len .failed) s = .next (psetDone (dmaErr s) 3 .aborted)
          ∧ (∀ l, psetFormOk s len.toNat l = false → exec (.psetLoad set nocheck len (.ok l)) s = .next (psetDone s 4 .malformed))
          ∧ (∀ l, psetFormOk s len.toNat l = true → nocheck = true → exec (.psetLoad set nocheck len (.ok l)) s
              = (let b1 := { s.bn with psets := tins s.bn.psets set.val (psetOf l) }
                 .next (psetDone { s with bn := b1 } 0 .done)))
          ∧ (∀ l, psetFormOk s len.toNat l = true → nocheck = false → exec (.psetLoad set nocheck len (.ok l)) s
              = (let b1 := { s.bn with cmd := some (set.val, psetOf l) }
                 .next (psetSts { s with bn := b1 } true 0 .done))))
      ∧ (psetGate s set.val false = none → exec (.psetErase set) s
          = (let b1 := { s.bn with psets := tdel s.bn.psets set.val }
             .next (psetDone { s with bn := b1 } 0 .done))))
    ∧ (∀ n p, s.bn.cmd = some (n, p) →
        (let s1 := { s with fresh := s.fresh + 192 }
         (firstReason s p = 0 → exec .psetCheckDone s
          = (let b1 := { s1.bn with psets := tins s1.bn.psets n { p with checked := true } }
             .next (psetDone { s1 with bn := b1 } 0 .done)))
         ∧ (firstReason s p ≠ 0 → exec .psetCheckDone s = .next (psetDone s1 (firstReason s p) .malformed))))
    ∧ (managerOpen s →
        (exec (.bnEngineTakeOut b) s = .next (bnLeave s b) ∧ ((bnEng s b).out = true → bnLeave s b = s)
          ∧ ((bnEng s b).out = false → bnLeave s b
              = (let s1 := (placedOn s b).foldl (fun s p => deadlineFault s p.1 p.2 3) s
                 let s2 := zeroWords s1 b.val fun _ => true
                 let g := { clearBn (bnEng s2 b) with out := true, testing := false }
                 evt (replaceUnits (unplace (bnInBits (setBn s2 b g) b false) b)) 5 4)))
        ∧ ((bnEng s b).out = true → exec (.bnEngineReturn b) s
            = (let g := { bnEng s b with testing := true }
               .next (setBn s b g))))
    ∧ ((bnEng s b).testing = true → exec (.bnSelftestDone b) s
        = (let g := { bnEng s b with out := false, testing := false }
           .next (replaceUnits (bnInBits (setBn s b g) b true))))
    ∧ ((bnEng s b).testing = false → exec (.bnSelftestDone b) s = .next s)

/-- With CU_CMD not BUSY in a READY module, FOUND with its tickets and cards makes the module a member under a certificate
it signs, JK derived from ES whose halves go to the cards; JOIN with its tickets, the cards' halves and the sponsor's
certificate starts stage 1; REMOVE with its tickets takes the number out; CHALLENGE sends its envelope. A failed gate,
the lock, no ticket pair, cards that do not fit or did not take their halves, an unread sponsor or nonce end with
their status; CU_CMD while BUSY or before READY changes nothing. A JOIN_REQ sent and unanswered for 16 s is sent
again, four times in all, then REJECT_LIMIT. The roster sync sends its next 96 entries; a waiting handshake step,
BEATs, key ages, absent peers and isolation act when due; internal orders are submitted again at their beat.
[10_rewaik_domain_membership.md, 12_custody_slots_and_dual_control.md] -/
def Obligations.DomainCommandsAndWatching : Prop :=
  (∀ s, managerOpen s → rdF s 0x60028 24 24 ≠ 1 → s.mode.ready = true →
    (∀ r, enrolGate s = some r → (∀ ok, exec (.found ok) s = .next (cuDone s r.1 r.2))
        ∧ (∀ c halves, exec (.join c halves) s = .next (cuDone s r.1 r.2)))
    ∧ (isLocked s = true → enrolGate s = some (.locked, 0xFF) ∧ exec .remove s = .next (cuDone s .locked 0xFF)
        ∧ ∀ n, exec (.challenge n) s = .next (cuDone s .locked 0xFF))
    ∧ (enrolGate s = none → ticketPair s 1 (cuNumber s) = none → ∀ ok, exec (.found ok) s = .next (cuDone s .policy 0x11))
    ∧ (∀ t a b, enrolGate s = none → ticketPair s 1 (cuNumber s) = some t → foundSlots s t = some (a, b) →
        (let f := (drawFounding s).1
         let s1 := writeHalves (drawFounding s).2 f a b
         let n := cuNumber s1
         let own := ownKeys s1 { domain := f.dom, device := deviceId, member := memberOf n, serial := 1, joinTime := tbNow s1,
                                 sponsor := memberOf n }
         let c := signCert (holdDatk s1 f.datkP f.datkQ) own
         let e0 := signEntry c.2 0 (newCustodian (cardPub s1 a) false 0 1)
         let e1 := signEntry e0.2 1 (newCustodian (cardPub s1 b) true 0 1)
         let s2 := consumePair (enrol e1.2 n c.1 (joinKey f.es f.dom)) t
         let s3 := setCardKind (setCardKind s2 a 0) b 1
         let sl := { s3.sl with custody := [(0, e0.1), (1, e1.1)] }
         exec (.found false) s = .next (cuDone s1 .aborted 0xFF)
         ∧ exec (.found true) s = .next (cuDone (copyUnlock { s3 with sl := sl }) .done 0xFF)))
    ∧ (∀ t, enrolGate s = none → ticketPair s 2 (cuPeer s + fld (cuNumber s) 32) = some t →
        (∀ c, exec (.join c none) s = .next (cuDone s .policy 0x11))
        ∧ (joinSlots s t = none → ∀ c halves, exec (.join c halves) s = .next (cuDone s .policy 0x11))
        ∧ ∀ a b x y, joinSlots s t = some (a, b) →
          exec (.join .failed (some (x, y))) s = .next (cuDone (dmaErr (readHalves s a b)) .aborted 0xFF)
          ∧ (∀ c : Cert, c.member.val = cuPeer s → exec (.join (.ok (some c)) (some (x, y))) s
              = (let j : Joining := { cert := c, number := memberOf (cuNumber s), sends := 0, lastRun := runNow s,
                                      jk := joinKey (x ^^^ y) c.domain, req := joinTail t.1.raw t.2.raw }
                 let s1 := withCu (cuBusy (consumePair (readHalves s a b) t)) fun u => { u with joining := some j }
                 .next (submitIntern s1 0xF2 (some .joinSend)))))
    ∧ (∀ t, isLocked s = false → s.cu.member.isNone = false → rosterActive s (cuNumber s) = true →
        ticketPair s 3 (cuNumber s + fld (roster s (cuNumber s)).serial.toNat 32) = some t → exec .remove s
          = (let m := cuNumber s
             let serial := (roster s m).serial
             let s1 := sendAround (markSeen (consumePair s t) m (4294967296 + serial.toNat)) 0x0D
               (delBody m serial.toNat t.1.raw.toNat t.2.raw.toNat) (ownNum s)
             .next (cuDone (removeNumber s1 m serial) .done 0xFF)))
    ∧ (isLocked s = false → s.cu.member.isNone = false → exec (.challenge .failed) s = .next (cuDone (dmaErr s) .aborted 0xFF)
        ∧ ∀ n, exec (.challenge (.ok n)) s = .next (cuDone (sendEnv s 0x14 (cuPeer s) (chalBody n.toNat (ownNum s))) .done 0xFF)))
  ∧ (∀ s, managerOpen s → rdF s 0x60028 24 24 = 1 ∨ s.mode.ready = false →
      exec .remove s = .next s ∧ (∀ ok, exec (.found ok) s = .next s) ∧ (∀ c h, exec (.join c h) s = .next s)
      ∧ ∀ n, exec (.challenge n) s = .next s)
  ∧ (∀ s j, s.cu.joining = some j → j.sends ≠ 0 → j.answered = false → j.lastRun + 16 * beatsPerSec ≤ runNow s →
      (j.sends < 4 → exec .joinReqResend s = .next (sendJoinReq s j))
      ∧ (4 ≤ j.sends → exec .joinReqResend s = .next (joinFail s .rejectLimit 0xFF)))
  ∧ (∀ s m next rest, s.cu.syncing = (m, next) :: rest →
      (let sec := runNow s / beatsPerSec
       let sent := if s.cu.syncSecond = sec then s.cu.syncSent else 0
       sent < 256 → exec .rosterSyncSend s
         = (let more := if 262144 ≤ next + 96 then rest else (m, next + 96) :: rest
            let s1 := withCu s fun c => { c with syncing := more, syncSecond := sec, syncSent := sent + 1 }
            let s2 := sendEnv s1 0x0E m (syncMsg next ((List.range 96).map fun i => roster s (next + i))).body
            .next (if 262144 ≤ next + 96 then sendRegister s2 m.val else s2))))
  ∧ (∀ s i rest, s.cu.shakeQ = i :: rest → shakeRan s < 256 → exec .handshakeStepRelease s
      = (let s1 := withCu s fun c => { c with shakeQ := rest, shakeSecond := runNow s / beatsPerSec, shakeRun := shakeRan s + 1 }
         .next (shakeStep s1 i)))
  ∧ (∀ s (m : Member) q, pairWith s m.val = some q →
      (q.made + 65536 * beatsPerSec ≤ runNow s → isLocked s = false → exec (.pairKeyAgeExpiry m) s = .next (startShake s m.val))
      ∧ (∀ id run key, q.prev = some (id, run, key) → run + beatsPerSec ≤ runNow s → exec (.previousPairKeyExpiry m) s
          = (let q1 := { q with prev := none }
             .next (withCu s fun c => { c with pairs := tins c.pairs m.val q1 }))))
  ∧ (∀ s, s.cu.member.isSome → s.cu.lastBeat + watchInterval s * beatsPerSec ≤ runNow s → exec .beatSend s
      = (let s1 := rewatch (withCu s fun c => { c with lastBeat := runNow s })
         .next (s1.cu.watch.foldl
           (fun t p => sendEnv t 0x10 p.1 (beatBody (modeWord t.mode) (tbNow t).toNat (ownSerial t).toNat)) s1)))
  ∧ (∀ s (m : Member) w, tfind s.cu.watch m.val = some w →
      (w.heard + missBeats s ≤ runNow s → exec (.peerAbsenceTimeout m) s = .next (rewatch (markAbsent s m.val 1)))
      ∧ (runNow s < w.heard + missBeats s → exec (.peerAbsenceTimeout m) s = .next s))
  ∧ (∀ s, s.cu.member.isSome → s.mode.domain ≠ .isolated → s.cu.heard + isoBeats s ≤ runNow s →
      exec .isolationTimeout s = .next (setMode s fun m => { m with domain := .isolated }))
  ∧ (∀ s, exec .internalOrderResubmit s
      = (let due := s.cu.intern.filter fun p => p.2.1 ≤ (tbNow s).toNat
         .next (due.foldl (fun s p => submitIntern s p.1 p.2.2)
           (withCu s fun c => { c with intern := c.intern.filter fun p => !(p.2.1 ≤ (tbNow s).toNat) }))))

/-- An envelope that passes its checks: HELLO is answered when its certificate fits and no own HELLO to a higher number
stands; HELLO_ACK and HELLO_FIN of a handshake that stands run their steps when the confirmation is right, and fail
else; a JOIN_REQ answered before is answered the same, another begins stage 2; JOIN_ACK for what was asked begins its
installation once, another fails; JOIN_NAK ends the join with its status; ROSTER_ADD is taken as the certificate rules
say, ROSTER_DEL with two tickets removes the number and passes on, ROSTER_SYNC installs entries; BEAT notes its
sender, LEAVE marks it gone; CHAL is answered with signatures within the rate and counted beyond it; RESP has no
further effect; TICKET offers its tickets and stores a register entry not seen before. An envelope that fails a check
has the check's effect alone. Ring pointer writes move the rings. [10_rewaik_domain_membership.md,
12_custody_slots_and_dual_control.md] -/
def Obligations.DomainEnvelopes : Prop :=
  ∀ (s : State) (h : EnvHdr),
    (∀ kind m f, (¬ envelopePasses s h kind m → onEnv s h kind m f = heard s h kind m)
      ∧ (envelopePasses s h kind m → onEnv s h kind m f = f (heard s h kind m)))
    ∧ (∀ (cert : Cert) x, envelopePasses s h 0x01 (helloMsg cert x) →
        (let t := heard s h 0x01 (helloMsg cert x)
         let m := h.sender.val
         (cert.member = h.sender → certFits t cert = true → ((shakeWith t m true).isSome && decide (ownNum t < m)) = false →
            exec (.hello h cert x) s
              = .next (runShake t { step := 1, peer := h.sender, ek := cert.ek, x := x, clear := layBytes (helloMsg cert x).body }))
         ∧ (cert.member ≠ h.sender → exec (.hello h cert x) s = .next (envFail t 63 48))))
    ∧ (∀ (cert : Cert) x ct confirm, envelopePasses s h 0x02 (helloAckMsg s h cert x ct confirm) →
        (let t := heard s h 0x02 (helloAckMsg s h cert x ct confirm)
         let i := ackIn h cert x ct
         ∀ k, shakeWith t h.sender.val true = some k →
          (cert.member = h.sender → certFits t cert = true → confirm = confirmation (ackKeyIn t k i) (ackClear k i) →
            exec (.helloAck h cert x ct confirm) s = .next (runShake t i))
          ∧ (confirm ≠ confirmation (ackKeyIn t k i) (ackClear k i) →
            exec (.helloAck h cert x ct confirm) s = .next (envFail t 63 48))))
    ∧ (∀ ct confirm, envelopePasses s h 0x03 (helloFinMsg s h ct confirm) →
        (let t := heard s h 0x03 (helloFinMsg s h ct confirm)
         let i := finIn h ct
         (∀ k, shakeWith t h.sender.val false = some k →
           (confirm = confirmation (finKeyIn t k i) (ackClear k i) → exec (.helloFin h ct confirm) s = .next (runShake t i))
           ∧ (confirm ≠ confirmation (finKeyIn t k i) (ackClear k i) → exec (.helloFin h ct confirm) s = .next (envFail t 63 48)))
         ∧ (shakeWith t h.sender.val false = none → exec (.helloFin h ct confirm) s = .next t)))
    ∧ (∀ (cert : Cert) x ct t1 t2, envelopePasses s h 0x08 (joinReqMsg s cert x ct t1 t2) →
        (let t := heard s h 0x08 (joinReqMsg s cert x ct t1 t2)
         (∀ e, answeredJoin t cert.device x = some e → exec (.joinReq h cert x ct t1 t2) s = .next (sendTo t e))
         ∧ (answeredJoin t cert.device x = none → exec (.joinReq h cert x ct t1 t2) s
              = .next (submitIntern t 0xF2 (some (.joinIssue cert x ct (layBytes (joinReqMsg s cert x ct t1 t2).body) t1 t2))))))
    ∧ (∀ (body : JoinBody) (j : Joining), envelopePasses s h 0x09 (joinAckMsg s body) →
        (heard s h 0x09 (joinAckMsg s body)).cu.joining = some j →
        (let t := heard s h 0x09 (joinAckMsg s body)
         (joinFits j body = true → j.answered = false → exec (.joinAck h body) s
            = (let j1 := { j with answered := true }
               .next (submitIntern (withCu t fun c => { c with joining := some j1 }) 0xF2 (some (.joinInstall body)))))
         ∧ (joinFits j body = true → j.answered = true → exec (.joinAck h body) s = .next t)
         ∧ (joinFits j body = false → exec (.joinAck h body) s = .next (envFail t 63 48))))
    ∧ (∀ (status : BitVec 16) (detail : Byte), envelopePasses s h 0x0A (joinNakMsg s status detail) → exec (.joinNak h status detail) s
        = (let t := withCu (heard s h 0x0A (joinNakMsg s status detail)) fun c => { c with joining := none }
           .next (evt (evt (wr t 0x60028 (BitVec.ofNat 64 (status.toNat + fld detail.toNat 16))) 6 0) 6 6)))
    ∧ (∀ cert : Cert, envelopePasses s h 0x0C (addMsg cert) →
        (let t := heard s h 0x0C (addMsg cert)
         let e := roster t cert.member.val
         let t1 := passCert t cert h.sender.val
         (e.state = 1 → e.device = cert.device → e.serial = cert.serial → exec (.rosterAdd h cert) s = .next t1)
         ∧ (¬ (e.state = 1 ∧ e.device = cert.device ∧ e.serial = cert.serial) → certFits t cert = true →
              exec (.rosterAdd h cert) s = .next (storeCert t1 cert))
         ∧ (e.device ≠ cert.device → certFits t cert = false → certWins t cert = true →
              exec (.rosterAdd h cert) s = .next (if cert.member.val = ownNum t then voidOwn t1 else storeCert t1 cert))
         ∧ (e.device ≠ cert.device → certFits t cert = false → certWins t cert = false → exec (.rosterAdd h cert) s = .next t1)))
    ∧ (∀ (number : Member) (serial : BitVec 32) (t1 t2 : Ticket), envelopePasses s h 0x0D (delMsg number serial t1 t2) →
        (let t := heard s h 0x0D (delMsg number serial t1 t2)
         let dev := tkTarget t1.raw
         memberDevice t dev = true → bodyPair t t1 t2 dev 3 (number.val + fld serial.toNat 32) = true →
           seenMark t number.val (4294967296 + serial.toNat) = false → exec (.rosterDel h number serial t1 t2) s
             = .next (removeNumber (sendAround (markSeen t number.val (4294967296 + serial.toNat)) 0x0D
                 (delMsg number serial t1 t2).body h.sender.val) number.val serial)))
    ∧ (∀ first (e : RosterEntry) rest, rest.length = 95 → envelopePasses s (syncHdr h (e :: rest)) 0x0E (syncMsg first (e :: rest)) →
        (let t := heard s (syncHdr h (e :: rest)) 0x0E (syncMsg first (e :: rest))
         let es := (List.range (e :: rest).length).zip (e :: rest)
         let t1 := es.foldl (fun u (p : Nat × RosterEntry) =>
           if first + p.1 < 262144 ∧ first + p.1 ≠ ownNum u ∧ (roster u (first + p.1)).serial ≤ p.2.serial
           then setRoster u (first + p.1) p.2 else u) t
         exec (.rosterSync h first (e :: rest)) s = .next (rewatch (if 262144 ≤ first + 96 then wrF t1 0x60000 62 62 0 else t1))))
    ∧ (∀ mode now serial, envelopePasses s h 0x10 (beatMsg mode now serial) →
        (let t := noteBeat (heard s h 0x10 (beatMsg mode now serial)) h.sender.val
         exec (.beat h mode now serial) s = .next (if h.locked then markAbsent t h.sender.val 2 else t)))
    ∧ (∀ serial, envelopePasses s h 0x11 (leaveMsg h serial) → exec (.leave h serial) s
        = .next (memberLost (markAbsent (heard s h 0x11 (leaveMsg h serial)) h.sender.val 3) h.sender.val))
    ∧ (∀ (nonce : BitVec 256) (answerTo : Member), envelopePasses s h 0x14 (chalMsg nonce answerTo) →
        (let t := heard s h 0x14 (chalMsg nonce answerTo)
         let ran := if t.cu.chalSecond = runNow t / beatsPerSec then t.cu.chalRun else 0
         (rdF t 0x60010 47 32 ≤ ran → exec (.chal h nonce answerTo) s = .next (cntUp t envErr 15 0))
         ∧ (ran < rdF t 0x60010 47 32 → exec (.chal h nonce answerTo) s
             = (let t1 := withCu t fun c => { c with chalSecond := runNow t / beatsPerSec, chalRun := ran + 1 }
                let part := respPart t1 nonce.toNat
                let g := datkSign t1 part ""
                let k := drawNonce g.2
                let body := part ++ [(96, g.1.1), (3309, g.1.2), (96, p384Sign (dakScalar t1) k.1 (layHash part))]
                .next (sendEnv k.2 0x15 answerTo.val body)))))
    ∧ (∀ nonce ok, envelopePasses s h 0x15 (respMsg nonce ok) → exec (.resp h nonce ok) s = .next (heard s h 0x15 (respMsg nonce ok)))
    ∧ (∀ (tickets : List Ticket) entry, envelopePasses s (ticketHdr h tickets) 0x40 (ticketMsg tickets entry) →
        (let t := tickets.foldl (fun t (k : Ticket) => (holdTicket t k.raw k.sigOk false).1)
           (heard s (ticketHdr h tickets) 0x40 (ticketMsg tickets entry))
         (entry = none → exec (.ticket h tickets entry) s = .next t)
         ∧ (∀ e, entry = some e → seenMark t (entryMark e.ix.val) e.serial.toNat = false → exec (.ticket h tickets entry) s
              = .next (takeEntry (spreadEntry t e.ix.val (custodianIn e) (tickets.map fun t => t.raw) h.sender.val) e.ix.val
                  (custodianIn e)))))
    ∧ (∀ (p : BitVec 12), managerOpen s → exec (.outRingHeadWrite p) s = .next (drainOut (wrF s outPtr 43 32 p.toNat))
        ∧ exec (.inRingTailWrite p) s = .next (inTail s p.toNat))

/-- On an ACTIVE port that is not miswired, a DATA frame whose CRC holds and the next sequence number is counted,
acknowledged and reassembled or forwarded; another is only counted as an error. An ACK drops what it acknowledges and
sends on. Frames unacknowledged for four beats are sent again, and at one frame's sixteenth repetition the link goes
down to TRAIN. Training that succeeds makes the port ACTIVE, with its event and a scan. A SCAN frame whose far port is
of the same letter marks the port miswired once, another far port clears it; one of the own origin makes the ring map;
another is passed on. Doze is asked for after the idle time, agreed to or refused, and ended eight beats after it
began when a wake is wanted. A reassembly older than 1,024 beats is dropped. [10_rewaik_domain_membership.md] -/
def Obligations.StairLinkAndFrames : Prop :=
  ∀ (s : State) (p : Bool),
    (let q := stPort s p
     (∀ f : Frame, q.state = .active → q.miswired = false → crcHolds f = true → f.seq = q.rxSeq → exec (.stairData p f) s
        = (let q1 := { q with rxSeq := q.rxSeq + 1, reqSent := false }
           let s2 := sendCtl (cntUp (setPort s p q1) (stCnt p) 63 32) p 2 f.seq.toNat
           .next (if s.st.map.length ≠ 0 ∧ f.dst.val = s.st.self then reassemble s2 f else forwardFrame s2 p f)))
     ∧ (∀ f : Frame, q.state = .active → q.miswired = false → (crcHolds f = false ∨ f.seq ≠ q.rxSeq) →
        exec (.stairData p f) s = .next (cntUp s (stErr p) 63 48))
     ∧ (∀ f : Frame, q.state ≠ .active ∨ q.miswired = true → exec (.stairData p f) s = .next s)
     ∧ (∀ seq : BitVec 32, q.state = .active → (q.unacked.any fun x => x.sent != 0 && x.frame.seq == seq) = true →
        exec (.stairAck p seq) s
        = (let rest := dropThrough seq q.unacked
           let q1 := { q with unacked := rest, idle := if rest.isEmpty then runNow s else q.idle }
           .next (pumpPort (setPort s p q1) p)))
     ∧ (∀ x r, q.state = .active → ((q.unacked.take 32).filter fun x => x.sent != 0) = x :: r → x.sent + 4 ≤ runNow s + 1 →
        exec (.stairRetransmitTimeout p) s
        = (let l := q.unacked.map fun y => if y.sent = 0 then y else { y with sent := runNow s + 1, again := y.again + 1 }
           let q1 := { q with unacked := l }
           let s2 := (x :: r).foldl (fun s y =>
             cntUp (cntUp (emitFrame s p 1 (dataBytes y.frame)) (stCnt p) 31 0) (stErr p) 47 32) (setPort s p q1)
           .next (if (l.any fun y => decide (16 ≤ y.again)) = true then downPort s2 p .train else s2)))
     ∧ (q.state = .train → exec (.linkTrained p false) s = .next (cntUp s (stErr p) 31 16)
        ∧ exec (.linkTrained p true) s
          = (let q1 := { q with state := .active, idle := runNow s, wake := false }
             .next (pumpPort (sendScan (evt (setPort (cntUp s (stErr p) 31 16) p q1) 7 0)) p)))
     ∧ (q.state ≠ .disabled → q.state ≠ .down → exec (.stairLinkDown p) s = .next (downPort s p .train))
     ∧ (q.state = .disabled ∨ q.state = .down → exec (.stairLinkDown p) s = .next s)
     ∧ (∀ origin hops last, q.state = .active →
        (q.miswired = false → exec (.stairScan p origin hops last p) s
          = (let q1 := { q with miswired := true }
             .next (evt (setPort s p q1) 7 6)))
        ∧ (q.miswired = true → exec (.stairScan p origin hops last p) s = .next s)
        ∧ (q.miswired = false → origin.device = deviceId → exec (.stairScan p origin hops last (!p)) s
            = .next (ringMap s (ownHop s :: (if p then hops else hops.reverse))))
        ∧ (q.miswired = false → origin.device ≠ deviceId → exec (.stairScan p origin hops last (!p)) s
            = .next (passScan s p (origin :: hops) last))
        ∧ (q.miswired = true → origin.device ≠ deviceId → exec (.stairScan p origin hops last (!p)) s
            = (let q1 := { q with miswired := false }
               .next (passScan (setPort s p q1) p (origin :: hops) last))))
     ∧ (q.state = .active → dozeOn s p = true → q.unacked.isEmpty = true → q.reqSent = false → q.idle + max 1 (rdF s 0x70010 47 32) ≤ runNow s →
        exec (.dozeIdleTimeout p) s = (let q1 := { q with reqSent := true }
          .next (sendCtl (setPort s p q1) p 4 0)))
     ∧ (q.state = .active →
        (q.reqSent = true → s.st.self < peerPos s p → exec (.dozeReq p) s = .next (sendCtl s p 6 0))
        ∧ (q.unacked.isEmpty = false ∨ dozeOn s p = false → exec (.dozeReq p) s = .next (sendCtl s p 6 0))
        ∧ (q.reqSent = false → q.unacked.isEmpty = true → dozeOn s p = true → exec (.dozeReq p) s = .next (agreeDoze (sendCtl s p 5 0) p))
        ∧ (q.reqSent = true → exec (.dozeAck p) s
            = .next (if q.unacked.isEmpty then agreeDoze s p else wakePort (agreeDoze s p) p)))
     ∧ exec (.dozeNak p) s = (let q1 := { q with reqSent := false, idle := if q.reqSent then runNow s else q.idle }
         .next (setPort s p q1))
     ∧ exec (.wakeRequest p) s = .next (wakePort s p)
     ∧ (q.state = .doze → q.wake = true → q.dozeRun + 8 ≤ runNow s → exec (.dozeResidencyEnd p) s
         = (let q1 := { q with state := .train, wake := false }
            .next (sendScan (evt (setPort s p q1) 7 3)))))
    ∧ (s.st.lastScan + 64 * beatsPerSec ≤ runNow s → exec .scanPeriodic s
        = (let t1 := { s.st with lastScan := runNow s }
           .next (sendScan { s with st := t1 })))
    ∧ (∀ (src : Fin 256) (tag : BitVec 16), exec (.reassemblyTimeout src tag) s
        = (let t1 := { s.st with reasm := s.st.reasm.filter fun r => !(r.src == src.val && r.tag == tag && decide (r.run + 1024 ≤ runNow s)) }
           .next { s with st := t1 }))
    ∧ (managerOpen s → ∀ val : Word, exec (.stCfgWrite val) s
        = .next (portEnable (portEnable (wr s 0x70010 (val &&& 0x0000FFFF0000000F)) false) true))

/-- A group command past its gate: an unread descriptor is ABORTED; CREATE and CHANGE without tickets are POLICY 22h; a
valid CREATE makes the group, a valid change by the coordinator is kept; on an unknown group POLICY 23h; REPLACE of a
lost position names the member at once or after the round; BIND of an active holder binds or unbinds; DELETE by the
coordinator sends its tickets and drops the group. A group envelope whose sender holds its place: a refresh DEAL that
verifies and whose constant is zero joins the round before the cutoff, PREPARED and ACK are noted by the coordinator,
DECIDE that aborts or whose digest differs from the holder's own ends the round, a COMMIT that fits is taken and
acknowledged, SETTLE leaves the settled sharing, SHARE keeps the generations that verify and starts the interpolation
at the k-th, RECON_DONE ends it, ACCEPT is noted, GROUP_DEL with its tickets drops the group, SHARE_REQ is answered
with the shares held, a later GROUP_STATE replaces the state. Deal and decision cutoffs, repeats, settlement, loss and
creation deadlines act when due. [11_custody_groups_and_shares.md] -/
def Obligations.CustodyGroupsAndTheirRounds : Prop :=
  (∀ (s : State) (n : Fin 4096), groupGateOpen s →
    exec (.groupCreate .failed) s = .next (gDone (dmaErr s) .aborted 0xFF)
    ∧ exec (.groupChange n .failed) s = .next (gDone (dmaErr s) .aborted 0xFF)
    ∧ (∀ raw, ticketPair s 5 (descDigest raw) = none → exec (.groupCreate (.ok raw)) s = .next (gDone s .policy 0x22))
    ∧ (∀ raw t k, ticketPair s 5 (descDigest raw) = some t → descForm raw = true → descValid (descOf raw) = true → (descOf raw).group = 0 →
        descNames s (descOf raw) = true → (descOf raw).holders.head? = s.cu.member → freeGroup s = some k →
        watchFits s (descMembers (descOf raw)) = true → exec (.groupCreate (.ok raw)) s = .next (createGroup s k (descOf raw) t))
    ∧ (∀ raw t g, ticketPair s 6 (descDigest raw) = some t → groupOf s n.val = some g → amCoord s g = true → holdsActive g = true →
        descForm raw = true → descValid (descOf raw) = true → (descOf raw).group = g.desc.group → descNames s (descOf raw) = true →
        watchFits s (descMembers (descOf raw)) = true →
        exec (.groupChange n (.ok raw)) s = (let g1 := { g with change := some (descOf raw) }
          .next (gDone (setGroup (consumePair s t) n.val g1) .done 0xFF)))
    ∧ (groupOf s n.val = none → exec (.groupBind n) s = .next (gDone s .policy 0x23) ∧ exec (.groupDelete n) s = .next (gDone s .policy 0x23)
        ∧ exec (.groupSweep n) s = .next (gDone s .policy 0x23) ∧ ∀ m p, exec (.groupReplace n m p) s = .next (gDone s .policy 0x23))
    ∧ (∀ g, groupOf s n.val = some g →
        (holdsActive g = true → exec (.groupBind n) s
            = (let a := rd s 0x61020
               let g1 := { g with bound := if bit a 10 then some (sliceIx (bits a 9 0)) else none }
               .next (gDone (setGroup s n.val g1) .done 0xFF))
          ∧ exec (.groupSweep n) s = (let chains := s.ks.recs.filter fun p => p.2.part == 0 && p.2.complete && (match p.2.group with
                | some k => k.val == n.val
                | none => false)
              .next (gDone (wrF (chains.foldl (fun s p => emitBackup s p.1) s) 0x61000 45 45 0) .done 0xFF)))
        ∧ (∀ t, ticketPair s 7 g.desc.group.toNat = some t → amCoord s g = true → exec (.groupDelete n) s
            = .next (gDone (dropGroup (sendRoles (consumePair s t) g 0x2A g.gen (delTickets [t.1.raw, t.2.raw])) n.val) .done 0xFF))
        ∧ (∀ (m : Member) (p : Byte) i, amCoord s g = true → placeOf g.desc (posOfByte p.toNat) = some i → stateAt g i = .lost →
            rosterActive s m.val = true → ((roleList g).eraseIdx i).contains m.val = false → watchFits s [m.val] = true →
            (g.round = none → g.recon = none → exec (.groupReplace n m p) s
              = (let r : Recon := { target := posAt g.desc i, rc := reconStart s g 0 }
                 let g1 := { withState (withMember g i m) i .rebuilding with recon := some r }
                 .next (gDone (planCustody (rewatch (announce s n.val g1))) .done 0xFF)))
            ∧ (g.round.isSome = true → exec (.groupReplace n m p) s
              = (let g1 := { g with waiting := g.waiting ++ [Later.replace (posAt g.desc i) m] }
                 .next (gDone (planCustody (rewatch (setGroup s n.val g1))) .done 0xFF))))))
  ∧ (∀ (s : State) (h : EnvHdr) (c : CuHdr) (k i : Nat) (g : Group),
    (∀ r (v : ShareVal) (block : CommitBlock), groupHeard s h c 0x21 (dealBody false v block) k g i →
        (let t := heard s h 0x21 (cuMsg c (dealBody false v block))
         canTakePart t = true → ownShareIx g = some (c.dest.toNat % 64) → shareVerifies g.desc.k (c.dest.toNat % 64) v block = true →
         zeroConstant g.desc.k block = true → g.round = some r → r.full = false → c.gen.toNat = g.gen + 1 →
         (r.deals.any fun d => d.1 == i + 1 - g.desc.h) = false → r.prepSent = false → reached t (dealBeat g r) = false →
         reached t (secBeat r.x - secBeat g.desc.rb) = true → exec (.deal h c false v block) s
          = (let g1 := { g with round := some { r with deals := r.deals ++ [(i + 1 - g.desc.h, v, block)] } }
             .next (setGroup t k g1))))
    ∧ (∀ (v : ShareVal) (block : CommitBlock), groupHeard s h c 0x21 (dealBody false v block) k g i →
        shareVerifies g.desc.k (c.dest.toNat % 64) v block = false ∨ zeroConstant g.desc.k block = false →
        exec (.deal h c false v block) s = .next (heard s h 0x21 (cuMsg c (dealBody false v block))))
    ∧ (∀ r (dealers : List (Fin 32 × BitVec 256)), (let body := preparedBody (dealers.map fun d => (d.1.val, d.2))
        let t := heard s h 0x22 (cuMsg c body)
        groupHeard s h c 0x22 body k g i → g.round = some r → amCoord t g = true →
        canTakePart t = true → r.decided = none → r.cutoff = false → reached t (decisionBeat g r + 1) = false → c.pos.active = false →
        c.gen.toNat = g.gen + 1 → exec (.prepared h c dealers) s
          = .next (setGroup t k (notePrepared g r (i + 1 - (roundDesc g r).h) (dealers.map fun d => (dealerOf r.full d.1.val, d.2))))))
    ∧ (∀ r (p d : BitVec 32) (digest : BitVec 256) commit, (let body := decideBody commit p.toNat d.toNat digest.toNat
        let t := heard s h 0x23 (cuMsg c body)
        let ps := (bitSet p).map (· + 1)
        let ds := (bitSet d).map (dealerOf r.full)
        groupHeard s h c 0x23 body k g i → g.round = some r → coordinator g = some h.sender.val → c.gen.toNat = g.gen + 1 →
        (commit = false → exec (.decide h c commit p d digest) s = .next (afterRound t k (takeAbort g)))
        ∧ (∀ j v, commit = true → myIx g r = some j → canTakePart t = true → ps.contains j = true → newShare g r ds = some v →
            (blockDigest v.block ≠ digest → exec (.decide h c commit p d digest) s = .next (afterRound t k (takeAbort g)))
            ∧ (blockDigest v.block = digest → exec (.decide h c commit p d digest) s
              = (let claim := { g with own := some (sharePos j) }
                 .next (sendPlace (setGroup t k (takeCommit g r v ps ds digest)) claim 0x24 (g.gen + 1) i [(1, 0x23)]))))))
    ∧ (∀ r, groupHeard s h c 0x24 [(1, 0x23)] k g i → g.round = some r →
        (let t := heard s h 0x24 (cuMsg c [(1, 0x23)])
         amCoord t (applyWaiting t g) = true → c.pos.active = false → c.gen.toNat = g.gen + 1 →
         ackCounts r (i + 1 - (roundDesc g r).h) = true → exec (.ack h c 0x23) s
          = (let g1 := { g with round := some { r with acks := r.acks ++ [i + 1 - (roundDesc g r).h] } }
             .next (setGroup t k g1))))
    ∧ (∀ ok, groupHeard s h c 0x25 [(1, if ok then 1 else 2)] k g i → coordinator g = some h.sender.val → exec (.settle h c ok) s
          = .next (gevt (afterRound (heard s h 0x25 (cuMsg c [(1, if ok then 1 else 2)])) k
              (keepOnly g (if ok then c.gen.toNat else c.gen.toNat - 1))) 1))
    ∧ (∀ r (rc : Word) (target : Pos), (let m := cuMsg c [(8, rc.toNat), (1, posByte target)]
        let t := heard s h 0x26 m
        envelopePasses s h 0x26 m → groupIx t c.group = some k → groupOf t k = some g →
        placeOf g.desc target = some i → g.recon = some r → memberAt g i = h.sender.val → r.target = target →
        (ownShareIx g).isNone = false → canTakePart t = true → heldShares g ≠ [] → exec (.shareReq h c rc target) s
          = .next (sendEnv t 0x27 h.sender.val (cuHead g g.gen (posByte target)
              ++ shareBody rc.toNat (heldShares g).length ((heldShares g).map fun x => shareGen x.gen x.val x.block)))))
    ∧ (∀ r (target : Pos) (gens : List ShareGen), (let rc := BitVec.ofNat 64 r.rc
        let body := shareBody rc.toNat gens.length (gens.map fun x => shareGen x.gen.toNat x.val x.block)
        let t := heard s h 0x27 (cuMsg c body)
        let new := newShares g r (i + 1 - g.desc.h) gens
        let r1 := { r with shares := r.shares ++ new }
        let gathered := { g with recon := some r1 }
        let staged := { g with recon := some { r1 with stage := true } }
        groupHeard s h c 0x27 body k g i → g.recon = some r → r.asked = true → r.stage = false → r.target = target → c.pos.active = false →
        canTakePart t = true → reached t (secBeat (r.rc + g.desc.rb) - 2 * beatsPerSec) = false →
         (wholeGen g r1 new = none → exec (.share h c rc target gens) s = .next (setGroup t k gathered))
         ∧ (∀ z, wholeGen g r1 new = some z → exec (.share h c rc target gens) s
             = .next (submitIntern (setGroup t k staged) 0xF1 (some (.interpolate k r.rc z.gen.toNat z.block))))))
    ∧ (∀ (target : Pos) (done : Bool) (st : BitVec 16), (let body := [(1, posByte target), (1, if done then 1 else 2), (2, st.toNat)]
        let t := heard s h 0x28 (cuMsg c body)
        groupHeard s h c 0x28 body k g i → memberAt g i = h.sender.val → placeOf g.desc target = some i →
        (amCoord t g = true → exec (.reconDone h c target done st) s = .next (reconOutcome t k target done))
        ∧ (amCoord t g = false → exec (.reconDone h c target done st) s
            = (let g1 := { g with recon := none }
               .next (setGroup t k g1)))))
    ∧ (∀ (yes : Bool) (st : BitVec 16), (let body := [(1, if yes then 1 else 2), (1, 0), (2, st.toNat)]
        groupHeard s h c 0x29 body k g i → g.creating.isSome = true → exec (.accept h c yes st) s
          = .next (setGroup (heard s h 0x29 (cuMsg c body)) k (if yes then { g with accepts := i :: g.accepts.erase i } else withState g i .lost))))
    ∧ (∀ t1 t2, (let t := heard s h 0x2A (cuMsg c (delTickets [t1.raw, t2.raw]))
        groupHeard s h c 0x2A (delTickets [t1.raw, t2.raw]) k g i →
        delAllowed t g (roster t h.sender.val).device.toNat t1 t2 = true → exec (.groupDel h c t1 t2) s = .next (dropGroup t k)))
    ∧ (∀ body : GroupStateBody, (let h1 := { h with formOk := h.formOk && bodyOk body }
        let t := heard s h1 0x20 (cuMsg c (bodyFields body))
        envelopePasses s h1 0x20 (cuMsg c (bodyFields body)) →
        (groupIx t c.group = none → exec (.groupState h c body) s = .next (namedInto t h c body))
        ∧ (groupIx t c.group = some k → groupOf t k = some g → mayChange g body h.sender.val = true →
            (body.version.toNat ≤ g.version → exec (.groupState h c body) s = .next t)
            ∧ (g.version < body.version.toNat → watchFits t (descMembers (descOf body.desc)) = true → exec (.groupState h c body) s
                = .next (planCustody (rewatch (takeState t k g body c.gen.toNat))))))))
  ∧ (∀ (s : State) (n : Fin 4096) (g : Group) (r : Round), groupOf s n.val = some g → g.round = some r →
    (∀ j, myIx g r = some j → r.prepSent = false → canTakePart s = true → reached s (dealBeat g r) = true → amCoord s g = true →
        exec (.dealCutoff n) s = (let r1 := { r with prepSent := true }
          .next (setGroup s n.val (notePrepared g r1 j (verifiedDeals r)))))
    ∧ (∀ j i, myIx g r = some j → r.prepSent = false → canTakePart s = true → reached s (dealBeat g r) = true → amCoord s g = false →
        coordPlace g = some i → exec (.dealCutoff n) s
          = (let g1 := { g with round := some { r with prepSent := true } }
             let claim := { g with own := some (sharePos j) }
             .next (sendPlace (setGroup s n.val g1) claim 0x22 (g.gen + 1) i
               (preparedBody ((verifiedDeals r).map fun d => (dealerBit r.full d.1, d.2))))))
    ∧ (amCoord s g = true → canTakePart s = true → r.decided = none → r.cutoff = false → reached s (decisionBeat g r) = true → r.full = false →
        (let sets := decideSets (roundDesc g r) r
         let ds := sets.1.map fun x => x.1
         let digest := decisionDigest g r sets.1
         (sets.2.length < quorumOf (roundDesc g r) → exec (.decisionCutoff n) s
           = .next (planCustody (afterRound (gevtRec (sendRound s g r 0x23 (g.gen + 1) (decideOf r false sets.2 ds digest)) 5 (srcWord 0 0) 0)
               n.val (takeAbort g))))
         ∧ (quorumOf (roundDesc g r) ≤ sets.2.length → (roundDesc g r).k ≤ ds.length → exec (.decisionCutoff n) s
           = (let r1 := { r with cutoff := true, sentRun := runNow s }
              .next (setGroup (sendRound s g r 0x23 (g.gen + 1) (decideOf r true sets.2 ds digest)) n.val (ownCommit g r1 sets.2 ds digest))))))
    ∧ (∀ ps ds digest, r.decided = some (true, ps, ds, digest) → amCoord s g = true → canTakePart s = true → r.switched = true →
        reached s (secBeat (r.x + graceSec g.desc)) = false → r.sentRun + 16 * beatsPerSec ≤ runNow s → exec (.decideResend n) s
          = (let s1 := (ps.filter fun j => !r.acks.contains j).foldl (fun s j =>
               sendPlace s (inRound g r) 0x23 (g.gen + 1) ((roundDesc g r).h + j - 1) (decideOf r true ps ds digest)) s
             let g1 := { g with round := some { r with sentRun := runNow s } }
             .next (setGroup s1 n.val g1)))
    ∧ (reached s (secBeat (r.x + graceSec g.desc)) = true →
        (r.decided = none → exec (.settlement n) s = .next (planCustody (afterRound s n.val (takeAbort g))))
        ∧ (∀ x, r.decided = some x → amCoord s g = true → canTakePart s = true → exec (.settlement n) s
            = .next (finishRound s n.val g r ((roundDesc g r).k ≤ ackedOf r))))
    ∧ (reached s (secBeat (r.x + graceSec g.desc)) = false → exec (.settlement n) s = .next s))
  ∧ (∀ (s : State) (n : Fin 4096) (g : Group), groupOf s n.val = some g →
    (∀ r, g.recon = some r → r.asked = true → r.stage = false → reached s (secBeat (r.rc + g.desc.rb) - 2 * beatsPerSec) = true →
        exec (.reconCutoff n) s = .next (reconFails s n.val g r .quorum))
    ∧ (∀ p i w, placeOf g.desc p = some i → tfind s.cu.watch (memberAt g i) = some w → w.absent = true →
        w.since + epochSec g.desc * beatsPerSec ≤ runNow s → exec (.positionLossTimeout n p) s = .next (planCustody (markPosLost s n.val i))))
  ∧ (∀ (s : State) k g, groupOf s k = some g → (s.cu.groups.find? fun p => (match p.2.creating with
        | some t => t ≤ runNow s
        | none => false)) = some (k, g) → (g.accepts.filter fun i => g.desc.h ≤ i).length < quorumOf g.desc →
        exec .groupCreateDeadline s = .next (gDone (dropGroup (sendRoles s g 0x2A g.gen (delTickets g.tickets)) k) .quorum 0x28))
  ∧ (∀ (s : State) (kind : Fin 3) r, (s.tb.retry.find? fun r => r.1 == kind.val + 2) = some r → schedRefusal s r.1 (retryAim s r.2.1) = 0 →
        exec (.custodySchedRetry kind) s = (let t1 := { s.tb with retry := s.tb.retry.erase r }
          .next (schedPlace { s with tb := t1 } r.1 (retryAim s r.2.1) r.2.2 0).1))
  ∧ (∀ (s : State), managerOpen s → ∀ (p : BitVec 12) backups picks,
        exec (.backupRingHeadWrite p) s = .next (drainBackups (wrF s 0x61210 43 32 p.toNat))
        ∧ exec (.restoreRingTailWrite p backups picks) s = .next (restoreTail s p.toNat backups picks))

/-- A card inserted in a found slot that is switched on waits for its debounce, then is activated; an answer to reset that
includes the class goes on, one that names only a higher class is retried at it, one that names neither is refused; a
confirmed PPS makes the slot active, one that is not or is late falls back; a failed card block is counted, an
unsupported one refuses the card, a good one is answered; a removal empties the slot and is counted; a broken seal
opens it; an overcurrent blocks it. A slot command while one waits raises its event and does nothing; while locked,
those but SIGN, HOLD, RELAY and DROP end LOCKED; an unread buffer ABORTED; SIGN of a ready slot and CUST_ADD without a
refusal send VERIFY with the PIN of the buffer to the card; HOLD offers its ticket, RELAY sends it, DROP lets held
tickets go, CUST_DEL, SIGNKEY_SET and SIGNKEY_REVOKE with tickets write their entry, POWER_OFF and POWER_ON act on the
slot. A lapsed held ticket and a lapsed consumed entry go. [12_custody_slots_and_dual_control.md,
20_balls_power_electrical.md] -/
def Obligations.FoyerSlotsAndCommands : Prop :=
  (∀ (s : State) (n : Fin 4),
    (let c := cslot s n
     (c.det = false → exec (.cardInsert n) s
        = (let c1 := { unpowered c .debounce with det := true, detRun := runNow s, err := 0, sealed := true, seatCls := 0 }
           let c2 := if c.found && slotOn s n then c1 else { c1 with state := .off }
           .next (setSlot s n c2)))
     ∧ (c.det = true → exec (.cardInsert n) s = .next s)
     ∧ (c.state = .debounce → mayActivate s n = true → exec (.slotDebounceDone n) s = .next (activate s n 1 false))
     ∧ (c.state = .activating → c.ppsWait = false → c.higher = 0 →
        (∀ a : Atr, a.classInd = none → exec (.answerToReset n a) s = .next (atrParams s n a))
        ∧ (∀ (a : Atr) i, a.classInd = some i → includesCls i c.cls = true → exec (.answerToReset n a) s = .next (atrParams s n a))
        ∧ (∀ (a : Atr) i k, a.classInd = some i → includesCls i c.cls = false → ([2, 3].find? fun k => decide (c.cls < k) && includesCls i k) = some k →
            exec (.answerToReset n a) s
              = (let c1 := { unpowered c .activating with higher := k, detRun := c.detRun, noPps := c.noPps }
                 .next (setSlot s n c1)))
        ∧ (∀ (a : Atr) i, a.classInd = some i → includesCls i c.cls = false → ([2, 3].find? fun k => decide (c.cls < k) && includesCls i k) = none →
            exec (.answerToReset n a) s = .next (slotError s n 2 .refused))
        ∧ exec (.atrTimeout n) s = .next (slotError s n 1 .refused))
     ∧ (c.state = .activating → c.higher ≠ 0 → exec (.classRetry n) s = .next (activate s n c.higher c.noPps))
     ∧ (c.state = .activating → c.ppsWait = true → exec (.ppsResponse n true) s = .next (slotActive s n c.fi c.di (clkDivOf c.fi))
        ∧ exec (.ppsResponse n false) s = .next (activate s n c.cls true) ∧ exec (.ppsTimeout n) s = .next (activate s n c.cls true))
     ∧ (c.state = .active → exec (.cardBlockTimeout n) s = .next (blockFailed s n)
        ∧ exec (.cardBlockReceive n .badEdc) s = .next (blockFailed (cntUp s (slCnt n) 31 16) n)
        ∧ exec (.cardBlockReceive n .unsupported) s = .next (slotError s n 3 .refused)
        ∧ (∀ a, a ≠ .badEdc → a ≠ .unsupported → exec (.cardBlockReceive n a) s
            = (let c1 := { c with tries := 0 }
               .next (cardAnswer (setSlot s n c1) n a))))
     ∧ (c.det = true → exec (.cardRemove n) s
        = (let s1 := deactivate s n .empty
           let c1 := { cslot s1 n with det := false, blocked := false, sealed := false }
           .next (evt (cntUp (setSlot s1 n c1) (slCnt n) 63 48) 8 1)))
     ∧ (c.sealed = true → exec (.sealBreak n) s = .next (sealOpened s n))
     ∧ (c.state = .active ∨ c.state = .activating → exec (.slotOvercurrent n) s
        = (let s1 := slotError s n 2 .refused
           let c1 := { cslot s1 n with blocked := true }
           .next (setSlot s1 n c1)))))
  ∧ (∀ (s : State) (n donor : Fin 4) (m : Member), managerOpen s →
    ((∃ k, s.sl.cmd = some k) → (∀ b, exec (.sign n b) s = .next (evt s 8 6)) ∧ exec .drop s = .next (evt s 8 6)
        ∧ exec (.powerOn n) s = .next (evt s 8 6) ∧ (∀ b, exec (.custDel b) s = .next (evt s 8 6)))
    ∧ (s.sl.cmd = none → isLocked s = true → exec (.powerOff n) s = .next (slDone s .locked 0xFF) ∧ exec (.powerOn n) s = .next (slDone s .locked 0xFF)
        ∧ (∀ b, exec (.custAdd n donor b) s = .next (slDone s .locked 0xFF)) ∧ (∀ b, exec (.custDel b) s = .next (slDone s .locked 0xFF))
        ∧ (∀ b, exec (.signkeySet b) s = .next (slDone s .locked 0xFF)) ∧ (∀ b, exec (.signkeyRevoke b) s = .next (slDone s .locked 0xFF)))
    ∧ (s.sl.cmd = none →
        exec (.sign n .failed) s = .next (slDone (dmaErr s) .aborted 0xFF)
        ∧ (∀ raw pin, slotReady s n = true → exec (.sign n (.ok (raw, pin))) s
            = (let d := draw 128 s
               let raw1 := setBits (setBits raw 575 320 (keyIdOf (cardPub s n))) 767 640 d.1.toNat
               let k : SlCmd := { op := 1, slot := n, donor := n, raw := raw1, stage := 0 }
               .next (slBegin d.2 k n pin)))
        ∧ (∀ raw pin, slotReady s n = false → exec (.sign n (.ok (raw, pin))) s = .next (slDone s .aborted 0xFF))
        ∧ exec (.hold .failed) s = .next (slDone (dmaErr s) .aborted 0xFF)
        ∧ (∀ (t : Ticket) s1 order st, holdTicket s t.raw t.sigOk false = (s1, some (order, st)) → exec (.hold (.ok t)) s = .next (slDone s1 st order))
        ∧ (∀ (t : Ticket) s1, holdTicket s t.raw t.sigOk false = (s1, none) → exec (.hold (.ok t)) s = .next (slDone s1 .done 0xFF))
        ∧ (∀ t : Ticket, s.cu.member.isNone = true → exec (.relay m (.ok t)) s = .next (slDone s .policy 0xFF))
        ∧ (∀ t : Ticket, s.cu.member.isNone = false → exec (.relay m (.ok t)) s = .next (slDone (sendEnv s 0x40 m.val (ticketBody [t.raw] none)) .done 0xFF))
        ∧ exec .drop s = .next (slDone (dropHeld s) .done 0xFF))
    ∧ (s.sl.cmd = none → isLocked s = false →
        ((cslot s n).state = .active → exec (.powerOff n) s = .next (slDone (deactivate s n .off) .done 0xFF)
          ∧ exec (.powerOn n) s = .next (slDone s .done 0xFF))
        ∧ ((cslot s n).state ≠ .active → exec (.powerOff n) s = .next (slDone s .aborted 0xFF))
        ∧ ((cslot s n).state ≠ .active → mayActivate s n = true → exec (.powerOn n) s
            = .next (slDone (activate s n 1 false) .done 0xFF))
        ∧ (∀ (ix kind : Fin 256) (name pin pinD : BitVec 128), custAddRefusal s n donor ix.val kind.val = none →
            exec (.custAdd n donor (.ok (ix, kind, name, pin, pinD))) s
              = (let k : SlCmd := { op := 4, slot := n, donor := donor, raw := custRaw ix.val kind.val name.toNat, stage := 0, pin := pin, donorPin := pinD }
                 .next (slBegin s k donor pinD)))
        ∧ (∀ (ix kind : Fin 256) name st, custAddRefusal s n donor ix.val kind.val = some st →
            exec (.custAdd n donor (.ok (ix, kind, name))) s = .next (slDone s st 0xFF))
        ∧ (∀ (ix kind : Fin 256) (name : BitVec 128) j c t, ((custUsed s).find? fun p => p.1 == ix.val) = some (j, c) →
            ticketPair s 0x10 (custArgs ix.val 0 c.keyId.toNat) = some t →
            ((custUsed s).filter fun p => p.1 != ix.val && p.2.kindB == c.kindB).isEmpty = false → exec (.custDel (.ok (ix, kind, name))) s
              = (let e : Custodian := { pub := 0, keyId := 0, kindB := false, name := 0, serial := c.serial + 1 }
                 .next (slDone (writeEntry64 (consumePair s t) ix.val e t) .done 0xFF)))
        ∧ (∀ (raw : BitVec 16512) t, 0 < byteOf raw.toNat 0 → byteOf raw.toNat 0 ≤ 8 →
            ticketPair s 0x08 (byteOf raw.toNat 0 + fld (sha384 2064 raw.toNat) 128) = some t →
            exec (.signkeySet (.ok raw)) s
              = (let s1 := unloadSigner (consumePair s t) (byteOf raw.toNat 0)
                 let l1 := { s1.ld with keys := tins s1.ld.keys (byteOf raw.toNat 0) (BitVec.ofNat 16384 (bytesOf raw.toNat 16 2048)) }
                 .next (slDone { s1 with ld := l1 } .done 0xFF)))
        ∧ (∀ (k : Fin 256) t, 0 < k.val → k.val ≤ 8 → ticketPair s 0x09 k.val = some t → exec (.signkeyRevoke (.ok k)) s
              = (let s1 := unloadSigner (consumePair s t) k.val
                 let l1 := { s1.ld with keys := tdel s1.ld.keys k.val }
                 .next (slDone { s1 with ld := l1 } .done 0xFF)))
        ∧ (∀ k : Fin 256, k.val = 0 ∨ 8 < k.val → exec (.signkeyRevoke (.ok k)) s = .next (slDone s .malformed 0xFF))
        ∧ (∀ raw, byteOf raw.toNat 0 = 0 ∨ 8 < byteOf raw.toNat 0 → exec (.signkeySet (.ok raw)) s = .next (slDone s .malformed 0xFF))))
  ∧ (∀ (s : State) (t : Fin 16) h r, s.sl.held.drop t.val = h :: r →
      (lapsed s (tkNotAfter h.raw) h.lapse = true → exec (.ticketExpiry t) s
        = (let l1 := { s.sl with held := s.sl.held.erase h }
           .next { s with sl := l1 }))
      ∧ (lapsed s (tkNotAfter h.raw) h.lapse = false → exec (.ticketExpiry t) s = .next s))
  ∧ (∀ (s : State) (digest : BitVec 256), exec (.consumedEntryLapse digest) s
      = (let l1 := { s.sl with consumed := s.sl.consumed.filter fun c => !(c.1 == digest && lapsed s c.2.1.toNat c.2.2) }
         .next { s with sl := l1 }))

/-- Tamper events of a cycle each act, then raise the alarms they make. An alarm level ends when its window has passed, a
pulse when it does. A failed tamper clock is recorded, and in PRODUCTION locks; its return takes a pending lock.
UNLOCK, with its tickets and nothing blocking, goes to the decision of the second processor with BUSY set, and is else
refused with its detail; a policy write needs a policy in form and, in PRODUCTION, tickets; INJECT acts in BLANK and
TEST alone. A failing health test or a take-out takes a source from service; a return starts its test; NS_CFG takes
allowed values in BLANK and TEST alone. A raw bit that passes its tests joins the source's share, or the capture under
way; a capture starts unless one runs or the state forbids it, ends when it is full or aborted at a boundary, and its
data are read 64 bits at a time. [13_shutters_tamper.md, 15_hearth_noise_source.md] -/
def Obligations.TamperResponsesAndNoise : Prop :=
  ∀ (s : State),
    (∀ (l : List (Fin 24)) now, exec (.tamperEvent l now) s
        = (let ns := (l.map Fin.val).eraseDups
           let s1 := ns.foldl (fun s n => sourceEvent s n now) s
           .next (takeAlarms s1 now (ns.filter (raises s1)))))
    ∧ (∀ (n : Fin 24) now, (tsrc s n.val).level = true → (tsrc s n.val).last + srcWindow s n.val ≤ now → exec (.alarmLevelExit n now) s
        = (let v1 := { tsrc s n.val with level := false }
           .next (if n.val = 0x0F then withTp (setTsrc s n.val v1) fun t => { t with batteryOk := true } else setTsrc s n.val v1)))
    ∧ (s.tp.pulse = true → exec .alarmPulseEnd s = .next (followAlarm (withTp s fun t => { t with pulse := false })))
    ∧ (s.pwrOk = true → s.tp.tclkOk = true →
        (let s2 := report (setBit (withTp s fun t => { t with tclkOk := false }) 0x90008 9) 0x249 (srcWord 0 0) 0
         (s.mode.lc = .analysis ∨ s.mode.lc = .retired → exec .tamperClockFail s = .next s2)
         ∧ (s.mode.lc = .blank ∨ s.mode.lc = .test → exec .tamperClockFail s = .next (sendMsix s2 true 9))
         ∧ (s.mode.lc = .production → exec .tamperClockFail s
             = (let s3 := lockOrders (withTp (sendMsix s2 true 9) fun t => { t with lockPend := true, keyUse := false })
                .next (lockTaken (setMode s3 fun m => { m with lock := true }) false (min 0xFFFFFFFF (s.bbram.lockCount.toNat + 1)) 0xFF)))))
    ∧ (s.tp.tclkOk = false → exec .tamperClockReturn s
        = (let s1 := withTp s fun t => { t with tclkOk := true, lockPend := false }
           .next (if s.tp.lockPend then lockBbram s1 0xFF else s1)))
    ∧ (s.pwrOk = true → s.tp.trims + beatsPerSec ≤ runNow s → exec .tamperClockTrim s = .next (withTp s fun t => { t with trims := runNow s }))
    ∧ (s.pwrOk = false → exec .vbatRetentionLost s = .next (withBb s fun b => { b with retentionLost := true }))
    ∧ (managerOpen s → rdF s 0x90018 24 24 ≠ 1 →
        (s.mode.lc ≠ .production → exec .unlock s = .next (unlockRefused s .policy 0x30 0xFF))
        ∧ (s.mode.lc = .production → s.bbram.lockFlag = false → exec .unlock s = .next (unlockRefused s .policy 0x31 0xFF))
        ∧ (s.mode.lc = .production → s.bbram.lockFlag = true → (ticketPair s 4 (unlockArgs s)).isNone = true →
            exec .unlock s = .next (unlockRefused s .policy 0x32 0xFF))
        ∧ (s.mode.lc = .production → s.bbram.lockFlag = true → (ticketPair s 4 (unlockArgs s)).isNone = false →
            (∀ n, blocking s = some n → exec .unlock s = .next (unlockRefused s .policy 0x33 n))
            ∧ (blocking s = none → exec .unlock s
                = .next (wrF (withTp s fun t => { t with e2 := t.e2 ++ [(Decision.unlock, s.bbram.lockCount.toNat)] }) 0x90018 24 24 1)))
        ∧ (isLocked s = true → ∀ b, exec (.policyOverride b) s = .next (tpDone s .locked 0x40 0xFF))
        ∧ (isLocked s = false → s.mode.lc = .test → ∀ l, policyOk (l.take 256) = true → ticketPair s 0x0D (sha256 256 (packBytes ((l.take 256).map BitVec.toNat))) = none →
            exec (.policyOverride (.ok l)) s = .next (tpDone (setPolicy s (policyOf (l.take 256)) true) .done 0xFF 0xFF))
        ∧ (isLocked s = false → s.mode.lc = .production → ∀ l p, policyOk (l.take 256) = true →
            ticketPair s 0x0D (sha256 256 (packBytes ((l.take 256).map BitVec.toNat))) = some p →
            exec (.policyOverride (.ok l)) s = .next (tpDone (setPolicy (consumePair s p) (policyOf (l.take 256)) true) .done 0xFF 0xFF))
        ∧ (∀ (n : Fin 32) now, (s.mode.lc = .blank ∨ s.mode.lc = .test → n.val < 0x13 → exec (.inject n now) s
              = .next (tpDone (tamperEvents s [n.val] now) .done 0xFF 0xFF))
            ∧ (s.mode.lc ≠ .blank → s.mode.lc ≠ .test → exec (.inject n now) s = .next (tpDone s .policy 0x50 0xFF))))
    ∧ (∀ (r : Room),
        (∀ code : TestCode, 1 ≤ code.val → code.val ≤ 5 → exec (.healthTestFail r code) s = .next (healthFail s r.val code.val))
        ∧ (managerOpen s → (sourceIn s r.val = true → exec (.sourceTakeOut r) s = .next (failSource s r.val 6))
            ∧ (sourceIn s r.val = false → exec (.sourceTakeOut r) s = .next s)
            ∧ ((hsrc s r.val).inService = false → capturing s r.val = false → exec (.sourceReturn r) s
                = (let h1 := { hsrc s r.val with testing := true }
                   .next (setHsrc s r.val h1)))
            ∧ (s.mode.lc ≠ .analysis → s.mode.lc ≠ .retired → s.ns.capBusy = false → exec (.captureStart r) s
                = (let n1 := { s.ns with capBusy := true, capRoom := r.val, capWasIn := (hsrc s r.val).inService, capFail := 0, cap := [], capBits := 0, capStop := false }
                   .next { s with ns := n1 }))
            ∧ (s.ns.capBusy = true → exec (.captureStart r) s = .next (evt s 11 4)))
        ∧ (∀ (b : Bool), (let t := bitTests (hsrc s r.val) b (rdF s 0xB0010 31 24) (rdF s 0xB0010 41 32)
            let s1 := countBit s r.val t.1
            (capturing s r.val = false → (hsrc s r.val).inService = true →
              (t.2 = 0 → exec (.rawBit r b 0) s = .next (shareBit s1 r.val b))
              ∧ (t.2 ≠ 0 → exec (.rawBit r b 0) s = .next (healthFail s1 r.val t.2)))
            ∧ (capturing s r.val = true → t.2 = 0 → exec (.rawBit r b 0) s = .next (captureBit s1 b))
            ∧ (capturing s r.val = false → (hsrc s r.val).inService = false → exec (.rawBit r b 0) s = .next s))))
    ∧ (managerOpen s → ∀ val : Word,
        (s.mode.lc = .blank ∨ s.mode.lc = .test → bits val 31 24 ≤ 0x29 → bits val 41 32 ≤ 0x320 → 0x100 ≤ bits val 9 0 → 0x10 ≤ bits val 23 16 →
          exec (.nsCfgWrite val) s = .next (wr s 0xB0010 (val &&& 0x000003FFFFFF03FF)))
        ∧ (s.mode.lc ≠ .blank → s.mode.lc ≠ .test → exec (.nsCfgWrite val) s = .next (evt s 11 5))
        ∧ (s.ns.capBusy = true → s.ns.capBits % 64 = 0 → exec .captureAbort s = .next (captureEnd s))
        ∧ (s.ns.capBusy = true → s.ns.capBits % 64 ≠ 0 → exec .captureAbort s
            = (let n1 := { s.ns with capStop := true }
               .next { s with ns := n1 })))
    ∧ (s.ns.capBusy = true → s.ns.capBits = captureSize → exec .captureDone s = .next (captureEnd s))
    ∧ (s.ns.cap.length < 64 → exec .captureDataRead s = .next (wr s 0xB0038 0))
    ∧ (64 ≤ s.ns.cap.length → exec .captureDataRead s
        = (let n1 := { s.ns with cap := s.ns.cap.drop 64 }
           .next (wr { s with ns := n1 } 0xB0038 (BitVec.ofNat 64 (bitsNum (s.ns.cap.take 64))))))

/-- A scrubbed word with a corrected error counts it, one with an uncorrectable error counts and has its class's
consequence. A rewritten program-store word is clean again. A page program and a block erasure of an area end, and
fail into the retirement of the block; a page that needed 25 to 32 corrections is refreshed. A queued report, priority
first, is judged: exempt codes and those with a token are written, others suppressed and counted. A bucket refills at
its period; dropped reports are entered when the queue has room; RATE_WRITE sets the selected bucket; a due page is
mirrored; EV_READ_SEQ answers with the entry's words, or reads the mirror and answers then; COPY of 1 to 69,632
entries runs and writes them out or is ABORTED; CLEAR with its tickets clears, and is else refused. COPY and CLEAR
while a copy runs only raise their event. [16_ecc_and_vault_flash.md, 17_attic_event_recorder.md] -/
def Obligations.UpkeepAndTheAttic : Prop :=
  ∀ (s : State),
    (∀ (cls : Fin 10) (w : Nat) (h : ScrubHolds), ¬ (cls.val = 0 ∧ w = 0) →
        exec (.scrubRead cls w h .ok) s = .next s
        ∧ (exec (.scrubRead cls w h .corrected) s = .next (wordCE s cls.val w h)
          ∧ (cls.val ≤ 2 → wordCE s cls.val w h = roomCE (memCE s cls.val 1) (wordRoom cls.val w))
          ∧ (cls.val = 6 → wordCE s cls.val w h = larderCE s)
          ∧ (cls.val = 3 ∨ cls.val = 4 ∨ cls.val = 5 ∨ cls.val = 7 ∨ cls.val = 8 → wordCE s cls.val w h = memCE s cls.val 1))
        ∧ exec (.scrubRead cls w h .uncorrectable) s
          = .next (poisonRead (if staysPoisoned cls.val then poisonWord (wordUE s cls.val w) cls.val w else wordUE s cls.val w) cls.val w h))
    ∧ (∀ w, (s.ec.rewrite.any fun r => r.1 == w) = true → exec (.programStoreRewrite w) s
        = (let e1 := { s.ec with rewrite := s.ec.rewrite.filter fun r => r.1 != w }
           .next (clearPoison { s with ec := e1 } 3 [w])))
    ∧ (∀ block a ok, vfArea block = some a →
        exec (.vfProgramDone block ok) s = .next (programDone s block a ok) ∧ exec (.vfEraseDone block ok) s = .next (eraseDone s block a ok))
    ∧ (∀ block a, eraseDone s block a false = retireBlock s block a 15 0
        ∧ programDone s block a false = retireBlock (wr s 0xC0020 (rd s 0xC0020 + 1)) block a 31 16)
    ∧ (∀ (area : Fin 9) n, (24 < n → n ≤ 32 → exec (.vfPageRefresh area n) s = .next (pageRefresh s area.val))
        ∧ (n ≤ 24 → exec (.vfPageRefresh area n) s = .next s))
    ∧ (s.ev.loaded = true →
        (∀ r rest, s.ev.prio = r :: rest → exec .atticReport s
            = (let v1 := { s.ev with prio := rest }
               .next (judge { s with ev := v1 } r)))
        ∧ (∀ r rest, s.ev.prio = [] → s.ev.general = r :: rest → exec .atticReport s
            = (let v1 := { s.ev with general := rest }
               .next (judge { s with ev := v1 } r)))
        ∧ (∀ code : Fin 1024, exempt code.val = false → (bucketOf s code.val).tokens < (bucketOf s code.val).depth →
            runNow s % 2 ^ (bucketOf s code.val).period = 0 → (bucketOf s code.val).gained ≠ runNow s + 1 →
            exec (.bucketRefill code) s = .next (refill s code.val))
        ∧ (s.ev.dropped ≠ 0 → s.ev.general.length < 256 → exec .queueRoomLostEntry s
            = (let v1 := { s.ev with dropped := 0 }
               .next (trimSram (lostEntry { s with ev := v1 } s.ev.dropped 1)))))
    ∧ (∀ r : Report,
        (exempt r.code = true → judge s r = writeEntry s r.code r.src r.data)
        ∧ (exempt r.code = false → (bucketOf s r.code).tokens ≠ 0 → judge s r
            = (let b := { bucketOf s r.code with tokens := (bucketOf s r.code).tokens - 1 }
               writeEntry (setBucket s r.code b) r.code r.src r.data))
        ∧ (exempt r.code = false → (bucketOf s r.code).tokens = 0 → judge s r
            = (let q := bucketOf s r.code
               let b := { q with suppressed := min 0xFFFFFFFF (q.suppressed + 1), firstSec := if q.suppressed = 0 then secNow s else q.firstSec }
               setBucket s r.code b)))
    ∧ (∀ page, s.keys.vault = true → s.ev.loaded = true → mirrorDue s page = true → pageDue s = false ∨ journalPages s ≤ s.ks.durable.length → exec (.mirrorProgram page) s
        = (let v1 := { s.ev with mirror := (s.ev.entries.filter fun p => pageOf p.1 == page && !s.ev.poisoned.contains p.1).foldl (fun t p => tins t p.1 p.2) s.ev.mirror, pageRun := tdel s.ev.pageRun page }
           .next { s with ev := v1 }))
    ∧ (managerOpen s → ∀ val : Word,
        (exempt (rdF s 0xD0080 9 0) = false → exec (.rateWrite val) s
          = (let d := max 1 (bits val 23 16)
             let b := { tokens := d, depth := d, period := bits val 12 8, suppressed := 0, firstSec := 0 }
             .next (setBucket s (rdF s 0xD0080 9 0) b)))
        ∧ (exempt (rdF s 0xD0080 9 0) = true → exec (.rateWrite val) s = .next s)
        ∧ (s.ev.copying = true → exec .copy s = .next (evt s 13 2) ∧ exec .clear s = .next (evt s 13 2))
        ∧ (s.ev.copying = false →
            (rdF s 0xD0028 16 0 = 0 ∨ 69632 < rdF s 0xD0028 16 0 → exec .copy s = .next (evDone s .malformed 0xFF))
            ∧ (0 < rdF s 0xD0028 16 0 → rdF s 0xD0028 16 0 ≤ 69632 → exec .copy s
                = (let v1 := { s.ev with copying := true }
                   .next (wrF { s with ev := v1 } 0xD0018 24 24 1)))
            ∧ (isLocked s = true → exec .clear s = .next (clearRefused s .locked 0x90))
            ∧ (isLocked s = false → s.mode.lc ≠ .production → exec .clear s = .next (clearRefused s .policy 0x91))
            ∧ (isLocked s = false → s.mode.lc = .production → clearsOf s < 255 →
                (ticketPair s 0x0B (clearsOf s + 1) = none → exec .clear s = .next (clearRefused s .policy 0x93))
                ∧ (∀ t, ticketPair s 0x0B (clearsOf s + 1) = some t → exec .clear s = .next (clearNow s t))))
        ∧ (∀ (seq : BitVec 32), exec (.atticRead seq) s
            = (let s0 := wr s 0xD0038 (BitVec.ofNat 64 seq.toNat)
               let key := keyOfSeq s seq.toNat
               .next (match tfind s.ev.entries key with
                 | some e =>
                   let r := fetchEntry s0 key e
                   readSts (setData (withEv r.1 fun v => { v with reading := none }) r.2) false true
                 | none =>
                   if (tfind (readable s) key).isSome then readSts (withEv s0 fun v => { v with reading := some key }) true false
                   else readSts (setData (withEv s0 fun v => { v with reading := none }) 0) false false))))
    ∧ (∀ key, s.ev.reading = some key →
        (∀ e, tfind (readable s) key = some e → exec .atticReadDone s
            = (let v1 := { s.ev with reading := none }
               .next (readSts (setData { s with ev := v1 } e) false true)))
        ∧ (tfind (readable s) key = none → exec .atticReadDone s
            = (let v1 := { s.ev with reading := none }
               .next (readSts (setData { s with ev := v1 } 0) false false))))
    ∧ (s.ev.copying = true →
        exec (.atticCopyDone false) s = (let v1 := { s.ev with copying := false }
          .next (evDone { s with ev := v1 } .aborted 0xFF))
        ∧ (canIssue s true = true → exec (.atticCopyDone true) s
            = (let v1 := { s.ev with copying := false }
               let r := copyEntries { s with ev := v1 }
                 ((List.range (rdF s 0xD0028 16 0)).map fun i => keyOfSeq s (rdF s 0xD0028 63 32 + i))
               let out := Out.atticCopy (rd s 0xD0020) r.2 :: r.1.out
               .next (evDone { r.1 with out := out } .done 0xFF))))
end

