-- ==== Sys2Proof/Laws/Args.lean ====
section
/-! SUPPORT. What the argument check of the shipped routines does. -/

namespace Sys2Proof
namespace Machine

/-- Past its check, an instruction of a routine acts as any other does. -/
theorem withArgs_past {s : State} {o : Nat} {v : Order} {second : Bool} {f : Result} (h : pastArgs s v second) :
    withArgs s o v second f = f := by
  unfold withArgs
  rcases h with h | h | ⟨h1, h2⟩
  · simp [h]
  · simp [h]
  · simp only [h1, if_neg h2]; simp

/-- A shipped routine whose arguments fail the check ends with MALFORMED. -/
theorem withArgs_fails {s : State} {o : Nat} {v : Order} {f : Result} (h1 : shipped s v = true)
    (h2 : ¬ (v.routine = 0x44 ∧ v.inLen ≠ 0 ∧ v.inputIn = false)) (h3 : libArgsOk v = false) :
    withArgs s o v false f = go (endOrder s o .malformed 0) := by
  unfold withArgs
  simp only [h1, h3, if_neg h2]; simp

end Machine
end Sys2Proof
end

