-- ==== Sys2Proof/Laws/Tab.lean ====
section
/-! SUPPORT. Sparse tables: every operation keeps the canonical form, a read after a write gives the value written, and a
write leaves every other key alone. -/

namespace Sys2Proof

variable {α : Type}

/-! ## The canonical form -/

theorem twfFrom_mono [DecidableEq α] {d : Nat → α} {lo lo' : Nat} {t : Tab α} (h : twfFrom d lo t = true) (hl : lo' ≤ lo) :
    twfFrom d lo' t = true := by
  cases t with
  | nil => rfl
  | cons p r =>
    simp only [twfFrom, Bool.and_eq_true, decide_eq_true_eq] at h ⊢
    exact ⟨⟨by omega, h.1.2⟩, h.2⟩

theorem twfFrom_tins [DecidableEq α] {d : Nat → α} {k : Nat} {v : α} (hv : v ≠ d k) :
    ∀ {t : Tab α} {lo : Nat}, lo ≤ k → twfFrom d lo t = true → twfFrom d lo (tins t k v) = true
  | [], lo, hl, _ => by simp [tins, twfFrom, hl, hv]
  | (j, w) :: r, lo, hl, h => by
    simp only [twfFrom, Bool.and_eq_true, decide_eq_true_eq] at h
    simp only [tins]
    split
    · subst_vars; simp [twfFrom, hl, hv, h.2]
    · split
      · simp only [twfFrom, Bool.and_eq_true, decide_eq_true_eq]
        exact ⟨⟨hl, hv⟩, ⟨by omega, h.1.2⟩, h.2⟩
      · simp only [twfFrom, Bool.and_eq_true, decide_eq_true_eq]
        exact ⟨h.1, twfFrom_tins hv (by omega) h.2⟩

theorem twfFrom_tdel [DecidableEq α] {d : Nat → α} {k : Nat} :
    ∀ {t : Tab α} {lo : Nat}, twfFrom d lo t = true → twfFrom d lo (tdel t k) = true
  | [], _, _ => rfl
  | (j, w) :: r, lo, h => by
    simp only [twfFrom, Bool.and_eq_true, decide_eq_true_eq] at h
    simp only [tdel]
    split
    · exact twfFrom_mono h.2 (by omega)
    · split <;> simp only [twfFrom, Bool.and_eq_true, decide_eq_true_eq]
      · exact h
      · exact ⟨h.1, twfFrom_tdel h.2⟩

theorem twfFrom_filter [DecidableEq α] {d : Nat → α} (f : Nat × α → Bool) :
    ∀ {t : Tab α} {lo : Nat}, twfFrom d lo t = true → twfFrom d lo (t.filter f) = true
  | [], _, _ => rfl
  | (j, w) :: r, lo, h => by
    simp only [twfFrom, Bool.and_eq_true, decide_eq_true_eq] at h
    have ih := twfFrom_filter f h.2
    simp only [List.filter_cons]
    split
    · simp only [twfFrom, Bool.and_eq_true, decide_eq_true_eq]; exact ⟨h.1, ih⟩
    · exact twfFrom_mono ih (by omega)

/-- Rewriting the listed values keeps the form when every value that becomes the unlisted one is dropped. -/
theorem twfFrom_filterMap [DecidableEq α] {d : Nat → α} (f : Nat × α → Option (Nat × α))
    (hf : ∀ p q, f p = some q → q.1 = p.1 ∧ q.2 ≠ d q.1) :
    ∀ {t : Tab α} {lo : Nat}, twfFrom d lo t = true → twfFrom d lo (t.filterMap f) = true
  | [], _, _ => rfl
  | (j, w) :: r, lo, h => by
    simp only [twfFrom, Bool.and_eq_true, decide_eq_true_eq] at h
    have ih := twfFrom_filterMap f hf h.2
    simp only [List.filterMap_cons]
    split
    · exact twfFrom_mono ih (by omega)
    · rename_i q hq
      obtain ⟨h1, h2⟩ := hf _ _ hq
      obtain ⟨a, b⟩ := q
      simp only at h1 h2
      subst h1
      simp only [twfFrom, Bool.and_eq_true, decide_eq_true_eq]
      exact ⟨⟨h.1.1, h2⟩, ih⟩

@[simp] theorem twf_nil [DecidableEq α] (d : α) : twf d [] = true := rfl

@[simp] theorem twf_tput [DecidableEq α] {d : α} {t : Tab α} (k : Nat) (v : α) (h : twf d t = true) :
    twf d (tput d t k v) = true := by
  unfold tput
  split
  · exact twfFrom_tdel h
  · exact twfFrom_tins (by assumption) (Nat.zero_le _) h

@[simp] theorem twf_tdel [DecidableEq α] {d : α} {t : Tab α} (k : Nat) (h : twf d t = true) : twf d (tdel t k) = true :=
  twfFrom_tdel h

@[simp] theorem twf_filter [DecidableEq α] {d : α} {t : Tab α} (f : Nat × α → Bool) (h : twf d t = true) :
    twf d (t.filter f) = true := twfFrom_filter f h

@[simp] theorem twf_tclear [DecidableEq α] {d : α} {t : Tab α} (lo n : Nat) (h : twf d t = true) :
    twf d (tclear t lo n) = true := twfFrom_filter _ h

@[simp] theorem twf_tstore {t : Tab Byte} (a n v : Nat) (h : twf 0#8 t = true) : twf 0#8 (tstore t a n v) = true := by
  induction n generalizing t a v with
  | zero => exact h
  | succ k ih => exact ih _ _ (twf_tput _ _ h)

@[simp] theorem twf_tstoreList {t : Tab Byte} (a : Nat) (l : List Byte) (h : twf 0#8 t = true) :
    twf 0#8 (tstoreList t a l) = true := by
  induction l generalizing t a with
  | nil => exact h
  | cons v r ih => exact ih _ (twf_tput _ _ h)

theorem foldl_twf [DecidableEq α] {β : Type} {d : α} (f : Tab α → β → Tab α) (h : ∀ t x, twf d t = true → twf d (f t x) = true)
    (l : List β) (t : Tab α) (ht : twf d t = true) : twf d (l.foldl f t) = true := by
  induction l generalizing t with
  | nil => exact ht
  | cons x r ih => exact ih _ (h _ _ ht)

/-! ## Read after write -/

@[simp] theorem tfind_tins_same (t : Tab α) (k : Nat) (v : α) : tfind (tins t k v) k = some v := by
  induction t with
  | nil => simp [tins, tfind]
  | cons p r ih =>
    obtain ⟨j, w⟩ := p
    simp only [tins]
    split
    · simp [tfind]
    · split
      · simp [tfind]
      · simp [tfind, *]

theorem tfind_tins_other (t : Tab α) {k j : Nat} (v : α) (h : j ≠ k) : tfind (tins t k v) j = tfind t j := by
  induction t with
  | nil => simp [tins, tfind, h]
  | cons p r ih =>
    obtain ⟨i, w⟩ := p
    simp only [tins]
    split
    · subst_vars; simp [tfind, h]
    · split
      · simp only [tfind, if_neg h]
        by_cases h1 : j = i
        · subst h1; simp; omega
        · simp only [if_neg h1]; split <;> split <;> first | rfl | omega
      · simp only [tfind, ih]

/-- No key below the bound of a canonical table is listed. -/
theorem tfind_below [DecidableEq α] {d : Nat → α} :
    ∀ {t : Tab α} {lo k : Nat}, twfFrom d lo t = true → k < lo → tfind t k = none
  | [], _, _, _, _ => rfl
  | (j, w) :: r, lo, k, h, hk => by
    simp only [twfFrom, Bool.and_eq_true, decide_eq_true_eq] at h
    simp only [tfind]
    rw [if_neg (by omega), if_pos (by omega)]

theorem tfind_tdel_same [DecidableEq α] {d : Nat → α} :
    ∀ {t : Tab α} {lo : Nat} (k : Nat), twfFrom d lo t = true → tfind (tdel t k) k = none
  | [], _, _, _ => rfl
  | (j, w) :: r, lo, k, h => by
    simp only [twfFrom, Bool.and_eq_true, decide_eq_true_eq] at h
    simp only [tdel]
    split
    · exact tfind_below h.2 (by omega)
    · split
      · simp [tfind, *]
      · simp only [tfind, *, if_false]; exact tfind_tdel_same k h.2

theorem tfind_tdel_other [DecidableEq α] {d : Nat → α} :
    ∀ {t : Tab α} {lo k j : Nat}, twfFrom d lo t = true → j ≠ k → tfind (tdel t k) j = tfind t j
  | [], _, _, _, _, _ => rfl
  | (i, w) :: r, lo, k, j, h, hj => by
    simp only [twfFrom, Bool.and_eq_true, decide_eq_true_eq] at h
    simp only [tdel]
    split
    · subst_vars
      simp only [tfind, if_neg hj]
      split
      · exact tfind_below h.2 (by omega)
      · rfl
    · split
      · rfl
      · simp only [tfind, tfind_tdel_other h.2 hj]

theorem tget_tput_same [DecidableEq α] {d : α} {t : Tab α} (k : Nat) (v : α) (h : twf d t = true) :
    tget d (tput d t k v) k = v := by
  unfold tput tget
  split
  · subst_vars; rw [tfind_tdel_same k h]; rfl
  · simp

theorem tget_tput_other [DecidableEq α] {d : α} {t : Tab α} {k j : Nat} (v : α) (h : twf d t = true) (hj : j ≠ k) :
    tget d (tput d t k v) j = tget d t j := by
  unfold tput tget
  split
  · rw [tfind_tdel_other h hj]
  · rw [tfind_tins_other t v hj]

/-- Storing n bytes leaves every byte outside them as it was. -/
theorem tget_tstore_outside {t : Tab Byte} {a n v b : Nat} (h : twf 0 t = true) (hb : b < a ∨ a + n ≤ b) :
    tget 0 (tstore t a n v) b = tget 0 t b := by
  induction n generalizing t a v with
  | zero => rfl
  | succ k ih =>
    rw [tstore, ih (twf_tput _ _ h) (by omega), tget_tput_other _ h (by omega)]

/-- Bytes stored read back as the number they were stored from. -/
theorem tbytes_tstore {t : Tab Byte} {a n v : Nat} (h : twf 0 t = true) : tbytes (tstore t a n v) a n = v % 256 ^ n := by
  induction n generalizing t a v with
  | zero => simp [tbytes, Nat.mod_one]
  | succ k ih =>
    have hp := twf_tput (d := 0) a (BitVec.ofNat 8 v) h
    rw [tstore, tbytes, ih hp, tget_tstore_outside hp (by omega), tget_tput_same _ _ h, BitVec.toNat_ofNat]
    rw [show (2 : Nat) ^ 8 = 256 from rfl, pow_succ', Nat.mod_mul]

end Sys2Proof
end

