-- ==== Sys2Proof/Laws/Kept.lean ====
section
/-! SUPPORT. What it means that a state change keeps the memories' canonical form and the queue of commands, and how that
passes through choices and folds. -/

namespace Sys2Proof
namespace Machine

/-- An outcome is no fault; a refusal is the loader's; a next state keeps the queue, and the memories' canonical form. -/
def Keeps (s : State) : Result → Prop
  | .next t => (s.mem.wf = true → t.mem.wf = true) ∧ t.pending = s.pending
  | .fault _ => False
  | .refused r => r = .refusedByLoader

@[simp] theorem keeps_next (s t : State) :
    Keeps s (.next t) ↔ (s.mem.wf = true → t.mem.wf = true) ∧ t.pending = s.pending := Iff.rfl
theorem keeps_go {s t : State} (h : s.mem.wf = true → t.mem.wf = true) (hp : t.pending = s.pending) : Keeps s (go t) :=
  ⟨h, hp⟩
@[simp] theorem keeps_refused (s : State) : Keeps s (.refused .refusedByLoader) := rfl

/-- The four tables of a memory in canonical form. -/
theorem wf_iff (m : Memory) : m.wf = true ↔ twf 0#8 m.win = true ∧ twf 0#8 m.pantry = true ∧ twf 0#64 m.words = true
    ∧ twf 0#64 m.descs = true := by
  simp [Memory.wf, and_assoc]

@[simp] theorem twf_win {m : Memory} (h : m.wf = true) : twf 0#8 m.win = true := ((wf_iff m).1 h).1
@[simp] theorem twf_pantry {m : Memory} (h : m.wf = true) : twf 0#8 m.pantry = true := ((wf_iff m).1 h).2.1
@[simp] theorem twf_words {m : Memory} (h : m.wf = true) : twf 0#64 m.words = true := ((wf_iff m).1 h).2.2.1
@[simp] theorem twf_descs {m : Memory} (h : m.wf = true) : twf 0#64 m.descs = true := ((wf_iff m).1 h).2.2.2

@[simp] theorem wf_setWin {m : Memory} (t : Tab Byte) (h : m.wf = true) (ht : twf 0#8 t = true) :
    Memory.wf { win := t, pantry := m.pantry, words := m.words, descs := m.descs } = true := by
  rw [wf_iff] at h ⊢; exact ⟨ht, h.2⟩
@[simp] theorem wf_setPantry {m : Memory} (t : Tab Byte) (h : m.wf = true) (ht : twf 0#8 t = true) :
    Memory.wf { win := m.win, pantry := t, words := m.words, descs := m.descs } = true := by
  rw [wf_iff] at h ⊢; exact ⟨h.1, ht, h.2.2⟩
@[simp] theorem wf_setWords {m : Memory} (t : Tab Word) (h : m.wf = true) (ht : twf 0#64 t = true) :
    Memory.wf { win := m.win, pantry := m.pantry, words := t, descs := m.descs } = true := by
  rw [wf_iff] at h ⊢; exact ⟨h.1, h.2.1, ht, h.2.2.2⟩
@[simp] theorem wf_setDescs {m : Memory} (t : Tab Word) (h : m.wf = true) (ht : twf 0#64 t = true) :
    Memory.wf { win := m.win, pantry := m.pantry, words := m.words, descs := t } = true := by
  rw [wf_iff] at h ⊢; exact ⟨h.1, h.2.1, h.2.2.1, ht⟩
@[simp] theorem wf_empty : Memory.wf { win := [], pantry := [], words := [], descs := [] } = true := rfl

@[simp] theorem mem_ite (c : Prop) [Decidable c] (a b : State) : (if c then a else b).mem = if c then a.mem else b.mem :=
  apply_ite State.mem c a b
@[simp] theorem pending_ite (c : Prop) [Decidable c] (a b : State) :
    (if c then a else b).pending = if c then a.pending else b.pending := apply_ite State.pending c a b
@[simp] theorem wf_ite (c : Prop) [Decidable c] (a b : Memory) :
    (if c then a else b).wf = if c then a.wf else b.wf := apply_ite Memory.wf c a b
@[simp] theorem fst_mem_ite {β : Type} (c : Prop) [Decidable c] (a b : State × β) :
    (if c then a else b).1.mem = if c then a.1.mem else b.1.mem := apply_ite (fun x : State × β => x.1.mem) c a b
@[simp] theorem fst_pending_ite {β : Type} (c : Prop) [Decidable c] (a b : State × β) :
    (if c then a else b).1.pending = if c then a.1.pending else b.1.pending :=
  apply_ite (fun x : State × β => x.1.pending) c a b
@[simp] theorem snd_mem_ite {β : Type} (c : Prop) [Decidable c] (a b : β × State) :
    (if c then a else b).2.mem = if c then a.2.mem else b.2.mem := apply_ite (fun x : β × State => x.2.mem) c a b
@[simp] theorem snd_pending_ite {β : Type} (c : Prop) [Decidable c] (a b : β × State) :
    (if c then a else b).2.pending = if c then a.2.pending else b.2.pending :=
  apply_ite (fun x : β × State => x.2.pending) c a b
@[simp] theorem keeps_ite (s : State) (c : Prop) [Decidable c] (a b : Result) :
    Keeps s (if c then a else b) ↔ (c → Keeps s a) ∧ (¬c → Keeps s b) := by split <;> simp [*]

theorem foldl_mem {β : Type} (f : State → β → State) (h : ∀ s x, (f s x).mem = s.mem) (l : List β) (s : State) :
    (l.foldl f s).mem = s.mem := by
  induction l generalizing s with
  | nil => rfl
  | cons x r ih => rw [List.foldl_cons, ih, h]

theorem foldl_pending {β : Type} (f : State → β → State) (h : ∀ s x, (f s x).pending = s.pending) (l : List β)
    (s : State) : (l.foldl f s).pending = s.pending := by
  induction l generalizing s with
  | nil => rfl
  | cons x r ih => rw [List.foldl_cons, ih, h]

theorem foldl_wf {β : Type} (f : State → β → State) (h : ∀ s x, s.mem.wf = true → (f s x).mem.wf = true) (l : List β)
    (s : State) (hs : s.mem.wf = true) : (l.foldl f s).mem.wf = true := by
  induction l generalizing s with
  | nil => exact hs
  | cons x r ih => exact ih _ (h _ _ hs)

theorem foldl_fst_mem {β γ : Type} (f : State × γ → β → State × γ) (h : ∀ a x, (f a x).1.mem = a.1.mem) (l : List β)
    (a : State × γ) : (l.foldl f a).1.mem = a.1.mem := by
  induction l generalizing a with
  | nil => rfl
  | cons x r ih => rw [List.foldl_cons, ih, h]

theorem foldl_fst_pending {β γ : Type} (f : State × γ → β → State × γ) (h : ∀ a x, (f a x).1.pending = a.1.pending)
    (l : List β) (a : State × γ) : (l.foldl f a).1.pending = a.1.pending := by
  induction l generalizing a with
  | nil => rfl
  | cons x r ih => rw [List.foldl_cons, ih, h]

theorem foldl_fst_wf {β γ : Type} (f : State × γ → β → State × γ)
    (h : ∀ a x, a.1.mem.wf = true → (f a x).1.mem.wf = true) (l : List β) (a : State × γ) (ha : a.1.mem.wf = true) :
    (l.foldl f a).1.mem.wf = true := by
  induction l generalizing a with
  | nil => exact ha
  | cons x r ih => exact ih _ (h _ _ ha)

theorem foldl_snd_mem {β γ : Type} (f : γ × State → β → γ × State) (h : ∀ a x, (f a x).2.mem = a.2.mem) (l : List β)
    (a : γ × State) : (l.foldl f a).2.mem = a.2.mem := by
  induction l generalizing a with
  | nil => rfl
  | cons x r ih => rw [List.foldl_cons, ih, h]

theorem foldl_snd_pending {β γ : Type} (f : γ × State → β → γ × State) (h : ∀ a x, (f a x).2.pending = a.2.pending)
    (l : List β) (a : γ × State) : (l.foldl f a).2.pending = a.2.pending := by
  induction l generalizing a with
  | nil => rfl
  | cons x r ih => rw [List.foldl_cons, ih, h]

theorem foldl_snd_wf {β γ : Type} (f : γ × State → β → γ × State)
    (h : ∀ a x, a.2.mem.wf = true → (f a x).2.mem.wf = true) (l : List β) (a : γ × State) (ha : a.2.mem.wf = true) :
    (l.foldl f a).2.mem.wf = true := by
  induction l generalizing a with
  | nil => exact ha
  | cons x r ih => exact ih _ (h _ _ ha)

end Machine
end Sys2Proof
end

