-- ==== Sys2Proof/Laws/KeptRegs.lean ====
section
/-! SUPPORT. What the functions of Machine/Regs.lean keep: the queue of commands, and the memories or their canonical form. -/

set_option linter.all false

namespace Sys2Proof
namespace Machine

@[simp] theorem wr_mem (s : State) (a : Nat) (v : Word) : (wr s a v).mem = s.mem := by
  unfold wr
  simp
@[simp] theorem wr_pending (s : State) (a : Nat) (v : Word) : (wr s a v).pending = s.pending := by
  unfold wr
  simp

@[simp] theorem wrF_mem (s : State) (a hi lo n : Nat) : (wrF s a hi lo n).mem = s.mem := by
  unfold wrF
  simp
@[simp] theorem wrF_pending (s : State) (a hi lo n : Nat) : (wrF s a hi lo n).pending = s.pending := by
  unfold wrF
  simp

@[simp] theorem cntBy_mem (s : State) (a hi lo n : Nat) : (cntBy s a hi lo n).mem = s.mem := by
  unfold cntBy
  simp
@[simp] theorem cntBy_pending (s : State) (a hi lo n : Nat) : (cntBy s a hi lo n).pending = s.pending := by
  unfold cntBy
  simp

@[simp] theorem cntUp_mem (s : State) (a hi lo : Nat) : (cntUp s a hi lo).mem = s.mem := by
  unfold cntUp
  simp
@[simp] theorem cntUp_pending (s : State) (a hi lo : Nat) : (cntUp s a hi lo).pending = s.pending := by
  unfold cntUp
  simp

@[simp] theorem setBit_mem (s : State) (a n : Nat) : (setBit s a n).mem = s.mem := by
  unfold setBit
  simp
@[simp] theorem setBit_pending (s : State) (a n : Nat) : (setBit s a n).pending = s.pending := by
  unfold setBit
  simp

end Machine
end Sys2Proof
end

