-- ==== Sys2Proof/Laws/KeptOps.lean ====
section
/-! SUPPORT. What the functions of Machine/Ops.lean keep: the queue of commands, and the memories or their canonical form. -/

set_option linter.all false

namespace Sys2Proof
namespace Machine

@[simp] theorem go_keeps (s : State)  : Keeps s (go s) := by
  unfold go
  simp

@[simp] theorem onlyIf_wf (c : Bool) (s : State) (f : State → State) (hs : s.mem.wf = true)
    (h : s.mem.wf = true → (f s).mem.wf = true) : (onlyIf c s f).mem.wf = true := by
  unfold onlyIf; split <;> simp [h, hs]
@[simp] theorem onlyIf_pending (c : Bool) (s : State) (f : State → State) (h : (f s).pending = s.pending) :
    (onlyIf c s f).pending = s.pending := by
  unfold onlyIf; split <;> simp [h]

@[simp] theorem draw_mem (w : Nat) (s : State) : (draw w s).2.mem = s.mem := by
  unfold draw
  simp
@[simp] theorem draw_pending (w : Nat) (s : State) : (draw w s).2.pending = s.pending := by
  unfold draw
  simp

@[simp] theorem accRefused_mem (s : State) (off kind : Nat) (write : Bool) : (accRefused s off kind write).mem = s.mem := by
  unfold accRefused; exact wr_mem _ _ _
@[simp] theorem accRefused_pending (s : State) (off kind : Nat) (write : Bool) :
    (accRefused s off kind write).pending = s.pending := by
  unfold accRefused; exact wr_pending _ _ _

@[simp] theorem managerWrite_keeps (s : State) (off : Nat) (f : State → State) (h : s.mem.wf = true → (f s).mem.wf = true)
    (hp : (f s).pending = s.pending) : Keeps s (managerWrite s off f) := by
  unfold managerWrite; split
  · simp
  · split
    · simp
    · exact ⟨h, hp⟩

@[simp] theorem sendMsix_mem (s : State) (pf1 : Bool) (v : Nat) : (sendMsix s pf1 v).mem = s.mem := by
  unfold sendMsix
  simp
@[simp] theorem sendMsix_pending (s : State) (pf1 : Bool) (v : Nat) : (sendMsix s pf1 v).pending = s.pending := by
  unfold sendMsix
  simp

@[simp] theorem flushMsix_mem (s : State) (pf1 : Bool) : (flushMsix s pf1).mem = s.mem := by
  unfold flushMsix
  simp
@[simp] theorem flushMsix_pending (s : State) (pf1 : Bool) : (flushMsix s pf1).pending = s.pending := by
  unfold flushMsix
  simp

@[simp] theorem report_mem (s : State) (code src data : Nat) : (report s code src data).mem = s.mem := by
  unfold report
  simp
@[simp] theorem report_pending (s : State) (code src data : Nat) : (report s code src data).pending = s.pending := by
  unfold report
  simp

@[simp] theorem evt_mem (s : State) (blk n : Nat) : (evt s blk n).mem = s.mem := by
  unfold evt
  simp
@[simp] theorem evt_pending (s : State) (blk n : Nat) : (evt s blk n).pending = s.pending := by
  unfold evt
  simp

@[simp] theorem evtRec_mem (s : State) (blk n src data : Nat) : (evtRec s blk n src data).mem = s.mem := by
  unfold evtRec
  simp
@[simp] theorem evtRec_pending (s : State) (blk n src data : Nat) : (evtRec s blk n src data).pending = s.pending := by
  unfold evtRec
  simp

@[simp] theorem gevt_mem (s : State) (n : Nat) : (gevt s n).mem = s.mem := by
  unfold gevt
  simp
@[simp] theorem gevt_pending (s : State) (n : Nat) : (gevt s n).pending = s.pending := by
  unfold gevt
  simp

@[simp] theorem gevtRec_mem (s : State) (n src data : Nat) : (gevtRec s n src data).mem = s.mem := by
  unfold gevtRec
  simp
@[simp] theorem gevtRec_pending (s : State) (n src data : Nat) : (gevtRec s n src data).pending = s.pending := by
  unfold gevtRec
  simp

@[simp] theorem rmEvt_mem (s : State) (r n : Nat) : (rmEvt s r n).mem = s.mem := by
  unfold rmEvt
  simp
@[simp] theorem rmEvt_pending (s : State) (r n : Nat) : (rmEvt s r n).pending = s.pending := by
  unfold rmEvt
  simp

@[simp] theorem rmEvtRec_mem (s : State) (r n src data : Nat) : (rmEvtRec s r n src data).mem = s.mem := by
  unfold rmEvtRec
  simp
@[simp] theorem rmEvtRec_pending (s : State) (r n src data : Nat) : (rmEvtRec s r n src data).pending = s.pending := by
  unfold rmEvtRec
  simp

@[simp] theorem memCE_mem (s : State) (m n : Nat) : (memCE s m n).mem = s.mem := by
  unfold memCE
  simp
@[simp] theorem memCE_pending (s : State) (m n : Nat) : (memCE s m n).pending = s.pending := by
  unfold memCE
  simp

@[simp] theorem memUE_mem (s : State) (m n : Nat) : (memUE s m n).mem = s.mem := by
  unfold memUE
  simp
@[simp] theorem memUE_pending (s : State) (m n : Nat) : (memUE s m n).pending = s.pending := by
  unfold memUE
  simp

@[simp] theorem modeField_mem (w0 w1 : Nat) (s : State) (f : Nat × Nat × Nat) : (modeField w0 w1 s f).mem = s.mem := by
  unfold modeField
  simp
@[simp] theorem modeField_pending (w0 w1 : Nat) (s : State) (f : Nat × Nat × Nat) : (modeField w0 w1 s f).pending = s.pending := by
  unfold modeField
  simp

@[simp] theorem setMode_mem (s : State) (f : Mode → Mode) : (setMode s f).mem = s.mem := by
  unfold setMode
  simp [foldl_mem]
@[simp] theorem setMode_pending (s : State) (f : Mode → Mode) : (setMode s f).pending = s.pending := by
  unfold setMode
  simp [foldl_pending]

@[simp] theorem setOrder_mem (s : State) (o : Nat) (v : Order) : (setOrder s o v).mem = s.mem := by
  unfold setOrder
  simp
@[simp] theorem setOrder_pending (s : State) (o : Nat) (v : Order) : (setOrder s o v).pending = s.pending := by
  unfold setOrder
  simp

@[simp] theorem updOrder_mem (s : State) (o : Nat) (f : Order → Order) : (updOrder s o f).mem = s.mem := by
  unfold updOrder
  split <;> simp
@[simp] theorem updOrder_pending (s : State) (o : Nat) (f : Order → Order) : (updOrder s o f).pending = s.pending := by
  unfold updOrder
  split <;> simp

@[simp] theorem setEng_mem (s : State) (e : Nat) (v : Engine) : (setEng s e v).mem = s.mem := by
  unfold setEng
  simp
@[simp] theorem setEng_pending (s : State) (e : Nat) (v : Engine) : (setEng s e v).pending = s.pending := by
  unfold setEng
  simp

@[simp] theorem freeFrame_wf (s : State) (k : Nat) (hwf : s.mem.wf = true) : (freeFrame s k).mem.wf = true := by
  rw [wf_iff] at hwf ⊢
  simp [freeFrame, hwf]
@[simp] theorem freeFrame_pending (s : State) (k : Nat) : (freeFrame s k).pending = s.pending := rfl

@[simp] theorem idleEngine_mem (s : State) (e : Nat) : (idleEngine s e).mem = s.mem := by
  unfold idleEngine
  simp
@[simp] theorem idleEngine_pending (s : State) (e : Nat) : (idleEngine s e).pending = s.pending := by
  unfold idleEngine
  simp

@[simp] theorem leaveRoom_wf (s : State) (v : Order) (hwf : s.mem.wf = true)  : (leaveRoom s v).mem.wf = true := by
  unfold leaveRoom
  split <;> simp [hwf]
@[simp] theorem leaveRoom_pending (s : State) (v : Order)  : (leaveRoom s v).pending = s.pending := by
  unfold leaveRoom
  split <;> simp

@[simp] theorem clearPoisonIf_mem (s : State) (m : Nat) (p : Nat → Bool) : (clearPoisonIf s m p).mem = s.mem := by
  unfold clearPoisonIf
  simp
@[simp] theorem clearPoisonIf_pending (s : State) (m : Nat) (p : Nat → Bool) : (clearPoisonIf s m p).pending = s.pending := by
  unfold clearPoisonIf
  simp

@[simp] theorem zeroWords_wf (s : State) (b : Nat) (p : Nat → Bool) (hwf : s.mem.wf = true) :
    (zeroWords s b p).mem.wf = true := by
  rw [wf_iff] at hwf ⊢
  simp [zeroWords, hwf]
@[simp] theorem zeroWords_pending (s : State) (b : Nat) (p : Nat → Bool) : (zeroWords s b p).pending = s.pending := by
  simp [zeroWords]

@[simp] theorem releaseArea_wf (s : State) (b : Nat) (hwf : s.mem.wf = true) : (releaseArea s b).mem.wf = true := by
  have h1 : ∀ p, (zeroWords s b p).mem.wf = true := fun p => zeroWords_wf s b p hwf
  simp only [wf_iff] at h1 ⊢
  refine ⟨(h1 _).1, (h1 _).2.1, (h1 _).2.2.1, ?_⟩
  refine twfFrom_filterMap _ (fun p q h => ?_) (h1 fun w =>
    !(s.mode.lc == .blank || s.mode.lc == .test) || secretWord s b w).2.2.2
  dsimp only at h
  by_cases h0 : (if p.1 / 1024 = b then setBits p.2 62 62 0 else p.2) = 0
  · rw [if_pos h0] at h; cases h
  · rw [if_neg h0] at h; cases h; exact ⟨rfl, h0⟩
@[simp] theorem releaseArea_pending (s : State) (b : Nat) : (releaseArea s b).pending = s.pending := by
  simp [releaseArea]

@[simp] theorem leaveBn_wf (s : State) (o : Nat) (v : Order) (st : Status) (hwf : s.mem.wf = true)  : (leaveBn s o v st).mem.wf = true := by
  unfold leaveBn
  split <;> simp [hwf]
@[simp] theorem leaveBn_pending (s : State) (o : Nat) (v : Order) (st : Status)  : (leaveBn s o v st).pending = s.pending := by
  unfold leaveBn
  split <;> simp

@[simp] theorem dropCtx_mem (s : State) (sl : Nat) : (dropCtx s sl).mem = s.mem := by
  unfold dropCtx
  simp
@[simp] theorem dropCtx_pending (s : State) (sl : Nat) : (dropCtx s sl).pending = s.pending := by
  unfold dropCtx
  simp

@[simp] theorem releaseCtx_mem (s : State) (v : Order) : (releaseCtx s v).mem = s.mem := by
  unfold releaseCtx
  simp
@[simp] theorem releaseCtx_pending (s : State) (v : Order) : (releaseCtx s v).pending = s.pending := by
  unfold releaseCtx
  simp

@[simp] theorem closeCtx_mem (s : State) (v : Order) : (closeCtx s v).mem = s.mem := by
  unfold closeCtx
  simp
@[simp] theorem closeCtx_pending (s : State) (v : Order) : (closeCtx s v).pending = s.pending := by
  unfold closeCtx
  simp

@[simp] theorem endOrder_wf (s : State) (o : Nat) (st : Status) (inl : Word) (hwf : s.mem.wf = true)  : (endOrder s o st inl).mem.wf = true := by
  unfold endOrder
  split <;> simp [hwf]
@[simp] theorem endOrder_pending (s : State) (o : Nat) (st : Status) (inl : Word)  : (endOrder s o st inl).pending = s.pending := by
  unfold endOrder
  split <;> simp

@[simp] theorem endAll_wf (s : State) (p : Order → Bool) (st : Status) (hwf : s.mem.wf = true)  : (endAll s p st).mem.wf = true := by
  unfold endAll
  simp (maxDischargeDepth := 60) +contextual [hwf, foldl_wf]
@[simp] theorem endAll_pending (s : State) (p : Order → Bool) (st : Status)  : (endAll s p st).pending = s.pending := by
  unfold endAll
  simp [foldl_pending]

@[simp] theorem newOrder_mem (s : State) (v : Order) : (newOrder s v).mem = s.mem := by
  unfold newOrder
  simp
@[simp] theorem newOrder_pending (s : State) (v : Order) : (newOrder s v).pending = s.pending := by
  unfold newOrder
  simp

@[simp] theorem lockOrders_wf (s : State) (hwf : s.mem.wf = true)  : (lockOrders s).mem.wf = true := by
  unfold lockOrders
  simp [hwf]
@[simp] theorem lockOrders_pending (s : State)  : (lockOrders s).pending = s.pending := by
  unfold lockOrders
  simp

end Machine
end Sys2Proof
end

