-- ==== Sys2Proof/Laws/KeptTime.lean ====
section
/-! SUPPORT. What the functions of Machine/Time.lean keep: the queue of commands, and the memories or their canonical form. -/

set_option linter.all false

namespace Sys2Proof
namespace Machine

@[simp] theorem tick_mem (s : State) : (tick s).mem = s.mem := by
  unfold tick
  simp
@[simp] theorem tick_pending (s : State) : (tick s).pending = s.pending := by
  unfold tick
  simp

@[simp] theorem rejectEdge_mem (s : State) (gap : Nat) : (rejectEdge s gap).mem = s.mem := by
  unfold rejectEdge
  simp
@[simp] theorem rejectEdge_pending (s : State) (gap : Nat) : (rejectEdge s gap).pending = s.pending := by
  unfold rejectEdge
  simp

@[simp] theorem acceptCount_mem (s : State) (n : Nat) : (acceptCount s n).mem = s.mem := by
  unfold acceptCount
  simp
@[simp] theorem acceptCount_pending (s : State) (n : Nat) : (acceptCount s n).pending = s.pending := by
  unfold acceptCount
  simp

@[simp] theorem stepSeconds_mem (s : State) (old new : Nat) : (stepSeconds s old new).mem = s.mem := by
  unfold stepSeconds
  simp
@[simp] theorem stepSeconds_pending (s : State) (old new : Nat) : (stepSeconds s old new).pending = s.pending := by
  unfold stepSeconds
  simp

@[simp] theorem pendStep_mem (s : State) (marked sec : Nat) (acq : Bool) : (pendStep s marked sec acq).mem = s.mem := by
  unfold pendStep
  simp
@[simp] theorem pendStep_pending (s : State) (marked sec : Nat) (acq : Bool) : (pendStep s marked sec acq).pending = s.pending := by
  unfold pendStep
  simp

@[simp] theorem discardStep_mem (s : State) (cause : Nat) : (discardStep s cause).mem = s.mem := by
  unfold discardStep
  split <;> simp
@[simp] theorem discardStep_pending (s : State) (cause : Nat) : (discardStep s cause).pending = s.pending := by
  unfold discardStep
  split <;> simp

@[simp] theorem writeFloor_mem (s : State) (sec : Nat) : (writeFloor s sec).mem = s.mem := by
  unfold writeFloor
  simp
@[simp] theorem writeFloor_pending (s : State) (sec : Nat) : (writeFloor s sec).pending = s.pending := by
  unfold writeFloor
  simp

@[simp] theorem acquire_mem (s : State) (sec c gap : Nat) : (acquire s sec c gap).mem = s.mem := by
  unfold acquire
  simp
@[simp] theorem acquire_pending (s : State) (sec c gap : Nat) : (acquire s sec c gap).pending = s.pending := by
  unfold acquire
  simp

@[simp] theorem edgeFree_mem (s : State) (c : Nat) : (edgeFree s c).mem = s.mem := by
  unfold edgeFree
  dsimp only
  repeat' split
  all_goals simp
@[simp] theorem edgeFree_pending (s : State) (c : Nat) : (edgeFree s c).pending = s.pending := by
  unfold edgeFree
  dsimp only
  repeat' split
  all_goals simp

@[simp] theorem edgeSeconds_mem (s : State) (marked : Nat) : (edgeSeconds s marked).mem = s.mem := by
  unfold edgeSeconds
  repeat' split
  all_goals simp
@[simp] theorem edgeSeconds_pending (s : State) (marked : Nat) : (edgeSeconds s marked).pending = s.pending := by
  unfold edgeSeconds
  repeat' split
  all_goals simp

@[simp] theorem edgeAccept_mem (s : State) (c off : Nat) : (edgeAccept s c off).mem = s.mem := by
  unfold edgeAccept
  simp
@[simp] theorem edgeAccept_pending (s : State) (c off : Nat) : (edgeAccept s c off).pending = s.pending := by
  unfold edgeAccept
  simp

@[simp] theorem timepulse_mem (s : State) (off : Nat) : (timepulse s off).mem = s.mem := by
  unfold timepulse
  repeat' split
  all_goals simp
@[simp] theorem timepulse_pending (s : State) (off : Nat) : (timepulse s off).pending = s.pending := by
  unfold timepulse
  repeat' split
  all_goals simp

@[simp] theorem armLabel_mem (s : State) (sec : Nat) : (armLabel s sec).mem = s.mem := by
  unfold armLabel
  simp
@[simp] theorem armLabel_pending (s : State) (sec : Nat) : (armLabel s sec).pending = s.pending := by
  unfold armLabel
  simp

@[simp] theorem execTbLabelWrite_keeps (sec : BitVec 44) (s : State)  : Keeps s (execTbLabelWrite sec s) := by
  unfold execTbLabelWrite
  simp

@[simp] theorem execHoldoverTimeout_keeps (s : State)  : Keeps s (execHoldoverTimeout s) := by
  unfold execHoldoverTimeout
  simp

@[simp] theorem execFreeEntry_keeps (s : State)  : Keeps s (execFreeEntry s) := by
  unfold execFreeEntry
  simp +contextual

@[simp] theorem execStepApprovalTimeout_keeps (s : State)  : Keeps s (execStepApprovalTimeout s) := by
  unfold execStepApprovalTimeout
  split <;> simp +contextual

@[simp] theorem execAcqWindowClose_keeps (s : State)  : Keeps s (execAcqWindowClose s) := by
  unfold execAcqWindowClose
  split <;> simp +contextual

@[simp] theorem execTimeFloorWrite_keeps (s : State)  : Keeps s (execTimeFloorWrite s) := by
  unfold execTimeFloorWrite
  split <;> simp +contextual

@[simp] theorem schedPlace_mem (s : State) (kind : Nat) (target : Word) (gen : BitVec 16) (slot : Fin 4) : (schedPlace s kind target gen slot).1.mem = s.mem := by
  unfold schedPlace
  simp
@[simp] theorem schedPlace_pending (s : State) (kind : Nat) (target : Word) (gen : BitVec 16) (slot : Fin 4) : (schedPlace s kind target gen slot).1.pending = s.pending := by
  unfold schedPlace
  simp

@[simp] theorem schedEmpty_mem (s : State) (n : Nat) : (schedEmpty s n).mem = s.mem := by
  unfold schedEmpty
  simp
@[simp] theorem schedEmpty_pending (s : State) (n : Nat) : (schedEmpty s n).pending = s.pending := by
  unfold schedEmpty
  simp

@[simp] theorem cancelEntry_mem (s : State) (n : Nat) : (cancelEntry s n).mem = s.mem := by
  unfold cancelEntry
  split <;> simp
@[simp] theorem cancelEntry_pending (s : State) (n : Nat) : (cancelEntry s n).pending = s.pending := by
  unfold cancelEntry
  split <;> simp

@[simp] theorem execSchedCancel_keeps (n : Fin 16) (s : State)  : Keeps s (execSchedCancel n s) := by
  unfold execSchedCancel
  simp

@[simp] theorem cancelProfile_mem (s : State) : (cancelProfile s).mem = s.mem := by
  unfold cancelProfile
  simp [foldl_mem]
@[simp] theorem cancelProfile_pending (s : State) : (cancelProfile s).pending = s.pending := by
  unfold cancelProfile
  simp [foldl_pending]

@[simp] theorem roomApplied_mem (s : State) (r : Nat) : (roomApplied s r).mem = s.mem := by
  unfold roomApplied
  simp
@[simp] theorem roomApplied_pending (s : State) (r : Nat) : (roomApplied s r).pending = s.pending := by
  unfold roomApplied
  simp

@[simp] theorem execRoomApplyGeneration_keeps (r : Room) (s : State)  : Keeps s (execRoomApplyGeneration r s) := by
  unfold execRoomApplyGeneration
  simp

end Machine
end Sys2Proof
end

