-- ==== Sys2Proof/Laws/KeptPorter.lean ====
section
/-! SUPPORT. What the functions of Machine/Porter.lean keep: the queue of commands, and the memories or their canonical form. -/

set_option linter.all false

namespace Sys2Proof
namespace Machine

@[simp] theorem writeGrantWords_mem (s : State) (sl c : Nat) (g : Option Grant) : (writeGrantWords s sl c g).mem = s.mem := by
  unfold writeGrantWords
  split <;> simp
@[simp] theorem writeGrantWords_pending (s : State) (sl c : Nat) (g : Option Grant) : (writeGrantWords s sl c g).pending = s.pending := by
  unfold writeGrantWords
  split <;> simp

@[simp] theorem admStatus_mem (s : State) (st : Status) (detail : Nat) : (admStatus s st detail).mem = s.mem := by
  unfold admStatus
  simp
@[simp] theorem admStatus_pending (s : State) (st : Status) (detail : Nat) : (admStatus s st detail).pending = s.pending := by
  unfold admStatus
  simp

@[simp] theorem grantRefused_mem (s : State) (sl c : Nat) (st : Status) (detail : Nat) : (grantRefused s sl c st detail).mem = s.mem := by
  unfold grantRefused
  simp
@[simp] theorem grantRefused_pending (s : State) (sl c : Nat) (st : Status) (detail : Nat) : (grantRefused s sl c st detail).pending = s.pending := by
  unfold grantRefused
  simp

@[simp] theorem grantCmd_mem (s : State) (sl c : Nat) : (grantCmd s sl c).mem = s.mem := by
  unfold grantCmd
  dsimp only
  repeat' split
  all_goals simp
@[simp] theorem grantCmd_pending (s : State) (sl c : Nat) : (grantCmd s sl c).pending = s.pending := by
  unfold grantCmd
  dsimp only
  repeat' split
  all_goals simp

@[simp] theorem execGrant_keeps (sl : Slice) (c : Class) (s : State)  : Keeps s (execGrant sl c s) := by
  unfold execGrant
  simp

@[simp] theorem releaseCmd_mem (s : State) (sl c : Nat) : (releaseCmd s sl c).mem = s.mem := by
  unfold releaseCmd
  simp
@[simp] theorem releaseCmd_pending (s : State) (sl c : Nat) : (releaseCmd s sl c).pending = s.pending := by
  unfold releaseCmd
  simp

@[simp] theorem execGrantRelease_keeps (sl : Slice) (c : Class) (s : State)  : Keeps s (execGrantRelease sl c s) := by
  unfold execGrantRelease
  simp

@[simp] theorem writeBeCfg_mem (s : State) (val : Word) : (writeBeCfg s val).mem = s.mem := by
  unfold writeBeCfg
  simp
@[simp] theorem writeBeCfg_pending (s : State) (val : Word) : (writeBeCfg s val).pending = s.pending := by
  unfold writeBeCfg
  simp

@[simp] theorem execBeCfgWrite_keeps (val : Word) (s : State)  : Keeps s (execBeCfgWrite val s) := by
  unfold execBeCfgWrite
  simp

@[simp] theorem clearHint_mem (s : State) (key : Nat) : (clearHint s key).mem = s.mem := by
  unfold clearHint
  simp
@[simp] theorem clearHint_pending (s : State) (key : Nat) : (clearHint s key).pending = s.pending := by
  unfold clearHint
  simp

@[simp] theorem refuse_mem (s : State) (v : Order) (st : Status) (inl : Word) : (refuse s v st inl).mem = s.mem := by
  unfold refuse
  simp
@[simp] theorem refuse_pending (s : State) (v : Order) (st : Status) (inl : Word) : (refuse s v st inl).pending = s.pending := by
  unfold refuse
  simp

@[simp] theorem refuseBusy_mem (s : State) (v : Order) (retry : Word) : (refuseBusy s v retry).mem = s.mem := by
  unfold refuseBusy
  simp
@[simp] theorem refuseBusy_pending (s : State) (v : Order) (retry : Word) : (refuseBusy s v retry).pending = s.pending := by
  unfold refuseBusy
  simp

@[simp] theorem accept_mem (s : State) (v : Order) (n : Need) (r : Nat) (res : Bool) : (accept s v n r res).mem = s.mem := by
  unfold accept
  simp
@[simp] theorem accept_pending (s : State) (v : Order) (n : Need) (r : Nat) (res : Bool) : (accept s v n r res).pending = s.pending := by
  unfold accept
  simp

@[simp] theorem parkBusy_mem (s : State) (v : Order) : (parkBusy s v).mem = s.mem := by
  unfold parkBusy
  simp
@[simp] theorem parkBusy_pending (s : State) (v : Order) : (parkBusy s v).pending = s.pending := by
  unfold parkBusy
  simp

@[simp] theorem decideOrder_mem (s : State) (v : Order) : (decideOrder s v).mem = s.mem := by
  unfold decideOrder
  dsimp only
  repeat' split
  all_goals simp
@[simp] theorem decideOrder_pending (s : State) (v : Order) : (decideOrder s v).pending = s.pending := by
  unfold decideOrder
  dsimp only
  repeat' split
  all_goals simp

@[simp] theorem porter_mem (s : State) (v : Order) : (porter s v).mem = s.mem := by
  unfold porter
  simp
@[simp] theorem porter_pending (s : State) (v : Order) : (porter s v).pending = s.pending := by
  unfold porter
  simp

@[simp] theorem execParkRelease_keeps (o : Nat) (s : State)  : Keeps s (execParkRelease o s) := by
  unfold execParkRelease
  dsimp only
  repeat' split
  all_goals simp (maxDischargeDepth := 60) +contextual

@[simp] theorem execChargeRelease_keeps (o : Nat) (s : State)  : Keeps s (execChargeRelease o s) := by
  unfold execChargeRelease
  simp

@[simp] theorem execBusyHintClear_keeps (sl : Slice) (c : Class) (s : State)  : Keeps s (execBusyHintClear sl c s) := by
  unfold execBusyHintClear
  split <;> simp +contextual

@[simp] theorem deadlineFault_wf (s : State) (o : Nat) (v : Order) (cause : Nat) (hwf : s.mem.wf = true)  : (deadlineFault s o v cause).mem.wf = true := by
  unfold deadlineFault
  simp [hwf]
@[simp] theorem deadlineFault_pending (s : State) (o : Nat) (v : Order) (cause : Nat)  : (deadlineFault s o v cause).pending = s.pending := by
  unfold deadlineFault
  simp

@[simp] theorem execPhaseOverrun_keeps (o : Nat) (s : State)  : Keeps s (execPhaseOverrun o s) := by
  unfold execPhaseOverrun
  repeat' split
  all_goals simp (maxDischargeDepth := 60) +contextual

@[simp] theorem watchdogStop_wf (s : State) (o : Nat) (v : Order) (hwf : s.mem.wf = true)  : (watchdogStop s o v).mem.wf = true := by
  unfold watchdogStop
  simp [hwf]
@[simp] theorem watchdogStop_pending (s : State) (o : Nat) (v : Order) : (watchdogStop s o v).pending = s.pending := by
  unfold watchdogStop
  simp

@[simp] theorem execDeadlineWatchdog_keeps (o : Nat) (s : State)  : Keeps s (execDeadlineWatchdog o s) := by
  unfold execDeadlineWatchdog
  split <;> simp +contextual

end Machine
end Sys2Proof
end

