-- ==== Sys2Proof/Laws/KeptPorch.lean ====
section
/-! SUPPORT. What the functions of Machine/Porch.lean keep: the queue of commands, and the memories or their canonical form. -/

set_option linter.all false

namespace Sys2Proof
namespace Machine

@[simp] theorem endOutage_mem (s : State) (p : Nat → Bool) : (endOutage s p).mem = s.mem := by
  unfold endOutage
  simp [foldl_mem]
@[simp] theorem endOutage_pending (s : State) (p : Nat → Bool) : (endOutage s p).pending = s.pending := by
  unfold endOutage
  simp [foldl_pending]

@[simp] theorem resumeFunction_mem (s : State) (pf1 : Bool) : (resumeFunction s pf1).mem = s.mem := by
  unfold resumeFunction
  simp
@[simp] theorem resumeFunction_pending (s : State) (pf1 : Bool) : (resumeFunction s pf1).pending = s.pending := by
  unfold resumeFunction
  simp

@[simp] theorem execLinkUp_keeps (width : Fin 5) (speed : Fin 6) (s : State)  : Keeps s (execLinkUp width speed s) := by
  unfold execLinkUp
  simp

@[simp] theorem execLinkDown_keeps (s : State)  : Keeps s (execLinkDown s) := by
  unfold execLinkDown
  simp

@[simp] theorem execBusMasterEnableChange_keeps (pf1 on : Bool) (s : State)  : Keeps s (execBusMasterEnableChange pf1 on s) := by
  unfold execBusMasterEnableChange
  simp

@[simp] theorem execPowerStateChange_keeps (d3hot : Bool) (s : State)  : Keeps s (execPowerStateChange d3hot s) := by
  unfold execPowerStateChange
  simp

@[simp] theorem execMsixUnmask_keeps (pf1 : Bool) (vec : Fin 2048) (s : State)  : Keeps s (execMsixUnmask pf1 vec s) := by
  unfold execMsixUnmask
  simp

@[simp] theorem noteBusy_mem (s : State) : (noteBusy s).mem = s.mem := by
  unfold noteBusy
  simp
@[simp] theorem noteBusy_pending (s : State) : (noteBusy s).pending = s.pending := by
  unfold noteBusy
  simp

@[simp] theorem execL1Entry_keeps (s : State)  : Keeps s (execL1Entry s) := by
  unfold execL1Entry
  simp

@[simp] theorem hostRead_mem (s : State) (sl : Slice) (iova len : Nat) : (hostRead s sl iova len).mem = s.mem := by
  unfold hostRead
  simp
@[simp] theorem hostRead_pending (s : State) (sl : Slice) (iova len : Nat) : (hostRead s sl iova len).pending = s.pending := by
  unfold hostRead
  simp

@[simp] theorem enableSlice_mem (s : State) (sl : Nat) : (enableSlice s sl).mem = s.mem := by
  unfold enableSlice
  simp
@[simp] theorem enableSlice_pending (s : State) (sl : Nat) : (enableSlice s sl).pending = s.pending := by
  unfold enableSlice
  simp

@[simp] theorem execSliceEnable_keeps (sl : Slice) (s : State)  : Keeps s (execSliceEnable sl s) := by
  unfold execSliceEnable
  simp

@[simp] theorem setQueue_mem (s : State) (g : Nat) (q : Queue) : (setQueue s g q).mem = s.mem := by
  unfold setQueue
  simp
@[simp] theorem setQueue_pending (s : State) (g : Nat) (q : Queue) : (setQueue s g q).pending = s.pending := by
  unfold setQueue
  simp

@[simp] theorem updQueue_mem (s : State) (g : Nat) (f : Queue → Queue) : (updQueue s g f).mem = s.mem := by
  unfold updQueue
  split <;> simp
@[simp] theorem updQueue_pending (s : State) (g : Nat) (f : Queue → Queue) : (updQueue s g f).pending = s.pending := by
  unfold updQueue
  split <;> simp

@[simp] theorem consume_mem (s : State) (g ix : Nat) : (consume s g ix).mem = s.mem := by
  unfold consume
  simp
@[simp] theorem consume_pending (s : State) (g ix : Nat) : (consume s g ix).pending = s.pending := by
  unfold consume
  simp

@[simp] theorem abortFetched_mem (s : State) (p : Nat → Bool) : (abortFetched s p).mem = s.mem := by
  unfold abortFetched
  simp [foldl_mem]
@[simp] theorem abortFetched_pending (s : State) (p : Nat → Bool) : (abortFetched s p).pending = s.pending := by
  unfold abortFetched
  simp [foldl_pending]

@[simp] theorem abortParked_wf (s : State) (p : Nat → Bool) (hwf : s.mem.wf = true)  : (abortParked s p).mem.wf = true := by
  unfold abortParked
  simp [hwf]
@[simp] theorem abortParked_pending (s : State) (p : Nat → Bool)  : (abortParked s p).pending = s.pending := by
  unfold abortParked
  simp

@[simp] theorem disableSlice_wf (s : State) (sl : Nat) (hwf : s.mem.wf = true)  : (disableSlice s sl).mem.wf = true := by
  unfold disableSlice
  simp [hwf]
@[simp] theorem disableSlice_pending (s : State) (sl : Nat)  : (disableSlice s sl).pending = s.pending := by
  unfold disableSlice
  simp

@[simp] theorem execSliceDisable_keeps (sl : Slice) (s : State)  : Keeps s (execSliceDisable sl s) := by
  unfold execSliceDisable
  simp +contextual

@[simp] theorem rebindSlice_mem (s : State) (sl pasid tenant gen : Nat) : (rebindSlice s sl pasid tenant gen).mem = s.mem := by
  unfold rebindSlice
  simp
@[simp] theorem rebindSlice_pending (s : State) (sl pasid tenant gen : Nat) : (rebindSlice s sl pasid tenant gen).pending = s.pending := by
  unfold rebindSlice
  simp

@[simp] theorem execSliceRebind_keeps (sl : Slice) (pasid : BitVec 20) (tenant : BitVec 16) (gen : BitVec 6) (s : State)  : Keeps s (execSliceRebind sl pasid tenant gen s) := by
  unfold execSliceRebind
  simp

@[simp] theorem qcmdStatus_mem (s : State) (st : Status) : (qcmdStatus s st).mem = s.mem := by
  unfold qcmdStatus
  simp
@[simp] theorem qcmdStatus_pending (s : State) (st : Status) : (qcmdStatus s st).pending = s.pending := by
  unfold qcmdStatus
  simp

@[simp] theorem qcmd_wf (s : State) (f : State → State) (hwf : s.mem.wf = true) (hf : ∀ x0, x0.mem.wf = true → (f x0).mem.wf = true) : (qcmd s f).mem.wf = true := by
  unfold qcmd
  simp (maxDischargeDepth := 60) +contextual [*]
@[simp] theorem qcmd_pending (s : State) (f : State → State) (hg : ∀ x0, (f x0).pending = x0.pending) : (qcmd s f).pending = s.pending := by
  unfold qcmd
  simp [*]

@[simp] theorem createPair_mem (s : State) (sl q : Nat) : (createPair s sl q).mem = s.mem := by
  unfold createPair
  simp
@[simp] theorem createPair_pending (s : State) (sl q : Nat) : (createPair s sl q).pending = s.pending := by
  unfold createPair
  simp

@[simp] theorem execQueueCreate_keeps (sl : Slice) (q : PairIx) (s : State)  : Keeps s (execQueueCreate sl q s) := by
  unfold execQueueCreate
  simp +contextual

@[simp] theorem deletePair_wf (s : State) (sl q : Nat) (hwf : s.mem.wf = true)  : (deletePair s sl q).mem.wf = true := by
  unfold deletePair
  dsimp only
  repeat' split
  all_goals simp (maxDischargeDepth := 60) [hwf]
@[simp] theorem deletePair_pending (s : State) (sl q : Nat)  : (deletePair s sl q).pending = s.pending := by
  unfold deletePair
  dsimp only
  repeat' split
  all_goals simp

@[simp] theorem execQueueDelete_keeps (sl : Slice) (q : PairIx) (s : State)  : Keeps s (execQueueDelete sl q s) := by
  unfold execQueueDelete
  simp (maxDischargeDepth := 60) +contextual

@[simp] theorem execQueueDeleteDone_keeps (sl : Slice) (q : PairIx) (s : State)  : Keeps s (execQueueDeleteDone sl q s) := by
  unfold execQueueDeleteDone
  dsimp only
  repeat' split
  all_goals simp (maxDischargeDepth := 60) +contextual

@[simp] theorem abortSlice_wf (s : State) (sl : Nat) (hwf : s.mem.wf = true)  : (abortSlice s sl).mem.wf = true := by
  unfold abortSlice
  simp [hwf]
@[simp] theorem abortSlice_pending (s : State) (sl : Nat)  : (abortSlice s sl).pending = s.pending := by
  unfold abortSlice
  simp

@[simp] theorem execSliceAbort_keeps (sl : Slice) (s : State)  : Keeps s (execSliceAbort sl s) := by
  unfold execSliceAbort
  simp (maxDischargeDepth := 60) +contextual

@[simp] theorem dbError_mem (s : State) (sl : Nat) : (dbError s sl).mem = s.mem := by
  unfold dbError
  simp
@[simp] theorem dbError_pending (s : State) (sl : Nat) : (dbError s sl).pending = s.pending := by
  unfold dbError
  simp

@[simp] theorem dbSpoof_mem (s : State) (sl : Nat) : (dbSpoof s sl).mem = s.mem := by
  unfold dbSpoof
  simp
@[simp] theorem dbSpoof_pending (s : State) (sl : Nat) : (dbSpoof s sl).pending = s.pending := by
  unfold dbSpoof
  simp

@[simp] theorem ringDoorbell_mem (s : State) (sl : Nat) (head : Bool) (val : Nat) : (ringDoorbell s sl head val).mem = s.mem := by
  unfold ringDoorbell
  dsimp only
  repeat' split
  all_goals simp
@[simp] theorem ringDoorbell_pending (s : State) (sl : Nat) (head : Bool) (val : Nat) : (ringDoorbell s sl head val).pending = s.pending := by
  unfold ringDoorbell
  dsimp only
  repeat' split
  all_goals simp

@[simp] theorem doorbell_mem (s : State) (sl : Nat) (pasid : Option (BitVec 20)) (off size : Nat) (val : Word) : (doorbell s sl pasid off size val).mem = s.mem := by
  unfold doorbell
  dsimp only
  repeat' split
  all_goals simp
@[simp] theorem doorbell_pending (s : State) (sl : Nat) (pasid : Option (BitVec 20)) (off size : Nat) (val : Word) : (doorbell s sl pasid off size val).pending = s.pending := by
  unfold doorbell
  dsimp only
  repeat' split
  all_goals simp

@[simp] theorem execSqTailWrite_keeps (sl : Slice) (pasid : Option (BitVec 20)) (off size : Nat) (val : Word) (s : State)  : Keeps s (execSqTailWrite sl pasid off size val s) := by
  unfold execSqTailWrite
  simp

@[simp] theorem execCqHeadWrite_keeps (sl : Slice) (pasid : Option (BitVec 20)) (off size : Nat) (val : Word) (s : State)  : Keeps s (execCqHeadWrite sl pasid off size val s) := by
  unfold execCqHeadWrite
  simp

@[simp] theorem dmaErr_mem (s : State) : (dmaErr s).mem = s.mem := by
  unfold dmaErr
  simp
@[simp] theorem dmaErr_pending (s : State) : (dmaErr s).pending = s.pending := by
  unfold dmaErr
  simp

@[simp] theorem batchDrop_mem (s : State) : (batchDrop s).mem = s.mem := by
  unfold batchDrop
  simp
@[simp] theorem batchDrop_pending (s : State) : (batchDrop s).pending = s.pending := by
  unfold batchDrop
  simp

@[simp] theorem tookTurn_mem (s : State) (sl p : Nat) : (tookTurn s sl p).mem = s.mem := by
  unfold tookTurn
  simp
@[simp] theorem tookTurn_pending (s : State) (sl p : Nat) : (tookTurn s sl p).pending = s.pending := by
  unfold tookTurn
  simp

@[simp] theorem execSqBatchFetch_keeps (sl : Slice) (p : PairIx) (entries : List (HostRead OrderWord)) (s0 : State)  : Keeps s0 (execSqBatchFetch sl p entries s0) := by
  unfold execSqBatchFetch
  dsimp only
  repeat' split
  all_goals simp (maxDischargeDepth := 60) +contextual

@[simp] theorem countSpoof_mem (s : State) (sl : Nat) : (countSpoof s sl).mem = s.mem := by
  unfold countSpoof
  simp
@[simp] theorem countSpoof_pending (s : State) (sl : Nat) : (countSpoof s sl).pending = s.pending := by
  unfold countSpoof
  simp

@[simp] theorem dropRest_mem (s : State) (ch g ix n : Nat) (rest : Bool) : (dropRest s ch g ix n rest).mem = s.mem := by
  unfold dropRest
  simp
@[simp] theorem dropRest_pending (s : State) (ch g ix n : Nat) (rest : Bool) : (dropRest s ch g ix n rest).pending = s.pending := by
  unfold dropRest
  simp

@[simp] theorem admitChecked_mem (s : State) (v : Order) (im : Image) : (admitChecked s v im).mem = s.mem := by
  unfold admitChecked
  dsimp only
  repeat' split
  all_goals simp
@[simp] theorem admitChecked_pending (s : State) (v : Order) (im : Image) : (admitChecked s v im).pending = s.pending := by
  unfold admitChecked
  dsimp only
  repeat' split
  all_goals simp

@[simp] theorem execOrderDispatch_keeps (ch : Fin 8) (ce ue : BitVec 8) (s : State)  : Keeps s (execOrderDispatch ch ce ue s) := by
  unfold execOrderDispatch
  dsimp only
  repeat' split
  all_goals simp (maxDischargeDepth := 60) +contextual

@[simp] theorem porchDoor_wf (s : State) (o : Nat) (v : Order) (write : Bool) (hwf : s.mem.wf = true)  : (porchDoor s o v write).mem.wf = true := by
  unfold porchDoor
  simp [hwf]
@[simp] theorem porchDoor_pending (s : State) (o : Nat) (v : Order) (write : Bool)  : (porchDoor s o v write).pending = s.pending := by
  unfold porchDoor
  simp

@[simp] theorem execInputDmaComplete_keeps (o : Nat) (data : HostRead (List Byte)) (bursts : List Nat) (s : State)  : Keeps s (execInputDmaComplete o data bursts s) := by
  unfold execInputDmaComplete
  repeat' split
  all_goals simp (maxDischargeDepth := 60) +contextual

@[simp] theorem execInputReadTimeout_keeps (o : Nat) (s : State)  : Keeps s (execInputReadTimeout o s) := by
  unfold execInputReadTimeout
  split <;> simp +contextual

@[simp] theorem completionIrq_mem (s : State) (v : Order) (g : Nat) : (completionIrq s v g).mem = s.mem := by
  unfold completionIrq
  split <;> simp
@[simp] theorem completionIrq_pending (s : State) (v : Order) (g : Nat) : (completionIrq s v g).pending = s.pending := by
  unfold completionIrq
  split <;> simp

@[simp] theorem forget_wf (s0 : State) (o : Nat) (hwf : s0.mem.wf = true)  : (forget s0 o).mem.wf = true := by
  unfold forget
  repeat' split
  all_goals simp (maxDischargeDepth := 60) [hwf]
@[simp] theorem forget_pending (s0 : State) (o : Nat)  : (forget s0 o).pending = s0.pending := by
  unfold forget
  repeat' split
  all_goals simp

@[simp] theorem discardCompletion_mem (s : State) (v : Order) (g : Nat) : (discardCompletion s v g).mem = s.mem := by
  unfold discardCompletion
  simp
@[simp] theorem discardCompletion_pending (s : State) (v : Order) (g : Nat) : (discardCompletion s v g).pending = s.pending := by
  unfold discardCompletion
  simp

@[simp] theorem writeCompletion_mem (s : State) (v : Order) (st : Status) (inl : Word) (g : Nat) (q : Queue) : (writeCompletion s v st inl g q).mem = s.mem := by
  unfold writeCompletion
  simp
@[simp] theorem writeCompletion_pending (s : State) (v : Order) (st : Status) (inl : Word) (g : Nat) (q : Queue) : (writeCompletion s v st inl g q).pending = s.pending := by
  unfold writeCompletion
  simp

@[simp] theorem issueCompletion_wf (s : State) (o : Nat) (bursts : List Nat) (hwf : s.mem.wf = true)  : (issueCompletion s o bursts).mem.wf = true := by
  unfold issueCompletion
  dsimp only
  repeat' split
  all_goals simp (maxDischargeDepth := 60) [hwf]
@[simp] theorem issueCompletion_pending (s : State) (o : Nat) (bursts : List Nat) : (issueCompletion s o bursts).pending = s.pending := by
  unfold issueCompletion
  dsimp only
  repeat' split
  all_goals simp

@[simp] theorem execIrqCoalTimeout_keeps (sl : Slice) (p : PairIx) (s : State)  : Keeps s (execIrqCoalTimeout sl p s) := by
  unfold execIrqCoalTimeout
  dsimp only
  repeat' split
  all_goals simp (maxDischargeDepth := 60) +contextual

end Machine
end Sys2Proof
end

