-- ==== Sys2Proof/Laws/KeptRooms.lean ====
section
/-! SUPPORT. What the functions of Machine/Rooms.lean keep: the queue of commands, and the memories or their canonical form. -/

set_option linter.all false

namespace Sys2Proof
namespace Machine

@[simp] theorem startPhase_mem (s : State) (o : Nat) (v : Order) (e : EngIx) (second : Bool) (f : Nat) : (startPhase s o v e second f).mem = s.mem := by
  unfold startPhase
  simp
@[simp] theorem startPhase_pending (s : State) (o : Nat) (v : Order) (e : EngIx) (second : Bool) (f : Nat) : (startPhase s o v e second f).pending = s.pending := by
  unfold startPhase
  simp

@[simp] theorem execPhaseStart_keeps (o : Nat) (e : EngIx) (s : State)  : Keeps s (execPhaseStart o e s) := by
  unfold execPhaseStart
  repeat' split
  all_goals simp (maxDischargeDepth := 60) +contextual

@[simp] theorem preemptOrder_mem (s : State) (o : Nat) (v : Order) (e : EngIx) (second : Bool) : (preemptOrder s o v e second).mem = s.mem := by
  unfold preemptOrder
  simp
@[simp] theorem preemptOrder_pending (s : State) (o : Nat) (v : Order) (e : EngIx) (second : Bool) : (preemptOrder s o v e second).pending = s.pending := by
  unfold preemptOrder
  simp

@[simp] theorem execPreempt_keeps (r : Room) (s : State)  : Keeps s (execPreempt r s) := by
  unfold execPreempt
  repeat' split
  all_goals simp (maxDischargeDepth := 60) +contextual

@[simp] theorem execOrderResume_keeps (o : Nat) (e : EngIx) (s : State)  : Keeps s (execOrderResume o e s) := by
  unfold execOrderResume
  repeat' split
  all_goals simp (maxDischargeDepth := 60) +contextual

@[simp] theorem engOutBit_mem (s : State) (e : Nat) (b : Bool) : (engOutBit s e b).mem = s.mem := by
  unfold engOutBit
  simp
@[simp] theorem engOutBit_pending (s : State) (e : Nat) (b : Bool) : (engOutBit s e b).pending = s.pending := by
  unfold engOutBit
  simp

@[simp] theorem engineLeaves_wf (s : State) (e : Nat) (hwf : s.mem.wf = true)  : (engineLeaves s e).mem.wf = true := by
  unfold engineLeaves
  simp (maxDischargeDepth := 60) +contextual [hwf, foldl_wf]
@[simp] theorem engineLeaves_pending (s : State) (e : Nat)  : (engineLeaves s e).pending = s.pending := by
  unfold engineLeaves
  simp [foldl_pending]

@[simp] theorem takeOut_wf (s : State) (e : Nat) (hwf : s.mem.wf = true)  : (takeOut s e).mem.wf = true := by
  unfold takeOut
  simp [hwf]
@[simp] theorem takeOut_pending (s : State) (e : Nat)  : (takeOut s e).pending = s.pending := by
  unfold takeOut
  simp

@[simp] theorem execEngineTakeOut_keeps (r : Room) (i : LocIx) (s : State)  : Keeps s (execEngineTakeOut r i s) := by
  unfold execEngineTakeOut
  simp +contextual

@[simp] theorem beginReturn_mem (s : State) (e : Nat) : (beginReturn s e).mem = s.mem := by
  unfold beginReturn
  simp
@[simp] theorem beginReturn_pending (s : State) (e : Nat) : (beginReturn s e).pending = s.pending := by
  unfold beginReturn
  simp

@[simp] theorem execEngineReturn_keeps (r : Room) (i : LocIx) (s : State)  : Keeps s (execEngineReturn r i s) := by
  unfold execEngineReturn
  simp

@[simp] theorem execEngineSelftestDone_keeps (r : Room) (i : LocIx) (s : State)  : Keeps s (execEngineSelftestDone r i s) := by
  unfold execEngineSelftestDone
  simp

@[simp] theorem doorRefused_mem (s : State) (r loc ix reason : Nat) (mgr : Bool) : (doorRefused s r loc ix reason mgr).mem = s.mem := by
  unfold doorRefused
  simp
@[simp] theorem doorRefused_pending (s : State) (r loc ix reason : Nat) (mgr : Bool) : (doorRefused s r loc ix reason mgr).pending = s.pending := by
  unfold doorRefused
  simp

@[simp] theorem doorWrite_mem (s : State) (r n : Nat) (w : Word) : (doorWrite s r n w).mem = s.mem := by
  unfold doorWrite
  simp [foldl_mem]
@[simp] theorem doorWrite_pending (s : State) (r n : Nat) (w : Word) : (doorWrite s r n w).pending = s.pending := by
  unfold doorWrite
  simp [foldl_pending]

@[simp] theorem execDoorRegionWrite_keeps (r : Room) (n : Fin 4) (desc : Word) (s : State)  : Keeps s (execDoorRegionWrite r n desc s) := by
  unfold execDoorRegionWrite
  simp

@[simp] theorem syncDone_mem (s : State) (r : Nat) : (syncDone s r).mem = s.mem := by
  unfold syncDone
  simp
@[simp] theorem syncDone_pending (s : State) (r : Nat) : (syncDone s r).pending = s.pending := by
  unfold syncDone
  simp

@[simp] theorem doorSyncStart_mem (s : State) (r : Nat) : (doorSyncStart s r).mem = s.mem := by
  unfold doorSyncStart
  simp [foldl_mem]
@[simp] theorem doorSyncStart_pending (s : State) (r : Nat) : (doorSyncStart s r).pending = s.pending := by
  unfold doorSyncStart
  simp [foldl_pending]

@[simp] theorem execDoorSync_keeps (r : Room) (s : State)  : Keeps s (execDoorSync r s) := by
  unfold execDoorSync
  simp

@[simp] theorem execDoorSyncApply_keeps (e : EngIx) (k : DoorKind) (s : State)  : Keeps s (execDoorSyncApply e k s) := by
  unfold execDoorSyncApply
  simp

@[simp] theorem clearW1c_mem (s : State) (a : Nat) (mask : Word) : (clearW1c s a mask).mem = s.mem := by
  unfold clearW1c
  simp
@[simp] theorem clearW1c_pending (s : State) (a : Nat) (mask : Word) : (clearW1c s a mask).pending = s.pending := by
  unfold clearW1c
  simp

@[simp] theorem engCtl_wf (s : State) (r : Nat) (v : Word) (hwf : s.mem.wf = true)  : (engCtl s r v).mem.wf = true := by
  unfold engCtl
  simp (maxDischargeDepth := 60) +contextual [hwf, foldl_wf]
@[simp] theorem engCtl_pending (s : State) (r : Nat) (v : Word)  : (engCtl s r v).pending = s.pending := by
  unfold engCtl
  simp [foldl_pending]

@[simp] theorem rmWrite_wf (s : State) (r off : Nat) (v : Word) (hwf : s.mem.wf = true)  : (rmWrite s r off v).mem.wf = true := by
  unfold rmWrite
  split <;> simp [hwf]
@[simp] theorem rmWrite_pending (s : State) (r off : Nat) (v : Word)  : (rmWrite s r off v).pending = s.pending := by
  unfold rmWrite
  split <;> simp

end Machine
end Sys2Proof
end

