-- ==== Sys2Proof/Laws/KeptOperands.lean ====
section
/-! SUPPORT. What the functions of Machine/Operands.lean keep: the queue of commands, and the memories or their canonical form. -/

set_option linter.all false

namespace Sys2Proof
namespace Machine

@[simp] theorem onEngine_keeps (e : EngIx) (s : State) (f : Nat → Order → Engine → Result) (hf : ∀ x0 x1 x2, Keeps s (f x0 x1 x2)) : Keeps s (onEngine e s f) := by
  unfold onEngine
  first | (simp (maxDischargeDepth := 60) +contextual; done) | (simp (maxDischargeDepth := 60) +contextual [foldl_mem, foldl_wf, foldl_fst_mem, foldl_fst_wf, foldl_snd_mem, foldl_snd_wf, foldl_pending, foldl_fst_pending, foldl_snd_pending]; done) | ((repeat' (first | with_reducible apply keeps_go | with_reducible refine (foldl_pending _ (fun _ _ => ?_) _ _).trans ?_ | with_reducible refine foldl_wf _ (fun _ _ _ => ?_) _ _ ?_ | (split <;> (try (rename_i heq; have h1 := congrArg Prod.fst heq; have h2 := congrArg Prod.snd heq; dsimp only at h1 h2; clear heq; (try subst h1); (try subst h2)))) | dsimp only | intro _)) <;> (first | (simp (maxDischargeDepth := 60) +contextual [foldl_mem, foldl_wf, foldl_fst_mem, foldl_fst_wf, foldl_snd_mem, foldl_snd_wf, foldl_pending, foldl_fst_pending, foldl_snd_pending, *]; done) | simp_all (maxDischargeDepth := 60) +contextual [foldl_mem, foldl_wf, foldl_fst_mem, foldl_fst_wf, foldl_snd_mem, foldl_snd_wf, foldl_pending, foldl_fst_pending, foldl_snd_pending]))

@[simp] theorem setCore_mem (s : State) (e : EngIx) (c : Core) : (setCore s e c).mem = s.mem := by
  unfold setCore
  simp
@[simp] theorem setCore_pending (s : State) (e : EngIx) (c : Core) : (setCore s e c).pending = s.pending := by
  unfold setCore
  simp

@[simp] theorem alu_keeps (e : EngIx) (s : State) (f : Core → Core)  : Keeps s (alu e s f) := by
  unfold alu
  simp

@[simp] theorem aluX_keeps (e : EngIx) (s : State) (r : XReg) (f : Core → Word)  : Keeps s (aluX e s r f) := by
  unfold aluX
  simp

@[simp] theorem poisonWord_mem (s : State) (m w : Nat) : (poisonWord s m w).mem = s.mem := by
  unfold poisonWord
  simp
@[simp] theorem poisonWord_pending (s : State) (m w : Nat) : (poisonWord s m w).pending = s.pending := by
  unfold poisonWord
  simp

@[simp] theorem clearPoison_mem (s : State) (m : Nat) (ws : List Nat) : (clearPoison s m ws).mem = s.mem := by
  unfold clearPoison
  simp
@[simp] theorem clearPoison_pending (s : State) (m : Nat) (ws : List Nat) : (clearPoison s m ws).pending = s.pending := by
  unfold clearPoison
  simp

@[simp] theorem roomCE_mem (s : State) (r : Nat) : (roomCE s r).mem = s.mem := by
  unfold roomCE
  simp
@[simp] theorem roomCE_pending (s : State) (r : Nat) : (roomCE s r).pending = s.pending := by
  unfold roomCE
  simp

@[simp] theorem roomUE_mem (s : State) (r : Nat) : (roomUE s r).mem = s.mem := by
  unfold roomUE
  simp
@[simp] theorem roomUE_pending (s : State) (r : Nat) : (roomUE s r).pending = s.pending := by
  unfold roomUE
  simp

@[simp] theorem frameCE_mem (s : State) (r : Nat) : (frameCE s r).mem = s.mem := by
  unfold frameCE
  simp
@[simp] theorem frameCE_pending (s : State) (r : Nat) : (frameCE s r).pending = s.pending := by
  unfold frameCE
  simp

@[simp] theorem frameUE_mem (s : State) (r : Nat) : (frameUE s r).mem = s.mem := by
  unfold frameUE
  simp
@[simp] theorem frameUE_pending (s : State) (r : Nat) : (frameUE s r).pending = s.pending := by
  unfold frameUE
  simp

@[simp] theorem secondError_mem (s : State) (m w : Nat) : (secondError s m w).1.mem = s.mem := by
  unfold secondError
  simp
@[simp] theorem secondError_pending (s : State) (m w : Nat) : (secondError s m w).1.pending = s.pending := by
  unfold secondError
  simp

@[simp] theorem frameFails_wf (s : State) (o : Nat) (v : Order) (w : Nat) (hwf : s.mem.wf = true)  : (frameFails s o v w).mem.wf = true := by
  unfold frameFails
  simp [hwf]
@[simp] theorem frameFails_pending (s : State) (o : Nat) (v : Order) (w : Nat) : (frameFails s o v w).pending = s.pending := by
  unfold frameFails
  simp

@[simp] theorem partialRefused_mem (s : State) (src : Nat) : (partialRefused s src).mem = s.mem := by
  unfold partialRefused
  simp
@[simp] theorem partialRefused_pending (s : State) (src : Nat) : (partialRefused s src).pending = s.pending := by
  unfold partialRefused
  simp

@[simp] theorem frameRead_wf (s : State) (o : Nat) (v : Order) (a n : Nat) (ecc : Ecc) (hwf : s.mem.wf = true)  : (frameRead s o v a n ecc).1.mem.wf = true := by
  unfold frameRead
  split <;> simp [hwf]
@[simp] theorem frameRead_pending (s : State) (o : Nat) (v : Order) (a n : Nat) (ecc : Ecc) : (frameRead s o v a n ecc).1.pending = s.pending := by
  unfold frameRead
  split <;> simp

@[simp] theorem frameWriteFull_wf (s : State) (v : Order) (a n val : Nat) (hwf : s.mem.wf = true)  : (frameWriteFull s v a n val).mem.wf = true := by
  unfold frameWriteFull
  simp (maxDischargeDepth := 60) [hwf]
@[simp] theorem frameWriteFull_pending (s : State) (v : Order) (a n val : Nat)  : (frameWriteFull s v a n val).pending = s.pending := by
  unfold frameWriteFull
  simp

@[simp] theorem frameWritePart_wf (s : State) (o : Nat) (v : Order) (e : Nat) (a n val : Nat) (ecc : Ecc) (hwf : s.mem.wf = true)  : (frameWritePart s o v e a n val ecc).1.mem.wf = true := by
  unfold frameWritePart
  repeat' split
  all_goals simp (maxDischargeDepth := 60) [hwf]
@[simp] theorem frameWritePart_pending (s : State) (o : Nat) (v : Order) (e : Nat) (a n val : Nat) (ecc : Ecc) : (frameWritePart s o v e a n val ecc).1.pending = s.pending := by
  unfold frameWritePart
  split <;> simp

@[simp] theorem doorFault_wf (s : State) (e : Nat) (o : Nat) (v : Order) (addr kind : Nat) (write : Bool) (hwf : s.mem.wf = true)  : (doorFault s e o v addr kind write).mem.wf = true := by
  unfold doorFault
  simp [hwf]
@[simp] theorem doorFault_pending (s : State) (e : Nat) (o : Nat) (v : Order) (addr kind : Nat) (write : Bool)  : (doorFault s e o v addr kind write).pending = s.pending := by
  unfold doorFault
  simp

@[simp] theorem globalRead_mem (s : State) (v : Order) (a : Nat) : (globalRead s v a).2.mem = s.mem := by
  unfold globalRead
  repeat' split
  all_goals simp
@[simp] theorem globalRead_pending (s : State) (v : Order) (a : Nat) : (globalRead s v a).2.pending = s.pending := by
  unfold globalRead
  repeat' split
  all_goals simp

@[simp] theorem globalWrite_wf (s : State) (r : Nat) (area : Option BnIx) (a : Nat) (w : Word) (hwf : s.mem.wf = true)  : (globalWrite s r area a w).mem.wf = true := by
  unfold globalWrite
  repeat' split
  all_goals simp (maxDischargeDepth := 60) [hwf]
@[simp] theorem globalWrite_pending (s : State) (r : Nat) (area : Option BnIx) (a : Nat) (w : Word)  : (globalWrite s r area a w).pending = s.pending := by
  unfold globalWrite
  repeat' split
  all_goals simp

@[simp] theorem globalRead64_wf (s : State) (v : Order) (a n : Nat) (hwf : s.mem.wf = true) : (globalRead64 s v a n).2.mem.wf = true := by
  induction n with
  | zero => exact hwf
  | succ k ih => simp [globalRead64, ih]
@[simp] theorem globalRead64_pending (s : State) (v : Order) (a n : Nat) : (globalRead64 s v a n).2.pending = s.pending := by
  induction n with
  | zero => rfl
  | succ k ih => simp [globalRead64, ih]

end Machine
end Sys2Proof
end

