-- ==== Sys2Proof/Laws/KeptContract.lean ====
section
/-! SUPPORT. What the functions of Machine/Contract.lean keep: the queue of commands, and the memories or their canonical form. -/

set_option linter.all false

namespace Sys2Proof
namespace Machine

@[simp] theorem withArgs_keeps (s : State) (o : Nat) (v : Order) (second : Bool) (f : Result) (h : Keeps s f) :
    Keeps s (withArgs s o v second f) := by
  unfold withArgs
  repeat' split
  all_goals simp +contextual [h]

@[simp] theorem exitOutcome_wf (s : State) (o : Nat) (x : Word) (hwf : s.mem.wf = true)  : (exitOutcome s o x).mem.wf = true := by
  unfold exitOutcome
  simp [hwf]
@[simp] theorem exitOutcome_pending (s : State) (o : Nat) (x : Word) : (exitOutcome s o x).pending = s.pending := by
  unfold exitOutcome
  simp

@[simp] theorem exitWith_keeps (s : State) (o : Nat) (v : Order) (g : Engine) (st : Status) (w : Word)  : Keeps s (exitWith s o v g st w) := by
  unfold exitWith
  simp +contextual

end Machine
end Sys2Proof
end

