-- ==== Sys2Proof/Laws/KeptZyntan.lean ====
section
/-! SUPPORT. What the functions of Machine/Zyntan.lean keep: the queue of commands, and the memories or their canonical form. -/

set_option linter.all false

namespace Sys2Proof
namespace Machine

@[simp] theorem execNop_keeps (e : EngIx) (s : State)  : Keeps s (execNop e s) := by
  unfold execNop
  simp

@[simp] theorem execAdd_keeps (e : EngIx) (rd rs1 rs2 : XReg) (s : State)  : Keeps s (execAdd e rd rs1 rs2 s) := by
  unfold execAdd
  simp

@[simp] theorem execSub_keeps (e : EngIx) (rd rs1 rs2 : XReg) (s : State)  : Keeps s (execSub e rd rs1 rs2 s) := by
  unfold execSub
  simp

@[simp] theorem execAnd_keeps (e : EngIx) (rd rs1 rs2 : XReg) (s : State)  : Keeps s (execAnd e rd rs1 rs2 s) := by
  unfold execAnd
  simp

@[simp] theorem execOr_keeps (e : EngIx) (rd rs1 rs2 : XReg) (s : State)  : Keeps s (execOr e rd rs1 rs2 s) := by
  unfold execOr
  simp

@[simp] theorem execXor_keeps (e : EngIx) (rd rs1 rs2 : XReg) (s : State)  : Keeps s (execXor e rd rs1 rs2 s) := by
  unfold execXor
  simp

@[simp] theorem execAndn_keeps (e : EngIx) (rd rs1 rs2 : XReg) (s : State)  : Keeps s (execAndn e rd rs1 rs2 s) := by
  unfold execAndn
  simp

@[simp] theorem execSll_keeps (e : EngIx) (rd rs1 rs2 : XReg) (s : State)  : Keeps s (execSll e rd rs1 rs2 s) := by
  unfold execSll
  simp

@[simp] theorem execSrl_keeps (e : EngIx) (rd rs1 rs2 : XReg) (s : State)  : Keeps s (execSrl e rd rs1 rs2 s) := by
  unfold execSrl
  simp

@[simp] theorem execSra_keeps (e : EngIx) (rd rs1 rs2 : XReg) (s : State)  : Keeps s (execSra e rd rs1 rs2 s) := by
  unfold execSra
  simp

@[simp] theorem execRol_keeps (e : EngIx) (rd rs1 rs2 : XReg) (s : State)  : Keeps s (execRol e rd rs1 rs2 s) := by
  unfold execRol
  simp

@[simp] theorem execRor_keeps (e : EngIx) (rd rs1 rs2 : XReg) (s : State)  : Keeps s (execRor e rd rs1 rs2 s) := by
  unfold execRor
  simp

@[simp] theorem execSlt_keeps (e : EngIx) (rd rs1 rs2 : XReg) (s : State)  : Keeps s (execSlt e rd rs1 rs2 s) := by
  unfold execSlt
  simp

@[simp] theorem execSltu_keeps (e : EngIx) (rd rs1 rs2 : XReg) (s : State)  : Keeps s (execSltu e rd rs1 rs2 s) := by
  unfold execSltu
  simp

@[simp] theorem execMul_keeps (e : EngIx) (rd rs1 rs2 : XReg) (s : State)  : Keeps s (execMul e rd rs1 rs2 s) := by
  unfold execMul
  simp

@[simp] theorem execMulh_keeps (e : EngIx) (rd rs1 rs2 : XReg) (s : State)  : Keeps s (execMulh e rd rs1 rs2 s) := by
  unfold execMulh
  simp

@[simp] theorem execMulhu_keeps (e : EngIx) (rd rs1 rs2 : XReg) (s : State)  : Keeps s (execMulhu e rd rs1 rs2 s) := by
  unfold execMulhu
  simp

@[simp] theorem execDivu_keeps (e : EngIx) (rd rs1 rs2 : XReg) (s : State)  : Keeps s (execDivu e rd rs1 rs2 s) := by
  unfold execDivu
  simp

@[simp] theorem execRemu_keeps (e : EngIx) (rd rs1 rs2 : XReg) (s : State)  : Keeps s (execRemu e rd rs1 rs2 s) := by
  unfold execRemu
  simp

@[simp] theorem execSel_keeps (e : EngIx) (rd rs1 rs2 : XReg) (s : State)  : Keeps s (execSel e rd rs1 rs2 s) := by
  unfold execSel
  simp

@[simp] theorem execPopc_keeps (e : EngIx) (rd rs1 : XReg) (s : State)  : Keeps s (execPopc e rd rs1 s) := by
  unfold execPopc
  simp

@[simp] theorem execClz_keeps (e : EngIx) (rd rs1 : XReg) (s : State)  : Keeps s (execClz e rd rs1 s) := by
  unfold execClz
  simp

@[simp] theorem execBswap_keeps (e : EngIx) (rd rs1 : XReg) (s : State)  : Keeps s (execBswap e rd rs1 s) := by
  unfold execBswap
  simp

@[simp] theorem execAddi_keeps (e : EngIx) (rd rs1 : XReg) (imm : BitVec 16) (s : State)  : Keeps s (execAddi e rd rs1 imm s) := by
  unfold execAddi
  simp

@[simp] theorem execAndi_keeps (e : EngIx) (rd rs1 : XReg) (imm : BitVec 16) (s : State)  : Keeps s (execAndi e rd rs1 imm s) := by
  unfold execAndi
  simp

@[simp] theorem execOri_keeps (e : EngIx) (rd rs1 : XReg) (imm : BitVec 16) (s : State)  : Keeps s (execOri e rd rs1 imm s) := by
  unfold execOri
  simp

@[simp] theorem execXori_keeps (e : EngIx) (rd rs1 : XReg) (imm : BitVec 16) (s : State)  : Keeps s (execXori e rd rs1 imm s) := by
  unfold execXori
  simp

@[simp] theorem execShi_keeps (e : EngIx) (rd rs1 : XReg) (imm : BitVec 16) (s : State)  : Keeps s (execShi e rd rs1 imm s) := by
  unfold execShi
  simp

@[simp] theorem execMovz_keeps (e : EngIx) (rd : XReg) (hw : Fin 4) (imm : BitVec 16) (s : State)  : Keeps s (execMovz e rd hw imm s) := by
  unfold execMovz
  simp

@[simp] theorem execMovk_keeps (e : EngIx) (rd : XReg) (hw : Fin 4) (imm : BitVec 16) (s : State)  : Keeps s (execMovk e rd hw imm s) := by
  unfold execMovk
  simp

@[simp] theorem execLi32_keeps (e : EngIx) (rd : XReg) (imm : BitVec 32) (s : State)  : Keeps s (execLi32 e rd imm s) := by
  unfold execLi32
  simp

@[simp] theorem dmaSource_mem (s : State) (v : Order) (a n : Nat) : (dmaSource s v a n).2.mem = s.mem := by
  unfold dmaSource
  simp
@[simp] theorem dmaSource_pending (s : State) (v : Order) (a n : Nat) : (dmaSource s v a n).2.pending = s.pending := by
  unfold dmaSource
  simp

@[simp] theorem loadSees_mem (s : State) (v : Order) (a n x : Nat) : (loadSees s v a n x).2.mem = s.mem := by
  unfold loadSees
  exact foldl_snd_mem _ (fun _ _ => by simp) _ _
@[simp] theorem loadSees_pending (s : State) (v : Order) (a n x : Nat) : (loadSees s v a n x).2.pending = s.pending := by
  unfold loadSees
  exact foldl_snd_pending _ (fun _ _ => by simp) _ _

@[simp] theorem execLd_keeps (e : EngIx) (sz : Size) (rd rs1 : XReg) (imm : BitVec 16) (ecc : Ecc) (s : State)  : Keeps s (execLd e sz rd rs1 imm ecc s) := by
  unfold execLd
  first | (simp (maxDischargeDepth := 60) +contextual; done) | (simp (maxDischargeDepth := 60) +contextual [foldl_mem, foldl_wf, foldl_fst_mem, foldl_fst_wf, foldl_snd_mem, foldl_snd_wf, foldl_pending, foldl_fst_pending, foldl_snd_pending]; done) | ((repeat' (first | with_reducible apply managerWrite_keeps | with_reducible apply onEngine_keeps | with_reducible apply qcmd_wf | with_reducible apply qcmd_pending | with_reducible apply keeps_go | with_reducible refine (foldl_pending _ (fun _ _ => ?_) _ _).trans ?_ | with_reducible refine foldl_wf _ (fun _ _ _ => ?_) _ _ ?_ | (split <;> (try (rename_i heq; have h1 := congrArg Prod.fst heq; have h2 := congrArg Prod.snd heq; dsimp only at h1 h2; clear heq; (try subst h1); (try subst h2)))) | dsimp only | intro _)) <;> (first | (simp (maxDischargeDepth := 60) +contextual [foldl_mem, foldl_wf, foldl_fst_mem, foldl_fst_wf, foldl_snd_mem, foldl_snd_wf, foldl_pending, foldl_fst_pending, foldl_snd_pending, *]; done) | simp_all (maxDischargeDepth := 60) +contextual [foldl_mem, foldl_wf, foldl_fst_mem, foldl_fst_wf, foldl_snd_mem, foldl_snd_wf, foldl_pending, foldl_fst_pending, foldl_snd_pending]))

@[simp] theorem execSt_keeps (e : EngIx) (sz : Size) (rs rs1 : XReg) (imm : BitVec 16) (ecc : Ecc) (s : State)  : Keeps s (execSt e sz rs rs1 imm ecc s) := by
  unfold execSt
  first | (simp (maxDischargeDepth := 60) +contextual; done) | (simp (maxDischargeDepth := 60) +contextual [foldl_mem, foldl_wf, foldl_fst_mem, foldl_fst_wf, foldl_snd_mem, foldl_snd_wf, foldl_pending, foldl_fst_pending, foldl_snd_pending]; done) | ((repeat' (first | with_reducible apply managerWrite_keeps | with_reducible apply onEngine_keeps | with_reducible apply qcmd_wf | with_reducible apply qcmd_pending | with_reducible apply keeps_go | with_reducible refine (foldl_pending _ (fun _ _ => ?_) _ _).trans ?_ | with_reducible refine foldl_wf _ (fun _ _ _ => ?_) _ _ ?_ | (split <;> (try (rename_i heq; have h1 := congrArg Prod.fst heq; have h2 := congrArg Prod.snd heq; dsimp only at h1 h2; clear heq; (try subst h1); (try subst h2)))) | dsimp only | intro _)) <;> (first | (simp (maxDischargeDepth := 60) +contextual [foldl_mem, foldl_wf, foldl_fst_mem, foldl_fst_wf, foldl_snd_mem, foldl_snd_wf, foldl_pending, foldl_fst_pending, foldl_snd_pending, *]; done) | simp_all (maxDischargeDepth := 60) +contextual [foldl_mem, foldl_wf, foldl_fst_mem, foldl_fst_wf, foldl_snd_mem, foldl_snd_wf, foldl_pending, foldl_fst_pending, foldl_snd_pending]))

@[simp] theorem execLdq_keeps (e : EngIx) (bq : BReg) (rs1 : XReg) (imm : BitVec 16) (ecc : Ecc) (s : State)  : Keeps s (execLdq e bq rs1 imm ecc s) := by
  unfold execLdq
  first | (simp (maxDischargeDepth := 60) +contextual; done) | (simp (maxDischargeDepth := 60) +contextual [foldl_mem, foldl_wf, foldl_fst_mem, foldl_fst_wf, foldl_snd_mem, foldl_snd_wf, foldl_pending, foldl_fst_pending, foldl_snd_pending]; done) | ((repeat' (first | with_reducible apply managerWrite_keeps | with_reducible apply onEngine_keeps | with_reducible apply qcmd_wf | with_reducible apply qcmd_pending | with_reducible apply keeps_go | with_reducible refine (foldl_pending _ (fun _ _ => ?_) _ _).trans ?_ | with_reducible refine foldl_wf _ (fun _ _ _ => ?_) _ _ ?_ | (split <;> (try (rename_i heq; have h1 := congrArg Prod.fst heq; have h2 := congrArg Prod.snd heq; dsimp only at h1 h2; clear heq; (try subst h1); (try subst h2)))) | dsimp only | intro _)) <;> (first | (simp (maxDischargeDepth := 60) +contextual [foldl_mem, foldl_wf, foldl_fst_mem, foldl_fst_wf, foldl_snd_mem, foldl_snd_wf, foldl_pending, foldl_fst_pending, foldl_snd_pending, *]; done) | simp_all (maxDischargeDepth := 60) +contextual [foldl_mem, foldl_wf, foldl_fst_mem, foldl_fst_wf, foldl_snd_mem, foldl_snd_wf, foldl_pending, foldl_fst_pending, foldl_snd_pending]))

@[simp] theorem execLdl_keeps (e : EngIx) (m : Fin 4) (rs1 : XReg) (imm : BitVec 16) (ecc : Ecc) (s : State)  : Keeps s (execLdl e m rs1 imm ecc s) := by
  unfold execLdl
  first | (simp (maxDischargeDepth := 60) +contextual; done) | (simp (maxDischargeDepth := 60) +contextual [foldl_mem, foldl_wf, foldl_fst_mem, foldl_fst_wf, foldl_snd_mem, foldl_snd_wf, foldl_pending, foldl_fst_pending, foldl_snd_pending]; done) | ((repeat' (first | with_reducible apply managerWrite_keeps | with_reducible apply onEngine_keeps | with_reducible apply qcmd_wf | with_reducible apply qcmd_pending | with_reducible apply keeps_go | with_reducible refine (foldl_pending _ (fun _ _ => ?_) _ _).trans ?_ | with_reducible refine foldl_wf _ (fun _ _ _ => ?_) _ _ ?_ | (split <;> (try (rename_i heq; have h1 := congrArg Prod.fst heq; have h2 := congrArg Prod.snd heq; dsimp only at h1 h2; clear heq; (try subst h1); (try subst h2)))) | dsimp only | intro _)) <;> (first | (simp (maxDischargeDepth := 60) +contextual [foldl_mem, foldl_wf, foldl_fst_mem, foldl_fst_wf, foldl_snd_mem, foldl_snd_wf, foldl_pending, foldl_fst_pending, foldl_snd_pending, *]; done) | simp_all (maxDischargeDepth := 60) +contextual [foldl_mem, foldl_wf, foldl_fst_mem, foldl_fst_wf, foldl_snd_mem, foldl_snd_wf, foldl_pending, foldl_fst_pending, foldl_snd_pending]))

@[simp] theorem execLdg_keeps (e : EngIx) (rd rs1 : XReg) (imm : BitVec 16) (s : State)  : Keeps s (execLdg e rd rs1 imm s) := by
  unfold execLdg
  first | (simp (maxDischargeDepth := 60) +contextual; done) | (simp (maxDischargeDepth := 60) +contextual [foldl_mem, foldl_wf, foldl_fst_mem, foldl_fst_wf, foldl_snd_mem, foldl_snd_wf, foldl_pending, foldl_fst_pending, foldl_snd_pending]; done) | ((repeat' (first | with_reducible apply managerWrite_keeps | with_reducible apply onEngine_keeps | with_reducible apply qcmd_wf | with_reducible apply qcmd_pending | with_reducible apply keeps_go | with_reducible refine (foldl_pending _ (fun _ _ => ?_) _ _).trans ?_ | with_reducible refine foldl_wf _ (fun _ _ _ => ?_) _ _ ?_ | (split <;> (try (rename_i heq; have h1 := congrArg Prod.fst heq; have h2 := congrArg Prod.snd heq; dsimp only at h1 h2; clear heq; (try subst h1); (try subst h2)))) | dsimp only | intro _)) <;> (first | (simp (maxDischargeDepth := 60) +contextual [foldl_mem, foldl_wf, foldl_fst_mem, foldl_fst_wf, foldl_snd_mem, foldl_snd_wf, foldl_pending, foldl_fst_pending, foldl_snd_pending, *]; done) | simp_all (maxDischargeDepth := 60) +contextual [foldl_mem, foldl_wf, foldl_fst_mem, foldl_fst_wf, foldl_snd_mem, foldl_snd_wf, foldl_pending, foldl_fst_pending, foldl_snd_pending]))

@[simp] theorem execStg_keeps (e : EngIx) (rs rs1 : XReg) (imm : BitVec 16) (s : State)  : Keeps s (execStg e rs rs1 imm s) := by
  unfold execStg
  simp +contextual

@[simp] theorem execStgAcknowledged_keeps (e : EngIx) (s : State)  : Keeps s (execStgAcknowledged e s) := by
  unfold execStgAcknowledged
  dsimp only
  repeat' split
  all_goals simp (maxDischargeDepth := 60) +contextual

@[simp] theorem drainStg_wf (s : State) (e : EngIx) (hwf : s.mem.wf = true)  : (drainStg s e).mem.wf = true := by
  unfold drainStg
  simp (maxDischargeDepth := 60) +contextual [hwf, foldl_wf]
@[simp] theorem drainStg_pending (s : State) (e : EngIx)  : (drainStg s e).pending = s.pending := by
  unfold drainStg
  simp [foldl_pending]

@[simp] theorem execLdgl_keeps (e : EngIx) (m : Fin 4) (rs1 : XReg) (imm : BitVec 16) (s : State)  : Keeps s (execLdgl e m rs1 imm s) := by
  unfold execLdgl
  simp (maxDischargeDepth := 60) +contextual

@[simp] theorem dmaIssue_keeps (e : EngIx) (rf ra rl : XReg) (lmaxM1 : BitVec 10) (toFrame : Bool) (s : State) :
    Keeps s (dmaIssue e rf ra rl lmaxM1 toFrame s) := by
  unfold dmaIssue
  apply onEngine_keeps
  intro o v g
  dsimp only
  split
  · simp
  · split
    · simp +contextual
    · split
      · simp +contextual
      · simp

@[simp] theorem execDmaI_keeps (e : EngIx) (rf ra rl : XReg) (lmaxM1 : BitVec 10) (s : State)  : Keeps s (execDmaI e rf ra rl lmaxM1 s) := by
  unfold execDmaI
  simp

@[simp] theorem execDmaO_keeps (e : EngIx) (rf ra rl : XReg) (lmaxM1 : BitVec 10) (s : State)  : Keeps s (execDmaO e rf ra rl lmaxM1 s) := by
  unfold execDmaO
  simp

@[simp] theorem dmaSink_wf (s : State) (o : Nat) (v : Order) (a : Nat) (l : List Byte) (hwf : s.mem.wf = true)  : (dmaSink s o v a l).mem.wf = true := by
  unfold dmaSink
  simp (maxDischargeDepth := 60) [hwf]
@[simp] theorem dmaSink_pending (s : State) (o : Nat) (v : Order) (a : Nat) (l : List Byte)  : (dmaSink s o v a l).pending = s.pending := by
  unfold dmaSink
  simp

@[simp] theorem dmaRun_wf (s : State) (k o : Nat) (v : Order) (t : Dma) (rest : List Dma) (ecc : Ecc) (hwf : s.mem.wf = true)  : (dmaRun s k o v t rest ecc).mem.wf = true := by
  unfold dmaRun
  repeat' split
  all_goals simp (maxDischargeDepth := 60) [hwf]
@[simp] theorem dmaRun_pending (s : State) (k o : Nat) (v : Order) (t : Dma) (rest : List Dma) (ecc : Ecc)  : (dmaRun s k o v t rest ecc).pending = s.pending := by
  unfold dmaRun
  repeat' split
  all_goals simp

@[simp] theorem execDmaTransferDone_keeps (r : Room) (f : Fin 128) (ecc : Ecc) (s : State)  : Keeps s (execDmaTransferDone r f ecc s) := by
  unfold execDmaTransferDone
  dsimp only
  repeat' split
  all_goals simp (maxDischargeDepth := 60) +contextual

@[simp] theorem waitFor_keeps (s : State) (e : EngIx) (c : Core) (done : Bool)  : Keeps s (waitFor s e c done) := by
  unfold waitFor
  simp

@[simp] theorem execDmawait_keeps (e : EngIx) (s : State)  : Keeps s (execDmawait e s) := by
  unfold execDmawait
  simp

@[simp] theorem execFenceM_keeps (e : EngIx) (s : State)  : Keeps s (execFenceM e s) := by
  unfold execFenceM
  simp

@[simp] theorem execFenceD_keeps (e : EngIx) (s : State)  : Keeps s (execFenceD e s) := by
  unfold execFenceD
  simp

@[simp] theorem execTime_keeps (e : EngIx) (rd : XReg) (s : State)  : Keeps s (execTime e rd s) := by
  unfold execTime
  simp

@[simp] theorem execRunt_keeps (e : EngIx) (rd : XReg) (s : State)  : Keeps s (execRunt e rd s) := by
  unfold execRunt
  simp

@[simp] theorem execDln_keeps (e : EngIx) (rd : XReg) (s : State)  : Keeps s (execDln e rd s) := by
  unfold execDln
  simp

@[simp] theorem execLeft_keeps (e : EngIx) (rd : XReg) (s : State)  : Keeps s (execLeft e rd s) := by
  unfold execLeft
  simp

@[simp] theorem execDfr_keeps (e : EngIx) (rd rs1 : XReg) (s : State)  : Keeps s (execDfr e rd rs1 s) := by
  unfold execDfr
  simp

@[simp] theorem execDfw_keeps (e : EngIx) (rd rs1 : XReg) (target : DoorKind) (ix : Fin 16) (s : State)  : Keeps s (execDfw e rd rs1 target ix s) := by
  unfold execDfw
  simp

@[simp] theorem branchIf_keeps (e : EngIx) (s : State) (off : BitVec 16) (p : Core → Bool)  : Keeps s (branchIf e s off p) := by
  unfold branchIf
  simp

@[simp] theorem execBeq_keeps (e : EngIx) (rs1 rs2 : XReg) (off : BitVec 16) (s : State)  : Keeps s (execBeq e rs1 rs2 off s) := by
  unfold execBeq
  simp

@[simp] theorem execBne_keeps (e : EngIx) (rs1 rs2 : XReg) (off : BitVec 16) (s : State)  : Keeps s (execBne e rs1 rs2 off s) := by
  unfold execBne
  simp

@[simp] theorem execBlt_keeps (e : EngIx) (rs1 rs2 : XReg) (off : BitVec 16) (s : State)  : Keeps s (execBlt e rs1 rs2 off s) := by
  unfold execBlt
  simp

@[simp] theorem execBge_keeps (e : EngIx) (rs1 rs2 : XReg) (off : BitVec 16) (s : State)  : Keeps s (execBge e rs1 rs2 off s) := by
  unfold execBge
  simp

@[simp] theorem execBltu_keeps (e : EngIx) (rs1 rs2 : XReg) (off : BitVec 16) (s : State)  : Keeps s (execBltu e rs1 rs2 off s) := by
  unfold execBltu
  simp

@[simp] theorem execBgeu_keeps (e : EngIx) (rs1 rs2 : XReg) (off : BitVec 16) (s : State)  : Keeps s (execBgeu e rs1 rs2 off s) := by
  unfold execBgeu
  simp

@[simp] theorem execJ_keeps (e : EngIx) (target : BitVec 26) (s : State)  : Keeps s (execJ e target s) := by
  unfold execJ
  simp

@[simp] theorem execCall_keeps (e : EngIx) (target : BitVec 26) (s : State)  : Keeps s (execCall e target s) := by
  unfold execCall
  simp

@[simp] theorem execRet_keeps (e : EngIx) (s : State)  : Keeps s (execRet e s) := by
  unfold execRet
  first | (simp (maxDischargeDepth := 60) +contextual; done) | (simp (maxDischargeDepth := 60) +contextual [foldl_mem, foldl_wf, foldl_fst_mem, foldl_fst_wf, foldl_snd_mem, foldl_snd_wf, foldl_pending, foldl_fst_pending, foldl_snd_pending]; done) | ((repeat' (first | with_reducible apply managerWrite_keeps | with_reducible apply onEngine_keeps | with_reducible apply qcmd_wf | with_reducible apply qcmd_pending | with_reducible apply keeps_go | with_reducible refine (foldl_pending _ (fun _ _ => ?_) _ _).trans ?_ | with_reducible refine foldl_wf _ (fun _ _ _ => ?_) _ _ ?_ | (split <;> (try (rename_i heq; have h1 := congrArg Prod.fst heq; have h2 := congrArg Prod.snd heq; dsimp only at h1 h2; clear heq; (try subst h1); (try subst h2)))) | dsimp only | intro _)) <;> (first | (simp (maxDischargeDepth := 60) +contextual [foldl_mem, foldl_wf, foldl_fst_mem, foldl_fst_wf, foldl_snd_mem, foldl_snd_wf, foldl_pending, foldl_fst_pending, foldl_snd_pending, *]; done) | simp_all (maxDischargeDepth := 60) +contextual [foldl_mem, foldl_wf, foldl_fst_mem, foldl_fst_wf, foldl_snd_mem, foldl_snd_wf, foldl_pending, foldl_fst_pending, foldl_snd_pending]))

@[simp] theorem execLoop_keeps (e : EngIx) (rs : XReg) (bodyM1 : BitVec 12) (count : BitVec 16) (s : State)  : Keeps s (execLoop e rs bodyM1 count s) := by
  unfold execLoop
  simp

@[simp] theorem execExit_keeps (e : EngIx) (status : BitVec 16) (rs : XReg) (s : State)  : Keeps s (execExit e status rs s) := by
  unfold execExit
  split <;> simp +contextual

end Machine
end Sys2Proof
end

