-- ==== Sys2Proof/Laws/KeptCellar.lean ====
section
/-! SUPPORT. What the functions of Machine/Cellar.lean keep: the queue of commands, and the memories or their canonical form. -/

set_option linter.all false

namespace Sys2Proof
namespace Machine

@[simp] theorem setCache_mem (s : State) (n : Nat) (l : List CacheLine) : (setCache s n l).mem = s.mem := by
  unfold setCache
  simp
@[simp] theorem setCache_pending (s : State) (n : Nat) (l : List CacheLine) : (setCache s n l).pending = s.pending := by
  unfold setCache
  simp

@[simp] theorem cacheDrop_mem (s : State) (sl : Slice) (ix : Nat) : (cacheDrop s sl ix).mem = s.mem := by
  unfold cacheDrop
  simp
@[simp] theorem cacheDrop_pending (s : State) (sl : Slice) (ix : Nat) : (cacheDrop s sl ix).pending = s.pending := by
  unfold cacheDrop
  simp

@[simp] theorem cacheFill_mem (s : State) (sl : Slice) (ix : Nat) : (cacheFill s sl ix).mem = s.mem := by
  unfold cacheFill
  simp
@[simp] theorem cacheFill_pending (s : State) (sl : Slice) (ix : Nat) : (cacheFill s sl ix).pending = s.pending := by
  unfold cacheFill
  simp

@[simp] theorem cacheTouch_mem (s : State) (sl : Slice) (ix : Nat) : (cacheTouch s sl ix).mem = s.mem := by
  unfold cacheTouch
  simp
@[simp] theorem cacheTouch_pending (s : State) (sl : Slice) (ix : Nat) : (cacheTouch s sl ix).pending = s.pending := by
  unfold cacheTouch
  simp

@[simp] theorem integ_mem (s : State) (kind first scope : Nat) : (integ s kind first scope).mem = s.mem := by
  unfold integ
  simp
@[simp] theorem integ_pending (s : State) (kind first scope : Nat) : (integ s kind first scope).pending = s.pending := by
  unfold integ
  simp

@[simp] theorem rowCorrected_mem (s : State) (ix : Nat) : (rowCorrected s ix).mem = s.mem := by
  unfold rowCorrected
  simp
@[simp] theorem rowCorrected_pending (s : State) (ix : Nat) : (rowCorrected s ix).pending = s.pending := by
  unfold rowCorrected
  simp

@[simp] theorem rowUncorrectable_mem (s : State) (ix : Nat) : (rowUncorrectable s ix).mem = s.mem := by
  unfold rowUncorrectable
  simp
@[simp] theorem rowUncorrectable_pending (s : State) (ix : Nat) : (rowUncorrectable s ix).pending = s.pending := by
  unfold rowUncorrectable
  simp

@[simp] theorem markLost_mem (s : State) (ix : Nat) (r : Rec) : (markLost s ix r).mem = s.mem := by
  unfold markLost
  simp
@[simp] theorem markLost_pending (s : State) (ix : Nat) (r : Rec) : (markLost s ix r).pending = s.pending := by
  unfold markLost
  simp

@[simp] theorem poisonRec_mem (s : State) (p : Nat × Rec) : (poisonRec s p).mem = s.mem := by
  unfold poisonRec
  simp
@[simp] theorem poisonRec_pending (s : State) (p : Nat × Rec) : (poisonRec s p).pending = s.pending := by
  unfold poisonRec
  simp

@[simp] theorem poisonSpan_mem (s : State) (first n : Nat) : (poisonSpan s first n).mem = s.mem := by
  unfold poisonSpan
  simp [foldl_mem]
@[simp] theorem poisonSpan_pending (s : State) (first n : Nat) : (poisonSpan s first n).pending = s.pending := by
  unfold poisonSpan
  simp [foldl_pending]

@[simp] theorem nodeFails_mem (s : State) (first n : Nat) : (nodeFails s first n).mem = s.mem := by
  unfold nodeFails
  simp
@[simp] theorem nodeFails_pending (s : State) (first n : Nat) : (nodeFails s first n).pending = s.pending := by
  unfold nodeFails
  simp

@[simp] theorem cellarFill_mem (s : State) (sl : Slice) (ix : Nat) (r : CellarRead) : (cellarFill s sl ix r).mem = s.mem := by
  induction r generalizing s <;> simp_all [cellarFill]
@[simp] theorem cellarFill_pending (s : State) (sl : Slice) (ix : Nat) (r : CellarRead) :
    (cellarFill s sl ix r).pending = s.pending := by
  induction r generalizing s <;> simp_all [cellarFill]

@[simp] theorem cellarRead_mem (s : State) (sl : Slice) (ix : Nat) (read : CellarRead) : (cellarRead s sl ix read).mem = s.mem := by
  unfold cellarRead
  repeat' split
  all_goals simp
@[simp] theorem cellarRead_pending (s : State) (sl : Slice) (ix : Nat) (read : CellarRead) : (cellarRead s sl ix read).pending = s.pending := by
  unfold cellarRead
  repeat' split
  all_goals simp

@[simp] theorem bumpChild_mem (s : State) (level c : Nat) : (bumpChild s level c).mem = s.mem := by
  unfold bumpChild
  simp
@[simp] theorem bumpChild_pending (s : State) (level c : Nat) : (bumpChild s level c).pending = s.pending := by
  unfold bumpChild
  simp

@[simp] theorem bumpRoot_mem (s : State) (c : Nat) : (bumpRoot s c).mem = s.mem := by
  unfold bumpRoot
  simp
@[simp] theorem bumpRoot_pending (s : State) (c : Nat) : (bumpRoot s c).pending = s.pending := by
  unfold bumpRoot
  simp

@[simp] theorem bumpCounter_mem (s : State) (ix : Nat) : (bumpCounter s ix).mem = s.mem := by
  unfold bumpCounter
  simp
@[simp] theorem bumpCounter_pending (s : State) (ix : Nat) : (bumpCounter s ix).pending = s.pending := by
  unfold bumpCounter
  simp

@[simp] theorem execNodeReencryptionDone_keeps (level : Fin 4) (node : Nat) (s : State)  : Keeps s (execNodeReencryptionDone level node s) := by
  unfold execNodeReencryptionDone
  simp

@[simp] theorem journal_mem (s : State) (ix : Nat) : (journal s ix).mem = s.mem := by
  unfold journal
  simp
@[simp] theorem journal_pending (s : State) (ix : Nat) : (journal s ix).pending = s.pending := by
  unfold journal
  simp

@[simp] theorem journalOf_mem (s : State) (eph : Bool) (ix : Nat) : (journalOf s eph ix).mem = s.mem := by
  unfold journalOf
  simp
@[simp] theorem journalOf_pending (s : State) (eph : Bool) (ix : Nat) : (journalOf s eph ix).pending = s.pending := by
  unfold journalOf
  simp

@[simp] theorem journalRefused_mem (s : State) : (journalRefused s).mem = s.mem := by
  unfold journalRefused
  simp
@[simp] theorem journalRefused_pending (s : State) : (journalRefused s).pending = s.pending := by
  unfold journalRefused
  simp

@[simp] theorem setRun_mem (s : State) (ix n : Nat) (st : IxState) (gen : Nat) : (setRun s ix n st gen).mem = s.mem := by
  unfold setRun
  simp
@[simp] theorem setRun_pending (s : State) (ix n : Nat) (st : IxState) (gen : Nat) : (setRun s ix n st gen).pending = s.pending := by
  unfold setRun
  simp

@[simp] theorem putRec_mem (s : State) (ix : Nat) (r : Rec) : (putRec s ix r).mem = s.mem := by
  unfold putRec
  simp
@[simp] theorem putRec_pending (s : State) (ix : Nat) (r : Rec) : (putRec s ix r).pending = s.pending := by
  unfold putRec
  simp

@[simp] theorem completeChain_mem (s : State) (ix : Nat) : (completeChain s ix).mem = s.mem := by
  unfold completeChain
  split <;> simp
@[simp] theorem completeChain_pending (s : State) (ix : Nat) : (completeChain s ix).pending = s.pending := by
  unfold completeChain
  split <;> simp

@[simp] theorem writePart_mem (s : State) (sl : Slice) (t : Tmpl) (ix gen : Nat) (mat : Key256) (bornRun : Nat) : (writePart s sl t ix gen mat bornRun).mem = s.mem := by
  unfold writePart
  simp
@[simp] theorem writePart_pending (s : State) (sl : Slice) (t : Tmpl) (ix gen : Nat) (mat : Key256) (bornRun : Nat) : (writePart s sl t ix gen mat bornRun).pending = s.pending := by
  unfold writePart
  simp

@[simp] theorem createFirst_mem (s : State) (sl : Slice) (t : Tmpl) (mat : Key256) (pick : Nat) : (createFirst s sl t mat pick).1.mem = s.mem := by
  unfold createFirst
  dsimp only
  repeat' split
  all_goals simp
@[simp] theorem createFirst_pending (s : State) (sl : Slice) (t : Tmpl) (mat : Key256) (pick : Nat) : (createFirst s sl t mat pick).1.pending = s.pending := by
  unfold createFirst
  dsimp only
  repeat' split
  all_goals simp

@[simp] theorem keyStorePut_mem (s : State) (o : Origin) (sl : Slice) (t : Tmpl) (mat : Key256) (rd0 : CellarRead) (pick : Nat) : (keyStorePut s o sl t mat rd0 pick).1.mem = s.mem := by
  unfold keyStorePut
  dsimp only
  repeat' split
  all_goals simp
@[simp] theorem keyStorePut_pending (s : State) (o : Origin) (sl : Slice) (t : Tmpl) (mat : Key256) (rd0 : CellarRead) (pick : Nat) : (keyStorePut s o sl t mat rd0 pick).1.pending = s.pending := by
  unfold keyStorePut
  dsimp only
  repeat' split
  all_goals simp

@[simp] theorem createChain_wf (s : State) (o : Origin) (sl : Slice) (t : Tmpl) (mats : List Key256) (pick : Nat)
    (hwf : s.mem.wf = true) : (createChain s o sl t mats pick).1.mem.wf = true :=
  foldl_fst_wf _ (fun a p h => by dsimp only; split <;> simp [h]) _ _ hwf
@[simp] theorem createChain_pending (s : State) (o : Origin) (sl : Slice) (t : Tmpl) (mats : List Key256) (pick : Nat) :
    (createChain s o sl t mats pick).1.pending = s.pending :=
  foldl_fst_pending _ (fun a p => by dsimp only; split <;> simp) _ _

@[simp] theorem freeIndex_mem (s : State) (sl : Slice) (ix gen : Nat) : (freeIndex s sl ix gen).mem = s.mem := by
  unfold freeIndex
  simp
@[simp] theorem freeIndex_pending (s : State) (sl : Slice) (ix gen : Nat) : (freeIndex s sl ix gen).pending = s.pending := by
  unfold freeIndex
  simp

@[simp] theorem deleteChain_mem (s : State) (r : Rec) : (deleteChain s r).mem = s.mem := by
  unfold deleteChain
  simp [foldl_mem]
@[simp] theorem deleteChain_pending (s : State) (r : Rec) : (deleteChain s r).pending = s.pending := by
  unfold deleteChain
  simp [foldl_pending]

@[simp] theorem restrictPart_mem (clear : Byte) (s : State) (ix : Nat) : (restrictPart clear s ix).mem = s.mem := by
  unfold restrictPart
  split <;> simp
@[simp] theorem restrictPart_pending (clear : Byte) (s : State) (ix : Nat) : (restrictPart clear s ix).pending = s.pending := by
  unfold restrictPart
  split <;> simp

@[simp] theorem restrictChain_mem (s : State) (r : Rec) (clear : Byte) : (restrictChain s r clear).mem = s.mem :=
  foldl_mem _ (fun s x => restrictPart_mem _ s x) _ _
@[simp] theorem restrictChain_pending (s : State) (r : Rec) (clear : Byte) : (restrictChain s r clear).pending = s.pending :=
  foldl_pending _ (fun s x => restrictPart_pending _ s x) _ _

@[simp] theorem execChainExpiry_keeps (ix : Nat) (s : State)  : Keeps s (execChainExpiry ix s) := by
  unfold execChainExpiry
  split <;> simp +contextual

@[simp] theorem writeBackup_mem (s : State) (r : Rec) (k : Nat) (g : Group) : (writeBackup s r k g).mem = s.mem := by
  unfold writeBackup
  simp
@[simp] theorem writeBackup_pending (s : State) (r : Rec) (k : Nat) (g : Group) : (writeBackup s r k g).pending = s.pending := by
  unfold writeBackup
  simp

@[simp] theorem holdBackup_mem (s : State) (ix : Nat) : (holdBackup s ix).mem = s.mem := by
  unfold holdBackup
  simp
@[simp] theorem holdBackup_pending (s : State) (ix : Nat) : (holdBackup s ix).pending = s.pending := by
  unfold holdBackup
  simp

@[simp] theorem emitBackup_mem (s : State) (ix : Nat) : (emitBackup s ix).mem = s.mem := by
  unfold emitBackup
  repeat' split
  all_goals simp
@[simp] theorem emitBackup_pending (s : State) (ix : Nat) : (emitBackup s ix).pending = s.pending := by
  unfold emitBackup
  repeat' split
  all_goals simp

@[simp] theorem drainBackups_mem (s : State) : (drainBackups s).mem = s.mem := by
  unfold drainBackups
  simp [foldl_mem]
@[simp] theorem drainBackups_pending (s : State) : (drainBackups s).pending = s.pending := by
  unfold drainBackups
  simp [foldl_pending]

@[simp] theorem beginImage_mem (s : State) : (beginImage s).mem = s.mem := by
  unfold beginImage
  simp
@[simp] theorem beginImage_pending (s : State) : (beginImage s).pending = s.pending := by
  unfold beginImage
  simp

@[simp] theorem imageDue_mem (s : State) : (imageDue s).mem = s.mem := by
  unfold imageDue
  simp
@[simp] theorem imageDue_pending (s : State) : (imageDue s).pending = s.pending := by
  unfold imageDue
  simp

@[simp] theorem ksDone_mem (s : State) (st : Status) : (ksDone s st).mem = s.mem := by
  unfold ksDone
  simp
@[simp] theorem ksDone_pending (s : State) (st : Status) : (ksDone s st).pending = s.pending := by
  unfold ksDone
  simp

@[simp] theorem chainCmd_wf (s : State) (f : Rec → State) (hwf : s.mem.wf = true) (hf : ∀ x0, s.mem.wf = true → (f x0).mem.wf = true) : (chainCmd s f).mem.wf = true := by
  unfold chainCmd
  first | (simp (maxDischargeDepth := 60) [hwf]; done) | (simp (maxDischargeDepth := 60) +contextual [*, foldl_mem, foldl_wf, foldl_fst_mem, foldl_fst_wf, foldl_snd_mem, foldl_snd_wf]; done) | ((try simp (maxDischargeDepth := 60) [hwf, foldl_mem, foldl_wf, foldl_fst_mem, foldl_fst_wf, foldl_snd_mem, foldl_snd_wf]) <;> (repeat' (first | with_reducible refine foldl_wf _ (fun _ _ _ => ?_) _ _ ?_ | (split <;> (try (rename_i heq; have h1 := congrArg Prod.fst heq; have h2 := congrArg Prod.snd heq; dsimp only at h1 h2; clear heq; (try subst h1); (try subst h2)))) | dsimp only)) <;> simp_all (maxDischargeDepth := 60) +contextual [hwf, foldl_mem, foldl_wf, foldl_fst_mem, foldl_fst_wf, foldl_snd_mem, foldl_snd_wf])
@[simp] theorem chainCmd_pending (s : State) (f : Rec → State) (hg : ∀ x0, (f x0).pending = s.pending) : (chainCmd s f).pending = s.pending := by
  unfold chainCmd
  split <;> simp_all [foldl_pending]

@[simp] theorem ksAct_wf (s : State) (op sl : Nat) (clear : Byte) (hwf : s.mem.wf = true) : (ksAct s op sl clear).mem.wf = true := by
  unfold ksAct
  split
  · exact chainCmd_wf _ _ hwf fun r h => by simp [h]
  · simp [foldl_mem, hwf]
  · exact chainCmd_wf _ _ hwf fun r h => by simp [h]
  · split <;> simp [hwf]
  · simp [hwf]
  · simp [hwf]
@[simp] theorem ksAct_pending (s : State) (op sl : Nat) (clear : Byte) : (ksAct s op sl clear).pending = s.pending := by
  unfold ksAct
  split
  · exact chainCmd_pending _ _ fun r => by simp
  · simp [foldl_pending]
  · exact chainCmd_pending _ _ fun r => by simp
  · split <;> simp
  · simp
  · simp

@[simp] theorem ksCommand_wf (s : State) (op : Nat) (sl : Slice) (clear : Byte) (hwf : s.mem.wf = true)  : (ksCommand s op sl clear).mem.wf = true := by
  unfold ksCommand
  simp [hwf]
@[simp] theorem ksCommand_pending (s : State) (op : Nat) (sl : Slice) (clear : Byte)  : (ksCommand s op sl clear).pending = s.pending := by
  unfold ksCommand
  simp

@[simp] theorem ksResume_wf (s : State) (hwf : s.mem.wf = true)  : (ksResume s).mem.wf = true := by
  unfold ksResume
  split <;> simp [hwf]
@[simp] theorem ksResume_pending (s : State)  : (ksResume s).pending = s.pending := by
  unfold ksResume
  split <;> simp

@[simp] theorem execKsDelete_keeps (s : State)  : Keeps s (execKsDelete s) := by
  unfold execKsDelete
  simp +contextual

@[simp] theorem execKsPurge_keeps (sl : Slice) (s : State)  : Keeps s (execKsPurge sl s) := by
  unfold execKsPurge
  simp +contextual

@[simp] theorem execKsRestrict_keeps (clear : Byte) (s : State)  : Keeps s (execKsRestrict clear s) := by
  unfold execKsRestrict
  simp +contextual

@[simp] theorem execKsNewImage_keeps (s : State)  : Keeps s (execKsNewImage s) := by
  unfold execKsNewImage
  simp +contextual

@[simp] theorem genBaseCmd_mem (s : State) (val : Word) : (genBaseCmd s val).mem = s.mem := by
  unfold genBaseCmd
  simp
@[simp] theorem genBaseCmd_pending (s : State) (val : Word) : (genBaseCmd s val).pending = s.pending := by
  unfold genBaseCmd
  simp

@[simp] theorem execGenBaseWrite_keeps (val : Word) (s : State)  : Keeps s (execGenBaseWrite val s) := by
  unfold execGenBaseWrite
  simp

@[simp] theorem waysCmd_mem (s : State) (sl : Nat) (val : Word) : (waysCmd s sl val).mem = s.mem := by
  unfold waysCmd
  simp
@[simp] theorem waysCmd_pending (s : State) (sl : Nat) (val : Word) : (waysCmd s sl val).pending = s.pending := by
  unfold waysCmd
  simp

@[simp] theorem execWaysWrite_keeps (sl : Slice) (val : Word) (s : State)  : Keeps s (execWaysWrite sl val s) := by
  unfold execWaysWrite
  simp

@[simp] theorem programPage_mem (s : State) : (programPage s).mem = s.mem := by
  unfold programPage
  simp [foldl_mem]
@[simp] theorem programPage_pending (s : State) : (programPage s).pending = s.pending := by
  unfold programPage
  simp [foldl_pending]

@[simp] theorem execJournalProgram_keeps (s : State)  : Keeps s (execJournalProgram s) := by
  unfold execJournalProgram
  simp +contextual

@[simp] theorem programAll_mem (s : State) (n : Nat) : (programAll s n).mem = s.mem := by
  induction n generalizing s with
  | zero => rfl
  | succ k ih => unfold programAll; split <;> simp [ih]
@[simp] theorem programAll_pending (s : State) (n : Nat) : (programAll s n).pending = s.pending := by
  induction n generalizing s with
  | zero => rfl
  | succ k ih => unfold programAll; split <;> simp [ih]

@[simp] theorem execImageComplete_keeps (s : State)  : Keeps s (execImageComplete s) := by
  unfold execImageComplete
  split <;> simp +contextual

@[simp] theorem restoreRec_mem (s : State) (ix : Nat) : (restoreRec s ix).mem = s.mem := by
  unfold restoreRec
  split <;> simp
@[simp] theorem restoreRec_pending (s : State) (ix : Nat) : (restoreRec s ix).pending = s.pending := by
  unfold restoreRec
  split <;> simp

@[simp] theorem settleWide_mem (s : State) : (settleWide s).mem = s.mem := by
  unfold settleWide
  simp
@[simp] theorem settleWide_pending (s : State) : (settleWide s).pending = s.pending := by
  unfold settleWide
  simp

@[simp] theorem execRecordRestore_keeps (block : Nat) (s : State)  : Keeps s (execRecordRestore block s) := by
  unfold execRecordRestore
  dsimp only
  repeat' split
  all_goals simp (maxDischargeDepth := 60) +contextual [foldl_wf, foldl_pending, *]

@[simp] theorem execCellarRestoreDone_keeps (i : RestoreIn) (s : State)  : Keeps s (execCellarRestoreDone i s) := by
  unfold execCellarRestoreDone
  dsimp only
  repeat' split
  all_goals simp (maxDischargeDepth := 60) +contextual [foldl_wf, foldl_pending, *]

end Machine
end Sys2Proof
end

