-- ==== Sys2Proof/Laws/KeptCrypto.lean ====
section
/-! SUPPORT. What the functions of Machine/Crypto.lean keep: the queue of commands, and the memories or their canonical form. -/

set_option linter.all false

namespace Sys2Proof
namespace Machine

@[simp] theorem keyChecks_mem (s : State) (h : Word) (use part : Nat) (rd0 rdP : CellarRead) : (keyChecks s h use part rd0 rdP).1.mem = s.mem := by
  unfold keyChecks
  dsimp only
  repeat' split
  all_goals simp
@[simp] theorem keyChecks_pending (s : State) (h : Word) (use part : Nat) (rd0 rdP : CellarRead) : (keyChecks s h use part rd0 rdP).1.pending = s.pending := by
  unfold keyChecks
  dsimp only
  repeat' split
  all_goals simp

@[simp] theorem execKeyload_keeps (e : EngIx) (kd : KReg) (rs : XReg) (use : Fin 8) (part : PartSel) (rd0 rdP : CellarRead) (s : State)  : Keeps s (execKeyload e kd rs use part rd0 rdP s) := by
  unfold execKeyload
  first | (simp (maxDischargeDepth := 60) +contextual; done) | (simp (maxDischargeDepth := 60) +contextual [foldl_mem, foldl_wf, foldl_fst_mem, foldl_fst_wf, foldl_snd_mem, foldl_snd_wf, foldl_pending, foldl_fst_pending, foldl_snd_pending]; done) | ((repeat' (first | with_reducible apply managerWrite_keeps | with_reducible apply onEngine_keeps | with_reducible apply qcmd_wf | with_reducible apply qcmd_pending | with_reducible apply chainCmd_wf | with_reducible apply chainCmd_pending | with_reducible apply keeps_go | with_reducible refine (foldl_pending _ (fun _ _ => ?_) _ _).trans ?_ | with_reducible refine foldl_wf _ (fun _ _ _ => ?_) _ _ ?_ | (split <;> (try (rename_i heq; have h1 := congrArg Prod.fst heq; have h2 := congrArg Prod.snd heq; dsimp only at h1 h2; clear heq; (try subst h1); (try subst h2)))) | dsimp only | intro _)) <;> (first | (simp (maxDischargeDepth := 60) +contextual [foldl_mem, foldl_wf, foldl_fst_mem, foldl_fst_wf, foldl_snd_mem, foldl_snd_wf, foldl_pending, foldl_fst_pending, foldl_snd_pending, *]; done) | simp_all (maxDischargeDepth := 60) +contextual [foldl_mem, foldl_wf, foldl_fst_mem, foldl_fst_wf, foldl_snd_mem, foldl_snd_wf, foldl_pending, foldl_fst_pending, foldl_snd_pending]))

@[simp] theorem execKeyclr_keeps (e : EngIx) (k : KReg) (s : State)  : Keeps s (execKeyclr e k s) := by
  unfold execKeyclr
  simp

@[simp] theorem execKeyinfo_keeps (e : EngIx) (rd : XReg) (k : KReg) (s : State)  : Keeps s (execKeyinfo e rd k s) := by
  unfold execKeyinfo
  simp

@[simp] theorem execKeyput_keeps (e : EngIx) (rd rs : XReg) (j : KReg) (rd0 : CellarRead) (pick : Nat) (s : State)  : Keeps s (execKeyput e rd rs j rd0 pick s) := by
  unfold execKeyput
  first | (simp (maxDischargeDepth := 60) +contextual; done) | (simp (maxDischargeDepth := 60) +contextual [foldl_mem, foldl_wf, foldl_fst_mem, foldl_fst_wf, foldl_snd_mem, foldl_snd_wf, foldl_pending, foldl_fst_pending, foldl_snd_pending]; done) | ((repeat' (first | with_reducible apply managerWrite_keeps | with_reducible apply onEngine_keeps | with_reducible apply qcmd_wf | with_reducible apply qcmd_pending | with_reducible apply chainCmd_wf | with_reducible apply chainCmd_pending | with_reducible apply keeps_go | with_reducible refine (foldl_pending _ (fun _ _ => ?_) _ _).trans ?_ | with_reducible refine foldl_wf _ (fun _ _ _ => ?_) _ _ ?_ | (split <;> (try (rename_i heq; have h1 := congrArg Prod.fst heq; have h2 := congrArg Prod.snd heq; dsimp only at h1 h2; clear heq; (try subst h1); (try subst h2)))) | dsimp only | intro _)) <;> (first | (simp (maxDischargeDepth := 60) +contextual [foldl_mem, foldl_wf, foldl_fst_mem, foldl_fst_wf, foldl_snd_mem, foldl_snd_wf, foldl_pending, foldl_fst_pending, foldl_snd_pending, *]; done) | simp_all (maxDischargeDepth := 60) +contextual [foldl_mem, foldl_wf, foldl_fst_mem, foldl_fst_wf, foldl_snd_mem, foldl_snd_wf, foldl_pending, foldl_fst_pending, foldl_snd_pending]))

@[simp] theorem dropBits_mem (s : State) (r d n : Nat) : (dropBits s r d n).mem = s.mem := by
  unfold dropBits
  simp
@[simp] theorem dropBits_pending (s : State) (r d n : Nat) : (dropBits s r d n).pending = s.pending := by
  unfold dropBits
  simp

@[simp] theorem aesCount_mem (s : State) (e n key : Nat) : (aesCount s e n key).mem = s.mem := by
  unfold aesCount
  split <;> simp
@[simp] theorem aesCount_pending (s : State) (e n key : Nat) : (aesCount s e n key).pending = s.pending := by
  unfold aesCount
  split <;> simp

@[simp] theorem execHearth_keeps (e : EngIx) (rd rc : XReg) (s : State)  : Keeps s (execHearth e rd rc s) := by
  unfold execHearth
  simp

@[simp] theorem aesOp_keeps (e : EngIx) (bd bs : BReg) (src : AesKey) (s0 q inv : Bool) (s : State)  : Keeps s (aesOp e bd bs src s0 q inv s) := by
  unfold aesOp
  (repeat' (first | with_reducible apply managerWrite_keeps | with_reducible apply onEngine_keeps | with_reducible apply qcmd_wf | with_reducible apply qcmd_pending | with_reducible apply chainCmd_wf | with_reducible apply chainCmd_pending | with_reducible apply keeps_go | with_reducible refine (foldl_pending _ (fun _ _ => ?_) _ _).trans ?_ | with_reducible refine foldl_wf _ (fun _ _ _ => ?_) _ _ ?_ | (split <;> (try (rename_i heq; have h1 := congrArg Prod.fst heq; have h2 := congrArg Prod.snd heq; dsimp only at h1 h2; clear heq; (try subst h1); (try subst h2)))) | dsimp only | intro _)) <;> (first | (simp (maxDischargeDepth := 60) +contextual [foldl_mem, foldl_wf, foldl_fst_mem, foldl_fst_wf, foldl_snd_mem, foldl_snd_wf, foldl_pending, foldl_fst_pending, foldl_snd_pending, *]; done) | simp_all (maxDischargeDepth := 60) +contextual [foldl_mem, foldl_wf, foldl_fst_mem, foldl_fst_wf, foldl_snd_mem, foldl_snd_wf, foldl_pending, foldl_fst_pending, foldl_snd_pending])

@[simp] theorem execAesE_keeps (e : EngIx) (bd bs : BReg) (key : AesKey) (s0 q : Bool) (s : State)  : Keeps s (execAesE e bd bs key s0 q s) := by
  unfold execAesE
  simp

@[simp] theorem execAesD_keeps (e : EngIx) (bd bs : BReg) (key : AesKey) (s0 q : Bool) (s : State)  : Keeps s (execAesD e bd bs key s0 q s) := by
  unfold execAesD
  simp

@[simp] theorem execAesKd_keeps (e : EngIx) (bd bs : BReg) (kk : KReg) (w : Fin 4) (ks : KReg) (_s0 : Bool) (s : State)  : Keeps s (execAesKd e bd bs kk w ks _s0 s) := by
  unfold execAesKd
  (repeat' (first | with_reducible apply managerWrite_keeps | with_reducible apply onEngine_keeps | with_reducible apply qcmd_wf | with_reducible apply qcmd_pending | with_reducible apply chainCmd_wf | with_reducible apply chainCmd_pending | with_reducible apply keeps_go | with_reducible refine (foldl_pending _ (fun _ _ => ?_) _ _).trans ?_ | with_reducible refine foldl_wf _ (fun _ _ _ => ?_) _ _ ?_ | (split <;> (try (rename_i heq; have h1 := congrArg Prod.fst heq; have h2 := congrArg Prod.snd heq; dsimp only at h1 h2; clear heq; (try subst h1); (try subst h2)))) | dsimp only | intro _)) <;> (first | (simp (maxDischargeDepth := 60) +contextual [foldl_mem, foldl_wf, foldl_fst_mem, foldl_fst_wf, foldl_snd_mem, foldl_snd_wf, foldl_pending, foldl_fst_pending, foldl_snd_pending, *]; done) | simp_all (maxDischargeDepth := 60) +contextual [foldl_mem, foldl_wf, foldl_fst_mem, foldl_fst_wf, foldl_snd_mem, foldl_snd_wf, foldl_pending, foldl_fst_pending, foldl_snd_pending])

@[simp] theorem blockOp_keeps (e : EngIx) (bd : BReg) (reads : List BReg) (s : State) (f : Core → Block)  : Keeps s (blockOp e bd reads s f) := by
  unfold blockOp
  simp

@[simp] theorem execGhmul_keeps (e : EngIx) (bd bs1 bs2 : BReg) (s : State)  : Keeps s (execGhmul e bd bs1 bs2 s) := by
  unfold execGhmul
  simp

@[simp] theorem execGhacc_keeps (e : EngIx) (bd bs1 bs2 : BReg) (s : State)  : Keeps s (execGhacc e bd bs1 bs2 s) := by
  unfold execGhacc
  simp

@[simp] theorem execPvmul_keeps (e : EngIx) (bd bs1 bs2 : BReg) (s : State)  : Keeps s (execPvmul e bd bs1 bs2 s) := by
  unfold execPvmul
  simp

@[simp] theorem execXtsdbl_keeps (e : EngIx) (bd bs1 : BReg) (s : State)  : Keeps s (execXtsdbl e bd bs1 s) := by
  unfold execXtsdbl
  simp

@[simp] theorem quadOp_keeps (e : EngIx) (bd : BReg) (reads : List BReg) (q : Bool) (s : State) (f : Core → Nat → Block) (sl : Core → Nat → Bool)  : Keeps s (quadOp e bd reads q s f sl) := by
  unfold quadOp
  simp

@[simp] theorem execBxor_keeps (e : EngIx) (bd bs1 bs2 : BReg) (q : Bool) (s : State)  : Keeps s (execBxor e bd bs1 bs2 q s) := by
  unfold execBxor
  simp

@[simp] theorem execBand_keeps (e : EngIx) (bd bs1 bs2 : BReg) (q : Bool) (s : State)  : Keeps s (execBand e bd bs1 bs2 q s) := by
  unfold execBand
  simp

@[simp] theorem execBmov_keeps (e : EngIx) (bd bs1 : BReg) (q : Bool) (s : State)  : Keeps s (execBmov e bd bs1 q s) := by
  unfold execBmov
  simp

@[simp] theorem execBzero_keeps (e : EngIx) (bd : BReg) (q : Bool) (s : State)  : Keeps s (execBzero e bd q s) := by
  unfold execBzero
  simp

@[simp] theorem execBinc32_keeps (e : EngIx) (bd bs1 : BReg) (imm : BitVec 9) (s : State)  : Keeps s (execBinc32 e bd bs1 imm s) := by
  unfold execBinc32
  simp

@[simp] theorem execBctr4_keeps (e : EngIx) (bd bs1 : BReg) (s : State)  : Keeps s (execBctr4 e bd bs1 s) := by
  unfold execBctr4
  simp

@[simp] theorem execBmrg_keeps (e : EngIx) (bd bs1 bs2 : BReg) (s : State)  : Keeps s (execBmrg e bd bs1 bs2 s) := by
  unfold execBmrg
  simp

@[simp] theorem execBrev_keeps (e : EngIx) (bd bs1 : BReg) (q : Bool) (s : State)  : Keeps s (execBrev e bd bs1 q s) := by
  unfold execBrev
  simp

@[simp] theorem execBseal_keeps (e : EngIx) (bd bs1 : BReg) (q : Bool) (s : State)  : Keeps s (execBseal e bd bs1 q s) := by
  unfold execBseal
  simp

@[simp] theorem execBinc128_keeps (e : EngIx) (bd bs1 : BReg) (imm : BitVec 9) (s : State)  : Keeps s (execBinc128 e bd bs1 imm s) := by
  unfold execBinc128
  simp

@[simp] theorem execBinc32l_keeps (e : EngIx) (bd bs1 : BReg) (imm : BitVec 9) (s : State)  : Keeps s (execBinc32l e bd bs1 imm s) := by
  unfold execBinc32l
  simp

@[simp] theorem execBget_keeps (e : EngIx) (x : XReg) (ba : BReg) (h : Bool) (s : State)  : Keeps s (execBget e x ba h s) := by
  unfold execBget
  simp +contextual

@[simp] theorem execBput_keeps (e : EngIx) (x : XReg) (ba : BReg) (h : Bool) (s : State)  : Keeps s (execBput e x ba h s) := by
  unfold execBput
  simp

@[simp] theorem execBceq_keeps (e : EngIx) (x : XReg) (ba bb : BReg) (s : State)  : Keeps s (execBceq e x ba bb s) := by
  unfold execBceq
  simp

@[simp] theorem execBceqh_keeps (e : EngIx) (x : XReg) (ba bb : BReg) (h : Bool) (s : State)  : Keeps s (execBceqh e x ba bb h s) := by
  unfold execBceqh
  simp

@[simp] theorem execStq_keeps (e : EngIx) (bq : BReg) (rs1 : XReg) (imm : BitVec 16) (s : State)  : Keeps s (execStq e bq rs1 imm s) := by
  unfold execStq
  simp +contextual

@[simp] theorem execStl_keeps (e : EngIx) (m : Fin 4) (rs1 : XReg) (imm : BitVec 16) (s : State)  : Keeps s (execStl e m rs1 imm s) := by
  unfold execStl
  simp +contextual

@[simp] theorem storedBlock_mem (c : Core) (m : Fin 4) (a : Nat × State) (i : Nat) : (storedBlock c m a i).2.mem = a.2.mem := by
  unfold storedBlock
  split <;> simp
@[simp] theorem storedBlock_pending (c : Core) (m : Fin 4) (a : Nat × State) (i : Nat) :
    (storedBlock c m a i).2.pending = a.2.pending := by
  unfold storedBlock
  split <;> simp

@[simp] theorem execStgl_keeps (e : EngIx) (m : Fin 4) (rs1 : XReg) (imm : BitVec 16) (s : State) :
    Keeps s (execStgl e m rs1 imm s) := by
  unfold execStgl
  apply onEngine_keeps
  intro o v g
  dsimp only
  split
  · refine ⟨fun h => ?_, by simp [foldl_pending, foldl_snd_pending]⟩
    rw [setCore_mem]
    exact foldl_wf _ (fun s x hs => globalWrite_wf _ _ _ _ _ hs) _ _ (by simp [foldl_snd_mem, h])
  · simp +contextual

@[simp] theorem ringWrite_wf (s : State) (v : Order) (a n x : Nat) (hwf : s.mem.wf = true) : (ringWrite s v a n x).mem.wf = true := by
  have h : (clearPoison s 0 ((ringWords a n).map fun w => 128 * frameOf v + w)).mem.wf = true := by simp [hwf]
  refine wf_setWin _ h (foldl_twf _ (fun t p ht => twf_tstore _ _ _ ht) _ _ (twf_win h))
@[simp] theorem ringWrite_pending (s : State) (v : Order) (a n x : Nat) : (ringWrite s v a n x).pending = s.pending := by
  simp [ringWrite]

@[simp] theorem execHinit_keeps (e : EngIx) (rs : XReg) (alg : HashAlg) (s : State)  : Keeps s (execHinit e rs alg s) := by
  unfold execHinit
  simp +contextual

@[simp] theorem hashStep_keeps (e : EngIx) (rs : XReg) (alg : HashAlg) (ecc : Ecc) (s : State) (o : Nat) (v : Order) (g : Engine) (blk : Option Nat) (f : Nat → Nat → Nat)  : Keeps s (hashStep e rs alg ecc s o v g blk f) := by
  unfold hashStep
  dsimp only
  repeat' split
  all_goals simp (maxDischargeDepth := 60) +contextual

@[simp] theorem execHabs_keeps (e : EngIx) (rs rb : XReg) (alg : HashAlg) (ecc : Ecc) (s : State)  : Keeps s (execHabs e rs rb alg ecc s) := by
  unfold execHabs
  simp

@[simp] theorem execHkey_keeps (e : EngIx) (rs : XReg) (alg : HashAlg) (k : KReg) (pad : Bool) (ecc : Ecc) (s : State)  : Keeps s (execHkey e rs alg k pad ecc s) := by
  unfold execHkey
  simp +contextual

@[simp] theorem execHperm_keeps (e : EngIx) (rs : XReg) (alg : HashAlg) (ecc : Ecc) (s : State)  : Keeps s (execHperm e rs alg ecc s) := by
  unfold execHperm
  simp

end Machine
end Sys2Proof
end

