-- ==== Sys2Proof/Laws/KeptHearth.lean ====
section
/-! SUPPORT. What the functions of Machine/Hearth.lean keep: the queue of commands, and the memories or their canonical form. -/

set_option linter.all false

namespace Sys2Proof
namespace Machine

@[simp] theorem setHsrc_mem (s : State) (r : Nat) (v : Hsrc) : (setHsrc s r v).mem = s.mem := by
  unfold setHsrc
  simp
@[simp] theorem setHsrc_pending (s : State) (r : Nat) (v : Hsrc) : (setHsrc s r v).pending = s.pending := by
  unfold setHsrc
  simp

@[simp] theorem discardBits_mem (s : State) (r : Nat) : (discardBits s r).mem = s.mem := by
  unfold discardBits
  simp
@[simp] theorem discardBits_pending (s : State) (r : Nat) : (discardBits s r).pending = s.pending := by
  unfold discardBits
  simp

@[simp] theorem countFailure_mem (s : State) (r code : Nat) : (countFailure s r code).mem = s.mem := by
  unfold countFailure
  simp
@[simp] theorem countFailure_pending (s : State) (r code : Nat) : (countFailure s r code).pending = s.pending := by
  unfold countFailure
  simp

@[simp] theorem leaveService_mem (s : State) (r code : Nat) : (leaveService s r code).mem = s.mem := by
  unfold leaveService
  simp
@[simp] theorem leaveService_pending (s : State) (r code : Nat) : (leaveService s r code).pending = s.pending := by
  unfold leaveService
  simp

@[simp] theorem failSource_mem (s : State) (r code : Nat) : (failSource s r code).mem = s.mem := by
  unfold failSource
  simp
@[simp] theorem failSource_pending (s : State) (r code : Nat) : (failSource s r code).pending = s.pending := by
  unfold failSource
  simp

@[simp] theorem healthFail_mem (s : State) (r code : Nat) : (healthFail s r code).mem = s.mem := by
  unfold healthFail
  simp
@[simp] theorem healthFail_pending (s : State) (r code : Nat) : (healthFail s r code).pending = s.pending := by
  unfold healthFail
  simp

@[simp] theorem execHealthTestFail_keeps (r : Room) (code : TestCode) (s : State)  : Keeps s (execHealthTestFail r code s) := by
  unfold execHealthTestFail
  simp

@[simp] theorem sourceOut_mem (s : State) (r : Nat) : (sourceOut s r).mem = s.mem := by
  unfold sourceOut
  simp
@[simp] theorem sourceOut_pending (s : State) (r : Nat) : (sourceOut s r).pending = s.pending := by
  unfold sourceOut
  simp

@[simp] theorem execSourceTakeOut_keeps (r : Room) (s : State)  : Keeps s (execSourceTakeOut r s) := by
  unfold execSourceTakeOut
  simp

@[simp] theorem sourceReturn_mem (s : State) (r : Nat) : (sourceReturn s r).mem = s.mem := by
  unfold sourceReturn
  simp
@[simp] theorem sourceReturn_pending (s : State) (r : Nat) : (sourceReturn s r).pending = s.pending := by
  unfold sourceReturn
  simp

@[simp] theorem execSourceReturn_keeps (r : Room) (s : State)  : Keeps s (execSourceReturn r s) := by
  unfold execSourceReturn
  simp

@[simp] theorem serve_mem (s : State) (r : Nat) (h : Hsrc) : (serve s r h).mem = s.mem := by
  unfold serve
  simp
@[simp] theorem serve_pending (s : State) (r : Nat) (h : Hsrc) : (serve s r h).pending = s.pending := by
  unfold serve
  simp

@[simp] theorem retestDone_mem (s : State) (r fail : Nat) : (retestDone s r fail).mem = s.mem := by
  unfold retestDone
  simp
@[simp] theorem retestDone_pending (s : State) (r fail : Nat) : (retestDone s r fail).pending = s.pending := by
  unfold retestDone
  simp

@[simp] theorem nsCfg_mem (s : State) (v : Word) : (nsCfg s v).mem = s.mem := by
  unfold nsCfg
  simp
@[simp] theorem nsCfg_pending (s : State) (v : Word) : (nsCfg s v).pending = s.pending := by
  unfold nsCfg
  simp

@[simp] theorem execNsCfgWrite_keeps (val : Word) (s : State)  : Keeps s (execNsCfgWrite val s) := by
  unfold execNsCfgWrite
  simp

@[simp] theorem shareBit_mem (s : State) (r : Nat) (b : Bool) : (shareBit s r b).mem = s.mem := by
  unfold shareBit
  dsimp only
  repeat' split
  all_goals simp
@[simp] theorem shareBit_pending (s : State) (r : Nat) (b : Bool) : (shareBit s r b).pending = s.pending := by
  unfold shareBit
  dsimp only
  repeat' split
  all_goals simp

@[simp] theorem countBit_mem (s : State) (r : Nat) (h : Hsrc) : (countBit s r h).mem = s.mem := by
  unfold countBit
  simp
@[simp] theorem countBit_pending (s : State) (r : Nat) (h : Hsrc) : (countBit s r h).pending = s.pending := by
  unfold countBit
  simp

@[simp] theorem captureEnd_mem (s : State) : (captureEnd s).mem = s.mem := by
  unfold captureEnd
  simp
@[simp] theorem captureEnd_pending (s : State) : (captureEnd s).pending = s.pending := by
  unfold captureEnd
  simp

@[simp] theorem captureBit_mem (s : State) (b : Bool) : (captureBit s b).mem = s.mem := by
  unfold captureBit
  simp
@[simp] theorem captureBit_pending (s : State) (b : Bool) : (captureBit s b).pending = s.pending := by
  unfold captureBit
  simp

@[simp] theorem execRawBit_keeps (r : Room) (b : Bool) (fail : TestCode) (s : State)  : Keeps s (execRawBit r b fail s) := by
  unfold execRawBit
  simp

@[simp] theorem captureStart_mem (s : State) (r : Nat) : (captureStart s r).mem = s.mem := by
  unfold captureStart
  simp
@[simp] theorem captureStart_pending (s : State) (r : Nat) : (captureStart s r).pending = s.pending := by
  unfold captureStart
  simp

@[simp] theorem execCaptureStart_keeps (r : Room) (s : State)  : Keeps s (execCaptureStart r s) := by
  unfold execCaptureStart
  simp

@[simp] theorem captureAbort_mem (s : State) : (captureAbort s).mem = s.mem := by
  unfold captureAbort
  simp
@[simp] theorem captureAbort_pending (s : State) : (captureAbort s).pending = s.pending := by
  unfold captureAbort
  simp

@[simp] theorem execCaptureAbort_keeps (s : State)  : Keeps s (execCaptureAbort s) := by
  unfold execCaptureAbort
  simp

@[simp] theorem execCaptureDone_keeps (s : State)  : Keeps s (execCaptureDone s) := by
  unfold execCaptureDone
  simp

@[simp] theorem captureRead_mem (s : State) : (captureRead s).mem = s.mem := by
  unfold captureRead
  simp
@[simp] theorem captureRead_pending (s : State) : (captureRead s).pending = s.pending := by
  unfold captureRead
  simp

@[simp] theorem execCaptureDataRead_keeps (s : State)  : Keeps s (execCaptureDataRead s) := by
  unfold execCaptureDataRead
  simp

@[simp] theorem onRoutine_keeps (e : EngIx) (rn : Nat) (s : State) (f : Nat → Order → Engine → Result) (hf : ∀ x0 x1 x2, Keeps s (f x0 x1 x2)) : Keeps s (onRoutine e rn s f) := by
  unfold onRoutine
  first | (simp (maxDischargeDepth := 60) +contextual; done) | (simp (maxDischargeDepth := 60) +contextual [foldl_mem, foldl_wf, foldl_fst_mem, foldl_fst_wf, foldl_snd_mem, foldl_snd_wf, foldl_pending, foldl_fst_pending, foldl_snd_pending]; done) | ((repeat' (first | with_reducible apply keeps_go | with_reducible refine (foldl_pending _ (fun _ _ => ?_) _ _).trans ?_ | with_reducible refine foldl_wf _ (fun _ _ _ => ?_) _ _ ?_ | (split <;> (try (rename_i heq; have h1 := congrArg Prod.fst heq; have h2 := congrArg Prod.snd heq; dsimp only at h1 h2; clear heq; (try subst h1); (try subst h2)))) | dsimp only | intro _)) <;> (first | (simp (maxDischargeDepth := 60) +contextual [foldl_mem, foldl_wf, foldl_fst_mem, foldl_fst_wf, foldl_snd_mem, foldl_snd_wf, foldl_pending, foldl_fst_pending, foldl_snd_pending, *]; done) | simp_all (maxDischargeDepth := 60) +contextual [foldl_mem, foldl_wf, foldl_fst_mem, foldl_fst_wf, foldl_snd_mem, foldl_snd_wf, foldl_pending, foldl_fst_pending, foldl_snd_pending]))

@[simp] theorem execHearthRaw_keeps (e : EngIx) (s : State)  : Keeps s (execHearthRaw e s) := by
  unfold execHearthRaw
  simp +contextual

end Machine
end Sys2Proof
end

