-- ==== Sys2Proof/Laws/KeptLarder.lean ====
section
/-! SUPPORT. What the functions of Machine/Larder.lean keep: the queue of commands, and the memories or their canonical form. -/

set_option linter.all false

namespace Sys2Proof
namespace Machine

@[simp] theorem setDesc_wf (s : State) (b n : Nat) (d : Word) (hwf : s.mem.wf = true)  : (setDesc s b n d).mem.wf = true := by
  unfold setDesc
  simp (maxDischargeDepth := 60) [hwf]
@[simp] theorem setDesc_pending (s : State) (b n : Nat) (d : Word)  : (setDesc s b n d).pending = s.pending := by
  unfold setDesc
  simp

@[simp] theorem slotDefine_wf (s : State) (b n : Nat) (d : Word) (hwf : s.mem.wf = true)  : (slotDefine s b n d).mem.wf = true := by
  unfold slotDefine
  simp [hwf]
@[simp] theorem slotDefine_pending (s : State) (b n : Nat) (d : Word)  : (slotDefine s b n d).pending = s.pending := by
  unfold slotDefine
  simp

@[simp] theorem putWords_wf (s : State) (b w n v : Nat) (hwf : s.mem.wf = true) : (putWords s b w n v).mem.wf = true := by
  unfold putWords
  rw [clearPoisonIf_mem]
  exact wf_setWords _ hwf (foldl_twf _ (fun t i ht => twf_tput _ _ ht) _ _ (twf_words hwf))
@[simp] theorem putWords_pending (s : State) (b w n v : Nat) : (putWords s b w n v).pending = s.pending := by
  simp [putWords]

@[simp] theorem slotPut_wf (s : State) (b n v : Nat) (hwf : s.mem.wf = true)  : (slotPut s b n v).mem.wf = true := by
  unfold slotPut
  simp [hwf]
@[simp] theorem slotPut_pending (s : State) (b n v : Nat)  : (slotPut s b n v).pending = s.pending := by
  unfold slotPut
  simp

@[simp] theorem descWrite_wf (s : State) (b : BnIx) (n : Nat) (d : Word) (hwf : s.mem.wf = true)  : (descWrite s b n d).mem.wf = true := by
  unfold descWrite
  simp [hwf]
@[simp] theorem descWrite_pending (s : State) (b : BnIx) (n : Nat) (d : Word)  : (descWrite s b n d).pending = s.pending := by
  unfold descWrite
  simp

@[simp] theorem execSlotDescriptorWrite_keeps (b : BnIx) (n : Fin 1024) (desc : Word) (s : State)  : Keeps s (execSlotDescriptorWrite b n desc s) := by
  unfold execSlotDescriptorWrite
  simp +contextual

@[simp] theorem windowWrite_wf (s : State) (b : BnIx) (w : Nat) (v : Word) (hwf : s.mem.wf = true)  : (windowWrite s b w v).mem.wf = true := by
  unfold windowWrite
  simp [hwf]
@[simp] theorem windowWrite_pending (s : State) (b : BnIx) (w : Nat) (v : Word)  : (windowWrite s b w v).pending = s.pending := by
  unfold windowWrite
  simp

@[simp] theorem execLarderWindowWrite_keeps (b : BnIx) (w : Fin 16384) (val : Word) (s : State)  : Keeps s (execLarderWindowWrite b w val s) := by
  unfold execLarderWindowWrite
  simp +contextual

@[simp] theorem handInstr_keeps (e : EngIx) (s : State) (f : HandOff → Core → Option HandOff)  : Keeps s (handInstr e s f) := by
  unfold handInstr
  first | (simp (maxDischargeDepth := 60) +contextual; done) | (simp (maxDischargeDepth := 60) +contextual [foldl_mem, foldl_wf, foldl_fst_mem, foldl_fst_wf, foldl_snd_mem, foldl_snd_wf, foldl_pending, foldl_fst_pending, foldl_snd_pending]; done) | ((repeat' (first | with_reducible apply managerWrite_keeps | with_reducible apply onEngine_keeps | with_reducible apply onRoutine_keeps | with_reducible apply qcmd_wf | with_reducible apply qcmd_pending | with_reducible apply chainCmd_wf | with_reducible apply chainCmd_pending | with_reducible apply keeps_go | with_reducible refine (foldl_pending _ (fun _ _ => ?_) _ _).trans ?_ | with_reducible refine foldl_wf _ (fun _ _ _ => ?_) _ _ ?_ | (split <;> (try (rename_i heq; have h1 := congrArg Prod.fst heq; have h2 := congrArg Prod.snd heq; dsimp only at h1 h2; clear heq; (try subst h1); (try subst h2)))) | dsimp only | intro _)) <;> (first | (simp (maxDischargeDepth := 60) +contextual [foldl_mem, foldl_wf, foldl_fst_mem, foldl_fst_wf, foldl_snd_mem, foldl_snd_wf, foldl_pending, foldl_fst_pending, foldl_snd_pending, *]; done) | simp_all (maxDischargeDepth := 60) +contextual [foldl_mem, foldl_wf, foldl_fst_mem, foldl_fst_wf, foldl_snd_mem, foldl_snd_wf, foldl_pending, foldl_fst_pending, foldl_snd_pending]))

@[simp] theorem execBnset_keeps (e : EngIx) (op : BnSet) (s : State)  : Keeps s (execBnset e op s) := by
  unfold execBnset
  simp

@[simp] theorem execBnarg_keeps (e : EngIx) (rs : XReg) (n : Fin 4) (use : Fin 8) (s : State)  : Keeps s (execBnarg e rs n use s) := by
  unfold execBnarg
  simp

@[simp] theorem execBnin_keeps (e : EngIx) (ra : XReg) (slot : Fin 1024) (window big : Bool) (len8M1 : BitVec 9) (s : State)  : Keeps s (execBnin e ra slot window big len8M1 s) := by
  unfold execBnin
  simp

@[simp] theorem execBnout_keeps (e : EngIx) (ra : XReg) (slot : Fin 1024) (big : Bool) (len8M1 : BitVec 9) (s : State)  : Keeps s (execBnout e ra slot big len8M1 s) := by
  unfold execBnout
  simp

@[simp] theorem queueBn_mem (s : State) (o : Nat) (b : Option BnIx) : (queueBn s o b).mem = s.mem := by
  unfold queueBn
  split <;> simp
@[simp] theorem queueBn_pending (s : State) (o : Nat) (b : Option BnIx) : (queueBn s o b).pending = s.pending := by
  unfold queueBn
  split <;> simp

@[simp] theorem execYield_keeps (e : EngIx) (target : BitVec 26) (s : State)  : Keeps s (execYield e target s) := by
  unfold execYield
  simp (maxDischargeDepth := 60) +contextual

@[simp] theorem setBn_mem (s : State) (b : BnIx) (g : BnEng) : (setBn s b g).mem = s.mem := by
  unfold setBn
  simp
@[simp] theorem setBn_pending (s : State) (b : BnIx) (g : BnEng) : (setBn s b g).pending = s.pending := by
  unfold setBn
  simp

@[simp] theorem pullParts_mem (s : State) (r0 : Rec) (reads : List CellarRead) (n p acc : Nat) :
    (pullParts s r0 reads n p acc).1.mem = s.mem := by
  induction n generalizing s p acc with
  | zero => rfl
  | succ k ih =>
    unfold pullParts; dsimp only
    split
    · split <;> simp [ih]
    · simp
@[simp] theorem pullParts_pending (s : State) (r0 : Rec) (reads : List CellarRead) (n p acc : Nat) :
    (pullParts s r0 reads n p acc).1.pending = s.pending := by
  induction n generalizing s p acc with
  | zero => rfl
  | succ k ih =>
    unfold pullParts; dsimp only
    split
    · split <;> simp [ih]
    · simp

@[simp] theorem pullChain_mem (s : State) (h : Word) (use : Nat) (reads : List CellarRead) :
    (pullChain s h use reads).1.mem = s.mem := by
  have h1 := keyChecks_mem s h use 0 (reads.headD .clean) .clean
  unfold pullChain
  split
  · rename_i heq
    rw [heq] at h1; exact h1
  · rename_i s1 r heq
    rw [heq] at h1
    have h2 := pullParts_mem s1 r reads (r.chainLen - 1) 1 r.mat.toNat
    split
    all_goals rename_i heq2; rw [heq2] at h2; exact h2.trans h1
@[simp] theorem pullChain_pending (s : State) (h : Word) (use : Nat) (reads : List CellarRead) :
    (pullChain s h use reads).1.pending = s.pending := by
  have h1 := keyChecks_pending s h use 0 (reads.headD .clean) .clean
  unfold pullChain
  split
  · rename_i heq
    rw [heq] at h1; exact h1
  · rename_i s1 r heq
    rw [heq] at h1
    have h2 := pullParts_pending s1 r reads (r.chainLen - 1) 1 r.mat.toNat
    split
    all_goals rename_i heq2; rw [heq2] at h2; exact h2.trans h1

@[simp] theorem pullArg_mem (s : State) (v : Order) (op : Option BnSet) (h : Word) (use : Nat) (reads : List CellarRead) : (pullArg s v op h use reads).1.mem = s.mem := by
  unfold pullArg
  first | (simp; done) | (simp [foldl_mem, foldl_pending, foldl_fst_mem, foldl_fst_pending, foldl_snd_mem, foldl_snd_pending, *]; done) | ((try simp [foldl_mem, foldl_pending, foldl_fst_mem, foldl_fst_pending, foldl_snd_mem, foldl_snd_pending]) <;> (repeat' (first | with_reducible refine (foldl_mem _ (fun _ _ => ?_) _ _).trans ?_ | with_reducible refine (foldl_pending _ (fun _ _ => ?_) _ _).trans ?_ | (split <;> (try (rename_i heq; have h1 := congrArg Prod.fst heq; have h2 := congrArg Prod.snd heq; dsimp only at h1 h2; clear heq; (try subst h1); (try subst h2)))) | dsimp only)) <;> simp_all [foldl_mem, foldl_pending, foldl_fst_mem, foldl_fst_pending, foldl_snd_mem, foldl_snd_pending])
@[simp] theorem pullArg_pending (s : State) (v : Order) (op : Option BnSet) (h : Word) (use : Nat) (reads : List CellarRead) : (pullArg s v op h use reads).1.pending = s.pending := by
  unfold pullArg
  first | (simp; done) | (simp [foldl_mem, foldl_pending, foldl_fst_mem, foldl_fst_pending, foldl_snd_mem, foldl_snd_pending, *]; done) | ((try simp [foldl_mem, foldl_pending, foldl_fst_mem, foldl_fst_pending, foldl_snd_mem, foldl_snd_pending]) <;> (repeat' (first | with_reducible refine (foldl_mem _ (fun _ _ => ?_) _ _).trans ?_ | with_reducible refine (foldl_pending _ (fun _ _ => ?_) _ _).trans ?_ | (split <;> (try (rename_i heq; have h1 := congrArg Prod.fst heq; have h2 := congrArg Prod.snd heq; dsimp only at h1 h2; clear heq; (try subst h1); (try subst h2)))) | dsimp only)) <;> simp_all [foldl_mem, foldl_pending, foldl_fst_mem, foldl_fst_pending, foldl_snd_mem, foldl_snd_pending])

@[simp] theorem pullArgs_mem (v : Order) (l : List (Nat × Word × Nat)) (s : State) (reads : List CellarRead) (acc : Tab Nat) :
    (pullArgs v l s reads acc).1.mem = s.mem := by
  induction l generalizing s reads acc with
  | nil => rfl
  | cons p r ih =>
    have h1 := pullArg_mem s v v.hand.op p.2.1 p.2.2 reads
    unfold pullArgs
    split
    · simp_all
    · rw [ih]; simp_all
@[simp] theorem pullArgs_pending (v : Order) (l : List (Nat × Word × Nat)) (s : State) (reads : List CellarRead) (acc : Tab Nat) :
    (pullArgs v l s reads acc).1.pending = s.pending := by
  induction l generalizing s reads acc with
  | nil => rfl
  | cons p r ih =>
    have h1 := pullArg_pending s v v.hand.op p.2.1 p.2.2 reads
    unfold pullArgs
    split
    · simp_all
    · rw [ih]; simp_all

@[simp] theorem drbgReady_mem (s : State) (b : BnIx) : (drbgReady s b).2.mem = s.mem := by
  unfold drbgReady
  split <;> simp
@[simp] theorem drbgReady_pending (s : State) (b : BnIx) : (drbgReady s b).2.pending = s.pending := by
  unfold drbgReady
  split <;> simp

@[simp] theorem drbgCount_mem (s : State) (b : BnIx) (n : Nat) : (drbgCount s b n).mem = s.mem := by
  unfold drbgCount
  simp
@[simp] theorem drbgCount_pending (s : State) (b : BnIx) (n : Nat) : (drbgCount s b n).pending = s.pending := by
  unfold drbgCount
  simp

@[simp] theorem larderCE_mem (s : State) : (larderCE s).mem = s.mem := by
  unfold larderCE
  simp
@[simp] theorem larderCE_pending (s : State) : (larderCE s).pending = s.pending := by
  unfold larderCE
  simp

@[simp] theorem larderUE_mem (s : State) : (larderUE s).mem = s.mem := by
  unfold larderUE
  simp
@[simp] theorem larderUE_pending (s : State) : (larderUE s).pending = s.pending := by
  unfold larderUE
  simp

@[simp] theorem bnStop_wf (s : State) (o : Nat) (st : Status) (hwf : s.mem.wf = true)  : (bnStop s o st).mem.wf = true := by
  unfold bnStop
  simp [hwf]
@[simp] theorem bnStop_pending (s : State) (o : Nat) (st : Status)  : (bnStop s o st).pending = s.pending := by
  unfold bnStop
  simp

@[simp] theorem bnDoorFault_wf (s : State) (o : Nat) (v : Order) (addr : Nat) (write : Bool) (hwf : s.mem.wf = true)  : (bnDoorFault s o v addr write).mem.wf = true := by
  unfold bnDoorFault
  simp [hwf]
@[simp] theorem bnDoorFault_pending (s : State) (o : Nat) (v : Order) (addr : Nat) (write : Bool)  : (bnDoorFault s o v addr write).pending = s.pending := by
  unfold bnDoorFault
  simp

@[simp] theorem fillSlots_wf (s : State) (b : Nat) (ins : Tab Nat) (hwf : s.mem.wf = true)  : (fillSlots s b ins).mem.wf = true := by
  unfold fillSlots
  simp (maxDischargeDepth := 60) +contextual [hwf, foldl_wf]
@[simp] theorem fillSlots_pending (s : State) (b : Nat) (ins : Tab Nat)  : (fillSlots s b ins).pending = s.pending := by
  unfold fillSlots
  simp [foldl_pending]

@[simp] theorem setResult_mem (s : State) (b : BnIx) (st : Status) (val : Word) (attempts : Nat) : (setResult s b st val attempts).mem = s.mem := by
  unfold setResult
  simp
@[simp] theorem setResult_pending (s : State) (b : BnIx) (st : Status) (val : Word) (attempts : Nat) : (setResult s b st val attempts).pending = s.pending := by
  unfold setResult
  simp

@[simp] theorem beginBn_wf (s : State) (b : BnIx) (o : Nat) (v : Order) (keys : Tab Nat) (hwf : s.mem.wf = true)  : (beginBn s b o v keys).mem.wf = true := by
  unfold beginBn
  dsimp only
  repeat' split
  all_goals simp (maxDischargeDepth := 60) [hwf]
@[simp] theorem beginBn_pending (s : State) (b : BnIx) (o : Nat) (v : Order) (keys : Tab Nat)  : (beginBn s b o v keys).pending = s.pending := by
  unfold beginBn
  dsimp only
  repeat' split
  all_goals simp

@[simp] theorem replaceUnits_mem (s : State) : (replaceUnits s).mem = s.mem := by
  unfold replaceUnits
  simp
@[simp] theorem replaceUnits_pending (s : State) : (replaceUnits s).pending = s.pending := by
  unfold replaceUnits
  simp

@[simp] theorem unplace_mem (s : State) (b : BnIx) : (unplace s b).mem = s.mem := by
  unfold unplace
  simp
@[simp] theorem unplace_pending (s : State) (b : BnIx) : (unplace s b).pending = s.pending := by
  unfold unplace
  simp

@[simp] theorem bnInBits_mem (s : State) (b : BnIx) (on : Bool) : (bnInBits s b on).mem = s.mem := by
  unfold bnInBits
  simp
@[simp] theorem bnInBits_pending (s : State) (b : BnIx) (on : Bool) : (bnInBits s b on).pending = s.pending := by
  unfold bnInBits
  simp

@[simp] theorem bnLeave_wf (s : State) (b : BnIx) (hwf : s.mem.wf = true)  : (bnLeave s b).mem.wf = true := by
  unfold bnLeave
  simp (maxDischargeDepth := 60) +contextual [hwf, foldl_wf]
@[simp] theorem bnLeave_pending (s : State) (b : BnIx)  : (bnLeave s b).pending = s.pending := by
  unfold bnLeave
  simp [foldl_pending]

@[simp] theorem larderFails_wf (s : State) (b : BnIx) (o w : Nat) (hwf : s.mem.wf = true)  : (larderFails s b o w).mem.wf = true := by
  unfold larderFails
  simp [hwf]
@[simp] theorem larderFails_pending (s : State) (b : BnIx) (o w : Nat) : (larderFails s b o w).pending = s.pending := by
  unfold larderFails
  simp

@[simp] theorem execBnOperationStart_keeps (b : BnIx) (reads : List CellarRead) (ecc : Ecc) (word : Fin 32768) (s : State)  : Keeps s (execBnOperationStart b reads ecc word s) := by
  unfold execBnOperationStart
  (repeat' (first | with_reducible apply managerWrite_keeps | with_reducible apply onEngine_keeps | with_reducible apply onRoutine_keeps | with_reducible apply qcmd_wf | with_reducible apply qcmd_pending | with_reducible apply chainCmd_wf | with_reducible apply chainCmd_pending | with_reducible apply keeps_go | with_reducible refine (foldl_pending _ (fun _ _ => ?_) _ _).trans ?_ | with_reducible refine foldl_wf _ (fun _ _ _ => ?_) _ _ ?_ | (split <;> (try (rename_i heq; have h1 := congrArg Prod.fst heq; have h2 := congrArg Prod.snd heq; dsimp only at h1 h2; clear heq; (try subst h1); (try subst h2)))) | dsimp only | intro _)) <;> (first | (simp (maxDischargeDepth := 60) +contextual [foldl_mem, foldl_wf, foldl_fst_mem, foldl_fst_wf, foldl_snd_mem, foldl_snd_wf, foldl_pending, foldl_fst_pending, foldl_snd_pending, *]; done) | simp_all (maxDischargeDepth := 60) +contextual [foldl_mem, foldl_wf, foldl_fst_mem, foldl_fst_wf, foldl_snd_mem, foldl_snd_wf, foldl_pending, foldl_fst_pending, foldl_snd_pending])

@[simp] theorem execBnOperationEnd_keeps (b : BnIx) (s : State)  : Keeps s (execBnOperationEnd b s) := by
  unfold execBnOperationEnd
  dsimp only
  repeat' split
  all_goals simp (maxDischargeDepth := 60) +contextual

@[simp] theorem execBnOverrun_keeps (b : BnIx) (s : State)  : Keeps s (execBnOverrun b s) := by
  unfold execBnOverrun
  dsimp only
  repeat' split
  all_goals simp (maxDischargeDepth := 60) +contextual

@[simp] theorem execBnEngineTakeOut_keeps (b : BnIx) (s : State)  : Keeps s (execBnEngineTakeOut b s) := by
  unfold execBnEngineTakeOut
  simp +contextual

@[simp] theorem bnReturn_mem (s : State) (b : BnIx) : (bnReturn s b).mem = s.mem := by
  unfold bnReturn
  simp
@[simp] theorem bnReturn_pending (s : State) (b : BnIx) : (bnReturn s b).pending = s.pending := by
  unfold bnReturn
  simp

@[simp] theorem execBnEngineReturn_keeps (b : BnIx) (s : State)  : Keeps s (execBnEngineReturn b s) := by
  unfold execBnEngineReturn
  simp

@[simp] theorem execBnSelftestDone_keeps (b : BnIx) (s : State)  : Keeps s (execBnSelftestDone b s) := by
  unfold execBnSelftestDone
  simp

end Machine
end Sys2Proof
end

