-- ==== Sys2Proof/Laws/KeptBnService.lean ====
section
/-! SUPPORT. What the functions of Machine/BnService.lean keep: the queue of commands, and the memories or their canonical form. -/

set_option linter.all false

namespace Sys2Proof
namespace Machine

@[simp] theorem onService_keeps (b : BnIx) (ops : List Nat) (s : State) (f : Nat → Nat → Order → State) (hf : ∀ x0 x1 x2, s.mem.wf = true → (f x0 x1 x2).mem.wf = true) (hg : ∀ x0 x1 x2, (f x0 x1 x2).pending = s.pending) : Keeps s (onService b ops s f) := by
  unfold onService
  dsimp only
  repeat' split
  all_goals simp (maxDischargeDepth := 60) +contextual [foldl_wf, foldl_pending, *]

@[simp] theorem withDrbg_wf (s : State) (b : BnIx) (n : Nat) (f : State → State) (hwf : s.mem.wf = true) (hf : ∀ x0, x0.mem.wf = true → (f x0).mem.wf = true) : (withDrbg s b n f).mem.wf = true := by
  unfold withDrbg
  first | (simp (maxDischargeDepth := 60) [hwf]; done) | (simp (maxDischargeDepth := 60) +contextual [*, foldl_mem, foldl_wf, foldl_fst_mem, foldl_fst_wf, foldl_snd_mem, foldl_snd_wf]; done) | ((try simp (maxDischargeDepth := 60) [hwf, foldl_mem, foldl_wf, foldl_fst_mem, foldl_fst_wf, foldl_snd_mem, foldl_snd_wf]) <;> (repeat' (first | with_reducible refine foldl_wf _ (fun _ _ _ => ?_) _ _ ?_ | (split <;> (try (rename_i heq; have h1 := congrArg Prod.fst heq; have h2 := congrArg Prod.snd heq; dsimp only at h1 h2; clear heq; (try subst h1); (try subst h2)))) | dsimp only)) <;> simp_all (maxDischargeDepth := 60) +contextual [hwf, foldl_mem, foldl_wf, foldl_fst_mem, foldl_fst_wf, foldl_snd_mem, foldl_snd_wf])
@[simp] theorem withDrbg_pending (s : State) (b : BnIx) (n : Nat) (f : State → State) (hg : ∀ x0, (f x0).pending = x0.pending) : (withDrbg s b n f).pending = s.pending := by
  unfold withDrbg
  first | (simp; done) | (simp [foldl_mem, foldl_pending, foldl_fst_mem, foldl_fst_pending, foldl_snd_mem, foldl_snd_pending, *]; done) | ((try simp [foldl_mem, foldl_pending, foldl_fst_mem, foldl_fst_pending, foldl_snd_mem, foldl_snd_pending]) <;> (repeat' (first | with_reducible refine (foldl_mem _ (fun _ _ => ?_) _ _).trans ?_ | with_reducible refine (foldl_pending _ (fun _ _ => ?_) _ _).trans ?_ | (split <;> (try (rename_i heq; have h1 := congrArg Prod.fst heq; have h2 := congrArg Prod.snd heq; dsimp only at h1 h2; clear heq; (try subst h1); (try subst h2)))) | dsimp only)) <;> simp_all [foldl_mem, foldl_pending, foldl_fst_mem, foldl_fst_pending, foldl_snd_mem, foldl_snd_pending])

@[simp] theorem svcDone_mem (s : State) (b : BnIx) (out : Nat) (val : Word) (attempts : Nat) : (svcDone s b out val attempts).mem = s.mem := by
  unfold svcDone
  simp
@[simp] theorem svcDone_pending (s : State) (b : BnIx) (out : Nat) (val : Word) (attempts : Nat) : (svcDone s b out val attempts).pending = s.pending := by
  unfold svcDone
  simp

@[simp] theorem drawScalar_mem (s : State) (p : PSet) : (drawScalar s p).2.mem = s.mem := by
  unfold drawScalar
  simp
@[simp] theorem drawScalar_pending (s : State) (p : PSet) : (drawScalar s p).2.pending = s.pending := by
  unfold drawScalar
  simp

@[simp] theorem execEcdsaSign_keeps (b : BnIx) (attempts : Fin 3) (s : State)  : Keeps s (execEcdsaSign b attempts s) := by
  unfold execEcdsaSign
  simp +contextual

@[simp] theorem execEcdsaVerify_keeps (b : BnIx) (s : State)  : Keeps s (execEcdsaVerify b s) := by
  unfold execEcdsaVerify
  simp

@[simp] theorem makeRecord_wf (s : State) (b : BnIx) (v : Order) (typ key pick attempts : Nat) (hwf : s.mem.wf = true)  : (makeRecord s b v typ key pick attempts).mem.wf = true := by
  unfold makeRecord
  (try simp (maxDischargeDepth := 60) [hwf, foldl_mem, foldl_wf, foldl_fst_mem, foldl_fst_wf, foldl_snd_mem, foldl_snd_wf]) <;> (repeat' (first | with_reducible refine foldl_wf _ (fun _ _ _ => ?_) _ _ ?_ | (split <;> (try (rename_i heq; have h1 := congrArg Prod.fst heq; have h2 := congrArg Prod.snd heq; dsimp only at h1 h2; clear heq; (try subst h1); (try subst h2)))) | dsimp only)) <;> simp_all (maxDischargeDepth := 60) +contextual [hwf, foldl_mem, foldl_wf, foldl_fst_mem, foldl_fst_wf, foldl_snd_mem, foldl_snd_wf]
@[simp] theorem makeRecord_pending (s : State) (b : BnIx) (v : Order) (typ key pick attempts : Nat) : (makeRecord s b v typ key pick attempts).pending = s.pending := by
  unfold makeRecord
  (try simp [foldl_mem, foldl_pending, foldl_fst_mem, foldl_fst_pending, foldl_snd_mem, foldl_snd_pending]) <;> (repeat' (first | with_reducible refine (foldl_mem _ (fun _ _ => ?_) _ _).trans ?_ | with_reducible refine (foldl_pending _ (fun _ _ => ?_) _ _).trans ?_ | (split <;> (try (rename_i heq; have h1 := congrArg Prod.fst heq; have h2 := congrArg Prod.snd heq; dsimp only at h1 h2; clear heq; (try subst h1); (try subst h2)))) | dsimp only)) <;> simp_all [foldl_mem, foldl_pending, foldl_fst_mem, foldl_fst_pending, foldl_snd_mem, foldl_snd_pending]

@[simp] theorem execEcKeygen_keeps (b : BnIx) (attempts : Fin 3) (pick : Nat) (s : State)  : Keeps s (execEcKeygen b attempts pick s) := by
  unfold execEcKeygen
  simp (maxDischargeDepth := 60) +contextual

@[simp] theorem execRsaCrtPriv_keeps (b : BnIx) (s : State)  : Keeps s (execRsaCrtPriv b s) := by
  unfold execRsaCrtPriv
  simp

@[simp] theorem rsaKey_mem (n : Nat) (s : State) : (rsaKey n s).2.mem = s.mem := by
  unfold rsaKey
  simp
@[simp] theorem rsaKey_pending (n : Nat) (s : State) : (rsaKey n s).2.pending = s.pending := by
  unfold rsaKey
  simp

@[simp] theorem execRsaKeygen_keeps (b : BnIx) (attempts pick : Nat) (s : State)  : Keeps s (execRsaKeygen b attempts pick s) := by
  unfold execRsaKeygen
  simp (maxDischargeDepth := 60) +contextual

@[simp] theorem execMlkemDecaps_keeps (b : BnIx) (s : State)  : Keeps s (execMlkemDecaps b s) := by
  unfold execMlkemDecaps
  simp

@[simp] theorem execMldsaSign_keeps (b : BnIx) (attempts : Nat) (s : State)  : Keeps s (execMldsaSign b attempts s) := by
  unfold execMldsaSign
  simp +contextual
theorem keyStorePut_fst {s t : State} {o : Origin} {sl : Slice} {tm : Tmpl} {k : Key256} {r : CellarRead} {p : Nat}
    {x : Except Status Word} (h : keyStorePut s o sl tm k r p = (t, x)) : t.mem = s.mem ∧ t.pending = s.pending := by
  have h1 := keyStorePut_mem s o sl tm k r p
  have h2 := keyStorePut_pending s o sl tm k r p
  rw [h] at h1 h2; exact ⟨h1, h2⟩

@[simp] theorem execHybridOpen_keeps (b : BnIx) (pick : Nat) (s : State) : Keeps s (execHybridOpen b pick s) := by
  unfold execHybridOpen
  apply onService_keeps
  · intro op set v hs
    split
    · simp [hs]
    · split
      · simp [hs]
      · split
        · simp [hs]
        · split
          · rename_i h; simp [keyStorePut_fst h, hs]
          · rename_i h; simp [keyStorePut_fst h, hs]
  · intro op set v
    split
    · simp
    · split
      · simp
      · split
        · simp
        · split
          · rename_i h; simp [keyStorePut_fst h]
          · rename_i h; simp [keyStorePut_fst h]

end Machine
end Sys2Proof
end

