-- ==== Sys2Proof/Laws/KeptBnProgram.lean ====
section
/-! SUPPORT. What the functions of Machine/BnProgram.lean keep: the queue of commands, and the memories or their canonical form. -/

set_option linter.all false

namespace Sys2Proof
namespace Machine

@[simp] theorem execSlotProgramStart_keeps (b : BnIx) (s : State)  : Keeps s (execSlotProgramStart b s) := by
  unfold execSlotProgramStart
  dsimp only
  repeat' split
  all_goals simp (maxDischargeDepth := 60) +contextual

@[simp] theorem onProg_keeps (b : BnIx) (s : State) (f : Nat → Order → BnEng → Result) (hf : ∀ x0 x1 x2, Keeps s (f x0 x1 x2)) : Keeps s (onProg b s f) := by
  unfold onProg
  dsimp only
  repeat' split
  all_goals simp (maxDischargeDepth := 60) +contextual [foldl_wf, foldl_pending, *]

@[simp] theorem bnNext_mem (s : State) (b : BnIx) (i : Nat) : (bnNext s b i).mem = s.mem := by
  unfold bnNext
  simp
@[simp] theorem bnNext_pending (s : State) (b : BnIx) (i : Nat) : (bnNext s b i).pending = s.pending := by
  unfold bnNext
  simp

@[simp] theorem bnStep_mem (s : State) (b : BnIx) : (bnStep s b).mem = s.mem := by
  unfold bnStep
  simp
@[simp] theorem bnStep_pending (s : State) (b : BnIx) : (bnStep s b).pending = s.pending := by
  unfold bnStep
  simp

@[simp] theorem slotInstr_keeps (b : BnIx) (s : State) (reads writes : BnEng → List (Fin 1024 × Nat)) (f : Nat → Order → BnEng → State) (hf : ∀ x0 x1 x2, s.mem.wf = true → (f x0 x1 x2).mem.wf = true) (hg : ∀ x0 x1 x2, (f x0 x1 x2).pending = s.pending) : Keeps s (slotInstr b s reads writes f) := by
  unfold slotInstr
  first | (simp (maxDischargeDepth := 60) +contextual; done) | (simp (maxDischargeDepth := 60) +contextual [foldl_mem, foldl_wf, foldl_fst_mem, foldl_fst_wf, foldl_snd_mem, foldl_snd_wf, foldl_pending, foldl_fst_pending, foldl_snd_pending]; done) | ((repeat' (first | with_reducible apply keeps_go | with_reducible refine (foldl_pending _ (fun _ _ => ?_) _ _).trans ?_ | with_reducible refine foldl_wf _ (fun _ _ _ => ?_) _ _ ?_ | (split <;> (try (rename_i heq; have h1 := congrArg Prod.fst heq; have h2 := congrArg Prod.snd heq; dsimp only at h1 h2; clear heq; (try subst h1); (try subst h2)))) | dsimp only | intro _)) <;> (first | (simp (maxDischargeDepth := 60) +contextual [foldl_mem, foldl_wf, foldl_fst_mem, foldl_fst_wf, foldl_snd_mem, foldl_snd_wf, foldl_pending, foldl_fst_pending, foldl_snd_pending, *]; done) | simp_all (maxDischargeDepth := 60) +contextual [foldl_mem, foldl_wf, foldl_fst_mem, foldl_fst_wf, foldl_snd_mem, foldl_snd_wf, foldl_pending, foldl_fst_pending, foldl_snd_pending]))

@[simp] theorem slotStore_wf (s : State) (b : BnIx) (slot : Fin 1024) (n v : Nat) (hwf : s.mem.wf = true)  : (slotStore s b slot n v).mem.wf = true := by
  unfold slotStore
  simp [hwf]
@[simp] theorem slotStore_pending (s : State) (b : BnIx) (slot : Fin 1024) (n v : Nat)  : (slotStore s b slot n v).pending = s.pending := by
  unfold slotStore
  simp

@[simp] theorem execPsel_keeps (b : BnIx) (set : Fin 64) (lm : Fin 1024) (s : State)  : Keeps s (execPsel b set lm s) := by
  unfold execPsel
  first | (simp (maxDischargeDepth := 60) +contextual; done) | (simp (maxDischargeDepth := 60) +contextual [foldl_mem, foldl_wf, foldl_fst_mem, foldl_fst_wf, foldl_snd_mem, foldl_snd_wf, foldl_pending, foldl_fst_pending, foldl_snd_pending]; done) | ((repeat' (first | with_reducible apply managerWrite_keeps | with_reducible apply onEngine_keeps | with_reducible apply onRoutine_keeps | with_reducible apply onService_keeps | with_reducible apply qcmd_wf | with_reducible apply qcmd_pending | with_reducible apply chainCmd_wf | with_reducible apply chainCmd_pending | with_reducible apply withDrbg_wf | with_reducible apply withDrbg_pending | with_reducible apply onProg_keeps | with_reducible apply slotInstr_keeps | with_reducible apply keeps_go | with_reducible refine (foldl_pending _ (fun _ _ => ?_) _ _).trans ?_ | with_reducible refine foldl_wf _ (fun _ _ _ => ?_) _ _ ?_ | (split <;> (try (rename_i heq; have h1 := congrArg Prod.fst heq; have h2 := congrArg Prod.snd heq; dsimp only at h1 h2; clear heq; (try subst h1); (try subst h2)))) | dsimp only | intro _)) <;> (first | (simp (maxDischargeDepth := 60) +contextual [foldl_mem, foldl_wf, foldl_fst_mem, foldl_fst_wf, foldl_snd_mem, foldl_snd_wf, foldl_pending, foldl_fst_pending, foldl_snd_pending, *]; done) | simp_all (maxDischargeDepth := 60) +contextual [foldl_mem, foldl_wf, foldl_fst_mem, foldl_fst_wf, foldl_snd_mem, foldl_snd_wf, foldl_pending, foldl_fst_pending, foldl_snd_pending]))

@[simp] theorem execPsetm_keeps (b : BnIx) (a : Fin 1024) (s : State)  : Keeps s (execPsetm b a s) := by
  unfold execPsetm
  simp

@[simp] theorem execPull_keeps (b : BnIx) (d : Fin 1024) (arg : Fin 4) (part : Fin 1024) (countM1 : Fin 64) (s : State) : Keeps s (execPull b d arg part countM1 s) := by
  unfold execPull
  dsimp only
  refine slotInstr_keeps _ _ _ _ _ (fun _ v g hs => ?_) (fun _ v g => ?_)
  · split
    · simp [hs]
    · first | simp (maxDischargeDepth := 60) [hs] | (split <;> simp (maxDischargeDepth := 60) [hs])
  · split
    · simp
    · first | (simp; done) | (split <;> simp)

@[simp] theorem execSdef_keeps (b : BnIx) (d : Fin 1024) (desc : BitVec 46) (s : State)  : Keeps s (execSdef b d desc s) := by
  unfold execSdef
  first | (simp (maxDischargeDepth := 60) +contextual; done) | (simp (maxDischargeDepth := 60) +contextual [foldl_mem, foldl_wf, foldl_fst_mem, foldl_fst_wf, foldl_snd_mem, foldl_snd_wf, foldl_pending, foldl_fst_pending, foldl_snd_pending]; done) | ((repeat' (first | with_reducible apply managerWrite_keeps | with_reducible apply onEngine_keeps | with_reducible apply onRoutine_keeps | with_reducible apply onService_keeps | with_reducible apply qcmd_wf | with_reducible apply qcmd_pending | with_reducible apply chainCmd_wf | with_reducible apply chainCmd_pending | with_reducible apply withDrbg_wf | with_reducible apply withDrbg_pending | with_reducible apply onProg_keeps | with_reducible apply slotInstr_keeps | with_reducible apply keeps_go | with_reducible refine (foldl_pending _ (fun _ _ => ?_) _ _).trans ?_ | with_reducible refine foldl_wf _ (fun _ _ _ => ?_) _ _ ?_ | (split <;> (try (rename_i heq; have h1 := congrArg Prod.fst heq; have h2 := congrArg Prod.snd heq; dsimp only at h1 h2; clear heq; (try subst h1); (try subst h2)))) | dsimp only | intro _)) <;> (first | (simp (maxDischargeDepth := 60) +contextual [foldl_mem, foldl_wf, foldl_fst_mem, foldl_fst_wf, foldl_snd_mem, foldl_snd_wf, foldl_pending, foldl_fst_pending, foldl_snd_pending, *]; done) | simp_all (maxDischargeDepth := 60) +contextual [foldl_mem, foldl_wf, foldl_fst_mem, foldl_fst_wf, foldl_snd_mem, foldl_snd_wf, foldl_pending, foldl_fst_pending, foldl_snd_pending]))

@[simp] theorem congruent_mem (s : State) (m lm r : Nat) (inside : Bool) : (congruent s m lm r inside).2.mem = s.mem := by
  unfold congruent
  simp
@[simp] theorem congruent_pending (s : State) (m lm r : Nat) (inside : Bool) : (congruent s m lm r inside).2.pending = s.pending := by
  unfold congruent
  simp

@[simp] theorem modInstr_keeps (b : BnIx) (d : Fin 1024) (ops : List (Fin 1024)) (s : State) (f : Nat → Nat → List Nat → Nat)  : Keeps s (modInstr b d ops s f) := by
  unfold modInstr
  simp +contextual

@[simp] theorem execMmul_keeps (b : BnIx) (d a x : Fin 1024) (s : State)  : Keeps s (execMmul b d a x s) := by
  unfold execMmul
  simp

@[simp] theorem execMadd_keeps (b : BnIx) (d a x : Fin 1024) (s : State)  : Keeps s (execMadd b d a x s) := by
  unfold execMadd
  simp

@[simp] theorem execMsub_keeps (b : BnIx) (d a x : Fin 1024) (s : State)  : Keeps s (execMsub b d a x s) := by
  unfold execMsub
  simp

@[simp] theorem execTom_keeps (b : BnIx) (d a : Fin 1024) (s : State)  : Keeps s (execTom b d a s) := by
  unfold execTom
  simp

@[simp] theorem execFromm_keeps (b : BnIx) (d a : Fin 1024) (s : State)  : Keeps s (execFromm b d a s) := by
  unfold execFromm
  simp

@[simp] theorem execMred_keeps (b : BnIx) (d a : Fin 1024) (s : State)  : Keeps s (execMred b d a s) := by
  unfold execMred
  simp +contextual

@[simp] theorem execMexp_keeps (b : BnIx) (d a x : Fin 1024) (s : State)  : Keeps s (execMexp b d a x s) := by
  unfold execMexp
  simp +contextual

@[simp] theorem execMinv_keeps (b : BnIx) (d a : Fin 1024) (s : State)  : Keeps s (execMinv b d a s) := by
  unfold execMinv
  simp

@[simp] theorem execBnMul_keeps (b : BnIx) (d a x : Fin 1024) (s : State)  : Keeps s (execBnMul b d a x s) := by
  unfold execBnMul
  simp +contextual

@[simp] theorem execSump_keeps (b : BnIx) (d a x le : Fin 1024) (terms : BitVec 16) (s : State)  : Keeps s (execSump b d a x le terms s) := by
  unfold execSump
  simp +contextual

@[simp] theorem execVred_keeps (b : BnIx) (d le : Fin 1024) (elems : BitVec 16) (s : State)  : Keeps s (execVred b d le elems s) := by
  unfold execVred
  simp +contextual

@[simp] theorem execMov_keeps (b : BnIx) (d a : Fin 1024) (s : State)  : Keeps s (execMov b d a s) := by
  unfold execMov
  simp +contextual

@[simp] theorem execZero_keeps (b : BnIx) (d : Fin 1024) (s : State)  : Keeps s (execZero b d s) := by
  unfold execZero
  simp +contextual

@[simp] theorem execCmp_keeps (b : BnIx) (a x : Fin 1024) (s : State)  : Keeps s (execCmp b a x s) := by
  unfold execCmp
  simp

@[simp] theorem execRndm_keeps (b : BnIx) (d : Fin 1024) (s : State)  : Keeps s (execRndm b d s) := by
  unfold execRndm
  simp (maxDischargeDepth := 60) +contextual

@[simp] theorem polyInstr_keeps (b : BnIx) (d : Fin 1024) (ops : List (Fin 1024)) (s : State) (f : Nat × Nat × Nat → List Nat → Nat → Nat)  : Keeps s (polyInstr b d ops s f) := by
  unfold polyInstr
  first | (simp (maxDischargeDepth := 60) +contextual; done) | (simp (maxDischargeDepth := 60) +contextual [foldl_mem, foldl_wf, foldl_fst_mem, foldl_fst_wf, foldl_snd_mem, foldl_snd_wf, foldl_pending, foldl_fst_pending, foldl_snd_pending]; done) | ((repeat' (first | with_reducible apply managerWrite_keeps | with_reducible apply onEngine_keeps | with_reducible apply onRoutine_keeps | with_reducible apply onService_keeps | with_reducible apply qcmd_wf | with_reducible apply qcmd_pending | with_reducible apply chainCmd_wf | with_reducible apply chainCmd_pending | with_reducible apply withDrbg_wf | with_reducible apply withDrbg_pending | with_reducible apply onProg_keeps | with_reducible apply slotInstr_keeps | with_reducible apply keeps_go | with_reducible refine (foldl_pending _ (fun _ _ => ?_) _ _).trans ?_ | with_reducible refine foldl_wf _ (fun _ _ _ => ?_) _ _ ?_ | (split <;> (try (rename_i heq; have h1 := congrArg Prod.fst heq; have h2 := congrArg Prod.snd heq; dsimp only at h1 h2; clear heq; (try subst h1); (try subst h2)))) | dsimp only | intro _)) <;> (first | (simp (maxDischargeDepth := 60) +contextual [foldl_mem, foldl_wf, foldl_fst_mem, foldl_fst_wf, foldl_snd_mem, foldl_snd_wf, foldl_pending, foldl_fst_pending, foldl_snd_pending, *]; done) | simp_all (maxDischargeDepth := 60) +contextual [foldl_mem, foldl_wf, foldl_fst_mem, foldl_fst_wf, foldl_snd_mem, foldl_snd_wf, foldl_pending, foldl_fst_pending, foldl_snd_pending]))

@[simp] theorem execNtt_keeps (b : BnIx) (d a : Fin 1024) (s : State)  : Keeps s (execNtt b d a s) := by
  unfold execNtt
  simp

@[simp] theorem execIntt_keeps (b : BnIx) (d a : Fin 1024) (s : State)  : Keeps s (execIntt b d a s) := by
  unfold execIntt
  simp

@[simp] theorem execPmul_keeps (b : BnIx) (d a x : Fin 1024) (s : State)  : Keeps s (execPmul b d a x s) := by
  unfold execPmul
  simp

@[simp] theorem execPadd_keeps (b : BnIx) (d a x : Fin 1024) (diff : Bool) (s : State)  : Keeps s (execPadd b d a x diff s) := by
  unfold execPadd
  simp

@[simp] theorem execKeccak_keeps (b : BnIx) (d : Fin 1024) (s : State)  : Keeps s (execKeccak b d s) := by
  unfold execKeccak
  simp +contextual

@[simp] theorem execSample_keeps (b : BnIx) (d a : Fin 1024) (s : State) : Keeps s (execSample b d a s) := by
  unfold execSample
  dsimp only
  refine slotInstr_keeps _ _ _ _ _ (fun _ v g hs => ?_) (fun _ v g => ?_)
  · split
    · simp [hs]
    · first | simp (maxDischargeDepth := 60) [hs] | (split <;> simp (maxDischargeDepth := 60) [hs])
  · split
    · simp
    · first | (simp; done) | (split <;> simp)

@[simp] theorem execSkip_keeps (b : BnIx) (cond : SkipFlag) (neg : Bool) (n : BitVec 16) (s : State)  : Keeps s (execSkip b cond neg n s) := by
  unfold execSkip
  first | (simp (maxDischargeDepth := 60) +contextual; done) | (simp (maxDischargeDepth := 60) +contextual [foldl_mem, foldl_wf, foldl_fst_mem, foldl_fst_wf, foldl_snd_mem, foldl_snd_wf, foldl_pending, foldl_fst_pending, foldl_snd_pending]; done) | ((repeat' (first | with_reducible apply managerWrite_keeps | with_reducible apply onEngine_keeps | with_reducible apply onRoutine_keeps | with_reducible apply onService_keeps | with_reducible apply qcmd_wf | with_reducible apply qcmd_pending | with_reducible apply chainCmd_wf | with_reducible apply chainCmd_pending | with_reducible apply withDrbg_wf | with_reducible apply withDrbg_pending | with_reducible apply onProg_keeps | with_reducible apply slotInstr_keeps | with_reducible apply keeps_go | with_reducible refine (foldl_pending _ (fun _ _ => ?_) _ _).trans ?_ | with_reducible refine foldl_wf _ (fun _ _ _ => ?_) _ _ ?_ | (split <;> (try (rename_i heq; have h1 := congrArg Prod.fst heq; have h2 := congrArg Prod.snd heq; dsimp only at h1 h2; clear heq; (try subst h1); (try subst h2)))) | dsimp only | intro _)) <;> (first | (simp (maxDischargeDepth := 60) +contextual [foldl_mem, foldl_wf, foldl_fst_mem, foldl_fst_wf, foldl_snd_mem, foldl_snd_wf, foldl_pending, foldl_fst_pending, foldl_snd_pending, *]; done) | simp_all (maxDischargeDepth := 60) +contextual [foldl_mem, foldl_wf, foldl_fst_mem, foldl_fst_wf, foldl_snd_mem, foldl_snd_wf, foldl_pending, foldl_fst_pending, foldl_snd_pending]))

@[simp] theorem execBnLoop_keeps (b : BnIx) (bodyM1 : Fin 1024) (timesM1 : BitVec 16) (s : State)  : Keeps s (execBnLoop b bodyM1 timesM1 s) := by
  unfold execBnLoop
  simp

@[simp] theorem execBnEnd_keeps (b : BnIx) (status : BitVec 16) (s : State)  : Keeps s (execBnEnd b status s) := by
  unfold execBnEnd
  split <;> simp +contextual

end Machine
end Sys2Proof
end

