-- ==== Sys2Proof/Laws/KeptPsets.lean ====
section
/-! SUPPORT. What the functions of Machine/Psets.lean keep: the queue of commands, and the memories or their canonical form. -/

set_option linter.all false

namespace Sys2Proof
namespace Machine

@[simp] theorem psetSts_mem (s : State) (busy : Bool) (reason : Nat) (st : Status) : (psetSts s busy reason st).mem = s.mem := by
  unfold psetSts
  simp
@[simp] theorem psetSts_pending (s : State) (busy : Bool) (reason : Nat) (st : Status) : (psetSts s busy reason st).pending = s.pending := by
  unfold psetSts
  simp

@[simp] theorem psetDone_mem (s : State) (reason : Nat) (st : Status) : (psetDone s reason st).mem = s.mem := by
  unfold psetDone
  simp
@[simp] theorem psetDone_pending (s : State) (reason : Nat) (st : Status) : (psetDone s reason st).pending = s.pending := by
  unfold psetDone
  simp

@[simp] theorem execPsetLoad_keeps (set : Fin 64) (nocheck : Bool) (len : BitVec 32) (desc : HostRead (List Byte)) (s : State) :
    Keeps s (execPsetLoad set nocheck len desc s) := by
  unfold execPsetLoad
  refine managerWrite_keeps _ _ _ (fun hs => ?_) ?_
  · split
    · exact hs
    · split
      · simp [hs]
      · split
        · simp [hs]
        · split
          · simp [hs]
          · split <;> simp [hs]
  · split
    · rfl
    · split
      · simp
      · split
        · simp
        · split
          · simp
          · split <;> simp

@[simp] theorem execPsetCheckDone_keeps (s : State)  : Keeps s (execPsetCheckDone s) := by
  unfold execPsetCheckDone
  split <;> simp +contextual

@[simp] theorem psetErase_mem (s : State) (set : Nat) : (psetErase s set).mem = s.mem := by
  unfold psetErase
  repeat' split
  all_goals simp
@[simp] theorem psetErase_pending (s : State) (set : Nat) : (psetErase s set).pending = s.pending := by
  unfold psetErase
  repeat' split
  all_goals simp

@[simp] theorem execPsetErase_keeps (set : Fin 64) (s : State)  : Keeps s (execPsetErase set s) := by
  unfold execPsetErase
  simp

@[simp] theorem psetBadOp_mem (s : State) : (psetBadOp s).mem = s.mem := by
  unfold psetBadOp
  simp
@[simp] theorem psetBadOp_pending (s : State) : (psetBadOp s).pending = s.pending := by
  unfold psetBadOp
  simp

@[simp] theorem dropUnchecked_mem (s : State) : (dropUnchecked s).mem = s.mem := by
  unfold dropUnchecked
  simp
@[simp] theorem dropUnchecked_pending (s : State) : (dropUnchecked s).pending = s.pending := by
  unfold dropUnchecked
  simp

end Machine
end Sys2Proof
end

