-- ==== Sys2Proof/Laws/KeptLoader.lean ====
section
/-! SUPPORT. What the functions of Machine/Loader.lean keep: the queue of commands, and the memories or their canonical form. -/

set_option linter.all false

namespace Sys2Proof
namespace Machine

@[simp] theorem ldSts_mem (s : State) (busy : Bool) (routine reason bundle : Nat) (st : Status) : (ldSts s busy routine reason bundle st).mem = s.mem := by
  unfold ldSts
  simp
@[simp] theorem ldSts_pending (s : State) (busy : Bool) (routine reason bundle : Nat) (st : Status) : (ldSts s busy routine reason bundle st).pending = s.pending := by
  unfold ldSts
  simp

@[simp] theorem ldFigures_mem (s : State) (f : Figures) : (ldFigures s f).mem = s.mem := by
  unfold ldFigures
  simp
@[simp] theorem ldFigures_pending (s : State) (f : Figures) : (ldFigures s f).pending = s.pending := by
  unfold ldFigures
  simp

@[simp] theorem ldBegin_mem (s : State) (c : LoadCmd) : (ldBegin s c).mem = s.mem := by
  unfold ldBegin
  simp
@[simp] theorem ldBegin_pending (s : State) (c : LoadCmd) : (ldBegin s c).pending = s.pending := by
  unfold ldBegin
  simp

@[simp] theorem loadImage_mem (s : State) (op len : Nat) (image : HostRead (List Byte)) (sigOk : Bool) : (loadImage s op len image sigOk).mem = s.mem := by
  unfold loadImage
  dsimp only
  repeat' split
  all_goals simp
@[simp] theorem loadImage_pending (s : State) (op len : Nat) (image : HostRead (List Byte)) (sigOk : Bool) : (loadImage s op len image sigOk).pending = s.pending := by
  unfold loadImage
  dsimp only
  repeat' split
  all_goals simp

@[simp] theorem execRoutineLoad_keeps (len : BitVec 32) (image : HostRead (List Byte)) (sigOk : Bool) (s : State)  : Keeps s (execRoutineLoad len image sigOk s) := by
  unfold execRoutineLoad
  simp

@[simp] theorem execRoutineCheck_keeps (len : BitVec 32) (image : HostRead (List Byte)) (sigOk : Bool) (s : State)  : Keeps s (execRoutineCheck len image sigOk s) := by
  unfold execRoutineCheck
  simp

@[simp] theorem unloadCmd_mem (s : State) (rn : Nat) : (unloadCmd s rn).mem = s.mem := by
  unfold unloadCmd
  repeat' split
  all_goals simp
@[simp] theorem unloadCmd_pending (s : State) (rn : Nat) : (unloadCmd s rn).pending = s.pending := by
  unfold unloadCmd
  repeat' split
  all_goals simp

@[simp] theorem execRoutineUnload_keeps (rn : Fin 4096) (s : State)  : Keeps s (execRoutineUnload rn s) := by
  unfold execRoutineUnload
  simp

@[simp] theorem ldBadOp_mem (s : State) (op rn : Nat) : (ldBadOp s op rn).mem = s.mem := by
  unfold ldBadOp
  simp
@[simp] theorem ldBadOp_pending (s : State) (op rn : Nat) : (ldBadOp s op rn).pending = s.pending := by
  unfold ldBadOp
  simp

@[simp] theorem pruneOld_mem (s : State) : (pruneOld s).mem = s.mem := by
  unfold pruneOld
  simp
@[simp] theorem pruneOld_pending (s : State) : (pruneOld s).pending = s.pending := by
  unfold pruneOld
  simp

@[simp] theorem unloadEntry_mem (s : State) (rn : Nat) : (unloadEntry s rn).mem = s.mem := by
  unfold unloadEntry
  split <;> simp
@[simp] theorem unloadEntry_pending (s : State) (rn : Nat) : (unloadEntry s rn).pending = s.pending := by
  unfold unloadEntry
  split <;> simp

@[simp] theorem commitImage_mem (s : State) (im : Image) : (commitImage s im).mem = s.mem := by
  unfold commitImage
  simp
@[simp] theorem commitImage_pending (s : State) (im : Image) : (commitImage s im).pending = s.pending := by
  unfold commitImage
  simp

@[simp] theorem ldReport_mem (s : State) (c : LoadCmd) : (ldReport s c).mem = s.mem := by
  unfold ldReport
  simp
@[simp] theorem ldReport_pending (s : State) (c : LoadCmd) : (ldReport s c).pending = s.pending := by
  unfold ldReport
  simp

@[simp] theorem execLoaderCommandDone_keeps (s : State)  : Keeps s (execLoaderCommandDone s) := by
  unfold execLoaderCommandDone
  repeat' split
  all_goals simp (maxDischargeDepth := 60) +contextual

@[simp] theorem unloadSigner_mem (s : State) (slot : Nat) : (unloadSigner s slot).mem = s.mem := by
  unfold unloadSigner
  simp [foldl_mem]
@[simp] theorem unloadSigner_pending (s : State) (slot : Nat) : (unloadSigner s slot).pending = s.pending := by
  unfold unloadSigner
  simp [foldl_pending]

@[simp] theorem reloadAll_mem (s : State) (first : Bool) : (reloadAll s first).mem = s.mem := by
  unfold reloadAll
  simp [foldl_mem]
@[simp] theorem reloadAll_pending (s : State) (first : Bool) : (reloadAll s first).pending = s.pending := by
  unfold reloadAll
  simp [foldl_pending]

end Machine
end Sys2Proof
end

