-- ==== Sys2Proof/Laws/KeptLibrary.lean ====
section
/-! SUPPORT. What the functions of Machine/Library.lean keep: the queue of commands, and the memories or their canonical form. -/

set_option linter.all false

namespace Sys2Proof
namespace Machine

@[simp] theorem execEcho_keeps (e : EngIx) (s : State)  : Keeps s (execEcho e s) := by
  unfold execEcho
  simp +contextual

@[simp] theorem execRekeySlot_keeps (e : EngIx) (s : State)  : Keeps s (execRekeySlot e s) := by
  unfold execRekeySlot
  simp +contextual

@[simp] theorem rekeyAll_mem (s : State) (v : Order) (t : Tmpl) (k : KeyReg) (picks : List Nat) (n : Nat) :
    (rekeyAll s v t k picks n).1.mem = s.mem := by
  induction n with
  | zero => rfl
  | succ m ih =>
    unfold rekeyAll
    split
    · rename_i h; rw [h] at ih; exact ih
    · rename_i h
      rw [h] at ih
      dsimp only
      split
      · rename_i h2; exact (keyStorePut_fst h2).1.trans ih
      · rename_i h2; exact (keyStorePut_fst h2).1.trans ih
@[simp] theorem rekeyAll_pending (s : State) (v : Order) (t : Tmpl) (k : KeyReg) (picks : List Nat) (n : Nat) :
    (rekeyAll s v t k picks n).1.pending = s.pending := by
  induction n with
  | zero => rfl
  | succ m ih =>
    unfold rekeyAll
    split
    · rename_i h; rw [h] at ih; exact ih
    · rename_i h
      rw [h] at ih
      dsimp only
      split
      · rename_i h2; exact (keyStorePut_fst h2).2.trans ih
      · rename_i h2; exact (keyStorePut_fst h2).2.trans ih

@[simp] theorem execRekeyStep_keeps (e : EngIx) (rdKey : CellarRead) (picks : List Nat) (s : State)  : Keeps s (execRekeyStep e rdKey picks s) := by
  unfold execRekeyStep
  first | (simp (maxDischargeDepth := 60) +contextual; done) | (simp (maxDischargeDepth := 60) +contextual [foldl_mem, foldl_wf, foldl_fst_mem, foldl_fst_wf, foldl_snd_mem, foldl_snd_wf, foldl_pending, foldl_fst_pending, foldl_snd_pending]; done) | ((repeat' (first | with_reducible apply managerWrite_keeps | with_reducible apply onEngine_keeps | with_reducible apply onRoutine_keeps | with_reducible apply onService_keeps | with_reducible apply onProg_keeps | with_reducible apply slotInstr_keeps | with_reducible apply qcmd_wf | with_reducible apply qcmd_pending | with_reducible apply chainCmd_wf | with_reducible apply chainCmd_pending | with_reducible apply withDrbg_wf | with_reducible apply withDrbg_pending | with_reducible apply keeps_go | with_reducible refine (foldl_pending _ (fun _ _ => ?_) _ _).trans ?_ | with_reducible refine foldl_wf _ (fun _ _ _ => ?_) _ _ ?_ | (split <;> (try (rename_i heq; have h1 := congrArg Prod.fst heq; have h2 := congrArg Prod.snd heq; dsimp only at h1 h2; clear heq; (try subst h1); (try subst h2)))) | dsimp only | intro _)) <;> (first | (simp (maxDischargeDepth := 60) +contextual [foldl_mem, foldl_wf, foldl_fst_mem, foldl_fst_wf, foldl_snd_mem, foldl_snd_wf, foldl_pending, foldl_fst_pending, foldl_snd_pending, *]; done) | simp_all (maxDischargeDepth := 60) +contextual [foldl_mem, foldl_wf, foldl_fst_mem, foldl_fst_wf, foldl_snd_mem, foldl_snd_wf, foldl_pending, foldl_fst_pending, foldl_snd_pending]))

@[simp] theorem handOver_wf (s : State) (e : EngIx) (o : Nat) (v : Order) (h : HandOff) (staged : Tab Byte) (hwf : s.mem.wf = true)  : (handOver s e o v h staged).mem.wf = true := by
  unfold handOver
  simp [hwf]
@[simp] theorem handOver_pending (s : State) (e : EngIx) (o : Nat) (v : Order) (h : HandOff) (staged : Tab Byte)  : (handOver s e o v h staged).pending = s.pending := by
  unfold handOver
  simp

@[simp] theorem execTransportOpen_keeps (e : EngIx) (s : State)  : Keeps s (execTransportOpen e s) := by
  unfold execTransportOpen
  simp +contextual

@[simp] theorem execAttest_keeps (e : EngIx) (rd0 : CellarRead) (s : State)  : Keeps s (execAttest e rd0 s) := by
  unfold execAttest
  first | (simp (maxDischargeDepth := 60) +contextual; done) | (simp (maxDischargeDepth := 60) +contextual [foldl_mem, foldl_wf, foldl_fst_mem, foldl_fst_wf, foldl_snd_mem, foldl_snd_wf, foldl_pending, foldl_fst_pending, foldl_snd_pending]; done) | ((repeat' (first | with_reducible apply managerWrite_keeps | with_reducible apply onEngine_keeps | with_reducible apply onRoutine_keeps | with_reducible apply onService_keeps | with_reducible apply onProg_keeps | with_reducible apply slotInstr_keeps | with_reducible apply qcmd_wf | with_reducible apply qcmd_pending | with_reducible apply chainCmd_wf | with_reducible apply chainCmd_pending | with_reducible apply withDrbg_wf | with_reducible apply withDrbg_pending | with_reducible apply keeps_go | with_reducible refine (foldl_pending _ (fun _ _ => ?_) _ _).trans ?_ | with_reducible refine foldl_wf _ (fun _ _ _ => ?_) _ _ ?_ | (split <;> (try (rename_i heq; have h1 := congrArg Prod.fst heq; have h2 := congrArg Prod.snd heq; dsimp only at h1 h2; clear heq; (try subst h1); (try subst h2)))) | dsimp only | intro _)) <;> (first | (simp (maxDischargeDepth := 60) +contextual [foldl_mem, foldl_wf, foldl_fst_mem, foldl_fst_wf, foldl_snd_mem, foldl_snd_wf, foldl_pending, foldl_fst_pending, foldl_snd_pending, *]; done) | simp_all (maxDischargeDepth := 60) +contextual [foldl_mem, foldl_wf, foldl_fst_mem, foldl_fst_wf, foldl_snd_mem, foldl_snd_wf, foldl_pending, foldl_fst_pending, foldl_snd_pending]))

end Machine
end Sys2Proof
end

