-- ==== Sys2Proof/Laws/KeptTickets.lean ====
section
/-! SUPPORT. What the functions of Machine/Tickets.lean keep: the queue of commands, and the memories or their canonical form. -/

set_option linter.all false

namespace Sys2Proof
namespace Machine

@[simp] theorem copyUnlock_mem (s : State) : (copyUnlock s).mem = s.mem := by
  unfold copyUnlock
  simp
@[simp] theorem copyUnlock_pending (s : State) : (copyUnlock s).pending = s.pending := by
  unfold copyUnlock
  simp

@[simp] theorem ticketReport_mem (s : State) (op ix action order : Nat) : (ticketReport s op ix action order).mem = s.mem := by
  unfold ticketReport
  simp
@[simp] theorem ticketReport_pending (s : State) (op ix action order : Nat) : (ticketReport s op ix action order).pending = s.pending := by
  unfold ticketReport
  simp

@[simp] theorem consumeTicket_mem (s : State) (h : Held) : (consumeTicket s h).mem = s.mem := by
  unfold consumeTicket
  simp
@[simp] theorem consumeTicket_pending (s : State) (h : Held) : (consumeTicket s h).pending = s.pending := by
  unfold consumeTicket
  simp

@[simp] theorem consumePair_mem (s : State) (t : Held × Held) : (consumePair s t).mem = s.mem := by
  unfold consumePair
  simp
@[simp] theorem consumePair_pending (s : State) (t : Held × Held) : (consumePair s t).pending = s.pending := by
  unfold consumePair
  simp

@[simp] theorem approveStep_mem (s : State) : (approveStep s).mem = s.mem := by
  unfold approveStep
  repeat' split
  all_goals simp
@[simp] theorem approveStep_pending (s : State) : (approveStep s).pending = s.pending := by
  unfold approveStep
  repeat' split
  all_goals simp

@[simp] theorem holdTicket_mem (s : State) (raw : BitVec 2176) (sigOk isLocal : Bool) : (holdTicket s raw sigOk isLocal).1.mem = s.mem := by
  unfold holdTicket
  split <;> simp
@[simp] theorem holdTicket_pending (s : State) (raw : BitVec 2176) (sigOk isLocal : Bool) : (holdTicket s raw sigOk isLocal).1.pending = s.pending := by
  unfold holdTicket
  split <;> simp

@[simp] theorem dropHeld_mem (s : State) : (dropHeld s).mem = s.mem := by
  unfold dropHeld
  simp
@[simp] theorem dropHeld_pending (s : State) : (dropHeld s).pending = s.pending := by
  unfold dropHeld
  simp

@[simp] theorem execTicketExpiry_keeps (t : Fin 16) (s : State)  : Keeps s (execTicketExpiry t s) := by
  unfold execTicketExpiry
  split <;> simp +contextual

@[simp] theorem execConsumedEntryLapse_keeps (digest : BitVec 256) (s : State)  : Keeps s (execConsumedEntryLapse digest s) := by
  unfold execConsumedEntryLapse
  simp

@[simp] theorem execTimepulseEdge_keeps (off : Nat) (s : State)  : Keeps s (execTimepulseEdge off s) := by
  unfold execTimepulseEdge
  simp

end Machine
end Sys2Proof
end

