-- ==== Sys2Proof/Laws/KeptStair.lean ====
section
/-! SUPPORT. What the functions of Machine/Stair.lean keep: the queue of commands, and the memories or their canonical form. -/

set_option linter.all false

namespace Sys2Proof
namespace Machine

@[simp] theorem setPort_mem (s : State) (p : Bool) (q : Port) : (setPort s p q).mem = s.mem := by
  unfold setPort
  simp
@[simp] theorem setPort_pending (s : State) (p : Bool) (q : Port) : (setPort s p q).pending = s.pending := by
  unfold setPort
  simp

@[simp] theorem emitFrame_mem (s : State) (p : Bool) (typ : Nat) (bytes : List Nat) : (emitFrame s p typ bytes).mem = s.mem := by
  unfold emitFrame
  simp
@[simp] theorem emitFrame_pending (s : State) (p : Bool) (typ : Nat) (bytes : List Nat) : (emitFrame s p typ bytes).pending = s.pending := by
  unfold emitFrame
  simp

@[simp] theorem sendCtl_mem (s : State) (p : Bool) (typ seq : Nat) : (sendCtl s p typ seq).mem = s.mem := by
  unfold sendCtl
  simp
@[simp] theorem sendCtl_pending (s : State) (p : Bool) (typ seq : Nat) : (sendCtl s p typ seq).pending = s.pending := by
  unfold sendCtl
  simp

@[simp] theorem scanPort_mem (s : State) (p : Bool) (l : List ScanHop) : (scanPort s p l).mem = s.mem := by
  unfold scanPort
  simp
@[simp] theorem scanPort_pending (s : State) (p : Bool) (l : List ScanHop) : (scanPort s p l).pending = s.pending := by
  unfold scanPort
  simp

@[simp] theorem sendScan_mem (s : State) : (sendScan s).mem = s.mem := by
  unfold sendScan
  simp
@[simp] theorem sendScan_pending (s : State) : (sendScan s).pending = s.pending := by
  unfold sendScan
  simp

@[simp] theorem wakePort_mem (s : State) (p : Bool) : (wakePort s p).mem = s.mem := by
  unfold wakePort
  simp
@[simp] theorem wakePort_pending (s : State) (p : Bool) : (wakePort s p).pending = s.pending := by
  unfold wakePort
  simp

@[simp] theorem agreeDoze_mem (s : State) (p : Bool) : (agreeDoze s p).mem = s.mem := by
  unfold agreeDoze
  simp
@[simp] theorem agreeDoze_pending (s : State) (p : Bool) : (agreeDoze s p).pending = s.pending := by
  unfold agreeDoze
  simp

@[simp] theorem enterDoze_mem (s : State) (p : Bool) : (enterDoze s p).mem = s.mem := by
  unfold enterDoze
  simp
@[simp] theorem enterDoze_pending (s : State) (p : Bool) : (enterDoze s p).pending = s.pending := by
  unfold enterDoze
  simp

@[simp] theorem beatPass_mem (s : State) : (beatPass s).mem = s.mem := by
  unfold beatPass
  simp
@[simp] theorem beatPass_pending (s : State) : (beatPass s).pending = s.pending := by
  unfold beatPass
  simp

@[simp] theorem pumpPort_mem (s : State) (p : Bool) : (pumpPort s p).mem = s.mem := by
  unfold pumpPort
  simp [foldl_mem]
@[simp] theorem pumpPort_pending (s : State) (p : Bool) : (pumpPort s p).pending = s.pending := by
  unfold pumpPort
  simp [foldl_pending]

@[simp] theorem sendFrame_mem (s : State) (p : Bool) (f : Frame) : (sendFrame s p f).mem = s.mem := by
  unfold sendFrame
  simp
@[simp] theorem sendFrame_pending (s : State) (p : Bool) (f : Frame) : (sendFrame s p f).pending = s.pending := by
  unfold sendFrame
  simp

@[simp] theorem noPath_mem (s : State) (p : Bool) : (noPath s p).mem = s.mem := by
  unfold noPath
  simp
@[simp] theorem noPath_pending (s : State) (p : Bool) : (noPath s p).pending = s.pending := by
  unfold noPath
  simp

@[simp] theorem reassemble_mem (s : State) (f : Frame) : (reassemble s f).mem = s.mem := by
  unfold reassemble
  dsimp only
  repeat' split
  all_goals simp
@[simp] theorem reassemble_pending (s : State) (f : Frame) : (reassemble s f).pending = s.pending := by
  unfold reassemble
  dsimp only
  repeat' split
  all_goals simp

@[simp] theorem forwardFrame_mem (s : State) (p : Bool) (f : Frame) : (forwardFrame s p f).mem = s.mem := by
  unfold forwardFrame
  simp
@[simp] theorem forwardFrame_pending (s : State) (p : Bool) (f : Frame) : (forwardFrame s p f).pending = s.pending := by
  unfold forwardFrame
  simp

@[simp] theorem execStairData_keeps (port : Bool) (f : Frame) (s : State)  : Keeps s (execStairData port f s) := by
  unfold execStairData
  simp

@[simp] theorem execStairAck_keeps (port : Bool) (seq : BitVec 32) (s : State)  : Keeps s (execStairAck port seq s) := by
  unfold execStairAck
  simp

@[simp] theorem execReassemblyTimeout_keeps (src : Fin 256) (tag : BitVec 16) (s : State)  : Keeps s (execReassemblyTimeout src tag s) := by
  unfold execReassemblyTimeout
  simp

@[simp] theorem setMap_mem (s : State) (closed : Bool) (l : List ScanHop) : (setMap s closed l).mem = s.mem := by
  unfold setMap
  simp
@[simp] theorem setMap_pending (s : State) (closed : Bool) (l : List ScanHop) : (setMap s closed l).pending = s.pending := by
  unfold setMap
  simp

@[simp] theorem chainMap_mem (s : State) : (chainMap s).mem = s.mem := by
  unfold chainMap
  simp
@[simp] theorem chainMap_pending (s : State) : (chainMap s).pending = s.pending := by
  unfold chainMap
  simp

@[simp] theorem ringMap_mem (s : State) (l : List ScanHop) : (ringMap s l).mem = s.mem := by
  unfold ringMap
  simp
@[simp] theorem ringMap_pending (s : State) (l : List ScanHop) : (ringMap s l).pending = s.pending := by
  unfold ringMap
  simp

@[simp] theorem passScan_mem (s : State) (p : Bool) (l : List ScanHop) (last : Bool) : (passScan s p l last).mem = s.mem := by
  unfold passScan
  simp
@[simp] theorem passScan_pending (s : State) (p : Bool) (l : List ScanHop) (last : Bool) : (passScan s p l last).pending = s.pending := by
  unfold passScan
  simp

@[simp] theorem execStairScan_keeps (port : Bool) (origin : ScanHop) (hops : List ScanHop) (last : Bool) (farPort : Bool) (s : State)  : Keeps s (execStairScan port origin hops last farPort s) := by
  unfold execStairScan
  simp

@[simp] theorem execScanPeriodic_keeps (s : State)  : Keeps s (execScanPeriodic s) := by
  unfold execScanPeriodic
  simp

@[simp] theorem loseSide_mem (s : State) (p : Bool) : (loseSide s p).mem = s.mem := by
  unfold loseSide
  simp
@[simp] theorem loseSide_pending (s : State) (p : Bool) : (loseSide s p).pending = s.pending := by
  unfold loseSide
  simp

@[simp] theorem downPort_mem (s : State) (p : Bool) (dest : LinkState) : (downPort s p dest).mem = s.mem := by
  unfold downPort
  simp [foldl_mem]
@[simp] theorem downPort_pending (s : State) (p : Bool) (dest : LinkState) : (downPort s p dest).pending = s.pending := by
  unfold downPort
  simp [foldl_pending]

@[simp] theorem execStairLinkDown_keeps (port : Bool) (s : State)  : Keeps s (execStairLinkDown port s) := by
  unfold execStairLinkDown
  simp

@[simp] theorem execStairRetransmitTimeout_keeps (port : Bool) (s : State)  : Keeps s (execStairRetransmitTimeout port s) := by
  unfold execStairRetransmitTimeout
  dsimp only
  repeat' split
  all_goals simp (maxDischargeDepth := 60) +contextual [foldl_wf, foldl_pending, *]

@[simp] theorem execLinkTrained_keeps (port : Bool) (ok : Bool) (s : State)  : Keeps s (execLinkTrained port ok s) := by
  unfold execLinkTrained
  simp

@[simp] theorem execDozeIdleTimeout_keeps (port : Bool) (s : State)  : Keeps s (execDozeIdleTimeout port s) := by
  unfold execDozeIdleTimeout
  simp

@[simp] theorem execDozeReq_keeps (port : Bool) (s : State)  : Keeps s (execDozeReq port s) := by
  unfold execDozeReq
  simp

@[simp] theorem execDozeAck_keeps (port : Bool) (s : State)  : Keeps s (execDozeAck port s) := by
  unfold execDozeAck
  simp

@[simp] theorem execDozeNak_keeps (port : Bool) (s : State)  : Keeps s (execDozeNak port s) := by
  unfold execDozeNak
  simp

@[simp] theorem execWakeRequest_keeps (port : Bool) (s : State)  : Keeps s (execWakeRequest port s) := by
  unfold execWakeRequest
  simp

@[simp] theorem execDozeResidencyEnd_keeps (port : Bool) (s : State)  : Keeps s (execDozeResidencyEnd port s) := by
  unfold execDozeResidencyEnd
  simp

@[simp] theorem portEnable_mem (s : State) (p : Bool) : (portEnable s p).mem = s.mem := by
  unfold portEnable
  simp
@[simp] theorem portEnable_pending (s : State) (p : Bool) : (portEnable s p).pending = s.pending := by
  unfold portEnable
  simp

@[simp] theorem stCfg_mem (s : State) (val : Word) : (stCfg s val).mem = s.mem := by
  unfold stCfg
  simp
@[simp] theorem stCfg_pending (s : State) (val : Word) : (stCfg s val).pending = s.pending := by
  unfold stCfg
  simp

@[simp] theorem execStCfgWrite_keeps (val : Word) (s : State)  : Keeps s (execStCfgWrite val s) := by
  unfold execStCfgWrite
  simp

@[simp] theorem sendByStair_mem (s : State) (p : Bool) (pos : Nat) (bytes : List Nat) : (sendByStair s p pos bytes).mem = s.mem := by
  unfold sendByStair
  simp [foldl_mem]
@[simp] theorem sendByStair_pending (s : State) (p : Bool) (pos : Nat) (bytes : List Nat) : (sendByStair s p pos bytes).pending = s.pending := by
  unfold sendByStair
  simp [foldl_pending]

end Machine
end Sys2Proof
end

