-- ==== Sys2Proof/Laws/KeptEnvelope.lean ====
section
/-! SUPPORT. What the functions of Machine/Envelope.lean keep: the queue of commands, and the memories or their canonical form. -/

set_option linter.all false

namespace Sys2Proof
namespace Machine

@[simp] theorem withCu_mem (s : State) (f : Cu → Cu) : (withCu s f).mem = s.mem := by
  unfold withCu
  simp
@[simp] theorem withCu_pending (s : State) (f : Cu → Cu) : (withCu s f).pending = s.pending := by
  unfold withCu
  simp

@[simp] theorem setRoster_mem (s : State) (m : Nat) (e : RosterEntry) : (setRoster s m e).mem = s.mem := by
  unfold setRoster
  simp
@[simp] theorem setRoster_pending (s : State) (m : Nat) (e : RosterEntry) : (setRoster s m e).pending = s.pending := by
  unfold setRoster
  simp

@[simp] theorem drawNonce_mem (s : State) : (drawNonce s).2.mem = s.mem := by
  unfold drawNonce
  simp
@[simp] theorem drawNonce_pending (s : State) : (drawNonce s).2.pending = s.pending := by
  unfold drawNonce
  simp

@[simp] theorem datkSign_mem (s : State) (l : List (Nat × Nat)) (ctx : String) : (datkSign s l ctx).2.mem = s.mem := by
  unfold datkSign
  simp
@[simp] theorem datkSign_pending (s : State) (l : List (Nat × Nat)) (ctx : String) : (datkSign s l ctx).2.pending = s.pending := by
  unfold datkSign
  simp

@[simp] theorem signCert_mem (s : State) (c : Cert) : (signCert s c).2.mem = s.mem := by
  unfold signCert
  simp
@[simp] theorem signCert_pending (s : State) (c : Cert) : (signCert s c).2.pending = s.pending := by
  unfold signCert
  simp

@[simp] theorem queueEnv_mem (s : State) (e : EnvOut) : (queueEnv s e).mem = s.mem := by
  unfold queueEnv
  simp
@[simp] theorem queueEnv_pending (s : State) (e : EnvOut) : (queueEnv s e).pending = s.pending := by
  unfold queueEnv
  simp

@[simp] theorem putEnv_mem (s : State) (e : EnvOut) (path : Option (Bool × Nat)) : (putEnv s e path).mem = s.mem := by
  unfold putEnv
  dsimp only
  repeat' split
  all_goals simp
@[simp] theorem putEnv_pending (s : State) (e : EnvOut) (path : Option (Bool × Nat)) : (putEnv s e path).pending = s.pending := by
  unfold putEnv
  dsimp only
  repeat' split
  all_goals simp

@[simp] theorem sendPlain_mem (s : State) (e : EnvOut) : (sendPlain s e).mem = s.mem := by
  unfold sendPlain
  split <;> simp
@[simp] theorem sendPlain_pending (s : State) (e : EnvOut) : (sendPlain s e).pending = s.pending := by
  unfold sendPlain
  split <;> simp

@[simp] theorem sendHello_mem (s : State) (m : Nat) (h : Shake) : (sendHello s m h).mem = s.mem := by
  unfold sendHello
  simp
@[simp] theorem sendHello_pending (s : State) (m : Nat) (h : Shake) : (sendHello s m h).pending = s.pending := by
  unfold sendHello
  simp

@[simp] theorem startShake_mem (s : State) (m : Nat) : (startShake s m).mem = s.mem := by
  unfold startShake
  repeat' split
  all_goals simp
@[simp] theorem startShake_pending (s : State) (m : Nat) : (startShake s m).pending = s.pending := by
  unfold startShake
  repeat' split
  all_goals simp

@[simp] theorem storePair_mem (s : State) (m : Nat) (id : BitVec 32) (key : Key256) : (storePair s m id key).mem = s.mem := by
  unfold storePair
  simp
@[simp] theorem storePair_pending (s : State) (m : Nat) (id : BitVec 32) (key : Key256) : (storePair s m id key).pending = s.pending := by
  unfold storePair
  simp

@[simp] theorem dropPair_mem (s : State) (m : Nat) : (dropPair s m).mem = s.mem := by
  unfold dropPair
  simp
@[simp] theorem dropPair_pending (s : State) (m : Nat) : (dropPair s m).pending = s.pending := by
  unfold dropPair
  simp
theorem sendSealed_some {s t : State} {e : EnvOut} (h : sendSealed s e = some t) :
    t.mem = s.mem ∧ t.pending = s.pending := by
  unfold sendSealed at h
  split at h
  · split at h
    · cases h
    · injection h with h; subst h; split <;> simp
  · cases h

@[simp] theorem sendTo_mem (s : State) (e : EnvOut) : (sendTo s e).mem = s.mem := by
  unfold sendTo
  split
  · rfl
  · split
    · simp
    · dsimp only
      split
      · rename_i h
        rw [(sendSealed_some h).1]
        split <;> simp
      · split <;> simp
@[simp] theorem sendTo_pending (s : State) (e : EnvOut) : (sendTo s e).pending = s.pending := by
  unfold sendTo
  split
  · rfl
  · split
    · simp
    · dsimp only
      split
      · rename_i h
        rw [(sendSealed_some h).2]
        split <;> simp
      · split <;> simp

@[simp] theorem sendEnv_mem (s : State) (kind dst : Nat) (body : List (Nat × Nat)) : (sendEnv s kind dst body).mem = s.mem := by
  unfold sendEnv
  simp
@[simp] theorem sendEnv_pending (s : State) (kind dst : Nat) (body : List (Nat × Nat)) : (sendEnv s kind dst body).pending = s.pending := by
  unfold sendEnv
  simp

@[simp] theorem drainOut_mem (s : State) : (drainOut s).mem = s.mem := by
  unfold drainOut
  refine (foldl_mem _ (fun s e => ?_) _ _).trans (by simp)
  split
  · simp
  · split
    · rename_i h; exact (sendSealed_some h).1
    · simp
@[simp] theorem drainOut_pending (s : State) : (drainOut s).pending = s.pending := by
  unfold drainOut
  refine (foldl_pending _ (fun s e => ?_) _ _).trans (by simp)
  split
  · simp
  · split
    · rename_i h; exact (sendSealed_some h).2
    · simp

@[simp] theorem outHead_mem (s : State) (head : Nat) : (outHead s head).mem = s.mem := by
  unfold outHead
  simp
@[simp] theorem outHead_pending (s : State) (head : Nat) : (outHead s head).pending = s.pending := by
  unfold outHead
  simp

@[simp] theorem execOutRingHeadWrite_keeps (head : BitVec 12) (s : State)  : Keeps s (execOutRingHeadWrite head s) := by
  unfold execOutRingHeadWrite
  simp

@[simp] theorem inTail_mem (s : State) (tail : Nat) : (inTail s tail).mem = s.mem := by
  unfold inTail
  simp
@[simp] theorem inTail_pending (s : State) (tail : Nat) : (inTail s tail).pending = s.pending := by
  unfold inTail
  simp

@[simp] theorem execInRingTailWrite_keeps (tail : BitVec 12) (s : State)  : Keeps s (execInRingTailWrite tail s) := by
  unfold execInRingTailWrite
  simp

@[simp] theorem rewatch_mem (s : State) : (rewatch s).mem = s.mem := by
  unfold rewatch
  simp
@[simp] theorem rewatch_pending (s : State) : (rewatch s).pending = s.pending := by
  unfold rewatch
  simp

@[simp] theorem sendAround_mem (s : State) (kind : Nat) (body : List (Nat × Nat)) (but : Nat) : (sendAround s kind body but).mem = s.mem := by
  unfold sendAround
  simp [foldl_mem]
@[simp] theorem sendAround_pending (s : State) (kind : Nat) (body : List (Nat × Nat)) (but : Nat) : (sendAround s kind body but).pending = s.pending := by
  unfold sendAround
  simp [foldl_pending]

@[simp] theorem submitIntern_mem (s : State) (rn : Nat) (job : Option Job) : (submitIntern s rn job).mem = s.mem := by
  unfold submitIntern
  split <;> simp
@[simp] theorem submitIntern_pending (s : State) (rn : Nat) (job : Option Job) : (submitIntern s rn job).pending = s.pending := by
  unfold submitIntern
  split <;> simp

@[simp] theorem execInternalOrderResubmit_keeps (s : State)  : Keeps s (execInternalOrderResubmit s) := by
  unfold execInternalOrderResubmit
  dsimp only
  repeat' split
  all_goals simp (maxDischargeDepth := 60) +contextual [foldl_wf, foldl_pending, *]

end Machine
end Sys2Proof
end

