-- ==== Sys2Proof/Laws/KeptGroups.lean ====
section
/-! SUPPORT. What the functions of Machine/Groups.lean keep: the queue of commands, and the memories or their canonical form. -/

set_option linter.all false

namespace Sys2Proof
namespace Machine

@[simp] theorem domainStatus_mem (s : State) : (domainStatus s).mem = s.mem := by
  unfold domainStatus
  simp
@[simp] theorem domainStatus_pending (s : State) : (domainStatus s).pending = s.pending := by
  unfold domainStatus
  simp

@[simp] theorem setGroup_mem (s : State) (k : Nat) (g : Group) : (setGroup s k g).mem = s.mem := by
  unfold setGroup
  simp
@[simp] theorem setGroup_pending (s : State) (k : Nat) (g : Group) : (setGroup s k g).pending = s.pending := by
  unfold setGroup
  simp

@[simp] theorem updGroup_mem (s : State) (k : Nat) (f : Group → Group) : (updGroup s k f).mem = s.mem := by
  unfold updGroup
  split <;> simp
@[simp] theorem updGroup_pending (s : State) (k : Nat) (f : Group → Group) : (updGroup s k f).pending = s.pending := by
  unfold updGroup
  split <;> simp

@[simp] theorem sendPlace_mem (s : State) (g : Group) (kind gen i : Nat) (body : List (Nat × Nat)) : (sendPlace s g kind gen i body).mem = s.mem := by
  unfold sendPlace
  simp
@[simp] theorem sendPlace_pending (s : State) (g : Group) (kind gen i : Nat) (body : List (Nat × Nat)) : (sendPlace s g kind gen i body).pending = s.pending := by
  unfold sendPlace
  simp

@[simp] theorem sendRoles_mem (s : State) (g : Group) (kind gen : Nat) (body : List (Nat × Nat)) : (sendRoles s g kind gen body).mem = s.mem := by
  unfold sendRoles
  simp [foldl_mem]
@[simp] theorem sendRoles_pending (s : State) (g : Group) (kind gen : Nat) (body : List (Nat × Nat)) : (sendRoles s g kind gen body).pending = s.pending := by
  unfold sendRoles
  simp [foldl_pending]

@[simp] theorem announce_mem (s : State) (k : Nat) (g : Group) : (announce s k g).mem = s.mem := by
  unfold announce
  simp
@[simp] theorem announce_pending (s : State) (k : Nat) (g : Group) : (announce s k g).pending = s.pending := by
  unfold announce
  simp

@[simp] theorem placeCustody_mem (s : State) (kind : Nat) (target : Word) (gen : BitVec 16) : (placeCustody s kind target gen).mem = s.mem := by
  unfold placeCustody
  simp
@[simp] theorem placeCustody_pending (s : State) (kind : Nat) (target : Word) (gen : BitVec 16) : (placeCustody s kind target gen).pending = s.pending := by
  unfold placeCustody
  simp

@[simp] theorem planKind_mem (s : State) (kind : Nat) : (planKind s kind).mem = s.mem := by
  unfold planKind
  dsimp only
  repeat' split
  all_goals simp
@[simp] theorem planKind_pending (s : State) (kind : Nat) : (planKind s kind).pending = s.pending := by
  unfold planKind
  dsimp only
  repeat' split
  all_goals simp

@[simp] theorem planCustody_mem (s : State) : (planCustody s).mem = s.mem := by
  unfold planCustody
  simp
@[simp] theorem planCustody_pending (s : State) : (planCustody s).pending = s.pending := by
  unfold planCustody
  simp

@[simp] theorem execCustodySchedRetry_keeps (kind : Fin 3) (s : State)  : Keeps s (execCustodySchedRetry kind s) := by
  unfold execCustodySchedRetry
  split <;> simp +contextual

@[simp] theorem repair_mem (s : State) (k : Nat) : (repair s k).mem = s.mem := by
  unfold repair
  repeat' split
  all_goals simp
@[simp] theorem repair_pending (s : State) (k : Nat) : (repair s k).pending = s.pending := by
  unfold repair
  repeat' split
  all_goals simp

@[simp] theorem markPosLost_mem (s : State) (k i : Nat) : (markPosLost s k i).mem = s.mem := by
  unfold markPosLost
  split <;> simp
@[simp] theorem markPosLost_pending (s : State) (k i : Nat) : (markPosLost s k i).pending = s.pending := by
  unfold markPosLost
  split <;> simp

@[simp] theorem memberLost_mem (s : State) (m : Nat) : (memberLost s m).mem = s.mem := by
  unfold memberLost
  first | (simp; done) | (simp [foldl_mem, foldl_pending, foldl_fst_mem, foldl_fst_pending, foldl_snd_mem, foldl_snd_pending, *]; done) | ((try simp [foldl_mem, foldl_pending, foldl_fst_mem, foldl_fst_pending, foldl_snd_mem, foldl_snd_pending]) <;> (repeat' (first | with_reducible refine (foldl_mem _ (fun _ _ => ?_) _ _).trans ?_ | with_reducible refine (foldl_pending _ (fun _ _ => ?_) _ _).trans ?_ | (split <;> (try (rename_i heq; have h1 := congrArg Prod.fst heq; have h2 := congrArg Prod.snd heq; dsimp only at h1 h2; clear heq; (try subst h1); (try subst h2)))) | dsimp only)) <;> simp_all [foldl_mem, foldl_pending, foldl_fst_mem, foldl_fst_pending, foldl_snd_mem, foldl_snd_pending])
@[simp] theorem memberLost_pending (s : State) (m : Nat) : (memberLost s m).pending = s.pending := by
  unfold memberLost
  first | (simp; done) | (simp [foldl_mem, foldl_pending, foldl_fst_mem, foldl_fst_pending, foldl_snd_mem, foldl_snd_pending, *]; done) | ((try simp [foldl_mem, foldl_pending, foldl_fst_mem, foldl_fst_pending, foldl_snd_mem, foldl_snd_pending]) <;> (repeat' (first | with_reducible refine (foldl_mem _ (fun _ _ => ?_) _ _).trans ?_ | with_reducible refine (foldl_pending _ (fun _ _ => ?_) _ _).trans ?_ | (split <;> (try (rename_i heq; have h1 := congrArg Prod.fst heq; have h2 := congrArg Prod.snd heq; dsimp only at h1 h2; clear heq; (try subst h1); (try subst h2)))) | dsimp only)) <;> simp_all [foldl_mem, foldl_pending, foldl_fst_mem, foldl_fst_pending, foldl_snd_mem, foldl_snd_pending])

@[simp] theorem memberBack_mem (s : State) : (memberBack s).mem = s.mem := by
  unfold memberBack
  simp [foldl_mem]
@[simp] theorem memberBack_pending (s : State) : (memberBack s).pending = s.pending := by
  unfold memberBack
  simp [foldl_pending]

@[simp] theorem dropGroupKey_mem (s : State) (g : Group) : (dropGroupKey s g).mem = s.mem := by
  unfold dropGroupKey
  repeat' split
  all_goals simp
@[simp] theorem dropGroupKey_pending (s : State) (g : Group) : (dropGroupKey s g).pending = s.pending := by
  unfold dropGroupKey
  repeat' split
  all_goals simp

@[simp] theorem loseRole_mem (s : State) (k : Nat) : (loseRole s k).mem = s.mem := by
  unfold loseRole
  split <;> simp
@[simp] theorem loseRole_pending (s : State) (k : Nat) : (loseRole s k).pending = s.pending := by
  unfold loseRole
  split <;> simp

@[simp] theorem dropGroup_mem (s : State) (k : Nat) : (dropGroup s k).mem = s.mem := by
  unfold dropGroup
  dsimp only
  repeat' split
  all_goals simp [foldl_mem]
@[simp] theorem dropGroup_pending (s : State) (k : Nat) : (dropGroup s k).pending = s.pending := by
  unfold dropGroup
  dsimp only
  repeat' split
  all_goals simp [foldl_pending]

@[simp] theorem drawCoeffs_mem (s : State) (n : Nat) : (drawCoeffs s n).2.mem = s.mem := by
  induction n generalizing s with
  | zero => rfl
  | succ k ih => unfold drawCoeffs; simp [ih]
@[simp] theorem drawCoeffs_pending (s : State) (n : Nat) : (drawCoeffs s n).2.pending = s.pending := by
  induction n generalizing s with
  | zero => rfl
  | succ k ih => unfold drawCoeffs; simp [ih]

@[simp] theorem drawPolys_mem (s : State) (d : GroupDesc) (lo hi : Nat) (full : Bool) : (drawPolys s d lo hi full).2.mem = s.mem := by
  unfold drawPolys
  simp
@[simp] theorem drawPolys_pending (s : State) (d : GroupDesc) (lo hi : Nat) (full : Bool) : (drawPolys s d lo hi full).2.pending = s.pending := by
  unfold drawPolys
  simp

@[simp] theorem writeGroupKey_mem (s : State) (k : Nat) (mat : Key256) : (writeGroupKey s k mat).1.mem = s.mem := by
  unfold writeGroupKey
  simp
@[simp] theorem writeGroupKey_pending (s : State) (k : Nat) (mat : Key256) : (writeGroupKey s k mat).1.pending = s.pending := by
  unfold writeGroupKey
  simp

end Machine
end Sys2Proof
end

