-- ==== Sys2Proof/Laws/KeptInbox.lean ====
section
/-! SUPPORT. What the functions of Machine/Inbox.lean keep: the queue of commands, and the memories or their canonical form. -/

set_option linter.all false

namespace Sys2Proof
namespace Machine

@[simp] theorem markAbsent_mem (s : State) (m cause : Nat) : (markAbsent s m cause).mem = s.mem := by
  unfold markAbsent
  split <;> simp
@[simp] theorem markAbsent_pending (s : State) (m cause : Nat) : (markAbsent s m cause).pending = s.pending := by
  unfold markAbsent
  split <;> simp

@[simp] theorem heardFrom_mem (s : State) (m : Nat) (flag : Bool) : (heardFrom s m flag).mem = s.mem := by
  unfold heardFrom
  extract_lets s1 s2
  have h2 : s2.mem = s.mem := by simp only [s2]; split <;> simp [s1]
  split
  · extract_lets s3
    have h3 : s3.mem = s.mem := by simp [s3, h2]
    split <;> simp [h3]
  · exact h2
@[simp] theorem heardFrom_pending (s : State) (m : Nat) (flag : Bool) : (heardFrom s m flag).pending = s.pending := by
  unfold heardFrom
  extract_lets s1 s2
  have h2 : s2.pending = s.pending := by simp only [s2]; split <;> simp [s1]
  split
  · extract_lets s3
    have h3 : s3.pending = s.pending := by simp [s3, h2]
    split <;> simp [h3]
  · exact h2

@[simp] theorem envFail_mem (s : State) (hi lo : Nat) : (envFail s hi lo).mem = s.mem := by
  unfold envFail
  simp
@[simp] theorem envFail_pending (s : State) (hi lo : Nat) : (envFail s hi lo).pending = s.pending := by
  unfold envFail
  simp

@[simp] theorem acceptEnv_mem (s : State) (h : EnvHdr) (kind : Nat) (m : Msg) : (acceptEnv s h kind m).1.mem = s.mem := by
  unfold acceptEnv
  repeat' split
  all_goals simp
@[simp] theorem acceptEnv_pending (s : State) (h : EnvHdr) (kind : Nat) (m : Msg) : (acceptEnv s h kind m).1.pending = s.pending := by
  unfold acceptEnv
  repeat' split
  all_goals simp

@[simp] theorem onEnv_wf (s : State) (h : EnvHdr) (kind : Nat) (m : Msg) (f : State → State) (hwf : s.mem.wf = true) (hf : ∀ x0, x0.mem.wf = true → (f x0).mem.wf = true) : (onEnv s h kind m f).mem.wf = true := by
  unfold onEnv
  simp (maxDischargeDepth := 60) +contextual [*]
@[simp] theorem onEnv_pending (s : State) (h : EnvHdr) (kind : Nat) (m : Msg) (f : State → State) (hg : ∀ x0, (f x0).pending = x0.pending) : (onEnv s h kind m f).pending = s.pending := by
  unfold onEnv
  simp [*]

@[simp] theorem sendLeave_mem (s : State) : (sendLeave s).mem = s.mem := by
  unfold sendLeave
  simp [foldl_mem]
@[simp] theorem sendLeave_pending (s : State) : (sendLeave s).pending = s.pending := by
  unfold sendLeave
  simp [foldl_pending]

@[simp] theorem forgetDomain_mem (s : State) : (forgetDomain s).mem = s.mem := by
  unfold forgetDomain
  simp
@[simp] theorem forgetDomain_pending (s : State) : (forgetDomain s).pending = s.pending := by
  unfold forgetDomain
  simp

@[simp] theorem dropDomain_mem (s : State) : (dropDomain s).mem = s.mem := by
  unfold dropDomain
  simp
@[simp] theorem dropDomain_pending (s : State) : (dropDomain s).pending = s.pending := by
  unfold dropDomain
  simp

@[simp] theorem leaveDomain_mem (s : State) : (leaveDomain s).mem = s.mem := by
  unfold leaveDomain
  simp
@[simp] theorem leaveDomain_pending (s : State) : (leaveDomain s).pending = s.pending := by
  unfold leaveDomain
  simp

end Machine
end Sys2Proof
end

