-- ==== Sys2Proof/Laws/KeptDomain.lean ====
section
/-! SUPPORT. What the functions of Machine/Domain.lean keep: the queue of commands, and the memories or their canonical form. -/

set_option linter.all false

namespace Sys2Proof
namespace Machine

@[simp] theorem cuDone_mem (s : State) (st : Status) (detail : Nat) : (cuDone s st detail).mem = s.mem := by
  unfold cuDone
  simp
@[simp] theorem cuDone_pending (s : State) (st : Status) (detail : Nat) : (cuDone s st detail).pending = s.pending := by
  unfold cuDone
  simp

@[simp] theorem cuBusy_mem (s : State) : (cuBusy s).mem = s.mem := by
  unfold cuBusy
  simp
@[simp] theorem cuBusy_pending (s : State) : (cuBusy s).pending = s.pending := by
  unfold cuBusy
  simp

@[simp] theorem cuGate_wf (s : State) (f : State → State) (hwf : s.mem.wf = true) (hf : ∀ x0, x0.mem.wf = true → (f x0).mem.wf = true) : (cuGate s f).mem.wf = true := by
  unfold cuGate
  simp (maxDischargeDepth := 60) +contextual [*]
@[simp] theorem cuGate_pending (s : State) (f : State → State) (hg : ∀ x0, (f x0).pending = x0.pending) : (cuGate s f).pending = s.pending := by
  unfold cuGate
  simp [*]

@[simp] theorem cuBadOp_wf (s : State) (hwf : s.mem.wf = true)  : (cuBadOp s).mem.wf = true := by
  unfold cuBadOp
  simp [hwf]
@[simp] theorem cuBadOp_pending (s : State)  : (cuBadOp s).pending = s.pending := by
  unfold cuBadOp
  simp

@[simp] theorem setCardKind_mem (s : State) (n : Fin 4) (kind : Nat) : (setCardKind s n kind).mem = s.mem := by
  unfold setCardKind
  simp
@[simp] theorem setCardKind_pending (s : State) (n : Fin 4) (kind : Nat) : (setCardKind s n kind).pending = s.pending := by
  unfold setCardKind
  simp

@[simp] theorem signEntry_mem (s : State) (ix : Nat) (c : Custodian) : (signEntry s ix c).2.mem = s.mem := by
  unfold signEntry
  simp
@[simp] theorem signEntry_pending (s : State) (ix : Nat) (c : Custodian) : (signEntry s ix c).2.pending = s.pending := by
  unfold signEntry
  simp

@[simp] theorem toCard_mem (s : State) (n : Fin 4) (ins : Nat) (data : List Nat) : (toCard s n ins data).mem = s.mem := by
  unfold toCard
  simp
@[simp] theorem toCard_pending (s : State) (n : Fin 4) (ins : Nat) (data : List Nat) : (toCard s n ins data).pending = s.pending := by
  unfold toCard
  simp

@[simp] theorem sendPin_mem (s : State) (n : Fin 4) (pin : BitVec 128) : (sendPin s n pin).mem = s.mem := by
  unfold sendPin
  simp
@[simp] theorem sendPin_pending (s : State) (n : Fin 4) (pin : BitVec 128) : (sendPin s n pin).pending = s.pending := by
  unfold sendPin
  simp

@[simp] theorem askHalf_mem (s : State) (n : Fin 4) : (askHalf s n).2.mem = s.mem := by
  unfold askHalf
  simp
@[simp] theorem askHalf_pending (s : State) (n : Fin 4) : (askHalf s n).2.pending = s.pending := by
  unfold askHalf
  simp

@[simp] theorem giveHalf_mem (s : State) (n : Fin 4) (half kind : Nat) : (giveHalf s n half kind).mem = s.mem := by
  unfold giveHalf
  simp
@[simp] theorem giveHalf_pending (s : State) (n : Fin 4) (half kind : Nat) : (giveHalf s n half kind).pending = s.pending := by
  unfold giveHalf
  simp

@[simp] theorem holdDatk_mem (s : State) (p : BitVec 384) (q : BitVec 32256) : (holdDatk s p q).mem = s.mem := by
  unfold holdDatk
  simp
@[simp] theorem holdDatk_pending (s : State) (p : BitVec 384) (q : BitVec 32256) : (holdDatk s p q).pending = s.pending := by
  unfold holdDatk
  simp

@[simp] theorem enrol_mem (s : State) (num : Nat) (c : Cert) (jk : Key256) : (enrol s num c jk).mem = s.mem := by
  unfold enrol
  simp
@[simp] theorem enrol_pending (s : State) (num : Nat) (c : Cert) (jk : Key256) : (enrol s num c jk).pending = s.pending := by
  unfold enrol
  simp

@[simp] theorem drawFounding_mem (s : State) : (drawFounding s).2.mem = s.mem := by
  unfold drawFounding
  simp
@[simp] theorem drawFounding_pending (s : State) : (drawFounding s).2.pending = s.pending := by
  unfold drawFounding
  simp

@[simp] theorem writeHalves_mem (s : State) (f : Founding) (a b : Fin 4) : (writeHalves s f a b).mem = s.mem := by
  unfold writeHalves
  simp
@[simp] theorem writeHalves_pending (s : State) (f : Founding) (a b : Fin 4) : (writeHalves s f a b).pending = s.pending := by
  unfold writeHalves
  simp

@[simp] theorem founded_mem (s : State) (f : Founding) (t : Held × Held) (a b : Fin 4) : (founded s f t a b).mem = s.mem := by
  unfold founded
  simp [foldl_mem]
@[simp] theorem founded_pending (s : State) (f : Founding) (t : Held × Held) (a b : Fin 4) : (founded s f t a b).pending = s.pending := by
  unfold founded
  simp [foldl_pending]

@[simp] theorem foundCmd_mem (s : State) (ok : Bool) : (foundCmd s ok).mem = s.mem := by
  unfold foundCmd
  repeat' split
  all_goals simp
@[simp] theorem foundCmd_pending (s : State) (ok : Bool) : (foundCmd s ok).pending = s.pending := by
  unfold foundCmd
  repeat' split
  all_goals simp

@[simp] theorem execFound_keeps (ok : Bool) (s : State)  : Keeps s (execFound ok s) := by
  unfold execFound
  simp +contextual

@[simp] theorem sendJoinReq_mem (s : State) (j : Joining) : (sendJoinReq s j).mem = s.mem := by
  unfold sendJoinReq
  simp
@[simp] theorem sendJoinReq_pending (s : State) (j : Joining) : (sendJoinReq s j).pending = s.pending := by
  unfold sendJoinReq
  simp

@[simp] theorem joinSendEnd_mem (s : State) : (joinSendEnd s).mem = s.mem := by
  unfold joinSendEnd
  split <;> simp
@[simp] theorem joinSendEnd_pending (s : State) : (joinSendEnd s).pending = s.pending := by
  unfold joinSendEnd
  split <;> simp

@[simp] theorem readHalves_mem (s : State) (a b : Fin 4) : (readHalves s a b).mem = s.mem := by
  unfold readHalves
  simp
@[simp] theorem readHalves_pending (s : State) (a b : Fin 4) : (readHalves s a b).pending = s.pending := by
  unfold readHalves
  simp

@[simp] theorem joinCmd_mem (s : State) (sponsor : HostRead (Option Cert)) (halves : Option (Key256 × Key256)) : (joinCmd s sponsor halves).mem = s.mem := by
  unfold joinCmd
  repeat' split
  all_goals simp
@[simp] theorem joinCmd_pending (s : State) (sponsor : HostRead (Option Cert)) (halves : Option (Key256 × Key256)) : (joinCmd s sponsor halves).pending = s.pending := by
  unfold joinCmd
  repeat' split
  all_goals simp

@[simp] theorem execJoin_keeps (sponsor : HostRead (Option Cert)) (halves : Option (Key256 × Key256)) (s : State)  : Keeps s (execJoin sponsor halves s) := by
  unfold execJoin
  simp +contextual

@[simp] theorem joinFail_mem (s : State) (st : Status) (detail : Nat) : (joinFail s st detail).mem = s.mem := by
  unfold joinFail
  simp
@[simp] theorem joinFail_pending (s : State) (st : Status) (detail : Nat) : (joinFail s st detail).pending = s.pending := by
  unfold joinFail
  simp

@[simp] theorem execJoinReqResend_keeps (s : State)  : Keeps s (execJoinReqResend s) := by
  unfold execJoinReqResend
  split <;> simp +contextual

@[simp] theorem execJoinAck_keeps (h : EnvHdr) (body : JoinBody) (s : State)  : Keeps s (execJoinAck h body s) := by
  unfold execJoinAck
  (repeat' (first | with_reducible apply managerWrite_keeps | with_reducible apply onEngine_keeps | with_reducible apply onRoutine_keeps | with_reducible apply onService_keeps | with_reducible apply onProg_keeps | with_reducible apply slotInstr_keeps | with_reducible apply qcmd_wf | with_reducible apply qcmd_pending | with_reducible apply chainCmd_wf | with_reducible apply chainCmd_pending | with_reducible apply withDrbg_wf | with_reducible apply withDrbg_pending | with_reducible apply onEnv_wf | with_reducible apply onEnv_pending | with_reducible apply cuGate_wf | with_reducible apply cuGate_pending | with_reducible apply keeps_go | with_reducible refine (foldl_pending _ (fun _ _ => ?_) _ _).trans ?_ | with_reducible refine foldl_wf _ (fun _ _ _ => ?_) _ _ ?_ | (split <;> (try (rename_i heq; have h1 := congrArg Prod.fst heq; have h2 := congrArg Prod.snd heq; dsimp only at h1 h2; clear heq; (try subst h1); (try subst h2)))) | dsimp only | intro _)) <;> (first | (simp (maxDischargeDepth := 60) +contextual [foldl_mem, foldl_wf, foldl_fst_mem, foldl_fst_wf, foldl_snd_mem, foldl_snd_wf, foldl_pending, foldl_fst_pending, foldl_snd_pending, *]; done) | simp_all (maxDischargeDepth := 60) +contextual [foldl_mem, foldl_wf, foldl_fst_mem, foldl_fst_wf, foldl_snd_mem, foldl_snd_wf, foldl_pending, foldl_fst_pending, foldl_snd_pending])

@[simp] theorem joinInstallEnd_mem (s : State) (b : JoinBody) : (joinInstallEnd s b).mem = s.mem := by
  unfold joinInstallEnd
  split <;> simp
@[simp] theorem joinInstallEnd_pending (s : State) (b : JoinBody) : (joinInstallEnd s b).pending = s.pending := by
  unfold joinInstallEnd
  split <;> simp

@[simp] theorem execJoinNak_keeps (h : EnvHdr) (status : BitVec 16) (detail : Byte) (s : State)  : Keeps s (execJoinNak h status detail s) := by
  unfold execJoinNak
  simp +contextual

@[simp] theorem markSeen_mem (s : State) (num mark : Nat) : (markSeen s num mark).mem = s.mem := by
  unfold markSeen
  simp
@[simp] theorem markSeen_pending (s : State) (num mark : Nat) : (markSeen s num mark).pending = s.pending := by
  unfold markSeen
  simp

@[simp] theorem joinAckEnv_mem (s : State) (c : Cert) (x : BitVec 256) (ct : BitVec 8704) (req : List Nat) : (joinAckEnv s c x ct req).2.mem = s.mem := by
  unfold joinAckEnv
  simp
@[simp] theorem joinAckEnv_pending (s : State) (c : Cert) (x : BitVec 256) (ct : BitVec 8704) (req : List Nat) : (joinAckEnv s c x ct req).2.pending = s.pending := by
  unfold joinAckEnv
  simp

@[simp] theorem issueCert_mem (s : State) (c : Cert) (x : BitVec 256) (ct : BitVec 8704) (req : List Nat) : (issueCert s c x ct req).mem = s.mem := by
  unfold issueCert
  simp
@[simp] theorem issueCert_pending (s : State) (c : Cert) (x : BitVec 256) (ct : BitVec 8704) (req : List Nat) : (issueCert s c x ct req).pending = s.pending := by
  unfold issueCert
  simp

@[simp] theorem joinIssueEnd_mem (s : State) (c : Cert) (x : BitVec 256) (ct : BitVec 8704) (req : List Nat) (t1 t2 : Ticket) : (joinIssueEnd s c x ct req t1 t2).mem = s.mem := by
  unfold joinIssueEnd
  repeat' split
  all_goals simp
@[simp] theorem joinIssueEnd_pending (s : State) (c : Cert) (x : BitVec 256) (ct : BitVec 8704) (req : List Nat) (t1 t2 : Ticket) : (joinIssueEnd s c x ct req t1 t2).pending = s.pending := by
  unfold joinIssueEnd
  repeat' split
  all_goals simp

@[simp] theorem execJoinReq_keeps (h : EnvHdr) (cert : Cert) (x : BitVec 256) (ct : BitVec 8704) (t1 t2 : Ticket) (s : State)  : Keeps s (execJoinReq h cert x ct t1 t2 s) := by
  unfold execJoinReq
  (repeat' (first | with_reducible apply managerWrite_keeps | with_reducible apply onEngine_keeps | with_reducible apply onRoutine_keeps | with_reducible apply onService_keeps | with_reducible apply onProg_keeps | with_reducible apply slotInstr_keeps | with_reducible apply qcmd_wf | with_reducible apply qcmd_pending | with_reducible apply chainCmd_wf | with_reducible apply chainCmd_pending | with_reducible apply withDrbg_wf | with_reducible apply withDrbg_pending | with_reducible apply onEnv_wf | with_reducible apply onEnv_pending | with_reducible apply cuGate_wf | with_reducible apply cuGate_pending | with_reducible apply keeps_go | with_reducible refine (foldl_pending _ (fun _ _ => ?_) _ _).trans ?_ | with_reducible refine foldl_wf _ (fun _ _ _ => ?_) _ _ ?_ | (split <;> (try (rename_i heq; have h1 := congrArg Prod.fst heq; have h2 := congrArg Prod.snd heq; dsimp only at h1 h2; clear heq; (try subst h1); (try subst h2)))) | dsimp only | intro _)) <;> (first | (simp (maxDischargeDepth := 60) +contextual [foldl_mem, foldl_wf, foldl_fst_mem, foldl_fst_wf, foldl_snd_mem, foldl_snd_wf, foldl_pending, foldl_fst_pending, foldl_snd_pending, *]; done) | simp_all (maxDischargeDepth := 60) +contextual [foldl_mem, foldl_wf, foldl_fst_mem, foldl_fst_wf, foldl_snd_mem, foldl_snd_wf, foldl_pending, foldl_fst_pending, foldl_snd_pending])

@[simp] theorem sendRegister_mem (s : State) (m : Nat) : (sendRegister s m).mem = s.mem := by
  unfold sendRegister
  simp [foldl_mem]
@[simp] theorem sendRegister_pending (s : State) (m : Nat) : (sendRegister s m).pending = s.pending := by
  unfold sendRegister
  simp [foldl_pending]

@[simp] theorem execRosterSyncSend_keeps (s : State)  : Keeps s (execRosterSyncSend s) := by
  unfold execRosterSyncSend
  split <;> simp +contextual

@[simp] theorem execRosterSync_keeps (h : EnvHdr) (first : Nat) (entries : List RosterEntry) (s : State)  : Keeps s (execRosterSync h first entries s) := by
  unfold execRosterSync
  dsimp only
  repeat' split
  all_goals simp (maxDischargeDepth := 60) +contextual [foldl_wf, foldl_pending, *]

@[simp] theorem storeCert_mem (s : State) (c : Cert) : (storeCert s c).mem = s.mem := by
  unfold storeCert
  simp
@[simp] theorem storeCert_pending (s : State) (c : Cert) : (storeCert s c).pending = s.pending := by
  unfold storeCert
  simp

@[simp] theorem voidOwn_mem (s : State) : (voidOwn s).mem = s.mem := by
  unfold voidOwn
  simp
@[simp] theorem voidOwn_pending (s : State) : (voidOwn s).pending = s.pending := by
  unfold voidOwn
  simp

@[simp] theorem passCert_mem (s : State) (c : Cert) (source : Nat) : (passCert s c source).mem = s.mem := by
  unfold passCert
  simp
@[simp] theorem passCert_pending (s : State) (c : Cert) (source : Nat) : (passCert s c source).pending = s.pending := by
  unfold passCert
  simp

@[simp] theorem takeCert_mem (s : State) (c : Cert) (source : Nat) : (takeCert s c source).mem = s.mem := by
  unfold takeCert
  simp
@[simp] theorem takeCert_pending (s : State) (c : Cert) (source : Nat) : (takeCert s c source).pending = s.pending := by
  unfold takeCert
  simp

@[simp] theorem execRosterAdd_keeps (h : EnvHdr) (cert : Cert) (s : State)  : Keeps s (execRosterAdd h cert s) := by
  unfold execRosterAdd
  simp +contextual

@[simp] theorem freeNumber_mem (s : State) (m : Nat) : (freeNumber s m).mem = s.mem := by
  unfold freeNumber
  simp
@[simp] theorem freeNumber_pending (s : State) (m : Nat) : (freeNumber s m).pending = s.pending := by
  unfold freeNumber
  simp

@[simp] theorem removeNumber_mem (s : State) (m : Nat) (serial : BitVec 32) : (removeNumber s m serial).mem = s.mem := by
  unfold removeNumber
  simp
@[simp] theorem removeNumber_pending (s : State) (m : Nat) (serial : BitVec 32) : (removeNumber s m serial).pending = s.pending := by
  unfold removeNumber
  simp

@[simp] theorem execRosterDel_keeps (h : EnvHdr) (number : Member) (serial : BitVec 32) (t1 t2 : Ticket) (s : State)  : Keeps s (execRosterDel h number serial t1 t2 s) := by
  unfold execRosterDel
  simp +contextual

@[simp] theorem removeCmd_mem (s : State) : (removeCmd s).mem = s.mem := by
  unfold removeCmd
  dsimp only
  repeat' split
  all_goals simp
@[simp] theorem removeCmd_pending (s : State) : (removeCmd s).pending = s.pending := by
  unfold removeCmd
  dsimp only
  repeat' split
  all_goals simp

@[simp] theorem execRemove_keeps (s : State)  : Keeps s (execRemove s) := by
  unfold execRemove
  simp +contextual

@[simp] theorem rotateCert_mem (s : State) : (rotateCert s).mem = s.mem := by
  unfold rotateCert
  simp
@[simp] theorem rotateCert_pending (s : State) : (rotateCert s).pending = s.pending := by
  unfold rotateCert
  simp

@[simp] theorem rotateTransport_wf (s : State) (hwf : s.mem.wf = true)  : (rotateTransport s).mem.wf = true := by
  unfold rotateTransport
  simp [hwf]
@[simp] theorem rotateTransport_pending (s : State)  : (rotateTransport s).pending = s.pending := by
  unfold rotateTransport
  simp

@[simp] theorem execKsRotateTransport_keeps (s : State)  : Keeps s (execKsRotateTransport s) := by
  unfold execKsRotateTransport
  simp +contextual

@[simp] theorem answerHello_mem (s : State) (i : ShakeIn) : (answerHello s i).mem = s.mem := by
  unfold answerHello
  simp
@[simp] theorem answerHello_pending (s : State) (i : ShakeIn) : (answerHello s i).pending = s.pending := by
  unfold answerHello
  simp

@[simp] theorem answerAck_mem (s : State) (h : Shake) (i : ShakeIn) : (answerAck s h i).mem = s.mem := by
  unfold answerAck
  simp
@[simp] theorem answerAck_pending (s : State) (h : Shake) (i : ShakeIn) : (answerAck s h i).pending = s.pending := by
  unfold answerAck
  simp

@[simp] theorem shakeStep_mem (s : State) (i : ShakeIn) : (shakeStep s i).mem = s.mem := by
  unfold shakeStep
  dsimp only
  repeat' split
  all_goals simp
@[simp] theorem shakeStep_pending (s : State) (i : ShakeIn) : (shakeStep s i).pending = s.pending := by
  unfold shakeStep
  dsimp only
  repeat' split
  all_goals simp

@[simp] theorem runShake_mem (s : State) (i : ShakeIn) : (runShake s i).mem = s.mem := by
  unfold runShake
  simp
@[simp] theorem runShake_pending (s : State) (i : ShakeIn) : (runShake s i).pending = s.pending := by
  unfold runShake
  simp

@[simp] theorem execHandshakeStepRelease_keeps (s : State)  : Keeps s (execHandshakeStepRelease s) := by
  unfold execHandshakeStepRelease
  split <;> simp +contextual

@[simp] theorem execHello_keeps (h : EnvHdr) (cert : Cert) (x : BitVec 256) (s : State)  : Keeps s (execHello h cert x s) := by
  unfold execHello
  simp +contextual

@[simp] theorem execHelloAck_keeps (h : EnvHdr) (cert : Cert) (x : BitVec 256) (ct : BitVec 8704) (confirm : BitVec 256) (s : State)  : Keeps s (execHelloAck h cert x ct confirm s) := by
  unfold execHelloAck
  (repeat' (first | with_reducible apply managerWrite_keeps | with_reducible apply onEngine_keeps | with_reducible apply onRoutine_keeps | with_reducible apply onService_keeps | with_reducible apply onProg_keeps | with_reducible apply slotInstr_keeps | with_reducible apply qcmd_wf | with_reducible apply qcmd_pending | with_reducible apply chainCmd_wf | with_reducible apply chainCmd_pending | with_reducible apply withDrbg_wf | with_reducible apply withDrbg_pending | with_reducible apply onEnv_wf | with_reducible apply onEnv_pending | with_reducible apply cuGate_wf | with_reducible apply cuGate_pending | with_reducible apply keeps_go | with_reducible refine (foldl_pending _ (fun _ _ => ?_) _ _).trans ?_ | with_reducible refine foldl_wf _ (fun _ _ _ => ?_) _ _ ?_ | (split <;> (try (rename_i heq; have h1 := congrArg Prod.fst heq; have h2 := congrArg Prod.snd heq; dsimp only at h1 h2; clear heq; (try subst h1); (try subst h2)))) | dsimp only | intro _)) <;> (first | (simp (maxDischargeDepth := 60) +contextual [foldl_mem, foldl_wf, foldl_fst_mem, foldl_fst_wf, foldl_snd_mem, foldl_snd_wf, foldl_pending, foldl_fst_pending, foldl_snd_pending, *]; done) | simp_all (maxDischargeDepth := 60) +contextual [foldl_mem, foldl_wf, foldl_fst_mem, foldl_fst_wf, foldl_snd_mem, foldl_snd_wf, foldl_pending, foldl_fst_pending, foldl_snd_pending])

@[simp] theorem execHelloFin_keeps (h : EnvHdr) (ct : BitVec 8704) (confirm : BitVec 256) (s : State)  : Keeps s (execHelloFin h ct confirm s) := by
  unfold execHelloFin
  (repeat' (first | with_reducible apply managerWrite_keeps | with_reducible apply onEngine_keeps | with_reducible apply onRoutine_keeps | with_reducible apply onService_keeps | with_reducible apply onProg_keeps | with_reducible apply slotInstr_keeps | with_reducible apply qcmd_wf | with_reducible apply qcmd_pending | with_reducible apply chainCmd_wf | with_reducible apply chainCmd_pending | with_reducible apply withDrbg_wf | with_reducible apply withDrbg_pending | with_reducible apply onEnv_wf | with_reducible apply onEnv_pending | with_reducible apply cuGate_wf | with_reducible apply cuGate_pending | with_reducible apply keeps_go | with_reducible refine (foldl_pending _ (fun _ _ => ?_) _ _).trans ?_ | with_reducible refine foldl_wf _ (fun _ _ _ => ?_) _ _ ?_ | (split <;> (try (rename_i heq; have h1 := congrArg Prod.fst heq; have h2 := congrArg Prod.snd heq; dsimp only at h1 h2; clear heq; (try subst h1); (try subst h2)))) | dsimp only | intro _)) <;> (first | (simp (maxDischargeDepth := 60) +contextual [foldl_mem, foldl_wf, foldl_fst_mem, foldl_fst_wf, foldl_snd_mem, foldl_snd_wf, foldl_pending, foldl_fst_pending, foldl_snd_pending, *]; done) | simp_all (maxDischargeDepth := 60) +contextual [foldl_mem, foldl_wf, foldl_fst_mem, foldl_fst_wf, foldl_snd_mem, foldl_snd_wf, foldl_pending, foldl_fst_pending, foldl_snd_pending])

@[simp] theorem execPairKeyAgeExpiry_keeps (m : Member) (s : State)  : Keeps s (execPairKeyAgeExpiry m s) := by
  unfold execPairKeyAgeExpiry
  split <;> simp +contextual

@[simp] theorem execPreviousPairKeyExpiry_keeps (m : Member) (s : State)  : Keeps s (execPreviousPairKeyExpiry m s) := by
  unfold execPreviousPairKeyExpiry
  repeat' split
  all_goals simp (maxDischargeDepth := 60) +contextual

@[simp] theorem noteBeat_mem (s : State) (m : Nat) : (noteBeat s m).mem = s.mem := by
  unfold noteBeat
  split <;> simp
@[simp] theorem noteBeat_pending (s : State) (m : Nat) : (noteBeat s m).pending = s.pending := by
  unfold noteBeat
  split <;> simp

@[simp] theorem execBeat_keeps (h : EnvHdr) (mode now : Word) (serial : BitVec 32) (s : State)  : Keeps s (execBeat h mode now serial s) := by
  unfold execBeat
  simp +contextual

@[simp] theorem execLeave_keeps (h : EnvHdr) (serial : BitVec 32) (s : State)  : Keeps s (execLeave h serial s) := by
  unfold execLeave
  simp +contextual

@[simp] theorem execBeatSend_keeps (s : State)  : Keeps s (execBeatSend s) := by
  unfold execBeatSend
  dsimp only
  repeat' split
  all_goals simp (maxDischargeDepth := 60) +contextual [foldl_wf, foldl_pending, *]

@[simp] theorem execPeerAbsenceTimeout_keeps (m : Member) (s : State)  : Keeps s (execPeerAbsenceTimeout m s) := by
  unfold execPeerAbsenceTimeout
  split <;> simp +contextual

@[simp] theorem execIsolationTimeout_keeps (s : State)  : Keeps s (execIsolationTimeout s) := by
  unfold execIsolationTimeout
  simp

@[simp] theorem respBody_mem (s : State) (nonce : Nat) : (respBody s nonce).2.mem = s.mem := by
  unfold respBody
  simp
@[simp] theorem respBody_pending (s : State) (nonce : Nat) : (respBody s nonce).2.pending = s.pending := by
  unfold respBody
  simp

@[simp] theorem challengeCmd_mem (s : State) (nonce : HostRead (BitVec 256)) : (challengeCmd s nonce).mem = s.mem := by
  unfold challengeCmd
  repeat' split
  all_goals simp
@[simp] theorem challengeCmd_pending (s : State) (nonce : HostRead (BitVec 256)) : (challengeCmd s nonce).pending = s.pending := by
  unfold challengeCmd
  repeat' split
  all_goals simp

@[simp] theorem execChallenge_keeps (nonce : HostRead (BitVec 256)) (s : State)  : Keeps s (execChallenge nonce s) := by
  unfold execChallenge
  simp +contextual

@[simp] theorem execChal_keeps (h : EnvHdr) (nonce : BitVec 256) (answerTo : Member) (s : State)  : Keeps s (execChal h nonce answerTo s) := by
  unfold execChal
  simp +contextual

@[simp] theorem execResp_keeps (h : EnvHdr) (nonce : BitVec 256) (sigsOk : Bool) (s : State)  : Keeps s (execResp h nonce sigsOk s) := by
  unfold execResp
  simp +contextual

@[simp] theorem takeEntry_mem (s : State) (ix : Nat) (c : Custodian) : (takeEntry s ix c).mem = s.mem := by
  unfold takeEntry
  split <;> simp
@[simp] theorem takeEntry_pending (s : State) (ix : Nat) (c : Custodian) : (takeEntry s ix c).pending = s.pending := by
  unfold takeEntry
  split <;> simp

@[simp] theorem spreadEntry_mem (s : State) (ix : Nat) (c : Custodian) (ts : List (BitVec 2176)) (but : Nat) : (spreadEntry s ix c ts but).mem = s.mem := by
  unfold spreadEntry
  simp
@[simp] theorem spreadEntry_pending (s : State) (ix : Nat) (c : Custodian) (ts : List (BitVec 2176)) (but : Nat) : (spreadEntry s ix c ts but).pending = s.pending := by
  unfold spreadEntry
  simp

@[simp] theorem takeReg_mem (s : State) (e : RegEntry) (ts : List Ticket) (source : Nat) : (takeReg s e ts source).mem = s.mem := by
  unfold takeReg
  simp
@[simp] theorem takeReg_pending (s : State) (e : RegEntry) (ts : List Ticket) (source : Nat) : (takeReg s e ts source).pending = s.pending := by
  unfold takeReg
  simp

@[simp] theorem execTicket_keeps (h : EnvHdr) (tickets : List Ticket) (entry : Option RegEntry) (s : State)  : Keeps s (execTicket h tickets entry s) := by
  unfold execTicket
  dsimp only
  repeat' split
  all_goals simp (maxDischargeDepth := 60) +contextual [foldl_wf, foldl_pending, *]

end Machine
end Sys2Proof
end

