-- ==== Sys2Proof/Laws/KeptCustody.lean ====
section
/-! SUPPORT. What the functions of Machine/Custody.lean keep: the queue of commands, and the memories or their canonical form. -/

set_option linter.all false

namespace Sys2Proof
namespace Machine

@[simp] theorem sendRound_mem (s : State) (g : Group) (r : Round) (kind gen : Nat) (body : List (Nat × Nat)) : (sendRound s g r kind gen body).mem = s.mem := by
  unfold sendRound
  simp [foldl_mem]
@[simp] theorem sendRound_pending (s : State) (g : Group) (r : Round) (kind gen : Nat) (body : List (Nat × Nat)) : (sendRound s g r kind gen body).pending = s.pending := by
  unfold sendRound
  simp [foldl_pending]

@[simp] theorem onGroup_keeps (s : State) (h : EnvHdr) (c : CuHdr) (kind : Nat) (body : List (Nat × Nat)) (f : State → Nat → Group → Nat → State) (hf : ∀ x0 x1 x2 x3, x0.mem.wf = true → (f x0 x1 x2 x3).mem.wf = true) (hg : ∀ x0 x1 x2 x3, (f x0 x1 x2 x3).pending = x0.pending) : Keeps s (onGroup s h c kind body f) := by
  unfold onGroup
  (repeat' (first | with_reducible apply managerWrite_keeps | with_reducible apply onEngine_keeps | with_reducible apply onRoutine_keeps | with_reducible apply onService_keeps | with_reducible apply onProg_keeps | with_reducible apply slotInstr_keeps | with_reducible apply qcmd_wf | with_reducible apply qcmd_pending | with_reducible apply chainCmd_wf | with_reducible apply chainCmd_pending | with_reducible apply withDrbg_wf | with_reducible apply withDrbg_pending | with_reducible apply onEnv_wf | with_reducible apply onEnv_pending | with_reducible apply cuGate_wf | with_reducible apply cuGate_pending | with_reducible apply onGroup_keeps | with_reducible apply gGate_wf | with_reducible apply gGate_pending | with_reducible apply keeps_go | with_reducible refine (foldl_pending _ (fun _ _ => ?_) _ _).trans ?_ | with_reducible refine foldl_wf _ (fun _ _ _ => ?_) _ _ ?_ | (split <;> (try (rename_i heq; have h1 := congrArg Prod.fst heq; have h2 := congrArg Prod.snd heq; dsimp only at h1 h2; clear heq; (try subst h1); (try subst h2)))) | dsimp only | intro _)) <;> (first | (simp (maxDischargeDepth := 60) +contextual [foldl_mem, foldl_wf, foldl_fst_mem, foldl_fst_wf, foldl_snd_mem, foldl_snd_wf, foldl_pending, foldl_fst_pending, foldl_snd_pending, *]; done) | simp_all (maxDischargeDepth := 60) +contextual [foldl_mem, foldl_wf, foldl_fst_mem, foldl_fst_wf, foldl_snd_mem, foldl_snd_wf, foldl_pending, foldl_fst_pending, foldl_snd_pending])

@[simp] theorem afterRound_mem (s : State) (k : Nat) (g : Group) : (afterRound s k g).mem = s.mem := by
  unfold afterRound
  simp
@[simp] theorem afterRound_pending (s : State) (k : Nat) (g : Group) : (afterRound s k g).pending = s.pending := by
  unfold afterRound
  simp

@[simp] theorem sendDeals_mem (s : State) (g : Group) (gen own : Nat) (p : Polys) (full : Bool) : (sendDeals s g gen own p full).mem = s.mem := by
  unfold sendDeals
  simp [foldl_mem]
@[simp] theorem sendDeals_pending (s : State) (g : Group) (gen own : Nat) (p : Polys) (full : Bool) : (sendDeals s g gen own p full).pending = s.pending := by
  unfold sendDeals
  simp [foldl_pending]

@[simp] theorem dealAll_mem (s : State) (k : Nat) (g : Group) (r : Round) (dealer own : Nat) (p : Polys) (full : Bool) : (dealAll s k g r dealer own p full).mem = s.mem := by
  unfold dealAll
  simp
@[simp] theorem dealAll_pending (s : State) (k : Nat) (g : Group) (r : Round) (dealer own : Nat) (p : Polys) (full : Bool) : (dealAll s k g r dealer own p full).pending = s.pending := by
  unfold dealAll
  simp

@[simp] theorem dealFresh_mem (s : State) (k : Nat) (g : Group) (r : Round) (nd : GroupDesc) (key : Key256) : (dealFresh s k g r nd key).mem = s.mem := by
  unfold dealFresh
  dsimp only
  repeat' split
  all_goals simp [foldl_mem]
@[simp] theorem dealFresh_pending (s : State) (k : Nat) (g : Group) (r : Round) (nd : GroupDesc) (key : Key256) : (dealFresh s k g r nd key).pending = s.pending := by
  unfold dealFresh
  dsimp only
  repeat' split
  all_goals simp [foldl_pending]

@[simp] theorem finishRound_mem (s : State) (k : Nat) (g : Group) (r : Round) (ok : Bool) : (finishRound s k g r ok).mem = s.mem := by
  unfold finishRound
  simp [foldl_mem]
@[simp] theorem finishRound_pending (s : State) (k : Nat) (g : Group) (r : Round) (ok : Bool) : (finishRound s k g r ok).pending = s.pending := by
  unfold finishRound
  simp [foldl_pending]

@[simp] theorem settleLate_mem (s : State) (k : Nat) : (settleLate s k).mem = s.mem := by
  unfold settleLate
  repeat' split
  all_goals simp
@[simp] theorem settleLate_pending (s : State) (k : Nat) : (settleLate s k).pending = s.pending := by
  unfold settleLate
  repeat' split
  all_goals simp

@[simp] theorem beginRefresh_mem (s : State) (k : Nat) : (beginRefresh s k).mem = s.mem := by
  unfold beginRefresh
  dsimp only
  repeat' split
  all_goals simp
@[simp] theorem beginRefresh_pending (s : State) (k : Nat) : (beginRefresh s k).pending = s.pending := by
  unfold beginRefresh
  dsimp only
  repeat' split
  all_goals simp

@[simp] theorem refreshEnd_mem (s : State) (k x : Nat) : (refreshEnd s k x).mem = s.mem := by
  unfold refreshEnd
  repeat' split
  all_goals simp
@[simp] theorem refreshEnd_pending (s : State) (k x : Nat) : (refreshEnd s k x).pending = s.pending := by
  unfold refreshEnd
  repeat' split
  all_goals simp

@[simp] theorem fireRefresh_mem (s : State) : (fireRefresh s).mem = s.mem := by
  unfold fireRefresh
  simp [foldl_mem]
@[simp] theorem fireRefresh_pending (s : State) : (fireRefresh s).pending = s.pending := by
  unfold fireRefresh
  simp [foldl_pending]

@[simp] theorem passSwitch_mem (s : State) (k : Nat) : (passSwitch s k).mem = s.mem := by
  unfold passSwitch
  repeat' split
  all_goals simp
@[simp] theorem passSwitch_pending (s : State) (k : Nat) : (passSwitch s k).pending = s.pending := by
  unfold passSwitch
  repeat' split
  all_goals simp

@[simp] theorem fireSwitch_mem (s : State) : (fireSwitch s).mem = s.mem := by
  unfold fireSwitch
  simp [foldl_mem]
@[simp] theorem fireSwitch_pending (s : State) : (fireSwitch s).pending = s.pending := by
  unfold fireSwitch
  simp [foldl_pending]

@[simp] theorem roundBeat_mem (s : State) : (roundBeat s).mem = s.mem := by
  unfold roundBeat
  simp
@[simp] theorem roundBeat_pending (s : State) : (roundBeat s).pending = s.pending := by
  unfold roundBeat
  simp

@[simp] theorem execDeal_keeps (h : EnvHdr) (c : CuHdr) (full : Bool) (v : ShareVal) (block : List (BitVec 256)) (s : State)  : Keeps s (execDeal h c full v block s) := by
  unfold execDeal
  simp

@[simp] theorem execDealCutoff_keeps (n : Fin 4096) (s : State)  : Keeps s (execDealCutoff n s) := by
  unfold execDealCutoff
  repeat' split
  all_goals simp (maxDischargeDepth := 60) +contextual

@[simp] theorem execPrepared_keeps (h : EnvHdr) (c : CuHdr) (dealers : List (Fin 32 × BitVec 256)) (s : State)  : Keeps s (execPrepared h c dealers s) := by
  unfold execPrepared
  first | (simp (maxDischargeDepth := 60) +contextual; done) | (simp (maxDischargeDepth := 60) +contextual [foldl_mem, foldl_wf, foldl_fst_mem, foldl_fst_wf, foldl_snd_mem, foldl_snd_wf, foldl_pending, foldl_fst_pending, foldl_snd_pending]; done) | ((repeat' (first | with_reducible apply managerWrite_keeps | with_reducible apply onEngine_keeps | with_reducible apply onRoutine_keeps | with_reducible apply onService_keeps | with_reducible apply onProg_keeps | with_reducible apply slotInstr_keeps | with_reducible apply qcmd_wf | with_reducible apply qcmd_pending | with_reducible apply chainCmd_wf | with_reducible apply chainCmd_pending | with_reducible apply withDrbg_wf | with_reducible apply withDrbg_pending | with_reducible apply onEnv_wf | with_reducible apply onEnv_pending | with_reducible apply cuGate_wf | with_reducible apply cuGate_pending | with_reducible apply onGroup_keeps | with_reducible apply gGate_wf | with_reducible apply gGate_pending | with_reducible apply keeps_go | with_reducible refine (foldl_pending _ (fun _ _ => ?_) _ _).trans ?_ | with_reducible refine foldl_wf _ (fun _ _ _ => ?_) _ _ ?_ | (split <;> (try (rename_i heq; have h1 := congrArg Prod.fst heq; have h2 := congrArg Prod.snd heq; dsimp only at h1 h2; clear heq; (try subst h1); (try subst h2)))) | dsimp only | intro _)) <;> (first | (simp (maxDischargeDepth := 60) +contextual [foldl_mem, foldl_wf, foldl_fst_mem, foldl_fst_wf, foldl_snd_mem, foldl_snd_wf, foldl_pending, foldl_fst_pending, foldl_snd_pending, *]; done) | simp_all (maxDischargeDepth := 60) +contextual [foldl_mem, foldl_wf, foldl_fst_mem, foldl_fst_wf, foldl_snd_mem, foldl_snd_wf, foldl_pending, foldl_fst_pending, foldl_snd_pending]))

@[simp] theorem execDecisionCutoff_keeps (n : Fin 4096) (s : State)  : Keeps s (execDecisionCutoff n s) := by
  unfold execDecisionCutoff
  repeat' split
  all_goals simp (maxDischargeDepth := 60) +contextual

@[simp] theorem commitHere_mem (s : State) (k : Nat) (g : Group) (r : Round) (i j : Nat) (ps ds : List Nat) (digest : BitVec 256) : (commitHere s k g r i j ps ds digest).mem = s.mem := by
  unfold commitHere
  split <;> simp
@[simp] theorem commitHere_pending (s : State) (k : Nat) (g : Group) (r : Round) (i j : Nat) (ps ds : List Nat) (digest : BitVec 256) : (commitHere s k g r i j ps ds digest).pending = s.pending := by
  unfold commitHere
  split <;> simp

@[simp] theorem execDecide_keeps (h : EnvHdr) (c : CuHdr) (commit : Bool) (p d : BitVec 32) (digest : BitVec 256) (s : State)  : Keeps s (execDecide h c commit p d digest s) := by
  unfold execDecide
  (repeat' (first | with_reducible apply managerWrite_keeps | with_reducible apply onEngine_keeps | with_reducible apply onRoutine_keeps | with_reducible apply onService_keeps | with_reducible apply onProg_keeps | with_reducible apply slotInstr_keeps | with_reducible apply qcmd_wf | with_reducible apply qcmd_pending | with_reducible apply chainCmd_wf | with_reducible apply chainCmd_pending | with_reducible apply withDrbg_wf | with_reducible apply withDrbg_pending | with_reducible apply onEnv_wf | with_reducible apply onEnv_pending | with_reducible apply cuGate_wf | with_reducible apply cuGate_pending | with_reducible apply onGroup_keeps | with_reducible apply gGate_wf | with_reducible apply gGate_pending | with_reducible apply keeps_go | with_reducible refine (foldl_pending _ (fun _ _ => ?_) _ _).trans ?_ | with_reducible refine foldl_wf _ (fun _ _ _ => ?_) _ _ ?_ | (split <;> (try (rename_i heq; have h1 := congrArg Prod.fst heq; have h2 := congrArg Prod.snd heq; dsimp only at h1 h2; clear heq; (try subst h1); (try subst h2)))) | dsimp only | intro _)) <;> (first | (simp (maxDischargeDepth := 60) +contextual [foldl_mem, foldl_wf, foldl_fst_mem, foldl_fst_wf, foldl_snd_mem, foldl_snd_wf, foldl_pending, foldl_fst_pending, foldl_snd_pending, *]; done) | simp_all (maxDischargeDepth := 60) +contextual [foldl_mem, foldl_wf, foldl_fst_mem, foldl_fst_wf, foldl_snd_mem, foldl_snd_wf, foldl_pending, foldl_fst_pending, foldl_snd_pending])

@[simp] theorem execAck_keeps (h : EnvHdr) (c : CuHdr) (kind : Byte) (s : State)  : Keeps s (execAck h c kind s) := by
  unfold execAck
  first | (simp (maxDischargeDepth := 60) +contextual; done) | (simp (maxDischargeDepth := 60) +contextual [foldl_mem, foldl_wf, foldl_fst_mem, foldl_fst_wf, foldl_snd_mem, foldl_snd_wf, foldl_pending, foldl_fst_pending, foldl_snd_pending]; done) | ((repeat' (first | with_reducible apply managerWrite_keeps | with_reducible apply onEngine_keeps | with_reducible apply onRoutine_keeps | with_reducible apply onService_keeps | with_reducible apply onProg_keeps | with_reducible apply slotInstr_keeps | with_reducible apply qcmd_wf | with_reducible apply qcmd_pending | with_reducible apply chainCmd_wf | with_reducible apply chainCmd_pending | with_reducible apply withDrbg_wf | with_reducible apply withDrbg_pending | with_reducible apply onEnv_wf | with_reducible apply onEnv_pending | with_reducible apply cuGate_wf | with_reducible apply cuGate_pending | with_reducible apply onGroup_keeps | with_reducible apply gGate_wf | with_reducible apply gGate_pending | with_reducible apply keeps_go | with_reducible refine (foldl_pending _ (fun _ _ => ?_) _ _).trans ?_ | with_reducible refine foldl_wf _ (fun _ _ _ => ?_) _ _ ?_ | (split <;> (try (rename_i heq; have h1 := congrArg Prod.fst heq; have h2 := congrArg Prod.snd heq; dsimp only at h1 h2; clear heq; (try subst h1); (try subst h2)))) | dsimp only | intro _)) <;> (first | (simp (maxDischargeDepth := 60) +contextual [foldl_mem, foldl_wf, foldl_fst_mem, foldl_fst_wf, foldl_snd_mem, foldl_snd_wf, foldl_pending, foldl_fst_pending, foldl_snd_pending, *]; done) | simp_all (maxDischargeDepth := 60) +contextual [foldl_mem, foldl_wf, foldl_fst_mem, foldl_fst_wf, foldl_snd_mem, foldl_snd_wf, foldl_pending, foldl_fst_pending, foldl_snd_pending]))

@[simp] theorem execDecideResend_keeps (n : Fin 4096) (s : State)  : Keeps s (execDecideResend n s) := by
  unfold execDecideResend
  dsimp only
  repeat' split
  all_goals simp (maxDischargeDepth := 60) +contextual [foldl_wf, foldl_pending, *]

@[simp] theorem execSettlement_keeps (n : Fin 4096) (s : State)  : Keeps s (execSettlement n s) := by
  unfold execSettlement
  repeat' split
  all_goals simp (maxDischargeDepth := 60) +contextual

@[simp] theorem execSettle_keeps (h : EnvHdr) (c : CuHdr) (ok : Bool) (s : State)  : Keeps s (execSettle h c ok s) := by
  unfold execSettle
  first | (simp (maxDischargeDepth := 60) +contextual; done) | (simp (maxDischargeDepth := 60) +contextual [foldl_mem, foldl_wf, foldl_fst_mem, foldl_fst_wf, foldl_snd_mem, foldl_snd_wf, foldl_pending, foldl_fst_pending, foldl_snd_pending]; done) | ((repeat' (first | with_reducible apply managerWrite_keeps | with_reducible apply onEngine_keeps | with_reducible apply onRoutine_keeps | with_reducible apply onService_keeps | with_reducible apply onProg_keeps | with_reducible apply slotInstr_keeps | with_reducible apply qcmd_wf | with_reducible apply qcmd_pending | with_reducible apply chainCmd_wf | with_reducible apply chainCmd_pending | with_reducible apply withDrbg_wf | with_reducible apply withDrbg_pending | with_reducible apply onEnv_wf | with_reducible apply onEnv_pending | with_reducible apply cuGate_wf | with_reducible apply cuGate_pending | with_reducible apply onGroup_keeps | with_reducible apply gGate_wf | with_reducible apply gGate_pending | with_reducible apply keeps_go | with_reducible refine (foldl_pending _ (fun _ _ => ?_) _ _).trans ?_ | with_reducible refine foldl_wf _ (fun _ _ _ => ?_) _ _ ?_ | (split <;> (try (rename_i heq; have h1 := congrArg Prod.fst heq; have h2 := congrArg Prod.snd heq; dsimp only at h1 h2; clear heq; (try subst h1); (try subst h2)))) | dsimp only | intro _)) <;> (first | (simp (maxDischargeDepth := 60) +contextual [foldl_mem, foldl_wf, foldl_fst_mem, foldl_fst_wf, foldl_snd_mem, foldl_snd_wf, foldl_pending, foldl_fst_pending, foldl_snd_pending, *]; done) | simp_all (maxDischargeDepth := 60) +contextual [foldl_mem, foldl_wf, foldl_fst_mem, foldl_fst_wf, foldl_snd_mem, foldl_snd_wf, foldl_pending, foldl_fst_pending, foldl_snd_pending]))

@[simp] theorem askShares_mem (s : State) (k : Nat) : (askShares s k).mem = s.mem := by
  unfold askShares
  dsimp only
  repeat' split
  all_goals simp [foldl_mem]
@[simp] theorem askShares_pending (s : State) (k : Nat) : (askShares s k).pending = s.pending := by
  unfold askShares
  dsimp only
  repeat' split
  all_goals simp [foldl_pending]

@[simp] theorem fireRecon_mem (s : State) : (fireRecon s).mem = s.mem := by
  unfold fireRecon
  simp [foldl_mem]
@[simp] theorem fireRecon_pending (s : State) : (fireRecon s).pending = s.pending := by
  unfold fireRecon
  simp [foldl_pending]

@[simp] theorem execShareReq_keeps (h : EnvHdr) (c : CuHdr) (rc : Word) (target : Pos) (s : State)  : Keeps s (execShareReq h c rc target s) := by
  unfold execShareReq
  first | (simp (maxDischargeDepth := 60) +contextual; done) | (simp (maxDischargeDepth := 60) +contextual [foldl_mem, foldl_wf, foldl_fst_mem, foldl_fst_wf, foldl_snd_mem, foldl_snd_wf, foldl_pending, foldl_fst_pending, foldl_snd_pending]; done) | ((repeat' (first | with_reducible apply managerWrite_keeps | with_reducible apply onEngine_keeps | with_reducible apply onRoutine_keeps | with_reducible apply onService_keeps | with_reducible apply onProg_keeps | with_reducible apply slotInstr_keeps | with_reducible apply qcmd_wf | with_reducible apply qcmd_pending | with_reducible apply chainCmd_wf | with_reducible apply chainCmd_pending | with_reducible apply withDrbg_wf | with_reducible apply withDrbg_pending | with_reducible apply onEnv_wf | with_reducible apply onEnv_pending | with_reducible apply cuGate_wf | with_reducible apply cuGate_pending | with_reducible apply onGroup_keeps | with_reducible apply gGate_wf | with_reducible apply gGate_pending | with_reducible apply keeps_go | with_reducible refine (foldl_pending _ (fun _ _ => ?_) _ _).trans ?_ | with_reducible refine foldl_wf _ (fun _ _ _ => ?_) _ _ ?_ | (split <;> (try (rename_i heq; have h1 := congrArg Prod.fst heq; have h2 := congrArg Prod.snd heq; dsimp only at h1 h2; clear heq; (try subst h1); (try subst h2)))) | dsimp only | intro _)) <;> (first | (simp (maxDischargeDepth := 60) +contextual [foldl_mem, foldl_wf, foldl_fst_mem, foldl_fst_wf, foldl_snd_mem, foldl_snd_wf, foldl_pending, foldl_fst_pending, foldl_snd_pending, *]; done) | simp_all (maxDischargeDepth := 60) +contextual [foldl_mem, foldl_wf, foldl_fst_mem, foldl_fst_wf, foldl_snd_mem, foldl_snd_wf, foldl_pending, foldl_fst_pending, foldl_snd_pending]))

@[simp] theorem reconOutcome_mem (s : State) (k : Nat) (target : Pos) (done : Bool) : (reconOutcome s k target done).mem = s.mem := by
  unfold reconOutcome
  repeat' split
  all_goals simp
@[simp] theorem reconOutcome_pending (s : State) (k : Nat) (target : Pos) (done : Bool) : (reconOutcome s k target done).pending = s.pending := by
  unfold reconOutcome
  repeat' split
  all_goals simp

@[simp] theorem sendRecon_mem (s : State) (k : Nat) (g : Group) (target : Pos) (done : Bool) (st : Status) : (sendRecon s k g target done st).mem = s.mem := by
  unfold sendRecon
  simp
@[simp] theorem sendRecon_pending (s : State) (k : Nat) (g : Group) (target : Pos) (done : Bool) (st : Status) : (sendRecon s k g target done st).pending = s.pending := by
  unfold sendRecon
  simp

@[simp] theorem reconFails_mem (s : State) (k : Nat) (g : Group) (r : Recon) (st : Status) : (reconFails s k g r st).mem = s.mem := by
  unfold reconFails
  simp
@[simp] theorem reconFails_pending (s : State) (k : Nat) (g : Group) (r : Recon) (st : Status) : (reconFails s k g r st).pending = s.pending := by
  unfold reconFails
  simp

@[simp] theorem rebuilt_mem (s : State) (k : Nat) (g : Group) (r : Recon) (gen : Nat) (v : ShareVal) (b : CommitBlock) : (rebuilt s k g r gen v b).mem = s.mem := by
  unfold rebuilt
  (try simp [foldl_mem, foldl_pending, foldl_fst_mem, foldl_fst_pending, foldl_snd_mem, foldl_snd_pending]) <;> (repeat' (first | with_reducible refine (foldl_mem _ (fun _ _ => ?_) _ _).trans ?_ | with_reducible refine (foldl_pending _ (fun _ _ => ?_) _ _).trans ?_ | (split <;> (try (rename_i heq; have h1 := congrArg Prod.fst heq; have h2 := congrArg Prod.snd heq; dsimp only at h1 h2; clear heq; (try subst h1); (try subst h2)))) | dsimp only)) <;> simp_all [foldl_mem, foldl_pending, foldl_fst_mem, foldl_fst_pending, foldl_snd_mem, foldl_snd_pending]
@[simp] theorem rebuilt_pending (s : State) (k : Nat) (g : Group) (r : Recon) (gen : Nat) (v : ShareVal) (b : CommitBlock) : (rebuilt s k g r gen v b).pending = s.pending := by
  unfold rebuilt
  (try simp [foldl_mem, foldl_pending, foldl_fst_mem, foldl_fst_pending, foldl_snd_mem, foldl_snd_pending]) <;> (repeat' (first | with_reducible refine (foldl_mem _ (fun _ _ => ?_) _ _).trans ?_ | with_reducible refine (foldl_pending _ (fun _ _ => ?_) _ _).trans ?_ | (split <;> (try (rename_i heq; have h1 := congrArg Prod.fst heq; have h2 := congrArg Prod.snd heq; dsimp only at h1 h2; clear heq; (try subst h1); (try subst h2)))) | dsimp only)) <;> simp_all [foldl_mem, foldl_pending, foldl_fst_mem, foldl_fst_pending, foldl_snd_mem, foldl_snd_pending]

@[simp] theorem interpolateEnd_mem (s : State) (k rc gen : Nat) (b : CommitBlock) : (interpolateEnd s k rc gen b).mem = s.mem := by
  unfold interpolateEnd
  repeat' split
  all_goals simp
@[simp] theorem interpolateEnd_pending (s : State) (k rc gen : Nat) (b : CommitBlock) : (interpolateEnd s k rc gen b).pending = s.pending := by
  unfold interpolateEnd
  repeat' split
  all_goals simp

@[simp] theorem interpolateFails_mem (s : State) (k rc : Nat) (st : Status) : (interpolateFails s k rc st).mem = s.mem := by
  unfold interpolateFails
  repeat' split
  all_goals simp
@[simp] theorem interpolateFails_pending (s : State) (k rc : Nat) (st : Status) : (interpolateFails s k rc st).pending = s.pending := by
  unfold interpolateFails
  repeat' split
  all_goals simp

@[simp] theorem execShare_keeps (h : EnvHdr) (c : CuHdr) (rc : Word) (target : Pos) (gens : List ShareGen) (s : State)  : Keeps s (execShare h c rc target gens s) := by
  unfold execShare
  first | (simp (maxDischargeDepth := 60) +contextual; done) | (simp (maxDischargeDepth := 60) +contextual [foldl_mem, foldl_wf, foldl_fst_mem, foldl_fst_wf, foldl_snd_mem, foldl_snd_wf, foldl_pending, foldl_fst_pending, foldl_snd_pending]; done) | ((repeat' (first | with_reducible apply managerWrite_keeps | with_reducible apply onEngine_keeps | with_reducible apply onRoutine_keeps | with_reducible apply onService_keeps | with_reducible apply onProg_keeps | with_reducible apply slotInstr_keeps | with_reducible apply qcmd_wf | with_reducible apply qcmd_pending | with_reducible apply chainCmd_wf | with_reducible apply chainCmd_pending | with_reducible apply withDrbg_wf | with_reducible apply withDrbg_pending | with_reducible apply onEnv_wf | with_reducible apply onEnv_pending | with_reducible apply cuGate_wf | with_reducible apply cuGate_pending | with_reducible apply onGroup_keeps | with_reducible apply gGate_wf | with_reducible apply gGate_pending | with_reducible apply keeps_go | with_reducible refine (foldl_pending _ (fun _ _ => ?_) _ _).trans ?_ | with_reducible refine foldl_wf _ (fun _ _ _ => ?_) _ _ ?_ | (split <;> (try (rename_i heq; have h1 := congrArg Prod.fst heq; have h2 := congrArg Prod.snd heq; dsimp only at h1 h2; clear heq; (try subst h1); (try subst h2)))) | dsimp only | intro _)) <;> (first | (simp (maxDischargeDepth := 60) +contextual [foldl_mem, foldl_wf, foldl_fst_mem, foldl_fst_wf, foldl_snd_mem, foldl_snd_wf, foldl_pending, foldl_fst_pending, foldl_snd_pending, *]; done) | simp_all (maxDischargeDepth := 60) +contextual [foldl_mem, foldl_wf, foldl_fst_mem, foldl_fst_wf, foldl_snd_mem, foldl_snd_wf, foldl_pending, foldl_fst_pending, foldl_snd_pending]))

@[simp] theorem execReconCutoff_keeps (n : Fin 4096) (s : State)  : Keeps s (execReconCutoff n s) := by
  unfold execReconCutoff
  repeat' split
  all_goals simp (maxDischargeDepth := 60) +contextual

@[simp] theorem execReconDone_keeps (h : EnvHdr) (c : CuHdr) (target : Pos) (done : Bool) (status : BitVec 16) (s : State)  : Keeps s (execReconDone h c target done status s) := by
  unfold execReconDone
  simp

@[simp] theorem execPositionLossTimeout_keeps (n : Fin 4096) (p : Pos) (s : State)  : Keeps s (execPositionLossTimeout n p s) := by
  unfold execPositionLossTimeout
  repeat' split
  all_goals simp (maxDischargeDepth := 60) +contextual

@[simp] theorem answerRole_mem (s : State) (h : EnvHdr) (c : CuHdr) (g : Group) (st : Status) : (answerRole s h c g st).mem = s.mem := by
  unfold answerRole
  simp
@[simp] theorem answerRole_pending (s : State) (h : EnvHdr) (c : CuHdr) (g : Group) (st : Status) : (answerRole s h c g st).pending = s.pending := by
  unfold answerRole
  simp

@[simp] theorem namedInto_mem (s : State) (h : EnvHdr) (c : CuHdr) (b : GroupStateBody) : (namedInto s h c b).mem = s.mem := by
  unfold namedInto
  repeat' split
  all_goals simp
@[simp] theorem namedInto_pending (s : State) (h : EnvHdr) (c : CuHdr) (b : GroupStateBody) : (namedInto s h c b).pending = s.pending := by
  unfold namedInto
  repeat' split
  all_goals simp

@[simp] theorem takeState_mem (s : State) (k : Nat) (g : Group) (b : GroupStateBody) (gen : Nat) : (takeState s k g b gen).mem = s.mem := by
  unfold takeState
  simp
@[simp] theorem takeState_pending (s : State) (k : Nat) (g : Group) (b : GroupStateBody) (gen : Nat) : (takeState s k g b gen).pending = s.pending := by
  unfold takeState
  simp

@[simp] theorem execGroupState_keeps (h : EnvHdr) (c : CuHdr) (body : GroupStateBody) (s : State)  : Keeps s (execGroupState h c body s) := by
  unfold execGroupState
  first | (simp (maxDischargeDepth := 60) +contextual; done) | (simp (maxDischargeDepth := 60) +contextual [foldl_mem, foldl_wf, foldl_fst_mem, foldl_fst_wf, foldl_snd_mem, foldl_snd_wf, foldl_pending, foldl_fst_pending, foldl_snd_pending]; done) | ((repeat' (first | with_reducible apply managerWrite_keeps | with_reducible apply onEngine_keeps | with_reducible apply onRoutine_keeps | with_reducible apply onService_keeps | with_reducible apply onProg_keeps | with_reducible apply slotInstr_keeps | with_reducible apply qcmd_wf | with_reducible apply qcmd_pending | with_reducible apply chainCmd_wf | with_reducible apply chainCmd_pending | with_reducible apply withDrbg_wf | with_reducible apply withDrbg_pending | with_reducible apply onEnv_wf | with_reducible apply onEnv_pending | with_reducible apply cuGate_wf | with_reducible apply cuGate_pending | with_reducible apply onGroup_keeps | with_reducible apply gGate_wf | with_reducible apply gGate_pending | with_reducible apply keeps_go | with_reducible refine (foldl_pending _ (fun _ _ => ?_) _ _).trans ?_ | with_reducible refine foldl_wf _ (fun _ _ _ => ?_) _ _ ?_ | (split <;> (try (rename_i heq; have h1 := congrArg Prod.fst heq; have h2 := congrArg Prod.snd heq; dsimp only at h1 h2; clear heq; (try subst h1); (try subst h2)))) | dsimp only | intro _)) <;> (first | (simp (maxDischargeDepth := 60) +contextual [foldl_mem, foldl_wf, foldl_fst_mem, foldl_fst_wf, foldl_snd_mem, foldl_snd_wf, foldl_pending, foldl_fst_pending, foldl_snd_pending, *]; done) | simp_all (maxDischargeDepth := 60) +contextual [foldl_mem, foldl_wf, foldl_fst_mem, foldl_fst_wf, foldl_snd_mem, foldl_snd_wf, foldl_pending, foldl_fst_pending, foldl_snd_pending]))

@[simp] theorem execAccept_keeps (h : EnvHdr) (c : CuHdr) (yes : Bool) (status : BitVec 16) (s : State)  : Keeps s (execAccept h c yes status s) := by
  unfold execAccept
  simp

@[simp] theorem execGroupDel_keeps (h : EnvHdr) (c : CuHdr) (t1 t2 : Ticket) (s : State)  : Keeps s (execGroupDel h c t1 t2 s) := by
  unfold execGroupDel
  simp

@[simp] theorem gDone_mem (s : State) (st : Status) (detail : Nat) : (gDone s st detail).mem = s.mem := by
  unfold gDone
  simp
@[simp] theorem gDone_pending (s : State) (st : Status) (detail : Nat) : (gDone s st detail).pending = s.pending := by
  unfold gDone
  simp

@[simp] theorem gGate_wf (s : State) (f : State → State) (hwf : s.mem.wf = true) (hf : ∀ x0, x0.mem.wf = true → (f x0).mem.wf = true) : (gGate s f).mem.wf = true := by
  unfold gGate
  simp (maxDischargeDepth := 60) +contextual [*]
@[simp] theorem gGate_pending (s : State) (f : State → State) (hg : ∀ x0, (f x0).pending = x0.pending) : (gGate s f).pending = s.pending := by
  unfold gGate
  simp [*]

@[simp] theorem createGroup_mem (s : State) (k : Nat) (d : GroupDesc) (t : Held × Held) : (createGroup s k d t).mem = s.mem := by
  unfold createGroup
  first | (simp; done) | (simp [foldl_mem, foldl_pending, foldl_fst_mem, foldl_fst_pending, foldl_snd_mem, foldl_snd_pending, *]; done) | ((try simp [foldl_mem, foldl_pending, foldl_fst_mem, foldl_fst_pending, foldl_snd_mem, foldl_snd_pending]) <;> (repeat' (first | with_reducible refine (foldl_mem _ (fun _ _ => ?_) _ _).trans ?_ | with_reducible refine (foldl_pending _ (fun _ _ => ?_) _ _).trans ?_ | (split <;> (try (rename_i heq; have h1 := congrArg Prod.fst heq; have h2 := congrArg Prod.snd heq; dsimp only at h1 h2; clear heq; (try subst h1); (try subst h2)))) | dsimp only)) <;> simp_all [foldl_mem, foldl_pending, foldl_fst_mem, foldl_fst_pending, foldl_snd_mem, foldl_snd_pending])
@[simp] theorem createGroup_pending (s : State) (k : Nat) (d : GroupDesc) (t : Held × Held) : (createGroup s k d t).pending = s.pending := by
  unfold createGroup
  first | (simp; done) | (simp [foldl_mem, foldl_pending, foldl_fst_mem, foldl_fst_pending, foldl_snd_mem, foldl_snd_pending, *]; done) | ((try simp [foldl_mem, foldl_pending, foldl_fst_mem, foldl_fst_pending, foldl_snd_mem, foldl_snd_pending]) <;> (repeat' (first | with_reducible refine (foldl_mem _ (fun _ _ => ?_) _ _).trans ?_ | with_reducible refine (foldl_pending _ (fun _ _ => ?_) _ _).trans ?_ | (split <;> (try (rename_i heq; have h1 := congrArg Prod.fst heq; have h2 := congrArg Prod.snd heq; dsimp only at h1 h2; clear heq; (try subst h1); (try subst h2)))) | dsimp only)) <;> simp_all [foldl_mem, foldl_pending, foldl_fst_mem, foldl_fst_pending, foldl_snd_mem, foldl_snd_pending])

@[simp] theorem createEnd_mem (s : State) (k : Nat) : (createEnd s k).mem = s.mem := by
  unfold createEnd
  repeat' split
  all_goals simp
@[simp] theorem createEnd_pending (s : State) (k : Nat) : (createEnd s k).pending = s.pending := by
  unfold createEnd
  repeat' split
  all_goals simp

@[simp] theorem createFails_mem (s : State) (k : Nat) : (createFails s k).mem = s.mem := by
  unfold createFails
  split <;> simp
@[simp] theorem createFails_pending (s : State) (k : Nat) : (createFails s k).pending = s.pending := by
  unfold createFails
  split <;> simp

@[simp] theorem createCmd_mem (s : State) (r : HostRead (BitVec 2048)) : (createCmd s r).mem = s.mem := by
  unfold createCmd
  repeat' split
  all_goals simp
@[simp] theorem createCmd_pending (s : State) (r : HostRead (BitVec 2048)) : (createCmd s r).pending = s.pending := by
  unfold createCmd
  repeat' split
  all_goals simp

@[simp] theorem execGroupCreate_keeps (d : HostRead (BitVec 2048)) (s : State)  : Keeps s (execGroupCreate d s) := by
  unfold execGroupCreate
  simp +contextual

@[simp] theorem execGroupCreateDeadline_keeps (s : State)  : Keeps s (execGroupCreateDeadline s) := by
  unfold execGroupCreateDeadline
  split <;> simp +contextual

@[simp] theorem changeCmd_mem (s : State) (n : Nat) (r : HostRead (BitVec 2048)) : (changeCmd s n r).mem = s.mem := by
  unfold changeCmd
  repeat' split
  all_goals simp
@[simp] theorem changeCmd_pending (s : State) (n : Nat) (r : HostRead (BitVec 2048)) : (changeCmd s n r).pending = s.pending := by
  unfold changeCmd
  repeat' split
  all_goals simp

@[simp] theorem execGroupChange_keeps (n : Fin 4096) (d : HostRead (BitVec 2048)) (s : State)  : Keeps s (execGroupChange n d s) := by
  unfold execGroupChange
  simp +contextual

@[simp] theorem replaceAt_mem (s : State) (k : Nat) (g : Group) (i : Nat) (m : Member) : (replaceAt s k g i m).mem = s.mem := by
  unfold replaceAt
  simp
@[simp] theorem replaceAt_pending (s : State) (k : Nat) (g : Group) (i : Nat) (m : Member) : (replaceAt s k g i m).pending = s.pending := by
  unfold replaceAt
  simp

@[simp] theorem execGroupReplace_keeps (n : Fin 4096) (m : Member) (p : Byte) (s : State)  : Keeps s (execGroupReplace n m p s) := by
  unfold execGroupReplace
  (repeat' (first | with_reducible apply managerWrite_keeps | with_reducible apply onEngine_keeps | with_reducible apply onRoutine_keeps | with_reducible apply onService_keeps | with_reducible apply onProg_keeps | with_reducible apply slotInstr_keeps | with_reducible apply qcmd_wf | with_reducible apply qcmd_pending | with_reducible apply chainCmd_wf | with_reducible apply chainCmd_pending | with_reducible apply withDrbg_wf | with_reducible apply withDrbg_pending | with_reducible apply onEnv_wf | with_reducible apply onEnv_pending | with_reducible apply cuGate_wf | with_reducible apply cuGate_pending | with_reducible apply onGroup_keeps | with_reducible apply gGate_wf | with_reducible apply gGate_pending | with_reducible apply keeps_go | with_reducible refine (foldl_pending _ (fun _ _ => ?_) _ _).trans ?_ | with_reducible refine foldl_wf _ (fun _ _ _ => ?_) _ _ ?_ | (split <;> (try (rename_i heq; have h1 := congrArg Prod.fst heq; have h2 := congrArg Prod.snd heq; dsimp only at h1 h2; clear heq; (try subst h1); (try subst h2)))) | dsimp only | intro _)) <;> (first | (simp (maxDischargeDepth := 60) +contextual [foldl_mem, foldl_wf, foldl_fst_mem, foldl_fst_wf, foldl_snd_mem, foldl_snd_wf, foldl_pending, foldl_fst_pending, foldl_snd_pending, *]; done) | simp_all (maxDischargeDepth := 60) +contextual [foldl_mem, foldl_wf, foldl_fst_mem, foldl_fst_wf, foldl_snd_mem, foldl_snd_wf, foldl_pending, foldl_fst_pending, foldl_snd_pending])

@[simp] theorem execGroupBind_keeps (n : Fin 4096) (s : State)  : Keeps s (execGroupBind n s) := by
  unfold execGroupBind
  first | (simp (maxDischargeDepth := 60) +contextual; done) | (simp (maxDischargeDepth := 60) +contextual [foldl_mem, foldl_wf, foldl_fst_mem, foldl_fst_wf, foldl_snd_mem, foldl_snd_wf, foldl_pending, foldl_fst_pending, foldl_snd_pending]; done) | ((repeat' (first | with_reducible apply managerWrite_keeps | with_reducible apply onEngine_keeps | with_reducible apply onRoutine_keeps | with_reducible apply onService_keeps | with_reducible apply onProg_keeps | with_reducible apply slotInstr_keeps | with_reducible apply qcmd_wf | with_reducible apply qcmd_pending | with_reducible apply chainCmd_wf | with_reducible apply chainCmd_pending | with_reducible apply withDrbg_wf | with_reducible apply withDrbg_pending | with_reducible apply onEnv_wf | with_reducible apply onEnv_pending | with_reducible apply cuGate_wf | with_reducible apply cuGate_pending | with_reducible apply onGroup_keeps | with_reducible apply gGate_wf | with_reducible apply gGate_pending | with_reducible apply keeps_go | with_reducible refine (foldl_pending _ (fun _ _ => ?_) _ _).trans ?_ | with_reducible refine foldl_wf _ (fun _ _ _ => ?_) _ _ ?_ | (split <;> (try (rename_i heq; have h1 := congrArg Prod.fst heq; have h2 := congrArg Prod.snd heq; dsimp only at h1 h2; clear heq; (try subst h1); (try subst h2)))) | dsimp only | intro _)) <;> (first | (simp (maxDischargeDepth := 60) +contextual [foldl_mem, foldl_wf, foldl_fst_mem, foldl_fst_wf, foldl_snd_mem, foldl_snd_wf, foldl_pending, foldl_fst_pending, foldl_snd_pending, *]; done) | simp_all (maxDischargeDepth := 60) +contextual [foldl_mem, foldl_wf, foldl_fst_mem, foldl_fst_wf, foldl_snd_mem, foldl_snd_wf, foldl_pending, foldl_fst_pending, foldl_snd_pending]))

@[simp] theorem execGroupDelete_keeps (n : Fin 4096) (s : State)  : Keeps s (execGroupDelete n s) := by
  unfold execGroupDelete
  first | (simp (maxDischargeDepth := 60) +contextual; done) | (simp (maxDischargeDepth := 60) +contextual [foldl_mem, foldl_wf, foldl_fst_mem, foldl_fst_wf, foldl_snd_mem, foldl_snd_wf, foldl_pending, foldl_fst_pending, foldl_snd_pending]; done) | ((repeat' (first | with_reducible apply managerWrite_keeps | with_reducible apply onEngine_keeps | with_reducible apply onRoutine_keeps | with_reducible apply onService_keeps | with_reducible apply onProg_keeps | with_reducible apply slotInstr_keeps | with_reducible apply qcmd_wf | with_reducible apply qcmd_pending | with_reducible apply chainCmd_wf | with_reducible apply chainCmd_pending | with_reducible apply withDrbg_wf | with_reducible apply withDrbg_pending | with_reducible apply onEnv_wf | with_reducible apply onEnv_pending | with_reducible apply cuGate_wf | with_reducible apply cuGate_pending | with_reducible apply onGroup_keeps | with_reducible apply gGate_wf | with_reducible apply gGate_pending | with_reducible apply keeps_go | with_reducible refine (foldl_pending _ (fun _ _ => ?_) _ _).trans ?_ | with_reducible refine foldl_wf _ (fun _ _ _ => ?_) _ _ ?_ | (split <;> (try (rename_i heq; have h1 := congrArg Prod.fst heq; have h2 := congrArg Prod.snd heq; dsimp only at h1 h2; clear heq; (try subst h1); (try subst h2)))) | dsimp only | intro _)) <;> (first | (simp (maxDischargeDepth := 60) +contextual [foldl_mem, foldl_wf, foldl_fst_mem, foldl_fst_wf, foldl_snd_mem, foldl_snd_wf, foldl_pending, foldl_fst_pending, foldl_snd_pending, *]; done) | simp_all (maxDischargeDepth := 60) +contextual [foldl_mem, foldl_wf, foldl_fst_mem, foldl_fst_wf, foldl_snd_mem, foldl_snd_wf, foldl_pending, foldl_fst_pending, foldl_snd_pending]))

@[simp] theorem execGroupSweep_keeps (n : Fin 4096) (s : State)  : Keeps s (execGroupSweep n s) := by
  unfold execGroupSweep
  first | (simp (maxDischargeDepth := 60) +contextual; done) | (simp (maxDischargeDepth := 60) +contextual [foldl_mem, foldl_wf, foldl_fst_mem, foldl_fst_wf, foldl_snd_mem, foldl_snd_wf, foldl_pending, foldl_fst_pending, foldl_snd_pending]; done) | ((repeat' (first | with_reducible apply managerWrite_keeps | with_reducible apply onEngine_keeps | with_reducible apply onRoutine_keeps | with_reducible apply onService_keeps | with_reducible apply onProg_keeps | with_reducible apply slotInstr_keeps | with_reducible apply qcmd_wf | with_reducible apply qcmd_pending | with_reducible apply chainCmd_wf | with_reducible apply chainCmd_pending | with_reducible apply withDrbg_wf | with_reducible apply withDrbg_pending | with_reducible apply onEnv_wf | with_reducible apply onEnv_pending | with_reducible apply cuGate_wf | with_reducible apply cuGate_pending | with_reducible apply onGroup_keeps | with_reducible apply gGate_wf | with_reducible apply gGate_pending | with_reducible apply keeps_go | with_reducible refine (foldl_pending _ (fun _ _ => ?_) _ _).trans ?_ | with_reducible refine foldl_wf _ (fun _ _ _ => ?_) _ _ ?_ | (split <;> (try (rename_i heq; have h1 := congrArg Prod.fst heq; have h2 := congrArg Prod.snd heq; dsimp only at h1 h2; clear heq; (try subst h1); (try subst h2)))) | dsimp only | intro _)) <;> (first | (simp (maxDischargeDepth := 60) +contextual [foldl_mem, foldl_wf, foldl_fst_mem, foldl_fst_wf, foldl_snd_mem, foldl_snd_wf, foldl_pending, foldl_fst_pending, foldl_snd_pending, *]; done) | simp_all (maxDischargeDepth := 60) +contextual [foldl_mem, foldl_wf, foldl_fst_mem, foldl_fst_wf, foldl_snd_mem, foldl_snd_wf, foldl_pending, foldl_fst_pending, foldl_snd_pending]))

@[simp] theorem backupHead_mem (s : State) (head : Nat) : (backupHead s head).mem = s.mem := by
  unfold backupHead
  simp
@[simp] theorem backupHead_pending (s : State) (head : Nat) : (backupHead s head).pending = s.pending := by
  unfold backupHead
  simp

@[simp] theorem execBackupRingHeadWrite_keeps (head : BitVec 12) (s : State)  : Keeps s (execBackupRingHeadWrite head s) := by
  unfold execBackupRingHeadWrite
  simp

@[simp] theorem writeChain_mem (s : State) (b : Backup) (k : Fin 4096) (sl : Slice) (ix gen : Nat) : (writeChain s b k sl ix gen).mem = s.mem := by
  unfold writeChain
  simp [foldl_mem]
@[simp] theorem writeChain_pending (s : State) (b : Backup) (k : Fin 4096) (sl : Slice) (ix gen : Nat) : (writeChain s b k sl ix gen).pending = s.pending := by
  unfold writeChain
  simp [foldl_pending]

@[simp] theorem restoreOne_mem (s : State) (b : Backup) (pick : Nat) : (restoreOne s b pick).1.mem = s.mem := by
  unfold restoreOne
  dsimp only
  repeat' split
  all_goals simp
@[simp] theorem restoreOne_pending (s : State) (b : Backup) (pick : Nat) : (restoreOne s b pick).1.pending = s.pending := by
  unfold restoreOne
  dsimp only
  repeat' split
  all_goals simp

@[simp] theorem restoreAll_mem (l : List Backup) (picks : List Nat) (s : State) : (restoreAll l picks s).mem = s.mem := by
  induction l generalizing s picks with
  | nil => rfl
  | cons b r ih =>
    unfold restoreAll
    extract_lets slot x s0 s1 s2
    split
    · rfl
    · have h1 : s1.mem = s.mem := restoreOne_mem _ _ _
      have h2 : s2.mem = s.mem := by simp only [s2]; split <;> simp [h1]
      rw [ih, wrF_mem, h2]
@[simp] theorem restoreAll_pending (l : List Backup) (picks : List Nat) (s : State) : (restoreAll l picks s).pending = s.pending := by
  induction l generalizing s picks with
  | nil => rfl
  | cons b r ih =>
    unfold restoreAll
    extract_lets slot x s0 s1 s2
    split
    · rfl
    · have h1 : s1.pending = s.pending := restoreOne_pending _ _ _
      have h2 : s2.pending = s.pending := by simp only [s2]; split <;> simp [h1]
      rw [ih, wrF_pending, h2]

@[simp] theorem restoreTail_mem (s : State) (tail : Nat) (backups : List Backup) (picks : List Nat) : (restoreTail s tail backups picks).mem = s.mem := by
  unfold restoreTail
  simp
@[simp] theorem restoreTail_pending (s : State) (tail : Nat) (backups : List Backup) (picks : List Nat) : (restoreTail s tail backups picks).pending = s.pending := by
  unfold restoreTail
  simp

@[simp] theorem execRestoreRingTailWrite_keeps (tail : BitVec 12) (backups : List Backup) (picks : List Nat) (s : State)  : Keeps s (execRestoreRingTailWrite tail backups picks s) := by
  unfold execRestoreRingTailWrite
  simp

end Machine
end Sys2Proof
end

