-- ==== Sys2Proof/Laws/KeptFoyer.lean ====
section
/-! SUPPORT. What the functions of Machine/Foyer.lean keep: the queue of commands, and the memories or their canonical form. -/

set_option linter.all false

namespace Sys2Proof
namespace Machine

@[simp] theorem setSlot_mem (s : State) (n : Fin 4) (c : CardSlot) : (setSlot s n c).mem = s.mem := by
  unfold setSlot
  simp
@[simp] theorem setSlot_pending (s : State) (n : Fin 4) (c : CardSlot) : (setSlot s n c).pending = s.pending := by
  unfold setSlot
  simp

@[simp] theorem slDone_mem (s : State) (st : Status) (detail : Nat) : (slDone s st detail).mem = s.mem := by
  unfold slDone
  simp
@[simp] theorem slDone_pending (s : State) (st : Status) (detail : Nat) : (slDone s st detail).pending = s.pending := by
  unfold slDone
  simp

@[simp] theorem abortSlotCmd_mem (s : State) (n : Fin 4) : (abortSlotCmd s n).mem = s.mem := by
  unfold abortSlotCmd
  split <;> simp
@[simp] theorem abortSlotCmd_pending (s : State) (n : Fin 4) : (abortSlotCmd s n).pending = s.pending := by
  unfold abortSlotCmd
  split <;> simp

@[simp] theorem deactivate_mem (s : State) (n : Fin 4) (st : SlotState) : (deactivate s n st).mem = s.mem := by
  unfold deactivate
  simp
@[simp] theorem deactivate_pending (s : State) (n : Fin 4) (st : SlotState) : (deactivate s n st).pending = s.pending := by
  unfold deactivate
  simp

@[simp] theorem slotError_mem (s : State) (n : Fin 4) (err : Nat) (st : SlotState) : (slotError s n err st).mem = s.mem := by
  unfold slotError
  simp
@[simp] theorem slotError_pending (s : State) (n : Fin 4) (err : Nat) (st : SlotState) : (slotError s n err st).pending = s.pending := by
  unfold slotError
  simp

@[simp] theorem sealOpened_mem (s : State) (n : Fin 4) : (sealOpened s n).mem = s.mem := by
  unfold sealOpened
  simp
@[simp] theorem sealOpened_pending (s : State) (n : Fin 4) : (sealOpened s n).pending = s.pending := by
  unfold sealOpened
  simp

@[simp] theorem activate_mem (s : State) (n : Fin 4) (cls : Nat) (noPps : Bool) : (activate s n cls noPps).mem = s.mem := by
  unfold activate
  simp
@[simp] theorem activate_pending (s : State) (n : Fin 4) (cls : Nat) (noPps : Bool) : (activate s n cls noPps).pending = s.pending := by
  unfold activate
  simp

@[simp] theorem execCardInsert_keeps (n : Fin 4) (s : State)  : Keeps s (execCardInsert n s) := by
  unfold execCardInsert
  simp

@[simp] theorem execSlotDebounceDone_keeps (n : Fin 4) (s : State)  : Keeps s (execSlotDebounceDone n s) := by
  unfold execSlotDebounceDone
  simp

@[simp] theorem slotActive_mem (s : State) (n : Fin 4) (fi di div : Nat) : (slotActive s n fi di div).mem = s.mem := by
  unfold slotActive
  simp
@[simp] theorem slotActive_pending (s : State) (n : Fin 4) (fi di div : Nat) : (slotActive s n fi di div).pending = s.pending := by
  unfold slotActive
  simp

@[simp] theorem atrParams_mem (s : State) (n : Fin 4) (a : Atr) : (atrParams s n a).mem = s.mem := by
  unfold atrParams
  repeat' split
  all_goals simp
@[simp] theorem atrParams_pending (s : State) (n : Fin 4) (a : Atr) : (atrParams s n a).pending = s.pending := by
  unfold atrParams
  repeat' split
  all_goals simp

@[simp] theorem execAnswerToReset_keeps (n : Fin 4) (a : Atr) (s : State)  : Keeps s (execAnswerToReset n a s) := by
  unfold execAnswerToReset
  dsimp only
  repeat' split
  all_goals simp (maxDischargeDepth := 60) +contextual

@[simp] theorem execAtrTimeout_keeps (n : Fin 4) (s : State)  : Keeps s (execAtrTimeout n s) := by
  unfold execAtrTimeout
  simp

@[simp] theorem execClassRetry_keeps (n : Fin 4) (s : State)  : Keeps s (execClassRetry n s) := by
  unfold execClassRetry
  simp

@[simp] theorem ppsFallback_mem (s : State) (n : Fin 4) : (ppsFallback s n).mem = s.mem := by
  unfold ppsFallback
  simp
@[simp] theorem ppsFallback_pending (s : State) (n : Fin 4) : (ppsFallback s n).pending = s.pending := by
  unfold ppsFallback
  simp

@[simp] theorem execPpsResponse_keeps (n : Fin 4) (confirmed : Bool) (s : State)  : Keeps s (execPpsResponse n confirmed s) := by
  unfold execPpsResponse
  simp

@[simp] theorem execPpsTimeout_keeps (n : Fin 4) (s : State)  : Keeps s (execPpsTimeout n s) := by
  unfold execPpsTimeout
  simp

@[simp] theorem blockFailed_mem (s : State) (n : Fin 4) : (blockFailed s n).mem = s.mem := by
  unfold blockFailed
  simp
@[simp] theorem blockFailed_pending (s : State) (n : Fin 4) : (blockFailed s n).pending = s.pending := by
  unfold blockFailed
  simp

@[simp] theorem execCardBlockTimeout_keeps (n : Fin 4) (s : State)  : Keeps s (execCardBlockTimeout n s) := by
  unfold execCardBlockTimeout
  simp

@[simp] theorem execCardRemove_keeps (n : Fin 4) (s : State)  : Keeps s (execCardRemove n s) := by
  unfold execCardRemove
  simp

@[simp] theorem execSealBreak_keeps (n : Fin 4) (s : State)  : Keeps s (execSealBreak n s) := by
  unfold execSealBreak
  simp

@[simp] theorem execSlotOvercurrent_keeps (n : Fin 4) (s : State)  : Keeps s (execSlotOvercurrent n s) := by
  unfold execSlotOvercurrent
  simp

@[simp] theorem slGate_wf (s : State) (op : Nat) (f : State → State) (hwf : s.mem.wf = true) (hf : ∀ x0, x0.mem.wf = true → (f x0).mem.wf = true) : (slGate s op f).mem.wf = true := by
  unfold slGate
  simp (maxDischargeDepth := 60) +contextual [*]
@[simp] theorem slGate_pending (s : State) (op : Nat) (f : State → State) (hg : ∀ x0, (f x0).pending = x0.pending) : (slGate s op f).pending = s.pending := by
  unfold slGate
  simp [*]

@[simp] theorem slBadOp_wf (s : State) (hwf : s.mem.wf = true)  : (slBadOp s).mem.wf = true := by
  unfold slBadOp
  simp [hwf]
@[simp] theorem slBadOp_pending (s : State)  : (slBadOp s).pending = s.pending := by
  unfold slBadOp
  simp

@[simp] theorem setCmd_mem (s : State) (c : SlCmd) : (setCmd s c).mem = s.mem := by
  unfold setCmd
  simp
@[simp] theorem setCmd_pending (s : State) (c : SlCmd) : (setCmd s c).pending = s.pending := by
  unfold setCmd
  simp

@[simp] theorem slBegin_mem (s : State) (c : SlCmd) (dest : Fin 4) (pin : BitVec 128) : (slBegin s c dest pin).mem = s.mem := by
  unfold slBegin
  simp
@[simp] theorem slBegin_pending (s : State) (c : SlCmd) (dest : Fin 4) (pin : BitVec 128) : (slBegin s c dest pin).pending = s.pending := by
  unfold slBegin
  simp

@[simp] theorem execSign_keeps (n : Fin 4) (buf : HostRead (BitVec 1408 × BitVec 128)) (s : State)  : Keeps s (execSign n buf s) := by
  unfold execSign
  split <;> simp +contextual

@[simp] theorem ticketSigned_mem (s : State) (raw : BitVec 1408) (sig : BitVec 768) : (ticketSigned s raw sig).mem = s.mem := by
  unfold ticketSigned
  extract_lets t s1
  have h1 : s1.mem = s.mem := rfl
  have h2 := holdTicket_mem s1 t true true
  split
  · split
    · rename_i h; rw [h] at h2; rw [slDone_mem]; exact h2.trans h1
    · rename_i h; rw [h] at h2; rw [slDone_mem]; exact h2.trans h1
  · rw [slDone_mem]
@[simp] theorem ticketSigned_pending (s : State) (raw : BitVec 1408) (sig : BitVec 768) : (ticketSigned s raw sig).pending = s.pending := by
  unfold ticketSigned
  extract_lets t s1
  have h1 : s1.pending = s.pending := rfl
  have h2 := holdTicket_pending s1 t true true
  split
  · split
    · rename_i h; rw [h] at h2; rw [slDone_pending]; exact h2.trans h1
    · rename_i h; rw [h] at h2; rw [slDone_pending]; exact h2.trans h1
  · rw [slDone_pending]

@[simp] theorem execHold_keeps (t : HostRead Ticket) (s : State)  : Keeps s (execHold t s) := by
  unfold execHold
  first | (simp (maxDischargeDepth := 60) +contextual; done) | (simp (maxDischargeDepth := 60) +contextual [foldl_mem, foldl_wf, foldl_fst_mem, foldl_fst_wf, foldl_snd_mem, foldl_snd_wf, foldl_pending, foldl_fst_pending, foldl_snd_pending]; done) | ((repeat' (first | with_reducible apply managerWrite_keeps | with_reducible apply onEngine_keeps | with_reducible apply onRoutine_keeps | with_reducible apply onService_keeps | with_reducible apply onProg_keeps | with_reducible apply slotInstr_keeps | with_reducible apply onGroup_keeps | with_reducible apply qcmd_wf | with_reducible apply qcmd_pending | with_reducible apply chainCmd_wf | with_reducible apply chainCmd_pending | with_reducible apply withDrbg_wf | with_reducible apply withDrbg_pending | with_reducible apply onEnv_wf | with_reducible apply onEnv_pending | with_reducible apply cuGate_wf | with_reducible apply cuGate_pending | with_reducible apply gGate_wf | with_reducible apply gGate_pending | with_reducible apply slGate_wf | with_reducible apply slGate_pending | with_reducible apply keeps_go | with_reducible refine (foldl_pending _ (fun _ _ => ?_) _ _).trans ?_ | with_reducible refine foldl_wf _ (fun _ _ _ => ?_) _ _ ?_ | (split <;> (try (rename_i heq; have h1 := congrArg Prod.fst heq; have h2 := congrArg Prod.snd heq; dsimp only at h1 h2; clear heq; (try subst h1); (try subst h2)))) | dsimp only | intro _)) <;> (first | (simp (maxDischargeDepth := 60) +contextual [foldl_mem, foldl_wf, foldl_fst_mem, foldl_fst_wf, foldl_snd_mem, foldl_snd_wf, foldl_pending, foldl_fst_pending, foldl_snd_pending, *]; done) | simp_all (maxDischargeDepth := 60) +contextual [foldl_mem, foldl_wf, foldl_fst_mem, foldl_fst_wf, foldl_snd_mem, foldl_snd_wf, foldl_pending, foldl_fst_pending, foldl_snd_pending]))

@[simp] theorem execRelay_keeps (m : Member) (t : HostRead Ticket) (s : State)  : Keeps s (execRelay m t s) := by
  unfold execRelay
  split <;> simp +contextual

@[simp] theorem execDrop_keeps (s : State)  : Keeps s (execDrop s) := by
  unfold execDrop
  simp +contextual

@[simp] theorem execPowerOff_keeps (n : Fin 4) (s : State)  : Keeps s (execPowerOff n s) := by
  unfold execPowerOff
  simp +contextual

@[simp] theorem execPowerOn_keeps (n : Fin 4) (s : State)  : Keeps s (execPowerOn n s) := by
  unfold execPowerOn
  simp +contextual

@[simp] theorem seatSlot_mem (s : State) (n : Fin 4) : (seatSlot s n).mem = s.mem := by
  unfold seatSlot
  simp
@[simp] theorem seatSlot_pending (s : State) (n : Fin 4) : (seatSlot s n).pending = s.pending := by
  unfold seatSlot
  simp

@[simp] theorem offSlot_mem (s : State) (n : Fin 4) : (offSlot s n).mem = s.mem := by
  unfold offSlot
  simp
@[simp] theorem offSlot_pending (s : State) (n : Fin 4) : (offSlot s n).pending = s.pending := by
  unfold offSlot
  simp

@[simp] theorem slCfg_mem (s : State) (v : Word) : (slCfg s v).mem = s.mem := by
  unfold slCfg
  simp [foldl_mem]
@[simp] theorem slCfg_pending (s : State) (v : Word) : (slCfg s v).pending = s.pending := by
  unfold slCfg
  simp [foldl_pending]

@[simp] theorem carrierFound_mem (s : State) (n : Fin 4) (found : Bool) : (carrierFound s n found).mem = s.mem := by
  unfold carrierFound
  simp
@[simp] theorem carrierFound_pending (s : State) (n : Fin 4) (found : Bool) : (carrierFound s n found).pending = s.pending := by
  unfold carrierFound
  simp

@[simp] theorem writeEntry64_mem (s : State) (ix : Nat) (c : Custodian) (t : Held × Held) : (writeEntry64 s ix c t).mem = s.mem := by
  unfold writeEntry64
  simp
@[simp] theorem writeEntry64_pending (s : State) (ix : Nat) (c : Custodian) (t : Held × Held) : (writeEntry64 s ix c t).pending = s.pending := by
  unfold writeEntry64
  simp

@[simp] theorem execCustAdd_keeps (n donor : Fin 4) (buf : HostRead (Fin 256 × Fin 256 × BitVec 128 × BitVec 128 × BitVec 128)) (s : State)  : Keeps s (execCustAdd n donor buf s) := by
  unfold execCustAdd
  (repeat' (first | with_reducible apply managerWrite_keeps | with_reducible apply onEngine_keeps | with_reducible apply onRoutine_keeps | with_reducible apply onService_keeps | with_reducible apply onProg_keeps | with_reducible apply slotInstr_keeps | with_reducible apply onGroup_keeps | with_reducible apply qcmd_wf | with_reducible apply qcmd_pending | with_reducible apply chainCmd_wf | with_reducible apply chainCmd_pending | with_reducible apply withDrbg_wf | with_reducible apply withDrbg_pending | with_reducible apply onEnv_wf | with_reducible apply onEnv_pending | with_reducible apply cuGate_wf | with_reducible apply cuGate_pending | with_reducible apply gGate_wf | with_reducible apply gGate_pending | with_reducible apply slGate_wf | with_reducible apply slGate_pending | with_reducible apply keeps_go | with_reducible refine (foldl_pending _ (fun _ _ => ?_) _ _).trans ?_ | with_reducible refine foldl_wf _ (fun _ _ _ => ?_) _ _ ?_ | (split <;> (try (rename_i heq; have h1 := congrArg Prod.fst heq; have h2 := congrArg Prod.snd heq; dsimp only at h1 h2; clear heq; (try subst h1); (try subst h2)))) | dsimp only | intro _)) <;> (first | (simp (maxDischargeDepth := 60) +contextual [foldl_mem, foldl_wf, foldl_fst_mem, foldl_fst_wf, foldl_snd_mem, foldl_snd_wf, foldl_pending, foldl_fst_pending, foldl_snd_pending, *]; done) | simp_all (maxDischargeDepth := 60) +contextual [foldl_mem, foldl_wf, foldl_fst_mem, foldl_fst_wf, foldl_snd_mem, foldl_snd_wf, foldl_pending, foldl_fst_pending, foldl_snd_pending])

@[simp] theorem custAdded_mem (s : State) (c : SlCmd) : (custAdded s c).mem = s.mem := by
  unfold custAdded
  dsimp only
  repeat' split
  all_goals simp
@[simp] theorem custAdded_pending (s : State) (c : SlCmd) : (custAdded s c).pending = s.pending := by
  unfold custAdded
  dsimp only
  repeat' split
  all_goals simp

@[simp] theorem execCustDel_keeps (buf : HostRead (Fin 256 × Fin 256 × BitVec 128)) (s : State)  : Keeps s (execCustDel buf s) := by
  unfold execCustDel
  first | (simp (maxDischargeDepth := 60) +contextual; done) | (simp (maxDischargeDepth := 60) +contextual [foldl_mem, foldl_wf, foldl_fst_mem, foldl_fst_wf, foldl_snd_mem, foldl_snd_wf, foldl_pending, foldl_fst_pending, foldl_snd_pending]; done) | ((repeat' (first | with_reducible apply managerWrite_keeps | with_reducible apply onEngine_keeps | with_reducible apply onRoutine_keeps | with_reducible apply onService_keeps | with_reducible apply onProg_keeps | with_reducible apply slotInstr_keeps | with_reducible apply onGroup_keeps | with_reducible apply qcmd_wf | with_reducible apply qcmd_pending | with_reducible apply chainCmd_wf | with_reducible apply chainCmd_pending | with_reducible apply withDrbg_wf | with_reducible apply withDrbg_pending | with_reducible apply onEnv_wf | with_reducible apply onEnv_pending | with_reducible apply cuGate_wf | with_reducible apply cuGate_pending | with_reducible apply gGate_wf | with_reducible apply gGate_pending | with_reducible apply slGate_wf | with_reducible apply slGate_pending | with_reducible apply keeps_go | with_reducible refine (foldl_pending _ (fun _ _ => ?_) _ _).trans ?_ | with_reducible refine foldl_wf _ (fun _ _ _ => ?_) _ _ ?_ | (split <;> (try (rename_i heq; have h1 := congrArg Prod.fst heq; have h2 := congrArg Prod.snd heq; dsimp only at h1 h2; clear heq; (try subst h1); (try subst h2)))) | dsimp only | intro _)) <;> (first | (simp (maxDischargeDepth := 60) +contextual [foldl_mem, foldl_wf, foldl_fst_mem, foldl_fst_wf, foldl_snd_mem, foldl_snd_wf, foldl_pending, foldl_fst_pending, foldl_snd_pending, *]; done) | simp_all (maxDischargeDepth := 60) +contextual [foldl_mem, foldl_wf, foldl_fst_mem, foldl_fst_wf, foldl_snd_mem, foldl_snd_wf, foldl_pending, foldl_fst_pending, foldl_snd_pending]))

@[simp] theorem execSignkeySet_keeps (buf : HostRead (BitVec 16512)) (s : State)  : Keeps s (execSignkeySet buf s) := by
  unfold execSignkeySet
  (repeat' (first | with_reducible apply managerWrite_keeps | with_reducible apply onEngine_keeps | with_reducible apply onRoutine_keeps | with_reducible apply onService_keeps | with_reducible apply onProg_keeps | with_reducible apply slotInstr_keeps | with_reducible apply onGroup_keeps | with_reducible apply qcmd_wf | with_reducible apply qcmd_pending | with_reducible apply chainCmd_wf | with_reducible apply chainCmd_pending | with_reducible apply withDrbg_wf | with_reducible apply withDrbg_pending | with_reducible apply onEnv_wf | with_reducible apply onEnv_pending | with_reducible apply cuGate_wf | with_reducible apply cuGate_pending | with_reducible apply gGate_wf | with_reducible apply gGate_pending | with_reducible apply slGate_wf | with_reducible apply slGate_pending | with_reducible apply keeps_go | with_reducible refine (foldl_pending _ (fun _ _ => ?_) _ _).trans ?_ | with_reducible refine foldl_wf _ (fun _ _ _ => ?_) _ _ ?_ | (split <;> (try (rename_i heq; have h1 := congrArg Prod.fst heq; have h2 := congrArg Prod.snd heq; dsimp only at h1 h2; clear heq; (try subst h1); (try subst h2)))) | dsimp only | intro _)) <;> (first | (simp (maxDischargeDepth := 60) +contextual [foldl_mem, foldl_wf, foldl_fst_mem, foldl_fst_wf, foldl_snd_mem, foldl_snd_wf, foldl_pending, foldl_fst_pending, foldl_snd_pending, *]; done) | simp_all (maxDischargeDepth := 60) +contextual [foldl_mem, foldl_wf, foldl_fst_mem, foldl_fst_wf, foldl_snd_mem, foldl_snd_wf, foldl_pending, foldl_fst_pending, foldl_snd_pending])

@[simp] theorem execSignkeyRevoke_keeps (buf : HostRead (Fin 256)) (s : State)  : Keeps s (execSignkeyRevoke buf s) := by
  unfold execSignkeyRevoke
  first | (simp (maxDischargeDepth := 60) +contextual; done) | (simp (maxDischargeDepth := 60) +contextual [foldl_mem, foldl_wf, foldl_fst_mem, foldl_fst_wf, foldl_snd_mem, foldl_snd_wf, foldl_pending, foldl_fst_pending, foldl_snd_pending]; done) | ((repeat' (first | with_reducible apply managerWrite_keeps | with_reducible apply onEngine_keeps | with_reducible apply onRoutine_keeps | with_reducible apply onService_keeps | with_reducible apply onProg_keeps | with_reducible apply slotInstr_keeps | with_reducible apply onGroup_keeps | with_reducible apply qcmd_wf | with_reducible apply qcmd_pending | with_reducible apply chainCmd_wf | with_reducible apply chainCmd_pending | with_reducible apply withDrbg_wf | with_reducible apply withDrbg_pending | with_reducible apply onEnv_wf | with_reducible apply onEnv_pending | with_reducible apply cuGate_wf | with_reducible apply cuGate_pending | with_reducible apply gGate_wf | with_reducible apply gGate_pending | with_reducible apply slGate_wf | with_reducible apply slGate_pending | with_reducible apply keeps_go | with_reducible refine (foldl_pending _ (fun _ _ => ?_) _ _).trans ?_ | with_reducible refine foldl_wf _ (fun _ _ _ => ?_) _ _ ?_ | (split <;> (try (rename_i heq; have h1 := congrArg Prod.fst heq; have h2 := congrArg Prod.snd heq; dsimp only at h1 h2; clear heq; (try subst h1); (try subst h2)))) | dsimp only | intro _)) <;> (first | (simp (maxDischargeDepth := 60) +contextual [foldl_mem, foldl_wf, foldl_fst_mem, foldl_fst_wf, foldl_snd_mem, foldl_snd_wf, foldl_pending, foldl_fst_pending, foldl_snd_pending, *]; done) | simp_all (maxDischargeDepth := 60) +contextual [foldl_mem, foldl_wf, foldl_fst_mem, foldl_fst_wf, foldl_snd_mem, foldl_snd_wf, foldl_pending, foldl_fst_pending, foldl_snd_pending]))

@[simp] theorem halfOpened_mem (s : State) (c : SlCmd) (r : Option Nat) : (halfOpened s c r).mem = s.mem := by
  unfold halfOpened
  split <;> simp
@[simp] theorem halfOpened_pending (s : State) (c : SlCmd) (r : Option Nat) : (halfOpened s c r).pending = s.pending := by
  unfold halfOpened
  split <;> simp

@[simp] theorem halfRead_mem (s : State) (c : SlCmd) (w : BitVec 1096) : (halfRead s c w).mem = s.mem := halfOpened_mem _ _ _
@[simp] theorem halfRead_pending (s : State) (c : SlCmd) (w : BitVec 1096) : (halfRead s c w).pending = s.pending :=
  halfOpened_pending _ _ _

@[simp] theorem cmdAnswer_mem (s : State) (c : SlCmd) (a : CardAnswer) : (cmdAnswer s c a).mem = s.mem := by
  cases a <;> unfold cmdAnswer <;> dsimp only <;> (repeat' split) <;> simp
@[simp] theorem cmdAnswer_pending (s : State) (c : SlCmd) (a : CardAnswer) : (cmdAnswer s c a).pending = s.pending := by
  cases a <;> unfold cmdAnswer <;> dsimp only <;> (repeat' split) <;> simp

@[simp] theorem pinFailed_mem (s : State) (n : Fin 4) : (pinFailed s n).mem = s.mem := by
  unfold pinFailed
  simp
@[simp] theorem pinFailed_pending (s : State) (n : Fin 4) : (pinFailed s n).pending = s.pending := by
  unfold pinFailed
  simp

@[simp] theorem cardAnswer_mem (s : State) (n : Fin 4) (a : CardAnswer) : (cardAnswer s n a).mem = s.mem := by
  unfold cardAnswer
  dsimp only
  repeat' split
  all_goals simp
@[simp] theorem cardAnswer_pending (s : State) (n : Fin 4) (a : CardAnswer) : (cardAnswer s n a).pending = s.pending := by
  unfold cardAnswer
  dsimp only
  repeat' split
  all_goals simp

@[simp] theorem execCardBlockReceive_keeps (n : Fin 4) (a : CardAnswer) (s : State)  : Keeps s (execCardBlockReceive n a s) := by
  unfold execCardBlockReceive
  repeat' split
  all_goals simp (maxDischargeDepth := 60) +contextual

end Machine
end Sys2Proof
end

