-- ==== Sys2Proof/Laws/KeptAttic.lean ====
section
/-! SUPPORT. What the functions of Machine/Attic.lean keep: the queue of commands, and the memories or their canonical form. -/

set_option linter.all false

namespace Sys2Proof
namespace Machine

@[simp] theorem withEv_mem (s : State) (f : Ev → Ev) : (withEv s f).mem = s.mem := by
  unfold withEv
  simp
@[simp] theorem withEv_pending (s : State) (f : Ev → Ev) : (withEv s f).pending = s.pending := by
  unfold withEv
  simp

@[simp] theorem placeEntry_mem (s : State) (e : Nat → Nat → Entry) : (placeEntry s e).mem = s.mem := by
  unfold placeEntry
  simp
@[simp] theorem placeEntry_pending (s : State) (e : Nat → Nat → Entry) : (placeEntry s e).pending = s.pending := by
  unfold placeEntry
  simp

@[simp] theorem placeNow_mem (s : State) (e : Nat → Nat → Entry) : (placeNow s e).mem = s.mem := by
  unfold placeNow
  simp
@[simp] theorem placeNow_pending (s : State) (e : Nat → Nat → Entry) : (placeNow s e).pending = s.pending := by
  unfold placeNow
  simp

@[simp] theorem lostEntry_mem (s : State) (n cause : Nat) : (lostEntry s n cause).mem = s.mem := by
  unfold lostEntry
  simp
@[simp] theorem lostEntry_pending (s : State) (n cause : Nat) : (lostEntry s n cause).pending = s.pending := by
  unfold lostEntry
  simp

@[simp] theorem trimSram_mem (s : State) : (trimSram s).mem = s.mem := by
  unfold trimSram
  simp
@[simp] theorem trimSram_pending (s : State) : (trimSram s).pending = s.pending := by
  unfold trimSram
  simp

@[simp] theorem writeEntry_mem (s : State) (code src data : Nat) : (writeEntry s code src data).mem = s.mem := by
  unfold writeEntry
  simp
@[simp] theorem writeEntry_pending (s : State) (code src data : Nat) : (writeEntry s code src data).pending = s.pending := by
  unfold writeEntry
  simp

@[simp] theorem setBucket_mem (s : State) (code : Nat) (b : Bucket) : (setBucket s code b).mem = s.mem := by
  unfold setBucket
  simp
@[simp] theorem setBucket_pending (s : State) (code : Nat) (b : Bucket) : (setBucket s code b).pending = s.pending := by
  unfold setBucket
  simp

@[simp] theorem judge_mem (s : State) (r : Report) : (judge s r).mem = s.mem := by
  unfold judge
  simp
@[simp] theorem judge_pending (s : State) (r : Report) : (judge s r).pending = s.pending := by
  unfold judge
  simp

@[simp] theorem execAtticReport_keeps (s : State)  : Keeps s (execAtticReport s) := by
  unfold execAtticReport
  repeat' split
  all_goals simp (maxDischargeDepth := 60) +contextual

@[simp] theorem refill_mem (s : State) (code : Nat) : (refill s code).mem = s.mem := by
  unfold refill
  simp
@[simp] theorem refill_pending (s : State) (code : Nat) : (refill s code).pending = s.pending := by
  unfold refill
  simp

@[simp] theorem execBucketRefill_keeps (code : Fin 1024) (s : State)  : Keeps s (execBucketRefill code s) := by
  unfold execBucketRefill
  simp

@[simp] theorem execQueueRoomLostEntry_keeps (s : State)  : Keeps s (execQueueRoomLostEntry s) := by
  unfold execQueueRoomLostEntry
  simp

@[simp] theorem rateWrite_mem (s : State) (v : Word) : (rateWrite s v).mem = s.mem := by
  unfold rateWrite
  simp
@[simp] theorem rateWrite_pending (s : State) (v : Word) : (rateWrite s v).pending = s.pending := by
  unfold rateWrite
  simp

@[simp] theorem execRateWrite_keeps (val : Word) (s : State)  : Keeps s (execRateWrite val s) := by
  unfold execRateWrite
  simp

@[simp] theorem execMirrorProgram_keeps (page : Nat) (s : State)  : Keeps s (execMirrorProgram page s) := by
  unfold execMirrorProgram
  simp

@[simp] theorem setData_mem (s : State) (e : Entry) : (setData s e).mem = s.mem := by
  unfold setData
  simp [foldl_mem]
@[simp] theorem setData_pending (s : State) (e : Entry) : (setData s e).pending = s.pending := by
  unfold setData
  simp [foldl_pending]

@[simp] theorem readSts_mem (s : State) (busy valid : Bool) : (readSts s busy valid).mem = s.mem := by
  unfold readSts
  simp
@[simp] theorem readSts_pending (s : State) (busy valid : Bool) : (readSts s busy valid).pending = s.pending := by
  unfold readSts
  simp

@[simp] theorem fetchEntry_mem (s : State) (key : Nat) (e : Entry) : (fetchEntry s key e).1.mem = s.mem := by
  unfold fetchEntry
  repeat' split
  all_goals simp
@[simp] theorem fetchEntry_pending (s : State) (key : Nat) (e : Entry) : (fetchEntry s key e).1.pending = s.pending := by
  unfold fetchEntry
  repeat' split
  all_goals simp

@[simp] theorem atticRead_mem (s : State) (seq : Nat) : (atticRead s seq).mem = s.mem := by
  unfold atticRead
  dsimp only
  repeat' split
  all_goals simp
@[simp] theorem atticRead_pending (s : State) (seq : Nat) : (atticRead s seq).pending = s.pending := by
  unfold atticRead
  dsimp only
  repeat' split
  all_goals simp

@[simp] theorem execAtticRead_keeps (seq : BitVec 32) (s : State)  : Keeps s (execAtticRead seq s) := by
  unfold execAtticRead
  simp

@[simp] theorem execAtticReadDone_keeps (s : State)  : Keeps s (execAtticReadDone s) := by
  unfold execAtticReadDone
  repeat' split
  all_goals simp (maxDischargeDepth := 60) +contextual

@[simp] theorem evDone_mem (s : State) (st : Status) (detail : Nat) : (evDone s st detail).mem = s.mem := by
  unfold evDone
  simp
@[simp] theorem evDone_pending (s : State) (st : Status) (detail : Nat) : (evDone s st detail).pending = s.pending := by
  unfold evDone
  simp

@[simp] theorem copyCmd_mem (s : State) : (copyCmd s).mem = s.mem := by
  unfold copyCmd
  simp
@[simp] theorem copyCmd_pending (s : State) : (copyCmd s).pending = s.pending := by
  unfold copyCmd
  simp

@[simp] theorem execCopy_keeps (s : State)  : Keeps s (execCopy s) := by
  unfold execCopy
  simp

@[simp] theorem copyEntry_mem (s : State) (key : Nat) : (copyEntry s key).1.mem = s.mem := by
  unfold copyEntry
  split <;> simp
@[simp] theorem copyEntry_pending (s : State) (key : Nat) : (copyEntry s key).1.pending = s.pending := by
  unfold copyEntry
  split <;> simp

@[simp] theorem copyEntries_mem (l : List Nat) (s : State) : (copyEntries s l).1.mem = s.mem := by
  induction l generalizing s with
  | nil => rfl
  | cons k r ih => simp [copyEntries, ih]
@[simp] theorem copyEntries_pending (l : List Nat) (s : State) : (copyEntries s l).1.pending = s.pending := by
  induction l generalizing s with
  | nil => rfl
  | cons k r ih => simp [copyEntries, ih]

@[simp] theorem execAtticCopyDone_keeps (readOk : Bool) (s : State)  : Keeps s (execAtticCopyDone readOk s) := by
  unfold execAtticCopyDone
  simp

@[simp] theorem clearRefused_mem (s : State) (st : Status) (detail : Nat) : (clearRefused s st detail).mem = s.mem := by
  unfold clearRefused
  simp
@[simp] theorem clearRefused_pending (s : State) (st : Status) (detail : Nat) : (clearRefused s st detail).pending = s.pending := by
  unfold clearRefused
  simp

@[simp] theorem clearNow_mem (s : State) (t : Held × Held) : (clearNow s t).mem = s.mem := by
  unfold clearNow
  simp
@[simp] theorem clearNow_pending (s : State) (t : Held × Held) : (clearNow s t).pending = s.pending := by
  unfold clearNow
  simp

@[simp] theorem clearCmd_mem (s : State) : (clearCmd s).mem = s.mem := by
  unfold clearCmd
  repeat' split
  all_goals simp
@[simp] theorem clearCmd_pending (s : State) : (clearCmd s).pending = s.pending := by
  unfold clearCmd
  repeat' split
  all_goals simp

@[simp] theorem execClear_keeps (s : State)  : Keeps s (execClear s) := by
  unfold execClear
  simp

@[simp] theorem evBadOp_mem (s : State) : (evBadOp s).mem = s.mem := by
  unfold evBadOp
  simp
@[simp] theorem evBadOp_pending (s : State) : (evBadOp s).pending = s.pending := by
  unfold evBadOp
  simp

@[simp] theorem loadEntries_mem (s : State) (kept first : Bool) : (loadEntries s kept first).1.mem = s.mem := by
  unfold loadEntries
  simp
@[simp] theorem loadEntries_pending (s : State) (kept first : Bool) : (loadEntries s kept first).1.pending = s.pending := by
  unfold loadEntries
  simp

@[simp] theorem copyBattery_mem (s : State) (e : Entry) : (copyBattery s e).mem = s.mem := by
  unfold copyBattery
  rw [trimSram_mem, placeNow_mem]
@[simp] theorem copyBattery_pending (s : State) (e : Entry) : (copyBattery s e).pending = s.pending := by
  unfold copyBattery
  rw [trimSram_pending, placeNow_pending]

@[simp] theorem copyBuffer_mem (s : State) (l : List Entry) : (copyBuffer s l).mem = s.mem := by
  unfold copyBuffer
  rw [foldl_mem _ copyBattery_mem]
@[simp] theorem copyBuffer_pending (s : State) (l : List Entry) : (copyBuffer s l).pending = s.pending := by
  unfold copyBuffer
  rw [foldl_pending _ copyBattery_pending]

@[simp] theorem bufferLost_mem (s : State) (lost data : Nat) : (bufferLost s lost data).mem = s.mem := by
  unfold bufferLost
  simp
@[simp] theorem bufferLost_pending (s : State) (lost data : Nat) : (bufferLost s lost data).pending = s.pending := by
  unfold bufferLost
  simp

@[simp] theorem mirrorLost_mem (s : State) (n : Nat) : (mirrorLost s n).mem = s.mem := by
  unfold mirrorLost
  simp
@[simp] theorem mirrorLost_pending (s : State) (n : Nat) : (mirrorLost s n).pending = s.pending := by
  unfold mirrorLost
  simp

@[simp] theorem atticLoaded_mem (s : State) : (atticLoaded s).mem = s.mem := by
  unfold atticLoaded
  simp
@[simp] theorem atticLoaded_pending (s : State) : (atticLoaded s).pending = s.pending := by
  unfold atticLoaded
  simp

@[simp] theorem atticStart_mem (s : State) (kept first dark : Bool) : (atticStart s kept first dark).mem = s.mem := by
  unfold atticStart
  simp
@[simp] theorem atticStart_pending (s : State) (kept first dark : Bool) : (atticStart s kept first dark).pending = s.pending := by
  unfold atticStart
  simp

end Machine
end Sys2Proof
end

