-- ==== Sys2Proof/Laws/KeptResets.lean ====
section
/-! SUPPORT. What the functions of Machine/Resets.lean keep: the queue of commands, and the memories or their canonical form. -/

set_option linter.all false

namespace Sys2Proof
namespace Machine

@[simp] theorem issueAll_wf (s : State) (hwf : s.mem.wf = true)  : (issueAll s).mem.wf = true := by
  unfold issueAll
  simp (maxDischargeDepth := 60) +contextual [hwf, foldl_wf]
@[simp] theorem issueAll_pending (s : State)  : (issueAll s).pending = s.pending := by
  unfold issueAll
  simp [foldl_pending]

@[simp] theorem abortForReset_wf (s : State) (hwf : s.mem.wf = true)  : (abortForReset s).mem.wf = true := by
  unfold abortForReset
  simp [hwf]
@[simp] theorem abortForReset_pending (s : State)  : (abortForReset s).pending = s.pending := by
  unfold abortForReset
  simp

@[simp] theorem prepareReset_wf (s : State) (write : Bool) (hwf : s.mem.wf = true)  : (prepareReset s write).mem.wf = true := by
  unfold prepareReset
  simp [hwf]
@[simp] theorem prepareReset_pending (s : State) (write : Bool)  : (prepareReset s write).pending = s.pending := by
  unfold prepareReset
  simp

@[simp] theorem mainReset_wf (s : State) (warm : Bool) (hwf : s.mem.wf = true)  : (mainReset s warm).mem.wf = true := by
  unfold mainReset
  simp [hwf]
@[simp] theorem mainReset_pending (s : State) (warm : Bool)  : (mainReset s warm).pending = s.pending := by
  unfold mainReset
  simp

@[simp] theorem beginStart_mem (s : State) (cause : Nat) : (beginStart s cause).mem = s.mem := by
  unfold beginStart
  simp
@[simp] theorem beginStart_pending (s : State) (cause : Nat) : (beginStart s cause).pending = s.pending := by
  unfold beginStart
  simp

@[simp] theorem warmReset_wf (s : State) (cause : Nat) (hwf : s.mem.wf = true)  : (warmReset s cause).mem.wf = true := by
  unfold warmReset
  simp [hwf]
@[simp] theorem warmReset_pending (s : State) (cause : Nat)  : (warmReset s cause).pending = s.pending := by
  unfold warmReset
  simp

@[simp] theorem execPwrOkRise_keeps (s : State)  : Keeps s (execPwrOkRise s) := by
  unfold execPwrOkRise
  simp

@[simp] theorem execPwrOkFall_keeps (now : Nat) (s : State)  : Keeps s (execPwrOkFall now s) := by
  unfold execPwrOkFall
  simp +contextual

@[simp] theorem execPerstFall_keeps (s : State)  : Keeps s (execPerstFall s) := by
  unfold execPerstFall
  simp +contextual

@[simp] theorem execPerstRise_keeps (s : State)  : Keeps s (execPerstRise s) := by
  unfold execPerstRise
  simp

@[simp] theorem resetWrite_wf (s : State) (v : Word) (hwf : s.mem.wf = true)  : (resetWrite s v).mem.wf = true := by
  unfold resetWrite
  simp [hwf]
@[simp] theorem resetWrite_pending (s : State) (v : Word)  : (resetWrite s v).pending = s.pending := by
  unfold resetWrite
  simp

@[simp] theorem execManagerReset_keeps (s : State)  : Keeps s (execManagerReset s) := by
  unfold execManagerReset
  simp +contextual

end Machine
end Sys2Proof
end

