-- ==== Sys2Proof/Laws/KeptShutters.lean ====
section
/-! SUPPORT. What the functions of Machine/Shutters.lean keep: the queue of commands, and the memories or their canonical form. -/

set_option linter.all false

namespace Sys2Proof
namespace Machine

@[simp] theorem withTp_mem (s : State) (f : Tp → Tp) : (withTp s f).mem = s.mem := by
  unfold withTp
  simp
@[simp] theorem withTp_pending (s : State) (f : Tp → Tp) : (withTp s f).pending = s.pending := by
  unfold withTp
  simp

@[simp] theorem withBb_mem (s : State) (f : Bbram → Bbram) : (withBb s f).mem = s.mem := by
  unfold withBb
  simp
@[simp] theorem withBb_pending (s : State) (f : Bbram → Bbram) : (withBb s f).pending = s.pending := by
  unfold withBb
  simp

@[simp] theorem setPolicy_mem (s : State) (p : Policy) (override : Bool) : (setPolicy s p override).mem = s.mem := by
  unfold setPolicy
  simp
@[simp] theorem setPolicy_pending (s : State) (p : Policy) (override : Bool) : (setPolicy s p override).pending = s.pending := by
  unfold setPolicy
  simp

@[simp] theorem setTsrc_mem (s : State) (n : Nat) (v : Source) : (setTsrc s n v).mem = s.mem := by
  unfold setTsrc
  simp
@[simp] theorem setTsrc_pending (s : State) (n : Nat) (v : Source) : (setTsrc s n v).pending = s.pending := by
  unfold setTsrc
  simp

@[simp] theorem sourceEvent_mem (s : State) (n now : Nat) : (sourceEvent s n now).mem = s.mem := by
  unfold sourceEvent
  simp
@[simp] theorem sourceEvent_pending (s : State) (n now : Nat) : (sourceEvent s n now).pending = s.pending := by
  unfold sourceEvent
  simp

@[simp] theorem followAlarm_mem (s : State) : (followAlarm s).mem = s.mem := by
  unfold followAlarm
  simp
@[simp] theorem followAlarm_pending (s : State) : (followAlarm s).pending = s.pending := by
  unfold followAlarm
  simp

@[simp] theorem bufferEntry_mem (s : State) (e : Entry) : (bufferEntry s e).mem = s.mem := by
  unfold bufferEntry
  simp
@[simp] theorem bufferEntry_pending (s : State) (e : Entry) : (bufferEntry s e).pending = s.pending := by
  unfold bufferEntry
  simp

@[simp] theorem recordAlarm_mem (s : State) (n now : Nat) : (recordAlarm s n now).mem = s.mem := by
  unfold recordAlarm
  simp
@[simp] theorem recordAlarm_pending (s : State) (n now : Nat) : (recordAlarm s n now).pending = s.pending := by
  unfold recordAlarm
  simp

@[simp] theorem raiseAlarm_mem (now : Nat) (s : State) (n : Nat) : (raiseAlarm now s n).mem = s.mem := by
  unfold raiseAlarm
  simp
@[simp] theorem raiseAlarm_pending (now : Nat) (s : State) (n : Nat) : (raiseAlarm now s n).pending = s.pending := by
  unfold raiseAlarm
  simp

@[simp] theorem lockTaken_mem (s : State) (zero : Bool) (count cause : Nat) : (lockTaken s zero count cause).mem = s.mem := by
  unfold lockTaken
  simp
@[simp] theorem lockTaken_pending (s : State) (zero : Bool) (count cause : Nat) : (lockTaken s zero count cause).pending = s.pending := by
  unfold lockTaken
  simp

@[simp] theorem overwriteRoot_mem (s : State) : (overwriteRoot s).mem = s.mem := by
  unfold overwriteRoot
  simp
@[simp] theorem overwriteRoot_pending (s : State) : (overwriteRoot s).pending = s.pending := by
  unfold overwriteRoot
  simp

@[simp] theorem clearKeyRegs_mem (s : State) : (clearKeyRegs s).mem = s.mem := by
  unfold clearKeyRegs
  simp
@[simp] theorem clearKeyRegs_pending (s : State) : (clearKeyRegs s).pending = s.pending := by
  unfold clearKeyRegs
  simp

@[simp] theorem clearSram_wf (s : State) (hwf : s.mem.wf = true)  : (clearSram s).mem.wf = true := by
  unfold clearSram
  simp [hwf]
@[simp] theorem clearSram_pending (s : State)  : (clearSram s).pending = s.pending := by
  unfold clearSram
  simp

@[simp] theorem zeroizeLine_wf (s : State) (root : Bool) (hwf : s.mem.wf = true)  : (zeroizeLine s root).mem.wf = true := by
  unfold zeroizeLine
  simp [hwf]
@[simp] theorem zeroizeLine_pending (s : State) (root : Bool)  : (zeroizeLine s root).pending = s.pending := by
  unfold zeroizeLine
  simp

@[simp] theorem lockBbram_mem (s : State) (cause : Nat) : (lockBbram s cause).mem = s.mem := by
  unfold lockBbram
  simp
@[simp] theorem lockBbram_pending (s : State) (cause : Nat) : (lockBbram s cause).pending = s.pending := by
  unfold lockBbram
  simp

@[simp] theorem takeLock_wf (s : State) (best cause : Nat) (hwf : s.mem.wf = true)  : (takeLock s best cause).mem.wf = true := by
  unfold takeLock
  simp (maxDischargeDepth := 60) [hwf]
@[simp] theorem takeLock_pending (s : State) (best cause : Nat)  : (takeLock s best cause).pending = s.pending := by
  unfold takeLock
  simp

@[simp] theorem warn_mem (s : State) : (warn s).mem = s.mem := by
  unfold warn
  simp
@[simp] theorem warn_pending (s : State) : (warn s).pending = s.pending := by
  unfold warn
  simp

@[simp] theorem softZeroize_wf (s : State) (hwf : s.mem.wf = true)  : (softZeroize s).mem.wf = true := by
  unfold softZeroize
  simp [hwf]
@[simp] theorem softZeroize_pending (s : State)  : (softZeroize s).pending = s.pending := by
  unfold softZeroize
  simp

@[simp] theorem takeAlarms_wf (s : State) (now : Nat) (l : List Nat) (hwf : s.mem.wf = true)  : (takeAlarms s now l).mem.wf = true := by
  unfold takeAlarms
  simp (maxDischargeDepth := 60) +contextual [hwf, foldl_wf]
@[simp] theorem takeAlarms_pending (s : State) (now : Nat) (l : List Nat)  : (takeAlarms s now l).pending = s.pending := by
  unfold takeAlarms
  simp [foldl_pending]

@[simp] theorem tamperEvents_wf (s : State) (l : List Nat) (now : Nat) (hwf : s.mem.wf = true)  : (tamperEvents s l now).mem.wf = true := by
  unfold tamperEvents
  simp (maxDischargeDepth := 60) +contextual [hwf, foldl_wf]
@[simp] theorem tamperEvents_pending (s : State) (l : List Nat) (now : Nat)  : (tamperEvents s l now).pending = s.pending := by
  unfold tamperEvents
  simp [foldl_pending]

@[simp] theorem execTamperEvent_keeps (sources : List (Fin 24)) (now : Nat) (s : State)  : Keeps s (execTamperEvent sources now s) := by
  unfold execTamperEvent
  simp +contextual

@[simp] theorem execAlarmLevelExit_keeps (n : Fin 24) (now : Nat) (s : State)  : Keeps s (execAlarmLevelExit n now s) := by
  unfold execAlarmLevelExit
  simp

@[simp] theorem execAlarmPulseEnd_keeps (s : State)  : Keeps s (execAlarmPulseEnd s) := by
  unfold execAlarmPulseEnd
  simp

@[simp] theorem execTamperClockFail_keeps (s : State)  : Keeps s (execTamperClockFail s) := by
  unfold execTamperClockFail
  repeat' split
  all_goals simp (maxDischargeDepth := 60) +contextual

@[simp] theorem execTamperClockReturn_keeps (s : State)  : Keeps s (execTamperClockReturn s) := by
  unfold execTamperClockReturn
  simp

@[simp] theorem execTamperClockTrim_keeps (s : State)  : Keeps s (execTamperClockTrim s) := by
  unfold execTamperClockTrim
  simp

@[simp] theorem execVbatRetentionLost_keeps (s : State)  : Keeps s (execVbatRetentionLost s) := by
  unfold execVbatRetentionLost
  simp

@[simp] theorem tpDone_mem (s : State) (st : Status) (detail source : Nat) : (tpDone s st detail source).mem = s.mem := by
  unfold tpDone
  simp
@[simp] theorem tpDone_pending (s : State) (st : Status) (detail source : Nat) : (tpDone s st detail source).pending = s.pending := by
  unfold tpDone
  simp

@[simp] theorem tpGate_wf (s : State) (f : State → State) (hwf : s.mem.wf = true) (hf : ∀ x0, x0.mem.wf = true → (f x0).mem.wf = true) : (tpGate s f).mem.wf = true := by
  unfold tpGate
  simp (maxDischargeDepth := 60) +contextual [*]
@[simp] theorem tpGate_pending (s : State) (f : State → State) (hg : ∀ x0, (f x0).pending = x0.pending) : (tpGate s f).pending = s.pending := by
  unfold tpGate
  simp [*]

@[simp] theorem unlockRefused_mem (s : State) (st : Status) (detail source : Nat) : (unlockRefused s st detail source).mem = s.mem := by
  unfold unlockRefused
  simp
@[simp] theorem unlockRefused_pending (s : State) (st : Status) (detail source : Nat) : (unlockRefused s st detail source).pending = s.pending := by
  unfold unlockRefused
  simp

@[simp] theorem unlockCmd_mem (s : State) : (unlockCmd s).mem = s.mem := by
  unfold unlockCmd
  repeat' split
  all_goals simp
@[simp] theorem unlockCmd_pending (s : State) : (unlockCmd s).pending = s.pending := by
  unfold unlockCmd
  repeat' split
  all_goals simp

@[simp] theorem execUnlock_keeps (s : State)  : Keeps s (execUnlock s) := by
  unfold execUnlock
  simp +contextual

@[simp] theorem unlockPass_wf (s : State) (hwf : s.mem.wf = true)  : (unlockPass s).mem.wf = true := by
  unfold unlockPass
  split <;> simp [hwf]
@[simp] theorem unlockPass_pending (s : State)  : (unlockPass s).pending = s.pending := by
  unfold unlockPass
  split <;> simp

@[simp] theorem policyCmd_mem (s : State) (block : HostRead (List Byte)) : (policyCmd s block).mem = s.mem := by
  unfold policyCmd
  dsimp only
  repeat' split
  all_goals simp
@[simp] theorem policyCmd_pending (s : State) (block : HostRead (List Byte)) : (policyCmd s block).pending = s.pending := by
  unfold policyCmd
  dsimp only
  repeat' split
  all_goals simp

@[simp] theorem execPolicyOverride_keeps (block : HostRead (List Byte)) (s : State)  : Keeps s (execPolicyOverride block s) := by
  unfold execPolicyOverride
  simp +contextual

@[simp] theorem injectCmd_wf (s : State) (n now : Nat) (hwf : s.mem.wf = true)  : (injectCmd s n now).mem.wf = true := by
  unfold injectCmd
  simp [hwf]
@[simp] theorem injectCmd_pending (s : State) (n now : Nat)  : (injectCmd s n now).pending = s.pending := by
  unfold injectCmd
  simp

@[simp] theorem execInject_keeps (n : Fin 32) (now : Nat) (s : State)  : Keeps s (execInject n now s) := by
  unfold execInject
  simp (maxDischargeDepth := 60) +contextual

@[simp] theorem tpBadOp_wf (s : State) (hwf : s.mem.wf = true)  : (tpBadOp s).mem.wf = true := by
  unfold tpBadOp
  simp [hwf]
@[simp] theorem tpBadOp_pending (s : State)  : (tpBadOp s).pending = s.pending := by
  unfold tpBadOp
  simp

end Machine
end Sys2Proof
end

