-- ==== Sys2Proof/Laws/KeptLifeCycle.lean ====
section
/-! SUPPORT. What the functions of Machine/LifeCycle.lean keep: the queue of commands, and the memories or their canonical form. -/

set_option linter.all false

namespace Sys2Proof
namespace Machine

@[simp] theorem withLc_mem (s : State) (f : Lc → Lc) : (withLc s f).mem = s.mem := by
  unfold withLc
  simp
@[simp] theorem withLc_pending (s : State) (f : Lc → Lc) : (withLc s f).pending = s.pending := by
  unfold withLc
  simp

@[simp] theorem burnMark_mem (s : State) (n : Nat) : (burnMark s n).mem = s.mem := by
  unfold burnMark
  simp
@[simp] theorem burnMark_pending (s : State) (n : Nat) : (burnMark s n).pending = s.pending := by
  unfold burnMark
  simp

@[simp] theorem lcDone_mem (s : State) (st : Status) (detail : Nat) : (lcDone s st detail).mem = s.mem := by
  unfold lcDone
  simp
@[simp] theorem lcDone_pending (s : State) (st : Status) (detail : Nat) : (lcDone s st detail).pending = s.pending := by
  unfold lcDone
  simp

@[simp] theorem lcGate_wf (s : State) (f : State → State) (hwf : s.mem.wf = true) (hf : ∀ x0, x0.mem.wf = true → (f x0).mem.wf = true) : (lcGate s f).mem.wf = true := by
  unfold lcGate
  simp (maxDischargeDepth := 60) +contextual [*]
@[simp] theorem lcGate_pending (s : State) (f : State → State) (hg : ∀ x0, (f x0).pending = x0.pending) : (lcGate s f).pending = s.pending := by
  unfold lcGate
  simp [*]

@[simp] theorem lcRefused_mem (s : State) (st : Status) (detail : Nat) : (lcRefused s st detail).mem = s.mem := by
  unfold lcRefused
  simp
@[simp] theorem lcRefused_pending (s : State) (st : Status) (detail : Nat) : (lcRefused s st detail).pending = s.pending := by
  unfold lcRefused
  simp
theorem tokenCheck_some {s t : State} {k : Nat} (h : tokenCheck s k = some t) : t.mem = s.mem ∧ t.pending = s.pending := by
  unfold tokenCheck at h
  split at h
  · injection h with h; subst h; simp
  · split at h
    · injection h with h; subst h; simp
    · cases h

@[simp] theorem lcAsk_mem (s : State) (d : Decision) : (lcAsk s d).mem = s.mem := by
  unfold lcAsk
  simp
@[simp] theorem lcAsk_pending (s : State) (d : Decision) : (lcAsk s d).pending = s.pending := by
  unfold lcAsk
  simp

@[simp] theorem transitionCmd_mem (s : State) (target : Nat) : (transitionCmd s target).mem = s.mem := by
  unfold transitionCmd
  dsimp only
  split
  · simp
  · split
    · simp
    · split
      · rename_i h; exact (tokenCheck_some h).1
      · split <;> simp
@[simp] theorem transitionCmd_pending (s : State) (target : Nat) : (transitionCmd s target).pending = s.pending := by
  unfold transitionCmd
  dsimp only
  split
  · simp
  · split
    · simp
    · split
      · rename_i h; exact (tokenCheck_some h).2
      · split <;> simp

@[simp] theorem execTransition_keeps (target : Fin 8) (s : State)  : Keeps s (execTransition target s) := by
  unfold execTransition
  simp +contextual

@[simp] theorem eraseAreas_mem (s : State) (l : List Nat) : (eraseAreas s l).mem = s.mem := by
  unfold eraseAreas
  simp
@[simp] theorem eraseAreas_pending (s : State) (l : List Nat) : (eraseAreas s l).pending = s.pending := by
  unfold eraseAreas
  simp

@[simp] theorem wipe_wf (s : State) (c : LifeCycle) (hwf : s.mem.wf = true)  : (wipe s c).mem.wf = true := by
  unfold wipe
  split <;> simp [hwf]
@[simp] theorem wipe_pending (s : State) (c : LifeCycle)  : (wipe s c).pending = s.pending := by
  unfold wipe
  split <;> simp

@[simp] theorem finishTransition_wf (s : State) (hwf : s.mem.wf = true)  : (finishTransition s).mem.wf = true := by
  unfold finishTransition
  simp [hwf]
@[simp] theorem finishTransition_pending (s : State)  : (finishTransition s).pending = s.pending := by
  unfold finishTransition
  simp

@[simp] theorem continueTransition_wf (s : State) (hwf : s.mem.wf = true)  : (continueTransition s).mem.wf = true := by
  unfold continueTransition
  simp [hwf]
@[simp] theorem continueTransition_pending (s : State)  : (continueTransition s).pending = s.pending := by
  unfold continueTransition
  simp

@[simp] theorem beginTransition_wf (s : State) (b : LifeCycle) (hwf : s.mem.wf = true)  : (beginTransition s b).mem.wf = true := by
  unfold beginTransition
  dsimp only
  repeat' split
  all_goals simp (maxDischargeDepth := 60) [hwf]
@[simp] theorem beginTransition_pending (s : State) (b : LifeCycle)  : (beginTransition s b).pending = s.pending := by
  unfold beginTransition
  dsimp only
  repeat' split
  all_goals simp

@[simp] theorem openJtag_mem (s : State) : (openJtag s).mem = s.mem := by
  unfold openJtag
  simp
@[simp] theorem openJtag_pending (s : State) : (openJtag s).pending = s.pending := by
  unfold openJtag
  simp

@[simp] theorem debugCmd_mem (s : State) : (debugCmd s).mem = s.mem := by
  unfold debugCmd
  split
  · simp
  · simp
  · simp
  all_goals
    split
    · rename_i h; exact (tokenCheck_some h).1
    · simp
@[simp] theorem debugCmd_pending (s : State) : (debugCmd s).pending = s.pending := by
  unfold debugCmd
  split
  · simp
  · simp
  · simp
  all_goals
    split
    · rename_i h; exact (tokenCheck_some h).2
    · simp

@[simp] theorem execLcDebug_keeps (s : State)  : Keeps s (execLcDebug s) := by
  unfold execLcDebug
  simp +contextual

-- skipped planState : State

@[simp] theorem tryGrant_mem (s : State) (key : Nat) (g : Grant) : (tryGrant s key g).1.mem = s.mem := by
  unfold tryGrant
  split <;> simp
@[simp] theorem tryGrant_pending (s : State) (key : Nat) (g : Grant) : (tryGrant s key g).1.pending = s.pending := by
  unfold tryGrant
  split <;> simp

@[simp] theorem noteWrite_mem (s : State) (slot : Nat) : (noteWrite s slot).mem = s.mem := by
  unfold noteWrite
  simp
@[simp] theorem noteWrite_pending (s : State) (slot : Nat) : (noteWrite s slot).pending = s.pending := by
  unfold noteWrite
  simp

@[simp] theorem profileCmd_mem (s : State) (slot : Nat) (block : HostRead (List Byte)) : (profileCmd s slot block).mem = s.mem := by
  unfold profileCmd
  dsimp only
  repeat' split
  all_goals simp
@[simp] theorem profileCmd_pending (s : State) (slot : Nat) (block : HostRead (List Byte)) : (profileCmd s slot block).pending = s.pending := by
  unfold profileCmd
  dsimp only
  repeat' split
  all_goals simp

@[simp] theorem execProfileWrite_keeps (slot : Fin 4) (block : HostRead (List Byte)) (s : State)  : Keeps s (execProfileWrite slot block s) := by
  unfold execProfileWrite
  simp +contextual

@[simp] theorem fixCmd_mem (s : State) (slot : Fin 4) : (fixCmd s slot).mem = s.mem := by
  unfold fixCmd
  repeat' split
  all_goals simp
@[simp] theorem fixCmd_pending (s : State) (slot : Fin 4) : (fixCmd s slot).pending = s.pending := by
  unfold fixCmd
  repeat' split
  all_goals simp

@[simp] theorem execFixProfileSel_keeps (slot : Fin 4) (s : State)  : Keeps s (execFixProfileSel slot s) := by
  unfold execFixProfileSel
  simp +contextual

@[simp] theorem switchCmd_mem (s : State) (slot : Fin 4) : (switchCmd s slot).mem = s.mem := by
  unfold switchCmd
  dsimp only
  repeat' split
  all_goals simp
@[simp] theorem switchCmd_pending (s : State) (slot : Fin 4) : (switchCmd s slot).pending = s.pending := by
  unfold switchCmd
  dsimp only
  repeat' split
  all_goals simp

@[simp] theorem execSwitch_keeps (slot : Fin 4) (s : State)  : Keeps s (execSwitch slot s) := by
  unfold execSwitch
  simp +contextual

@[simp] theorem lcBadOp_wf (s : State) (hwf : s.mem.wf = true)  : (lcBadOp s).mem.wf = true := by
  unfold lcBadOp
  simp [hwf]
@[simp] theorem lcBadOp_pending (s : State)  : (lcBadOp s).pending = s.pending := by
  unfold lcBadOp
  simp

@[simp] theorem loadGrant_mem (s : State) (g : Nat × (Word × Word × Word)) : (loadGrant s g).mem = s.mem := by
  unfold loadGrant
  first | (simp; done) | (simp [foldl_mem, foldl_pending, foldl_fst_mem, foldl_fst_pending, foldl_snd_mem, foldl_snd_pending, *]; done) | ((try simp [foldl_mem, foldl_pending, foldl_fst_mem, foldl_fst_pending, foldl_snd_mem, foldl_snd_pending]) <;> (repeat' (first | with_reducible refine (foldl_mem _ (fun _ _ => ?_) _ _).trans ?_ | with_reducible refine (foldl_pending _ (fun _ _ => ?_) _ _).trans ?_ | (split <;> (try (rename_i heq; have h1 := congrArg Prod.fst heq; have h2 := congrArg Prod.snd heq; dsimp only at h1 h2; clear heq; (try subst h1); (try subst h2)))) | dsimp only)) <;> simp_all [foldl_mem, foldl_pending, foldl_fst_mem, foldl_fst_pending, foldl_snd_mem, foldl_snd_pending])
@[simp] theorem loadGrant_pending (s : State) (g : Nat × (Word × Word × Word)) : (loadGrant s g).pending = s.pending := by
  unfold loadGrant
  first | (simp; done) | (simp [foldl_mem, foldl_pending, foldl_fst_mem, foldl_fst_pending, foldl_snd_mem, foldl_snd_pending, *]; done) | ((try simp [foldl_mem, foldl_pending, foldl_fst_mem, foldl_fst_pending, foldl_snd_mem, foldl_snd_pending]) <;> (repeat' (first | with_reducible refine (foldl_mem _ (fun _ _ => ?_) _ _).trans ?_ | with_reducible refine (foldl_pending _ (fun _ _ => ?_) _ _).trans ?_ | (split <;> (try (rename_i heq; have h1 := congrArg Prod.fst heq; have h2 := congrArg Prod.snd heq; dsimp only at h1 h2; clear heq; (try subst h1); (try subst h2)))) | dsimp only)) <;> simp_all [foldl_mem, foldl_pending, foldl_fst_mem, foldl_fst_pending, foldl_snd_mem, foldl_snd_pending])

@[simp] theorem loadWords_mem (s : State) (t : Tab Word) (off hi : Nat) : (loadWords s t off hi).mem = s.mem := by
  unfold loadWords
  simp [foldl_mem]
@[simp] theorem loadWords_pending (s : State) (t : Tab Word) (off hi : Nat) : (loadWords s t off hi).pending = s.pending := by
  unfold loadWords
  simp [foldl_pending]

@[simp] theorem loadProfile_mem (s : State) (p : Profile) : (loadProfile s p).mem = s.mem := by
  unfold loadProfile
  simp [foldl_mem]
@[simp] theorem loadProfile_pending (s : State) (p : Profile) : (loadProfile s p).pending = s.pending := by
  unfold loadProfile
  simp [foldl_pending]

@[simp] theorem loadAtStart_mem (s : State) (slot : Fin 4) : (loadAtStart s slot).mem = s.mem := by
  unfold loadAtStart
  simp
@[simp] theorem loadAtStart_pending (s : State) (slot : Fin 4) : (loadAtStart s slot).pending = s.pending := by
  unfold loadAtStart
  simp

@[simp] theorem fireProfile_mem (s : State) (slot : Fin 4) : (fireProfile s slot).mem = s.mem := by
  unfold fireProfile
  simp
@[simp] theorem fireProfile_pending (s : State) (slot : Fin 4) : (fireProfile s slot).pending = s.pending := by
  unfold fireProfile
  simp

@[simp] theorem fireEntry_mem (s : State) (n : Nat) (e : Sched) : (fireEntry s n e).mem = s.mem := by
  unfold fireEntry
  split <;> simp
@[simp] theorem fireEntry_pending (s : State) (n : Nat) (e : Sched) : (fireEntry s n e).pending = s.pending := by
  unfold fireEntry
  split <;> simp

@[simp] theorem execSchedEntryFire_keeps (n : Fin 16) (s : State)  : Keeps s (execSchedEntryFire n s) := by
  unfold execSchedEntryFire
  split <;> simp +contextual

@[simp] theorem execSchedHeldEntryFire_keeps (n : Fin 16) (s : State)  : Keeps s (execSchedHeldEntryFire n s) := by
  unfold execSchedHeldEntryFire
  split <;> simp +contextual

@[simp] theorem splitEvent_wf (s : State) (hi lo now : Nat) (hwf : s.mem.wf = true)  : (splitEvent s hi lo now).mem.wf = true := by
  unfold splitEvent
  simp [hwf]
@[simp] theorem splitEvent_pending (s : State) (hi lo now : Nat)  : (splitEvent s hi lo now).pending = s.pending := by
  unfold splitEvent
  simp

@[simp] theorem grantDenied_mem (s : State) (d : Decision) : (grantDenied s d).mem = s.mem := by
  unfold grantDenied
  split <;> simp
@[simp] theorem grantDenied_pending (s : State) (d : Decision) : (grantDenied s d).pending = s.pending := by
  unfold grantDenied
  split <;> simp

@[simp] theorem grantGiven_wf (s : State) (d : Decision) (hwf : s.mem.wf = true)  : (grantGiven s d).mem.wf = true := by
  unfold grantGiven
  split <;> simp [hwf]
@[simp] theorem grantGiven_pending (s : State) (d : Decision)  : (grantGiven s d).pending = s.pending := by
  unfold grantGiven
  split <;> simp

@[simp] theorem execE2Evaluation_keeps (agrees : Bool) (now : Nat) (s : State)  : Keeps s (execE2Evaluation agrees now s) := by
  unfold execE2Evaluation
  split <;> simp +contextual

end Machine
end Sys2Proof
end

