-- ==== Sys2Proof/Laws/KeptUpkeep.lean ====
section
/-! SUPPORT. What the functions of Machine/Upkeep.lean keep: the queue of commands, and the memories or their canonical form. -/

set_option linter.all false

namespace Sys2Proof
namespace Machine

@[simp] theorem withEc_mem (s : State) (f : Ec → Ec) : (withEc s f).mem = s.mem := by
  unfold withEc
  simp
@[simp] theorem withEc_pending (s : State) (f : Ec → Ec) : (withEc s f).pending = s.pending := by
  unfold withEc
  simp

@[simp] theorem poisonOwner_wf (s : State) (o : Nat) (hwf : s.mem.wf = true)  : (poisonOwner s o).mem.wf = true := by
  unfold poisonOwner
  split <;> simp [hwf]
@[simp] theorem poisonOwner_pending (s : State) (o : Nat) : (poisonOwner s o).pending = s.pending := by
  unfold poisonOwner
  split <;> simp

@[simp] theorem cacheWordFails_mem (s : State) (w : Nat) : (cacheWordFails s w).mem = s.mem := by
  unfold cacheWordFails
  dsimp only
  repeat' split
  all_goals simp
@[simp] theorem cacheWordFails_pending (s : State) (w : Nat) : (cacheWordFails s w).pending = s.pending := by
  unfold cacheWordFails
  dsimp only
  repeat' split
  all_goals simp

@[simp] theorem cuWordFails_mem (s : State) (h : ScrubHolds) : (cuWordFails s h).mem = s.mem := by
  unfold cuWordFails
  dsimp only
  repeat' split
  all_goals simp [foldl_mem]
@[simp] theorem cuWordFails_pending (s : State) (h : ScrubHolds) : (cuWordFails s h).pending = s.pending := by
  unfold cuWordFails
  dsimp only
  repeat' split
  all_goals simp [foldl_pending]

@[simp] theorem poisonRead_wf (s : State) (m w : Nat) (h : ScrubHolds) (hwf : s.mem.wf = true)  : (poisonRead s m w h).mem.wf = true := by
  unfold poisonRead
  dsimp only
  repeat' split
  all_goals simp (maxDischargeDepth := 60) [hwf]
@[simp] theorem poisonRead_pending (s : State) (m w : Nat) (h : ScrubHolds) : (poisonRead s m w h).pending = s.pending := by
  unfold poisonRead
  dsimp only
  repeat' split
  all_goals simp

@[simp] theorem wordCE_mem (s : State) (m w : Nat) (h : ScrubHolds) : (wordCE s m w h).mem = s.mem := by
  unfold wordCE
  split <;> simp
@[simp] theorem wordCE_pending (s : State) (m w : Nat) (h : ScrubHolds) : (wordCE s m w h).pending = s.pending := by
  unfold wordCE
  split <;> simp

@[simp] theorem wordUE_mem (s : State) (m w : Nat) : (wordUE s m w).mem = s.mem := by
  unfold wordUE
  split <;> simp
@[simp] theorem wordUE_pending (s : State) (m w : Nat) : (wordUE s m w).pending = s.pending := by
  unfold wordUE
  split <;> simp

@[simp] theorem scrubWord_wf (s : State) (m w : Nat) (h : ScrubHolds) (ecc : Ecc) (hwf : s.mem.wf = true)  : (scrubWord s m w h ecc).mem.wf = true := by
  unfold scrubWord
  split <;> simp [hwf]
@[simp] theorem scrubWord_pending (s : State) (m w : Nat) (h : ScrubHolds) (ecc : Ecc) : (scrubWord s m w h ecc).pending = s.pending := by
  unfold scrubWord
  split <;> simp

@[simp] theorem scrubPass_mem (s : State) (m w : Nat) : (scrubPass s m w).mem = s.mem := by
  unfold scrubPass
  simp
@[simp] theorem scrubPass_pending (s : State) (m w : Nat) : (scrubPass s m w).pending = s.pending := by
  unfold scrubPass
  simp

@[simp] theorem execScrubRead_keeps (cls : Fin 10) (word : Nat) (holds : ScrubHolds) (ecc : Ecc) (s : State)  : Keeps s (execScrubRead cls word holds ecc s) := by
  unfold execScrubRead
  simp +contextual

@[simp] theorem execProgramStoreRewrite_keeps (word : Nat) (s : State)  : Keeps s (execProgramStoreRewrite word s) := by
  unfold execProgramStoreRewrite
  simp

@[simp] theorem retireBlock_mem (s : State) (block area hi lo : Nat) : (retireBlock s block area hi lo).mem = s.mem := by
  unfold retireBlock
  simp
@[simp] theorem retireBlock_pending (s : State) (block area hi lo : Nat) : (retireBlock s block area hi lo).pending = s.pending := by
  unfold retireBlock
  simp

@[simp] theorem programDone_mem (s : State) (block area : Nat) (ok : Bool) : (programDone s block area ok).mem = s.mem := by
  unfold programDone
  simp
@[simp] theorem programDone_pending (s : State) (block area : Nat) (ok : Bool) : (programDone s block area ok).pending = s.pending := by
  unfold programDone
  simp

@[simp] theorem execVfProgramDone_keeps (block : Nat) (ok : Bool) (s : State)  : Keeps s (execVfProgramDone block ok s) := by
  unfold execVfProgramDone
  split <;> simp +contextual

@[simp] theorem areaErased_wf (s : State) (area : Nat) (hwf : s.mem.wf = true)  : (areaErased s area).mem.wf = true := by
  unfold areaErased
  simp [hwf]
@[simp] theorem areaErased_pending (s : State) (area : Nat)  : (areaErased s area).pending = s.pending := by
  unfold areaErased
  simp

@[simp] theorem eraseDone_wf (s : State) (block area : Nat) (ok : Bool) (hwf : s.mem.wf = true)  : (eraseDone s block area ok).mem.wf = true := by
  unfold eraseDone
  simp [hwf]
@[simp] theorem eraseDone_pending (s : State) (block area : Nat) (ok : Bool)  : (eraseDone s block area ok).pending = s.pending := by
  unfold eraseDone
  simp

@[simp] theorem execVfEraseDone_keeps (block : Nat) (ok : Bool) (s : State)  : Keeps s (execVfEraseDone block ok s) := by
  unfold execVfEraseDone
  split <;> simp +contextual

@[simp] theorem pageRefresh_mem (s : State) (area : Nat) : (pageRefresh s area).mem = s.mem := by
  unfold pageRefresh
  simp
@[simp] theorem pageRefresh_pending (s : State) (area : Nat) : (pageRefresh s area).pending = s.pending := by
  unfold pageRefresh
  simp

@[simp] theorem execVfPageRefresh_keeps (area : Fin 9) (corrections : Nat) (s : State)  : Keeps s (execVfPageRefresh area corrections s) := by
  unfold execVfPageRefresh
  simp

end Machine
end Sys2Proof
end

