-- ==== Sys2Proof/Laws/KeptStartup.lean ====
section
/-! SUPPORT. What the functions of Machine/Startup.lean keep: the queue of commands, and the memories or their canonical form. -/

set_option linter.all false

namespace Sys2Proof
namespace Machine

@[simp] theorem keepRecord_mem (s : State) (d : Nat) (r : BitVec 512) : (keepRecord s d r).mem = s.mem := by
  unfold keepRecord
  simp [foldl_mem]
@[simp] theorem keepRecord_pending (s : State) (d : Nat) (r : BitVec 512) : (keepRecord s d r).pending = s.pending := by
  unfold keepRecord
  simp [foldl_pending]

@[simp] theorem devAbsent_mem (s : State) (d err : Nat) : (devAbsent s d err).mem = s.mem := by
  unfold devAbsent
  simp
@[simp] theorem devAbsent_pending (s : State) (d err : Nat) : (devAbsent s d err).pending = s.pending := by
  unfold devAbsent
  simp

@[simp] theorem devFound_mem (s : State) (d : Nat) (r : BitVec 512) : (devFound s d r).mem = s.mem := by
  unfold devFound
  simp
@[simp] theorem devFound_pending (s : State) (d : Nat) (r : BitVec 512) : (devFound s d r).pending = s.pending := by
  unfold devFound
  simp

@[simp] theorem scanDev_mem (i : ScanIn) (s : State) (d : Nat) : (scanDev i s d).mem = s.mem := by
  unfold scanDev
  split <;> simp
@[simp] theorem scanDev_pending (i : ScanIn) (s : State) (d : Nat) : (scanDev i s d).pending = s.pending := by
  unfold scanDev
  split <;> simp

@[simp] theorem useDev_mem (s : State) (d : Nat) : (useDev s d).mem = s.mem := by
  unfold useDev
  simp
@[simp] theorem useDev_pending (s : State) (d : Nat) : (useDev s d).pending = s.pending := by
  unfold useDev
  simp

@[simp] theorem scanDone_wf (s : State) (i : ScanIn) (first : Bool) (hwf : s.mem.wf = true)  : (scanDone s i first).mem.wf = true := by
  unfold scanDone
  simp (maxDischargeDepth := 60) +contextual [hwf, foldl_wf]
@[simp] theorem scanDone_pending (s : State) (i : ScanIn) (first : Bool)  : (scanDone s i first).pending = s.pending := by
  unfold scanDone
  simp [foldl_pending]

@[simp] theorem execDiscoveryScan_keeps (i : ScanIn) (s : State)  : Keeps s (execDiscoveryScan i s) := by
  unfold execDiscoveryScan
  simp +contextual

@[simp] theorem scanCmd_mem (s : State) : (scanCmd s).mem = s.mem := by
  unfold scanCmd
  simp
@[simp] theorem scanCmd_pending (s : State) : (scanCmd s).pending = s.pending := by
  unfold scanCmd
  simp

@[simp] theorem execScanCommand_keeps (s : State)  : Keeps s (execScanCommand s) := by
  unfold execScanCommand
  simp

@[simp] theorem takeSeed_mem (s : State) : (takeSeed s).mem = s.mem := by
  unfold takeSeed
  simp [foldl_mem]
@[simp] theorem takeSeed_pending (s : State) : (takeSeed s).pending = s.pending := by
  unfold takeSeed
  simp [foldl_pending]

@[simp] theorem firstStart_mem (s0 : State) (readable : Bool × Bool) : (firstStart s0 readable).mem = s0.mem := by
  unfold firstStart
  simp
@[simp] theorem firstStart_pending (s0 : State) (readable : Bool × Bool) : (firstStart s0 readable).pending = s0.pending := by
  unfold firstStart
  simp

@[simp] theorem nextStart_mem (s : State) : (nextStart s).mem = s.mem := by
  unfold nextStart
  split <;> simp
@[simp] theorem nextStart_pending (s : State) : (nextStart s).pending = s.pending := by
  unfold nextStart
  split <;> simp

@[simp] theorem deriveKeys_mem (s : State) : (deriveKeys s).mem = s.mem := by
  unfold deriveKeys
  simp
@[simp] theorem deriveKeys_pending (s : State) : (deriveKeys s).pending = s.pending := by
  unfold deriveKeys
  simp

@[simp] theorem stage_mem (s : State) (n : Nat) : (stage s n).mem = s.mem := by
  unfold stage
  simp
@[simp] theorem stage_pending (s : State) (n : Nat) : (stage s n).pending = s.pending := by
  unfold stage
  simp

@[simp] theorem afterRetention_mem (s : State) : (afterRetention s).mem = s.mem := by
  unfold afterRetention
  simp
@[simp] theorem afterRetention_pending (s : State) : (afterRetention s).pending = s.pending := by
  unfold afterRetention
  simp

@[simp] theorem startStep2_mem (s0 : State) (psel : Fin 4) : (startStep2 s0 psel).mem = s0.mem := by
  unfold startStep2
  simp
@[simp] theorem startStep2_pending (s0 : State) (psel : Fin 4) : (startStep2 s0 psel).pending = s0.pending := by
  unfold startStep2
  simp

@[simp] theorem startStep3_mem (s : State) : (startStep3 s).mem = s.mem := by
  unfold startStep3
  simp [foldl_mem]
@[simp] theorem startStep3_pending (s : State) : (startStep3 s).pending = s.pending := by
  unfold startStep3
  simp [foldl_pending]

@[simp] theorem startTest_mem (i : StartIn) (s : State) (r : Nat) : (startTest i s r).mem = s.mem := by
  unfold startTest
  simp
@[simp] theorem startTest_pending (i : StartIn) (s : State) (r : Nat) : (startTest i s r).pending = s.pending := by
  unfold startTest
  simp

@[simp] theorem startStep8_mem (s : State) (torn : Nat) : (startStep8 s torn).mem = s.mem := by
  unfold startStep8
  simp
@[simp] theorem startStep8_pending (s : State) (torn : Nat) : (startStep8 s torn).pending = s.pending := by
  unfold startStep8
  simp

@[simp] theorem batteryAlarms_mem (s : State) : (batteryAlarms s).mem = s.mem := by
  unfold batteryAlarms
  split <;> simp
@[simp] theorem batteryAlarms_pending (s : State) : (batteryAlarms s).pending = s.pending := by
  unfold batteryAlarms
  split <;> simp

@[simp] theorem startStep9_mem (s : State) (ok first : Bool) : (startStep9 s ok first).mem = s.mem := by
  unfold startStep9
  simp
@[simp] theorem startStep9_pending (s : State) (ok first : Bool) : (startStep9 s ok first).pending = s.pending := by
  unfold startStep9
  simp

@[simp] theorem startRest_mem (s : State) (i : StartIn) : (startRest s i).mem = s.mem := by
  unfold startRest
  simp
@[simp] theorem startRest_pending (s : State) (i : StartIn) : (startRest s i).pending = s.pending := by
  unfold startRest
  simp

@[simp] theorem startRoot_mem (s : State) (i : StartIn) : (startRoot s i).mem = s.mem := by
  unfold startRoot
  simp
@[simp] theorem startRoot_pending (s : State) (i : StartIn) : (startRoot s i).pending = s.pending := by
  unfold startRoot
  simp

@[simp] theorem startResume_wf (s : State) (i : StartIn) (hwf : s.mem.wf = true)  : (startResume s i).mem.wf = true := by
  unfold startResume
  simp [hwf]
@[simp] theorem startResume_pending (s : State) (i : StartIn)  : (startResume s i).pending = s.pending := by
  unfold startResume
  simp

@[simp] theorem startNow_wf (s : State) (i : StartIn) (hwf : s.mem.wf = true)  : (startNow s i).mem.wf = true := by
  unfold startNow
  simp (maxDischargeDepth := 60) +contextual [hwf, foldl_wf]
@[simp] theorem startNow_pending (s : State) (i : StartIn)  : (startNow s i).pending = s.pending := by
  unfold startNow
  simp [foldl_pending]

@[simp] theorem execStart_keeps (i : StartIn) (s : State)  : Keeps s (execStart i s) := by
  unfold execStart
  simp +contextual

@[simp] theorem startGoesOn_mem (s : State) : (startGoesOn s).mem = s.mem := by
  unfold startGoesOn
  split <;> simp
@[simp] theorem startGoesOn_pending (s : State) : (startGoesOn s).pending = s.pending := by
  unfold startGoesOn
  split <;> simp

@[simp] theorem execSourceRetestDone_keeps (r : Room) (fail : TestCode) (s : State)  : Keeps s (execSourceRetestDone r fail s) := by
  unfold execSourceRetestDone
  simp

@[simp] theorem execSourceRetestTimer_keeps (s : State)  : Keeps s (execSourceRetestTimer s) := by
  unfold execSourceRetestTimer
  dsimp only
  repeat' split
  all_goals simp (maxDischargeDepth := 60) +contextual [foldl_wf, foldl_pending, *]

end Machine
end Sys2Proof
end

