-- ==== Sys2Proof/Laws/KeptAccess.lean ====
section
/-! SUPPORT. What the functions of Machine/Access.lean keep: the queue of commands, and the memories or their canonical form. -/

set_option linter.all false

namespace Sys2Proof
namespace Machine

theorem after_wf {s : State} {r : Result} (h : Keeps s r) (hwf : s.mem.wf = true) : (after s r).mem.wf = true := by
  unfold after
  split
  · exact h.1 hwf
  · exact hwf
theorem after_pending {s : State} {r : Result} (h : Keeps s r) : (after s r).pending = s.pending := by
  unfold after
  split
  · exact h.2
  · rfl

@[simp] theorem plainWrite_mem (s : State) (a : Nat) (v : Word) : (plainWrite s a v).mem = s.mem := by
  unfold plainWrite
  split <;> simp
@[simp] theorem plainWrite_pending (s : State) (a : Nat) (v : Word) : (plainWrite s a v).pending = s.pending := by
  unfold plainWrite
  split <;> simp

@[simp] theorem eachBit_wf (s : State) (v : Word) (n : Nat) (f : State → Nat → State) (hwf : s.mem.wf = true) (hf : ∀ x0 x1, x0.mem.wf = true → (f x0 x1).mem.wf = true) : (eachBit s v n f).mem.wf = true := by
  unfold eachBit
  first | (simp (maxDischargeDepth := 60) [hwf]; done) | (simp (maxDischargeDepth := 60) +contextual [*, foldl_mem, foldl_wf, foldl_fst_mem, foldl_fst_wf, foldl_snd_mem, foldl_snd_wf]; done) | ((try simp (maxDischargeDepth := 60) [hwf, foldl_mem, foldl_wf, foldl_fst_mem, foldl_fst_wf, foldl_snd_mem, foldl_snd_wf]) <;> (repeat' (first | with_reducible refine foldl_wf _ (fun _ _ _ => ?_) _ _ ?_ | (split <;> (try (rename_i heq; have h1 := congrArg Prod.fst heq; have h2 := congrArg Prod.snd heq; dsimp only at h1 h2; clear heq; (try subst h1); (try subst h2)))) | dsimp only)) <;> simp_all (maxDischargeDepth := 60) +contextual [hwf, foldl_mem, foldl_wf, foldl_fst_mem, foldl_fst_wf, foldl_snd_mem, foldl_snd_wf])
@[simp] theorem eachBit_pending (s : State) (v : Word) (n : Nat) (f : State → Nat → State) (hg : ∀ x0 x1, (f x0 x1).pending = x0.pending) : (eachBit s v n f).pending = s.pending := by
  unfold eachBit
  first | (simp; done) | (simp [foldl_mem, foldl_pending, foldl_fst_mem, foldl_fst_pending, foldl_snd_mem, foldl_snd_pending, *]; done) | ((try simp [foldl_mem, foldl_pending, foldl_fst_mem, foldl_fst_pending, foldl_snd_mem, foldl_snd_pending]) <;> (repeat' (first | with_reducible refine (foldl_mem _ (fun _ _ => ?_) _ _).trans ?_ | with_reducible refine (foldl_pending _ (fun _ _ => ?_) _ _).trans ?_ | (split <;> (try (rename_i heq; have h1 := congrArg Prod.fst heq; have h2 := congrArg Prod.snd heq; dsimp only at h1 h2; clear heq; (try subst h1); (try subst h2)))) | dsimp only)) <;> simp_all [foldl_mem, foldl_pending, foldl_fst_mem, foldl_fst_pending, foldl_snd_mem, foldl_snd_pending])

@[simp] theorem sysWrite_wf (s : State) (a : Nat) (v : Word) (hwf : s.mem.wf = true) : (sysWrite s a v).mem.wf = true := by
  unfold sysWrite
  repeat' split
  all_goals first | with_reducible exact hwf | with_reducible exact after_wf (by simp) hwf | with_reducible exact qcmd_wf _ _ hwf (fun t ht => by simp [ht]) | with_reducible exact cuGate_wf _ _ hwf (fun t ht => by simp [ht]) | with_reducible exact gGate_wf _ _ hwf (fun t ht => by simp [ht]) | with_reducible exact tpGate_wf _ _ hwf (fun t ht => by simp [ht]) | with_reducible exact lcGate_wf _ _ hwf (fun t ht => by simp [ht]) | (simp (maxDischargeDepth := 60) [hwf]; done)
@[simp] theorem sysWrite_pending (s : State) (a : Nat) (v : Word) : (sysWrite s a v).pending = s.pending := by
  unfold sysWrite
  repeat' split
  all_goals first | with_reducible rfl | with_reducible exact after_pending (by simp) | with_reducible exact qcmd_pending _ _ (fun t => by simp) | with_reducible exact cuGate_pending _ _ (fun t => by simp) | with_reducible exact gGate_pending _ _ (fun t => by simp) | with_reducible exact tpGate_pending _ _ (fun t => by simp) | with_reducible exact lcGate_pending _ _ (fun t => by simp) | (simp; done)

@[simp] theorem tbWrite_mem (s : State) (a : Nat) (v : Word) : (tbWrite s a v).mem = s.mem := by
  unfold tbWrite
  simp
@[simp] theorem tbWrite_pending (s : State) (a : Nat) (v : Word) : (tbWrite s a v).pending = s.pending := by
  unfold tbWrite
  simp

@[simp] theorem pchWrite_wf (s : State) (a : Nat) (v : Word) (hwf : s.mem.wf = true) : (pchWrite s a v).mem.wf = true := by
  unfold pchWrite
  repeat' split
  all_goals first | with_reducible exact hwf | with_reducible exact after_wf (by simp) hwf | with_reducible exact qcmd_wf _ _ hwf (fun t ht => by simp [ht]) | with_reducible exact cuGate_wf _ _ hwf (fun t ht => by simp [ht]) | with_reducible exact gGate_wf _ _ hwf (fun t ht => by simp [ht]) | with_reducible exact tpGate_wf _ _ hwf (fun t ht => by simp [ht]) | with_reducible exact lcGate_wf _ _ hwf (fun t ht => by simp [ht]) | (simp (maxDischargeDepth := 60) [hwf]; done)
@[simp] theorem pchWrite_pending (s : State) (a : Nat) (v : Word) : (pchWrite s a v).pending = s.pending := by
  unfold pchWrite
  repeat' split
  all_goals first | with_reducible rfl | with_reducible exact after_pending (by simp) | with_reducible exact qcmd_pending _ _ (fun t => by simp) | with_reducible exact cuGate_pending _ _ (fun t => by simp) | with_reducible exact gGate_pending _ _ (fun t => by simp) | with_reducible exact tpGate_pending _ _ (fun t => by simp) | with_reducible exact lcGate_pending _ _ (fun t => by simp) | (simp; done)

@[simp] theorem admWrite_mem (s : State) (a : Nat) (v : Word) : (admWrite s a v).mem = s.mem := by
  unfold admWrite
  repeat' split
  all_goals simp
@[simp] theorem admWrite_pending (s : State) (a : Nat) (v : Word) : (admWrite s a v).pending = s.pending := by
  unfold admWrite
  repeat' split
  all_goals simp

@[simp] theorem ksWrite_wf (s : State) (a : Nat) (v : Word) (hwf : s.mem.wf = true) : (ksWrite s a v).mem.wf = true := by
  unfold ksWrite
  repeat' split
  all_goals first | with_reducible exact hwf | with_reducible exact after_wf (by simp) hwf | with_reducible exact qcmd_wf _ _ hwf (fun t ht => by simp [ht]) | with_reducible exact cuGate_wf _ _ hwf (fun t ht => by simp [ht]) | with_reducible exact gGate_wf _ _ hwf (fun t ht => by simp [ht]) | with_reducible exact tpGate_wf _ _ hwf (fun t ht => by simp [ht]) | with_reducible exact lcGate_wf _ _ hwf (fun t ht => by simp [ht]) | (simp (maxDischargeDepth := 60) [hwf]; done)
@[simp] theorem ksWrite_pending (s : State) (a : Nat) (v : Word) : (ksWrite s a v).pending = s.pending := by
  unfold ksWrite
  repeat' split
  all_goals first | with_reducible rfl | with_reducible exact after_pending (by simp) | with_reducible exact qcmd_pending _ _ (fun t => by simp) | with_reducible exact cuGate_pending _ _ (fun t => by simp) | with_reducible exact gGate_pending _ _ (fun t => by simp) | with_reducible exact tpGate_pending _ _ (fun t => by simp) | with_reducible exact lcGate_pending _ _ (fun t => by simp) | (simp; done)

@[simp] theorem bnWrite_wf (s : State) (a : Nat) (v : Word) (hwf : s.mem.wf = true)  : (bnWrite s a v).mem.wf = true := by
  unfold bnWrite
  dsimp only
  repeat' split
  all_goals simp (maxDischargeDepth := 60) +contextual [hwf, foldl_wf]
@[simp] theorem bnWrite_pending (s : State) (a : Nat) (v : Word)  : (bnWrite s a v).pending = s.pending := by
  unfold bnWrite
  repeat' split
  all_goals simp

@[simp] theorem cuWrite_wf (s : State) (a : Nat) (v : Word) (hwf : s.mem.wf = true) : (cuWrite s a v).mem.wf = true := by
  unfold cuWrite
  repeat' split
  all_goals first | with_reducible exact hwf | with_reducible exact after_wf (by simp) hwf | with_reducible exact qcmd_wf _ _ hwf (fun t ht => by simp [ht]) | with_reducible exact cuGate_wf _ _ hwf (fun t ht => by simp [ht]) | with_reducible exact gGate_wf _ _ hwf (fun t ht => by simp [ht]) | with_reducible exact tpGate_wf _ _ hwf (fun t ht => by simp [ht]) | with_reducible exact lcGate_wf _ _ hwf (fun t ht => by simp [ht]) | (simp (maxDischargeDepth := 60) [hwf]; done)
@[simp] theorem cuWrite_pending (s : State) (a : Nat) (v : Word) : (cuWrite s a v).pending = s.pending := by
  unfold cuWrite
  repeat' split
  all_goals first | with_reducible rfl | with_reducible exact after_pending (by simp) | with_reducible exact qcmd_pending _ _ (fun t => by simp) | with_reducible exact cuGate_pending _ _ (fun t => by simp) | with_reducible exact gGate_pending _ _ (fun t => by simp) | with_reducible exact tpGate_pending _ _ (fun t => by simp) | with_reducible exact lcGate_pending _ _ (fun t => by simp) | (simp; done)

@[simp] theorem stWrite_mem (s : State) (a : Nat) (v : Word) : (stWrite s a v).mem = s.mem := by
  unfold stWrite
  simp
@[simp] theorem stWrite_pending (s : State) (a : Nat) (v : Word) : (stWrite s a v).pending = s.pending := by
  unfold stWrite
  simp

@[simp] theorem slWrite_wf (s : State) (a : Nat) (v : Word) (hwf : s.mem.wf = true) : (slWrite s a v).mem.wf = true := by
  unfold slWrite
  repeat' split
  all_goals first | with_reducible exact hwf | with_reducible exact after_wf (by simp) hwf | with_reducible exact qcmd_wf _ _ hwf (fun t ht => by simp [ht]) | with_reducible exact cuGate_wf _ _ hwf (fun t ht => by simp [ht]) | with_reducible exact gGate_wf _ _ hwf (fun t ht => by simp [ht]) | with_reducible exact tpGate_wf _ _ hwf (fun t ht => by simp [ht]) | with_reducible exact lcGate_wf _ _ hwf (fun t ht => by simp [ht]) | (simp (maxDischargeDepth := 60) [hwf]; done)
@[simp] theorem slWrite_pending (s : State) (a : Nat) (v : Word) : (slWrite s a v).pending = s.pending := by
  unfold slWrite
  repeat' split
  all_goals first | with_reducible rfl | with_reducible exact after_pending (by simp) | with_reducible exact qcmd_pending _ _ (fun t => by simp) | with_reducible exact cuGate_pending _ _ (fun t => by simp) | with_reducible exact gGate_pending _ _ (fun t => by simp) | with_reducible exact tpGate_pending _ _ (fun t => by simp) | with_reducible exact lcGate_pending _ _ (fun t => by simp) | (simp; done)

@[simp] theorem tpWrite_wf (s : State) (a : Nat) (v : Word) (hwf : s.mem.wf = true) : (tpWrite s a v).mem.wf = true := by
  unfold tpWrite
  repeat' split
  all_goals first | with_reducible exact hwf | with_reducible exact after_wf (by simp) hwf | with_reducible exact qcmd_wf _ _ hwf (fun t ht => by simp [ht]) | with_reducible exact cuGate_wf _ _ hwf (fun t ht => by simp [ht]) | with_reducible exact gGate_wf _ _ hwf (fun t ht => by simp [ht]) | with_reducible exact tpGate_wf _ _ hwf (fun t ht => by simp [ht]) | with_reducible exact lcGate_wf _ _ hwf (fun t ht => by simp [ht]) | (simp (maxDischargeDepth := 60) [hwf]; done)
@[simp] theorem tpWrite_pending (s : State) (a : Nat) (v : Word) : (tpWrite s a v).pending = s.pending := by
  unfold tpWrite
  repeat' split
  all_goals first | with_reducible rfl | with_reducible exact after_pending (by simp) | with_reducible exact qcmd_pending _ _ (fun t => by simp) | with_reducible exact cuGate_pending _ _ (fun t => by simp) | with_reducible exact gGate_pending _ _ (fun t => by simp) | with_reducible exact tpGate_pending _ _ (fun t => by simp) | with_reducible exact lcGate_pending _ _ (fun t => by simp) | (simp; done)

@[simp] theorem lcWrite_wf (s : State) (a : Nat) (v : Word) (hwf : s.mem.wf = true) : (lcWrite s a v).mem.wf = true := by
  unfold lcWrite
  repeat' split
  all_goals first | with_reducible exact hwf | with_reducible exact after_wf (by simp) hwf | with_reducible exact qcmd_wf _ _ hwf (fun t ht => by simp [ht]) | with_reducible exact cuGate_wf _ _ hwf (fun t ht => by simp [ht]) | with_reducible exact gGate_wf _ _ hwf (fun t ht => by simp [ht]) | with_reducible exact tpGate_wf _ _ hwf (fun t ht => by simp [ht]) | with_reducible exact lcGate_wf _ _ hwf (fun t ht => by simp [ht]) | (simp (maxDischargeDepth := 60) [hwf]; done)
@[simp] theorem lcWrite_pending (s : State) (a : Nat) (v : Word) : (lcWrite s a v).pending = s.pending := by
  unfold lcWrite
  repeat' split
  all_goals first | with_reducible rfl | with_reducible exact after_pending (by simp) | with_reducible exact qcmd_pending _ _ (fun t => by simp) | with_reducible exact cuGate_pending _ _ (fun t => by simp) | with_reducible exact gGate_pending _ _ (fun t => by simp) | with_reducible exact tpGate_pending _ _ (fun t => by simp) | with_reducible exact lcGate_pending _ _ (fun t => by simp) | (simp; done)

@[simp] theorem nsWrite_wf (s : State) (a : Nat) (v : Word) (hwf : s.mem.wf = true)  : (nsWrite s a v).mem.wf = true := by
  unfold nsWrite
  split <;> simp [hwf]
@[simp] theorem nsWrite_pending (s : State) (a : Nat) (v : Word)  : (nsWrite s a v).pending = s.pending := by
  unfold nsWrite
  split <;> simp

@[simp] theorem evWrite_mem (s : State) (a : Nat) (v : Word) : (evWrite s a v).mem = s.mem := by
  unfold evWrite
  repeat' split
  all_goals simp
@[simp] theorem evWrite_pending (s : State) (a : Nat) (v : Word) : (evWrite s a v).pending = s.pending := by
  unfold evWrite
  repeat' split
  all_goals simp

@[simp] theorem idWrite_mem (s : State) (a : Nat) (v : Word) : (idWrite s a v).mem = s.mem := by
  unfold idWrite
  simp
@[simp] theorem idWrite_pending (s : State) (a : Nat) (v : Word) : (idWrite s a v).pending = s.pending := by
  unfold idWrite
  simp

@[simp] theorem blockWrite_wf (s : State) (a : Nat) (v : Word) (hwf : s.mem.wf = true) : (blockWrite s a v).mem.wf = true := by
  unfold blockWrite
  repeat' split
  all_goals first | with_reducible exact hwf | with_reducible exact after_wf (by simp) hwf | with_reducible exact qcmd_wf _ _ hwf (fun t ht => by simp [ht]) | with_reducible exact cuGate_wf _ _ hwf (fun t ht => by simp [ht]) | with_reducible exact gGate_wf _ _ hwf (fun t ht => by simp [ht]) | with_reducible exact tpGate_wf _ _ hwf (fun t ht => by simp [ht]) | with_reducible exact lcGate_wf _ _ hwf (fun t ht => by simp [ht]) | (simp (maxDischargeDepth := 60) [hwf]; done)
@[simp] theorem blockWrite_pending (s : State) (a : Nat) (v : Word) : (blockWrite s a v).pending = s.pending := by
  unfold blockWrite
  repeat' split
  all_goals first | with_reducible rfl | with_reducible exact after_pending (by simp) | with_reducible exact qcmd_pending _ _ (fun t => by simp) | with_reducible exact cuGate_pending _ _ (fun t => by simp) | with_reducible exact gGate_pending _ _ (fun t => by simp) | with_reducible exact tpGate_pending _ _ (fun t => by simp) | with_reducible exact lcGate_pending _ _ (fun t => by simp) | (simp; done)

@[simp] theorem roomWrite_wf (s : State) (r o : Nat) (v : Word) (hwf : s.mem.wf = true)  : (roomWrite s r o v).mem.wf = true := by
  unfold roomWrite
  dsimp only
  repeat' split
  all_goals simp (maxDischargeDepth := 60) +contextual [hwf, foldl_wf]
@[simp] theorem roomWrite_pending (s : State) (r o : Nat) (v : Word)  : (roomWrite s r o v).pending = s.pending := by
  unfold roomWrite
  split <;> simp

@[simp] theorem regrant_mem (s : State) (sl c : Nat) : (regrant s sl c).mem = s.mem := by
  unfold regrant
  simp
@[simp] theorem regrant_pending (s : State) (sl c : Nat) : (regrant s sl c).pending = s.pending := by
  unfold regrant
  simp

@[simp] theorem bindWrite_wf (s : State) (sl : Nat) (v : Word) (hwf : s.mem.wf = true)  : (bindWrite s sl v).mem.wf = true := by
  unfold bindWrite
  simp [hwf]
@[simp] theorem bindWrite_pending (s : State) (sl : Nat) (v : Word)  : (bindWrite s sl v).pending = s.pending := by
  unfold bindWrite
  simp

@[simp] theorem sltWrite_wf (s : State) (sl o : Nat) (v : Word) (hwf : s.mem.wf = true)  : (sltWrite s sl o v).mem.wf = true := by
  unfold sltWrite
  simp [hwf]
@[simp] theorem sltWrite_pending (s : State) (sl o : Nat) (v : Word)  : (sltWrite s sl o v).pending = s.pending := by
  unfold sltWrite
  simp

@[simp] theorem larderWrite_wf (s : State) (b o : Nat) (v : Word) (hwf : s.mem.wf = true)  : (larderWrite s b o v).mem.wf = true := by
  unfold larderWrite
  simp [hwf]
@[simp] theorem larderWrite_pending (s : State) (b o : Nat) (v : Word)  : (larderWrite s b o v).pending = s.pending := by
  unfold larderWrite
  simp

@[simp] theorem writeReg_wf (s : State) (a : Nat) (v : Word) (hwf : s.mem.wf = true)  : (writeReg s a v).mem.wf = true := by
  unfold writeReg
  simp [hwf]
@[simp] theorem writeReg_pending (s : State) (a : Nat) (v : Word)  : (writeReg s a v).pending = s.pending := by
  unfold writeReg
  simp

@[simp] theorem earlyWrite_wf (s : State) (off size : Nat) (v : Word) (hwf : s.mem.wf = true)  : (earlyWrite s off size v).mem.wf = true := by
  unfold earlyWrite
  simp [hwf]
@[simp] theorem earlyWrite_pending (s : State) (off size : Nat) (v : Word)  : (earlyWrite s off size v).pending = s.pending := by
  unfold earlyWrite
  simp

@[simp] theorem execRegisterWrite_keeps (off size : Nat) (val : Word) (s : State)  : Keeps s (execRegisterWrite off size val s) := by
  unfold execRegisterWrite
  simp +contextual

end Machine
end Sys2Proof
end

