-- ==== Sys2Proof/Laws/KeptStages.lean ====
section
/-! SUPPORT. What the functions of Machine/Stages.lean keep: the queue of commands, and the memories or their canonical form. -/

set_option linter.all false

namespace Sys2Proof
namespace Machine

@[simp] theorem runJob_wf (s : State) (j : Job) (hwf : s.mem.wf = true) : (runJob s j).mem.wf = true := by
  cases j <;> simp [runJob, hwf]
@[simp] theorem runJob_pending (s : State) (j : Job) : (runJob s j).pending = s.pending := by
  cases j <;> simp [runJob]

@[simp] theorem failJob_wf (s : State) (st : Status) (j : Job) (hwf : s.mem.wf = true) : (failJob s st j).mem.wf = true := by
  cases j <;> simp [failJob, hwf]
@[simp] theorem failJob_pending (s : State) (st : Status) (j : Job) : (failJob s st j).pending = s.pending := by
  cases j <;> simp [failJob]

@[simp] theorem stageEnd_wf (s : State) (v : Order) (hwf : s.mem.wf = true)  : (stageEnd s v).mem.wf = true := by
  unfold stageEnd
  split <;> simp [hwf]
@[simp] theorem stageEnd_pending (s : State) (v : Order) : (stageEnd s v).pending = s.pending := by
  unfold stageEnd
  split <;> simp

@[simp] theorem completeOrder_wf (s : State) (o : Nat) (bursts : List Nat) (hwf : s.mem.wf = true)  : (completeOrder s o bursts).mem.wf = true := by
  unfold completeOrder
  split <;> simp [hwf]
@[simp] theorem completeOrder_pending (s : State) (o : Nat) (bursts : List Nat) : (completeOrder s o bursts).pending = s.pending := by
  unfold completeOrder
  split <;> simp

@[simp] theorem execCompletionWrite_keeps (o : Nat) (bursts : List Nat) (s : State)  : Keeps s (execCompletionWrite o bursts s) := by
  unfold execCompletionWrite
  simp +contextual

end Machine
end Sys2Proof
end

