-- ==== Sys2Proof/Laws/KeptBeat.lean ====
section
/-! SUPPORT. What the functions of Machine/Beat.lean keep: the queue of commands, and the memories or their canonical form. -/

set_option linter.all false

namespace Sys2Proof
namespace Machine

@[simp] theorem watchdogEnd_wf (s : State) (o : Nat) (hwf : s.mem.wf = true)  : (watchdogEnd s o).mem.wf = true := by
  unfold watchdogEnd
  split <;> simp [hwf]
@[simp] theorem watchdogEnd_pending (s : State) (o : Nat) : (watchdogEnd s o).pending = s.pending := by
  unfold watchdogEnd
  split <;> simp

@[simp] theorem stopOverdue_wf (s : State) (hwf : s.mem.wf = true)  : (stopOverdue s).mem.wf = true := by
  unfold stopOverdue
  simp (maxDischargeDepth := 60) +contextual [hwf, foldl_wf]
@[simp] theorem stopOverdue_pending (s : State) : (stopOverdue s).pending = s.pending := by
  unfold stopOverdue
  simp [foldl_pending]

@[simp] theorem issueDue_wf (s : State) (hwf : s.mem.wf = true)  : (issueDue s).mem.wf = true := by
  unfold issueDue
  simp (maxDischargeDepth := 60) +contextual [hwf, foldl_wf]
@[simp] theorem issueDue_pending (s : State) : (issueDue s).pending = s.pending := by
  unfold issueDue
  simp [foldl_pending]

@[simp] theorem beatEnds_wf (s : State) (hwf : s.mem.wf = true)  : (beatEnds s).mem.wf = true := by
  unfold beatEnds
  simp [hwf]
@[simp] theorem beatEnds_pending (s : State) : (beatEnds s).pending = s.pending := by
  unfold beatEnds
  simp

end Machine
end Sys2Proof
end

