-- ==== Sys2Proof/Laws/Loads.lean ====
section
/-! SUPPORT. What a load returns while transfers into the frame are outstanding (05 R148, R150). -/

namespace Sys2Proof
namespace Machine

/-- Byte i of packed bytes. -/
theorem packWords_byte (l : List Nat) (h : ∀ x ∈ l, x < 256) (i : Nat) (hi : i < l.length) :
    packWords 1 l / 256 ^ i % 256 = l[i] := by
  induction l generalizing i with
  | nil => simp at hi
  | cons w r ih =>
    have hw : w < 256 := h w (by simp)
    have e : packWords 1 (w :: r) = w + 256 * packWords 1 r := by
      have h2 : 2 ^ (8 * 1) = 256 := rfl
      rw [packWords, h2, Nat.mod_eq_of_lt hw]
    rw [e]
    cases i with
    | zero => simp only [Nat.pow_zero, Nat.div_one, List.getElem_cons_zero]; omega
    | succ j =>
      have hj : j < r.length := by simpa using hi
      rw [Nat.pow_succ', ← Nat.div_div_eq_div_mul, Nat.add_mul_div_left _ _ (by decide), Nat.div_eq_of_lt hw, Nat.zero_add,
        ih (fun x hx => h x (by simp [hx])) j hj]
      simp

/-- A byte that a transfer does not cover is the loaded one. -/
theorem mixBytes_outside (a n x m off : Nat) (l : List Byte) (i : Nat) (hi : i < n)
    (h : ¬ (off ≤ a + i ∧ a + i < off + l.length)) : mixBytes a n x m off l / 256 ^ i % 256 = x / 256 ^ i % 256 := by
  unfold mixBytes
  rw [packWords_byte _ (fun y hy => by
    obtain ⟨j, -, rfl⟩ := List.mem_map.1 hy
    split
    · exact BitVec.isLt _
    · exact Nat.mod_lt _ (by decide)) i (by simpa using hi)]
  simp only [List.getElem_map, List.getElem_range]
  rw [if_neg (by intro hc; exact h ⟨hc.1, hc.2.1⟩)]

theorem tlist_length (t : Tab Byte) (a n : Nat) : (tlist t a n).length = n := by
  induction n generalizing a with
  | zero => rfl
  | succ n ih => simp [tlist, ih]

/-- A transfer's source has the transfer's length. -/
theorem dmaSource_length (s : State) (v : Order) (a n : Nat) : (dmaSource s v a n).1.length = n := by
  unfold dmaSource
  split
  · exact tlist_length ..
  · split
    · exact tlist_length ..
    · split
      · exact tlist_length ..
      · simp

/-- With no transfer outstanding into the bytes, a load returns the frame's bytes and changes nothing more (R148). -/
theorem loadSees_quiet (s : State) (v : Order) (a n x : Nat)
    (h : ∀ t ∈ tget [] s.rooms.dma (frameOf v), t.toFrame = true → t.off + t.len ≤ a ∨ a + n ≤ t.off) :
    loadSees s v a n x = (x, s) := by
  have e : inFlight s v a n = [] := by
    unfold inFlight
    rw [List.filter_eq_nil_iff]
    intro t ht hc
    simp only [Bool.and_eq_true, decide_eq_true_eq] at hc
    have := h t ht hc.1.1
    omega
  unfold loadSees
  rw [e]; rfl

/-- A byte that no outstanding transfer covers is the frame's byte (R150). -/
theorem loadSees_byte (s : State) (v : Order) (a n x i : Nat) (hi : i < n)
    (h : ∀ t ∈ tget [] s.rooms.dma (frameOf v), t.toFrame = true → ¬ (t.off ≤ a + i ∧ a + i < t.off + t.len)) :
    (loadSees s v a n x).1 / 256 ^ i % 256 = x / 256 ^ i % 256 := by
  unfold loadSees
  have hl : ∀ t ∈ inFlight s v a n, ¬ (t.off ≤ a + i ∧ a + i < t.off + t.len) := by
    intro t ht
    unfold inFlight at ht
    simp only [List.mem_filter, Bool.and_eq_true] at ht
    exact h t ht.1 ht.2.1.1
  generalize inFlight s v a n = l at hl
  suffices ∀ p : Nat × State, p.1 / 256 ^ i % 256 = x / 256 ^ i % 256 →
      (l.foldl (fun (p : Nat × State) t =>
        let d := draw n p.2
        let b := dmaSource d.2 v t.addr t.len
        (mixBytes a n p.1 d.1.toNat t.off b.1, b.2)) p).1 / 256 ^ i % 256 = x / 256 ^ i % 256 from this (x, s) rfl
  induction l with
  | nil => intro p hp; exact hp
  | cons t r ih =>
    intro p hp
    rw [List.foldl_cons]
    apply ih (fun u hu => hl u (by simp [hu]))
    dsimp only
    rw [mixBytes_outside _ _ _ _ _ _ _ hi (by rw [dmaSource_length]; exact hl t (by simp))]
    exact hp

theorem dmaSource_state (s : State) (v : Order) (a n : Nat) : ∃ k, (dmaSource s v a n).2 = { s with fresh := k } := by
  unfold dmaSource
  split
  · exact ⟨s.fresh, rfl⟩
  · split
    · exact ⟨s.fresh, rfl⟩
    · split
      · exact ⟨s.fresh, rfl⟩
      · exact ⟨s.fresh + 1, rfl⟩

/-- A load advances at most the counter of free values. -/
theorem loadSees_state (s : State) (v : Order) (a n x : Nat) : ∃ k, (loadSees s v a n x).2 = { s with fresh := k } := by
  unfold loadSees
  generalize inFlight s v a n = l
  suffices ∀ p : Nat × State, (∃ k, p.2 = { s with fresh := k }) → ∃ k, (l.foldl (fun (p : Nat × State) t =>
        let d := draw n p.2
        let b := dmaSource d.2 v t.addr t.len
        (mixBytes a n p.1 d.1.toNat t.off b.1, b.2)) p).2 = { s with fresh := k } from this (x, s) ⟨s.fresh, rfl⟩
  induction l with
  | nil => intro p hp; exact hp
  | cons t r ih =>
    intro p hp
    rw [List.foldl_cons]
    apply ih
    obtain ⟨k, hk⟩ := hp
    obtain ⟨j, hj⟩ := dmaSource_state (draw n p.2).2 v t.addr t.len
    exact ⟨j, by dsimp only; rw [hj]; simp only [draw, hk]⟩

end Machine
end Sys2Proof
end

