-- ==== Sys2Proof/Laws/State.lean ====
section
/-! SUPPORT. What each named update of the state leaves as it was, one lemma for each field. -/

set_option linter.all false

namespace Sys2Proof
namespace Machine

/-- A fold of steps that each keep something keeps it. -/
theorem foldl_same {β γ : Type} {p : State → γ} {f : State → β → State} (h : ∀ s x, p (f s x) = p s) (l : List β) (s : State) :
    p (l.foldl f s) = p s := by
  induction l generalizing s with
  | nil => rfl
  | cons x r ih => rw [List.foldl_cons, ih, h]

@[simp] theorem wr_fresh (s : State) (a : Nat) (v : Word) : (wr s a v).fresh = s.fresh := by simp [wr]
@[simp] theorem wr_out (s : State) (a : Nat) (v : Word) : (wr s a v).out = s.out := by simp [wr]
@[simp] theorem wr_pwrOk (s : State) (a : Nat) (v : Word) : (wr s a v).pwrOk = s.pwrOk := by simp [wr]
@[simp] theorem wr_perstN (s : State) (a : Nat) (v : Word) : (wr s a v).perstN = s.perstN := by simp [wr]
@[simp] theorem wr_starting (s : State) (a : Nat) (v : Word) : (wr s a v).starting = s.starting := by simp [wr]
@[simp] theorem wr_inReset (s : State) (a : Nat) (v : Word) : (wr s a v).inReset = s.inReset := by simp [wr]
@[simp] theorem wr_begun (s : State) (a : Nat) (v : Word) : (wr s a v).begun = s.begun := by simp [wr]
@[simp] theorem wr_startIn (s : State) (a : Nat) (v : Word) : (wr s a v).startIn = s.startIn := by simp [wr]
@[simp] theorem wr_cause (s : State) (a : Nat) (v : Word) : (wr s a v).cause = s.cause := by simp [wr]
@[simp] theorem wr_alarmOut (s : State) (a : Nat) (v : Word) : (wr s a v).alarmOut = s.alarmOut := by simp [wr]
@[simp] theorem wr_mode (s : State) (a : Nat) (v : Word) : (wr s a v).mode = s.mode := by simp [wr]
@[simp] theorem wr_tb (s : State) (a : Nat) (v : Word) : (wr s a v).tb = s.tb := by simp [wr]
@[simp] theorem wr_pch (s : State) (a : Nat) (v : Word) : (wr s a v).pch = s.pch := by simp [wr]
@[simp] theorem wr_adm (s : State) (a : Nat) (v : Word) : (wr s a v).adm = s.adm := by simp [wr]
@[simp] theorem wr_rooms (s : State) (a : Nat) (v : Word) : (wr s a v).rooms = s.rooms := by simp [wr]
@[simp] theorem wr_ld (s : State) (a : Nat) (v : Word) : (wr s a v).ld = s.ld := by simp [wr]
@[simp] theorem wr_ks (s : State) (a : Nat) (v : Word) : (wr s a v).ks = s.ks := by simp [wr]
@[simp] theorem wr_bbram (s : State) (a : Nat) (v : Word) : (wr s a v).bbram = s.bbram := by simp [wr]
@[simp] theorem wr_keys (s : State) (a : Nat) (v : Word) : (wr s a v).keys = s.keys := by simp [wr]
@[simp] theorem wr_bn (s : State) (a : Nat) (v : Word) : (wr s a v).bn = s.bn := by simp [wr]
@[simp] theorem wr_cu (s : State) (a : Nat) (v : Word) : (wr s a v).cu = s.cu := by simp [wr]
@[simp] theorem wr_st (s : State) (a : Nat) (v : Word) : (wr s a v).st = s.st := by simp [wr]
@[simp] theorem wr_sl (s : State) (a : Nat) (v : Word) : (wr s a v).sl = s.sl := by simp [wr]
@[simp] theorem wr_tp (s : State) (a : Nat) (v : Word) : (wr s a v).tp = s.tp := by simp [wr]
@[simp] theorem wr_lc (s : State) (a : Nat) (v : Word) : (wr s a v).lc = s.lc := by simp [wr]
@[simp] theorem wr_ns (s : State) (a : Nat) (v : Word) : (wr s a v).ns = s.ns := by simp [wr]
@[simp] theorem wr_ec (s : State) (a : Nat) (v : Word) : (wr s a v).ec = s.ec := by simp [wr]
@[simp] theorem wr_ev (s : State) (a : Nat) (v : Word) : (wr s a v).ev = s.ev := by simp [wr]
@[simp] theorem wr_sb (s : State) (a : Nat) (v : Word) : (wr s a v).sb = s.sb := by simp [wr]
@[simp] theorem wrF_fresh (s : State) (a hi lo n : Nat) : (wrF s a hi lo n).fresh = s.fresh := by simp [wrF]
@[simp] theorem wrF_out (s : State) (a hi lo n : Nat) : (wrF s a hi lo n).out = s.out := by simp [wrF]
@[simp] theorem wrF_pwrOk (s : State) (a hi lo n : Nat) : (wrF s a hi lo n).pwrOk = s.pwrOk := by simp [wrF]
@[simp] theorem wrF_perstN (s : State) (a hi lo n : Nat) : (wrF s a hi lo n).perstN = s.perstN := by simp [wrF]
@[simp] theorem wrF_starting (s : State) (a hi lo n : Nat) : (wrF s a hi lo n).starting = s.starting := by simp [wrF]
@[simp] theorem wrF_inReset (s : State) (a hi lo n : Nat) : (wrF s a hi lo n).inReset = s.inReset := by simp [wrF]
@[simp] theorem wrF_begun (s : State) (a hi lo n : Nat) : (wrF s a hi lo n).begun = s.begun := by simp [wrF]
@[simp] theorem wrF_startIn (s : State) (a hi lo n : Nat) : (wrF s a hi lo n).startIn = s.startIn := by simp [wrF]
@[simp] theorem wrF_cause (s : State) (a hi lo n : Nat) : (wrF s a hi lo n).cause = s.cause := by simp [wrF]
@[simp] theorem wrF_alarmOut (s : State) (a hi lo n : Nat) : (wrF s a hi lo n).alarmOut = s.alarmOut := by simp [wrF]
@[simp] theorem wrF_mode (s : State) (a hi lo n : Nat) : (wrF s a hi lo n).mode = s.mode := by simp [wrF]
@[simp] theorem wrF_tb (s : State) (a hi lo n : Nat) : (wrF s a hi lo n).tb = s.tb := by simp [wrF]
@[simp] theorem wrF_pch (s : State) (a hi lo n : Nat) : (wrF s a hi lo n).pch = s.pch := by simp [wrF]
@[simp] theorem wrF_adm (s : State) (a hi lo n : Nat) : (wrF s a hi lo n).adm = s.adm := by simp [wrF]
@[simp] theorem wrF_rooms (s : State) (a hi lo n : Nat) : (wrF s a hi lo n).rooms = s.rooms := by simp [wrF]
@[simp] theorem wrF_ld (s : State) (a hi lo n : Nat) : (wrF s a hi lo n).ld = s.ld := by simp [wrF]
@[simp] theorem wrF_ks (s : State) (a hi lo n : Nat) : (wrF s a hi lo n).ks = s.ks := by simp [wrF]
@[simp] theorem wrF_bbram (s : State) (a hi lo n : Nat) : (wrF s a hi lo n).bbram = s.bbram := by simp [wrF]
@[simp] theorem wrF_keys (s : State) (a hi lo n : Nat) : (wrF s a hi lo n).keys = s.keys := by simp [wrF]
@[simp] theorem wrF_bn (s : State) (a hi lo n : Nat) : (wrF s a hi lo n).bn = s.bn := by simp [wrF]
@[simp] theorem wrF_cu (s : State) (a hi lo n : Nat) : (wrF s a hi lo n).cu = s.cu := by simp [wrF]
@[simp] theorem wrF_st (s : State) (a hi lo n : Nat) : (wrF s a hi lo n).st = s.st := by simp [wrF]
@[simp] theorem wrF_sl (s : State) (a hi lo n : Nat) : (wrF s a hi lo n).sl = s.sl := by simp [wrF]
@[simp] theorem wrF_tp (s : State) (a hi lo n : Nat) : (wrF s a hi lo n).tp = s.tp := by simp [wrF]
@[simp] theorem wrF_lc (s : State) (a hi lo n : Nat) : (wrF s a hi lo n).lc = s.lc := by simp [wrF]
@[simp] theorem wrF_ns (s : State) (a hi lo n : Nat) : (wrF s a hi lo n).ns = s.ns := by simp [wrF]
@[simp] theorem wrF_ec (s : State) (a hi lo n : Nat) : (wrF s a hi lo n).ec = s.ec := by simp [wrF]
@[simp] theorem wrF_ev (s : State) (a hi lo n : Nat) : (wrF s a hi lo n).ev = s.ev := by simp [wrF]
@[simp] theorem wrF_sb (s : State) (a hi lo n : Nat) : (wrF s a hi lo n).sb = s.sb := by simp [wrF]
@[simp] theorem cntBy_fresh (s : State) (a hi lo n : Nat) : (cntBy s a hi lo n).fresh = s.fresh := by simp [cntBy]
@[simp] theorem cntBy_out (s : State) (a hi lo n : Nat) : (cntBy s a hi lo n).out = s.out := by simp [cntBy]
@[simp] theorem cntBy_pwrOk (s : State) (a hi lo n : Nat) : (cntBy s a hi lo n).pwrOk = s.pwrOk := by simp [cntBy]
@[simp] theorem cntBy_perstN (s : State) (a hi lo n : Nat) : (cntBy s a hi lo n).perstN = s.perstN := by simp [cntBy]
@[simp] theorem cntBy_starting (s : State) (a hi lo n : Nat) : (cntBy s a hi lo n).starting = s.starting := by simp [cntBy]
@[simp] theorem cntBy_inReset (s : State) (a hi lo n : Nat) : (cntBy s a hi lo n).inReset = s.inReset := by simp [cntBy]
@[simp] theorem cntBy_begun (s : State) (a hi lo n : Nat) : (cntBy s a hi lo n).begun = s.begun := by simp [cntBy]
@[simp] theorem cntBy_startIn (s : State) (a hi lo n : Nat) : (cntBy s a hi lo n).startIn = s.startIn := by simp [cntBy]
@[simp] theorem cntBy_cause (s : State) (a hi lo n : Nat) : (cntBy s a hi lo n).cause = s.cause := by simp [cntBy]
@[simp] theorem cntBy_alarmOut (s : State) (a hi lo n : Nat) : (cntBy s a hi lo n).alarmOut = s.alarmOut := by simp [cntBy]
@[simp] theorem cntBy_mode (s : State) (a hi lo n : Nat) : (cntBy s a hi lo n).mode = s.mode := by simp [cntBy]
@[simp] theorem cntBy_tb (s : State) (a hi lo n : Nat) : (cntBy s a hi lo n).tb = s.tb := by simp [cntBy]
@[simp] theorem cntBy_pch (s : State) (a hi lo n : Nat) : (cntBy s a hi lo n).pch = s.pch := by simp [cntBy]
@[simp] theorem cntBy_adm (s : State) (a hi lo n : Nat) : (cntBy s a hi lo n).adm = s.adm := by simp [cntBy]
@[simp] theorem cntBy_rooms (s : State) (a hi lo n : Nat) : (cntBy s a hi lo n).rooms = s.rooms := by simp [cntBy]
@[simp] theorem cntBy_ld (s : State) (a hi lo n : Nat) : (cntBy s a hi lo n).ld = s.ld := by simp [cntBy]
@[simp] theorem cntBy_ks (s : State) (a hi lo n : Nat) : (cntBy s a hi lo n).ks = s.ks := by simp [cntBy]
@[simp] theorem cntBy_bbram (s : State) (a hi lo n : Nat) : (cntBy s a hi lo n).bbram = s.bbram := by simp [cntBy]
@[simp] theorem cntBy_keys (s : State) (a hi lo n : Nat) : (cntBy s a hi lo n).keys = s.keys := by simp [cntBy]
@[simp] theorem cntBy_bn (s : State) (a hi lo n : Nat) : (cntBy s a hi lo n).bn = s.bn := by simp [cntBy]
@[simp] theorem cntBy_cu (s : State) (a hi lo n : Nat) : (cntBy s a hi lo n).cu = s.cu := by simp [cntBy]
@[simp] theorem cntBy_st (s : State) (a hi lo n : Nat) : (cntBy s a hi lo n).st = s.st := by simp [cntBy]
@[simp] theorem cntBy_sl (s : State) (a hi lo n : Nat) : (cntBy s a hi lo n).sl = s.sl := by simp [cntBy]
@[simp] theorem cntBy_tp (s : State) (a hi lo n : Nat) : (cntBy s a hi lo n).tp = s.tp := by simp [cntBy]
@[simp] theorem cntBy_lc (s : State) (a hi lo n : Nat) : (cntBy s a hi lo n).lc = s.lc := by simp [cntBy]
@[simp] theorem cntBy_ns (s : State) (a hi lo n : Nat) : (cntBy s a hi lo n).ns = s.ns := by simp [cntBy]
@[simp] theorem cntBy_ec (s : State) (a hi lo n : Nat) : (cntBy s a hi lo n).ec = s.ec := by simp [cntBy]
@[simp] theorem cntBy_ev (s : State) (a hi lo n : Nat) : (cntBy s a hi lo n).ev = s.ev := by simp [cntBy]
@[simp] theorem cntBy_sb (s : State) (a hi lo n : Nat) : (cntBy s a hi lo n).sb = s.sb := by simp [cntBy]
@[simp] theorem cntUp_fresh (s : State) (a hi lo : Nat) : (cntUp s a hi lo).fresh = s.fresh := by simp [cntUp]
@[simp] theorem cntUp_out (s : State) (a hi lo : Nat) : (cntUp s a hi lo).out = s.out := by simp [cntUp]
@[simp] theorem cntUp_pwrOk (s : State) (a hi lo : Nat) : (cntUp s a hi lo).pwrOk = s.pwrOk := by simp [cntUp]
@[simp] theorem cntUp_perstN (s : State) (a hi lo : Nat) : (cntUp s a hi lo).perstN = s.perstN := by simp [cntUp]
@[simp] theorem cntUp_starting (s : State) (a hi lo : Nat) : (cntUp s a hi lo).starting = s.starting := by simp [cntUp]
@[simp] theorem cntUp_inReset (s : State) (a hi lo : Nat) : (cntUp s a hi lo).inReset = s.inReset := by simp [cntUp]
@[simp] theorem cntUp_begun (s : State) (a hi lo : Nat) : (cntUp s a hi lo).begun = s.begun := by simp [cntUp]
@[simp] theorem cntUp_startIn (s : State) (a hi lo : Nat) : (cntUp s a hi lo).startIn = s.startIn := by simp [cntUp]
@[simp] theorem cntUp_cause (s : State) (a hi lo : Nat) : (cntUp s a hi lo).cause = s.cause := by simp [cntUp]
@[simp] theorem cntUp_alarmOut (s : State) (a hi lo : Nat) : (cntUp s a hi lo).alarmOut = s.alarmOut := by simp [cntUp]
@[simp] theorem cntUp_mode (s : State) (a hi lo : Nat) : (cntUp s a hi lo).mode = s.mode := by simp [cntUp]
@[simp] theorem cntUp_tb (s : State) (a hi lo : Nat) : (cntUp s a hi lo).tb = s.tb := by simp [cntUp]
@[simp] theorem cntUp_pch (s : State) (a hi lo : Nat) : (cntUp s a hi lo).pch = s.pch := by simp [cntUp]
@[simp] theorem cntUp_adm (s : State) (a hi lo : Nat) : (cntUp s a hi lo).adm = s.adm := by simp [cntUp]
@[simp] theorem cntUp_rooms (s : State) (a hi lo : Nat) : (cntUp s a hi lo).rooms = s.rooms := by simp [cntUp]
@[simp] theorem cntUp_ld (s : State) (a hi lo : Nat) : (cntUp s a hi lo).ld = s.ld := by simp [cntUp]
@[simp] theorem cntUp_ks (s : State) (a hi lo : Nat) : (cntUp s a hi lo).ks = s.ks := by simp [cntUp]
@[simp] theorem cntUp_bbram (s : State) (a hi lo : Nat) : (cntUp s a hi lo).bbram = s.bbram := by simp [cntUp]
@[simp] theorem cntUp_keys (s : State) (a hi lo : Nat) : (cntUp s a hi lo).keys = s.keys := by simp [cntUp]
@[simp] theorem cntUp_bn (s : State) (a hi lo : Nat) : (cntUp s a hi lo).bn = s.bn := by simp [cntUp]
@[simp] theorem cntUp_cu (s : State) (a hi lo : Nat) : (cntUp s a hi lo).cu = s.cu := by simp [cntUp]
@[simp] theorem cntUp_st (s : State) (a hi lo : Nat) : (cntUp s a hi lo).st = s.st := by simp [cntUp]
@[simp] theorem cntUp_sl (s : State) (a hi lo : Nat) : (cntUp s a hi lo).sl = s.sl := by simp [cntUp]
@[simp] theorem cntUp_tp (s : State) (a hi lo : Nat) : (cntUp s a hi lo).tp = s.tp := by simp [cntUp]
@[simp] theorem cntUp_lc (s : State) (a hi lo : Nat) : (cntUp s a hi lo).lc = s.lc := by simp [cntUp]
@[simp] theorem cntUp_ns (s : State) (a hi lo : Nat) : (cntUp s a hi lo).ns = s.ns := by simp [cntUp]
@[simp] theorem cntUp_ec (s : State) (a hi lo : Nat) : (cntUp s a hi lo).ec = s.ec := by simp [cntUp]
@[simp] theorem cntUp_ev (s : State) (a hi lo : Nat) : (cntUp s a hi lo).ev = s.ev := by simp [cntUp]
@[simp] theorem cntUp_sb (s : State) (a hi lo : Nat) : (cntUp s a hi lo).sb = s.sb := by simp [cntUp]
@[simp] theorem setBit_fresh (s : State) (a n : Nat) : (setBit s a n).fresh = s.fresh := by simp [setBit]
@[simp] theorem setBit_out (s : State) (a n : Nat) : (setBit s a n).out = s.out := by simp [setBit]
@[simp] theorem setBit_pwrOk (s : State) (a n : Nat) : (setBit s a n).pwrOk = s.pwrOk := by simp [setBit]
@[simp] theorem setBit_perstN (s : State) (a n : Nat) : (setBit s a n).perstN = s.perstN := by simp [setBit]
@[simp] theorem setBit_starting (s : State) (a n : Nat) : (setBit s a n).starting = s.starting := by simp [setBit]
@[simp] theorem setBit_inReset (s : State) (a n : Nat) : (setBit s a n).inReset = s.inReset := by simp [setBit]
@[simp] theorem setBit_begun (s : State) (a n : Nat) : (setBit s a n).begun = s.begun := by simp [setBit]
@[simp] theorem setBit_startIn (s : State) (a n : Nat) : (setBit s a n).startIn = s.startIn := by simp [setBit]
@[simp] theorem setBit_cause (s : State) (a n : Nat) : (setBit s a n).cause = s.cause := by simp [setBit]
@[simp] theorem setBit_alarmOut (s : State) (a n : Nat) : (setBit s a n).alarmOut = s.alarmOut := by simp [setBit]
@[simp] theorem setBit_mode (s : State) (a n : Nat) : (setBit s a n).mode = s.mode := by simp [setBit]
@[simp] theorem setBit_tb (s : State) (a n : Nat) : (setBit s a n).tb = s.tb := by simp [setBit]
@[simp] theorem setBit_pch (s : State) (a n : Nat) : (setBit s a n).pch = s.pch := by simp [setBit]
@[simp] theorem setBit_adm (s : State) (a n : Nat) : (setBit s a n).adm = s.adm := by simp [setBit]
@[simp] theorem setBit_rooms (s : State) (a n : Nat) : (setBit s a n).rooms = s.rooms := by simp [setBit]
@[simp] theorem setBit_ld (s : State) (a n : Nat) : (setBit s a n).ld = s.ld := by simp [setBit]
@[simp] theorem setBit_ks (s : State) (a n : Nat) : (setBit s a n).ks = s.ks := by simp [setBit]
@[simp] theorem setBit_bbram (s : State) (a n : Nat) : (setBit s a n).bbram = s.bbram := by simp [setBit]
@[simp] theorem setBit_keys (s : State) (a n : Nat) : (setBit s a n).keys = s.keys := by simp [setBit]
@[simp] theorem setBit_bn (s : State) (a n : Nat) : (setBit s a n).bn = s.bn := by simp [setBit]
@[simp] theorem setBit_cu (s : State) (a n : Nat) : (setBit s a n).cu = s.cu := by simp [setBit]
@[simp] theorem setBit_st (s : State) (a n : Nat) : (setBit s a n).st = s.st := by simp [setBit]
@[simp] theorem setBit_sl (s : State) (a n : Nat) : (setBit s a n).sl = s.sl := by simp [setBit]
@[simp] theorem setBit_tp (s : State) (a n : Nat) : (setBit s a n).tp = s.tp := by simp [setBit]
@[simp] theorem setBit_lc (s : State) (a n : Nat) : (setBit s a n).lc = s.lc := by simp [setBit]
@[simp] theorem setBit_ns (s : State) (a n : Nat) : (setBit s a n).ns = s.ns := by simp [setBit]
@[simp] theorem setBit_ec (s : State) (a n : Nat) : (setBit s a n).ec = s.ec := by simp [setBit]
@[simp] theorem setBit_ev (s : State) (a n : Nat) : (setBit s a n).ev = s.ev := by simp [setBit]
@[simp] theorem setBit_sb (s : State) (a n : Nat) : (setBit s a n).sb = s.sb := by simp [setBit]
@[simp] theorem sendMsix_fresh (s : State) (pf1 : Bool) (v : Nat) : (sendMsix s pf1 v).fresh = s.fresh := by
  unfold sendMsix
  dsimp only
  repeat' split
  all_goals simp
@[simp] theorem sendMsix_pwrOk (s : State) (pf1 : Bool) (v : Nat) : (sendMsix s pf1 v).pwrOk = s.pwrOk := by
  unfold sendMsix
  dsimp only
  repeat' split
  all_goals simp
@[simp] theorem sendMsix_perstN (s : State) (pf1 : Bool) (v : Nat) : (sendMsix s pf1 v).perstN = s.perstN := by
  unfold sendMsix
  dsimp only
  repeat' split
  all_goals simp
@[simp] theorem sendMsix_starting (s : State) (pf1 : Bool) (v : Nat) : (sendMsix s pf1 v).starting = s.starting := by
  unfold sendMsix
  dsimp only
  repeat' split
  all_goals simp
@[simp] theorem sendMsix_inReset (s : State) (pf1 : Bool) (v : Nat) : (sendMsix s pf1 v).inReset = s.inReset := by
  unfold sendMsix
  dsimp only
  repeat' split
  all_goals simp
@[simp] theorem sendMsix_begun (s : State) (pf1 : Bool) (v : Nat) : (sendMsix s pf1 v).begun = s.begun := by
  unfold sendMsix
  dsimp only
  repeat' split
  all_goals simp
@[simp] theorem sendMsix_startIn (s : State) (pf1 : Bool) (v : Nat) : (sendMsix s pf1 v).startIn = s.startIn := by
  unfold sendMsix
  dsimp only
  repeat' split
  all_goals simp
@[simp] theorem sendMsix_cause (s : State) (pf1 : Bool) (v : Nat) : (sendMsix s pf1 v).cause = s.cause := by
  unfold sendMsix
  dsimp only
  repeat' split
  all_goals simp
@[simp] theorem sendMsix_alarmOut (s : State) (pf1 : Bool) (v : Nat) : (sendMsix s pf1 v).alarmOut = s.alarmOut := by
  unfold sendMsix
  dsimp only
  repeat' split
  all_goals simp
@[simp] theorem sendMsix_mode (s : State) (pf1 : Bool) (v : Nat) : (sendMsix s pf1 v).mode = s.mode := by
  unfold sendMsix
  dsimp only
  repeat' split
  all_goals simp
@[simp] theorem sendMsix_regs (s : State) (pf1 : Bool) (v : Nat) : (sendMsix s pf1 v).regs = s.regs := by
  unfold sendMsix
  dsimp only
  repeat' split
  all_goals simp
@[simp] theorem sendMsix_tb (s : State) (pf1 : Bool) (v : Nat) : (sendMsix s pf1 v).tb = s.tb := by
  unfold sendMsix
  dsimp only
  repeat' split
  all_goals simp
@[simp] theorem sendMsix_adm (s : State) (pf1 : Bool) (v : Nat) : (sendMsix s pf1 v).adm = s.adm := by
  unfold sendMsix
  dsimp only
  repeat' split
  all_goals simp
@[simp] theorem sendMsix_rooms (s : State) (pf1 : Bool) (v : Nat) : (sendMsix s pf1 v).rooms = s.rooms := by
  unfold sendMsix
  dsimp only
  repeat' split
  all_goals simp
@[simp] theorem sendMsix_ld (s : State) (pf1 : Bool) (v : Nat) : (sendMsix s pf1 v).ld = s.ld := by
  unfold sendMsix
  dsimp only
  repeat' split
  all_goals simp
@[simp] theorem sendMsix_ks (s : State) (pf1 : Bool) (v : Nat) : (sendMsix s pf1 v).ks = s.ks := by
  unfold sendMsix
  dsimp only
  repeat' split
  all_goals simp
@[simp] theorem sendMsix_bbram (s : State) (pf1 : Bool) (v : Nat) : (sendMsix s pf1 v).bbram = s.bbram := by
  unfold sendMsix
  dsimp only
  repeat' split
  all_goals simp
@[simp] theorem sendMsix_keys (s : State) (pf1 : Bool) (v : Nat) : (sendMsix s pf1 v).keys = s.keys := by
  unfold sendMsix
  dsimp only
  repeat' split
  all_goals simp
@[simp] theorem sendMsix_bn (s : State) (pf1 : Bool) (v : Nat) : (sendMsix s pf1 v).bn = s.bn := by
  unfold sendMsix
  dsimp only
  repeat' split
  all_goals simp
@[simp] theorem sendMsix_cu (s : State) (pf1 : Bool) (v : Nat) : (sendMsix s pf1 v).cu = s.cu := by
  unfold sendMsix
  dsimp only
  repeat' split
  all_goals simp
@[simp] theorem sendMsix_st (s : State) (pf1 : Bool) (v : Nat) : (sendMsix s pf1 v).st = s.st := by
  unfold sendMsix
  dsimp only
  repeat' split
  all_goals simp
@[simp] theorem sendMsix_sl (s : State) (pf1 : Bool) (v : Nat) : (sendMsix s pf1 v).sl = s.sl := by
  unfold sendMsix
  dsimp only
  repeat' split
  all_goals simp
@[simp] theorem sendMsix_tp (s : State) (pf1 : Bool) (v : Nat) : (sendMsix s pf1 v).tp = s.tp := by
  unfold sendMsix
  dsimp only
  repeat' split
  all_goals simp
@[simp] theorem sendMsix_lc (s : State) (pf1 : Bool) (v : Nat) : (sendMsix s pf1 v).lc = s.lc := by
  unfold sendMsix
  dsimp only
  repeat' split
  all_goals simp
@[simp] theorem sendMsix_ns (s : State) (pf1 : Bool) (v : Nat) : (sendMsix s pf1 v).ns = s.ns := by
  unfold sendMsix
  dsimp only
  repeat' split
  all_goals simp
@[simp] theorem sendMsix_ec (s : State) (pf1 : Bool) (v : Nat) : (sendMsix s pf1 v).ec = s.ec := by
  unfold sendMsix
  dsimp only
  repeat' split
  all_goals simp
@[simp] theorem sendMsix_ev (s : State) (pf1 : Bool) (v : Nat) : (sendMsix s pf1 v).ev = s.ev := by
  unfold sendMsix
  dsimp only
  repeat' split
  all_goals simp
@[simp] theorem sendMsix_sb (s : State) (pf1 : Bool) (v : Nat) : (sendMsix s pf1 v).sb = s.sb := by
  unfold sendMsix
  dsimp only
  repeat' split
  all_goals simp
@[simp] theorem report_fresh (s : State) (code src data : Nat) : (report s code src data).fresh = s.fresh := by
  unfold report
  dsimp only
  repeat' split
  all_goals simp
@[simp] theorem report_out (s : State) (code src data : Nat) : (report s code src data).out = s.out := by
  unfold report
  dsimp only
  repeat' split
  all_goals simp
@[simp] theorem report_pwrOk (s : State) (code src data : Nat) : (report s code src data).pwrOk = s.pwrOk := by
  unfold report
  dsimp only
  repeat' split
  all_goals simp
@[simp] theorem report_perstN (s : State) (code src data : Nat) : (report s code src data).perstN = s.perstN := by
  unfold report
  dsimp only
  repeat' split
  all_goals simp
@[simp] theorem report_starting (s : State) (code src data : Nat) : (report s code src data).starting = s.starting := by
  unfold report
  dsimp only
  repeat' split
  all_goals simp
@[simp] theorem report_inReset (s : State) (code src data : Nat) : (report s code src data).inReset = s.inReset := by
  unfold report
  dsimp only
  repeat' split
  all_goals simp
@[simp] theorem report_begun (s : State) (code src data : Nat) : (report s code src data).begun = s.begun := by
  unfold report
  dsimp only
  repeat' split
  all_goals simp
@[simp] theorem report_startIn (s : State) (code src data : Nat) : (report s code src data).startIn = s.startIn := by
  unfold report
  dsimp only
  repeat' split
  all_goals simp
@[simp] theorem report_cause (s : State) (code src data : Nat) : (report s code src data).cause = s.cause := by
  unfold report
  dsimp only
  repeat' split
  all_goals simp
@[simp] theorem report_alarmOut (s : State) (code src data : Nat) : (report s code src data).alarmOut = s.alarmOut := by
  unfold report
  dsimp only
  repeat' split
  all_goals simp
@[simp] theorem report_mode (s : State) (code src data : Nat) : (report s code src data).mode = s.mode := by
  unfold report
  dsimp only
  repeat' split
  all_goals simp
@[simp] theorem report_tb (s : State) (code src data : Nat) : (report s code src data).tb = s.tb := by
  unfold report
  dsimp only
  repeat' split
  all_goals simp
@[simp] theorem report_pch (s : State) (code src data : Nat) : (report s code src data).pch = s.pch := by
  unfold report
  dsimp only
  repeat' split
  all_goals simp
@[simp] theorem report_adm (s : State) (code src data : Nat) : (report s code src data).adm = s.adm := by
  unfold report
  dsimp only
  repeat' split
  all_goals simp
@[simp] theorem report_rooms (s : State) (code src data : Nat) : (report s code src data).rooms = s.rooms := by
  unfold report
  dsimp only
  repeat' split
  all_goals simp
@[simp] theorem report_ld (s : State) (code src data : Nat) : (report s code src data).ld = s.ld := by
  unfold report
  dsimp only
  repeat' split
  all_goals simp
@[simp] theorem report_ks (s : State) (code src data : Nat) : (report s code src data).ks = s.ks := by
  unfold report
  dsimp only
  repeat' split
  all_goals simp
@[simp] theorem report_bbram (s : State) (code src data : Nat) : (report s code src data).bbram = s.bbram := by
  unfold report
  dsimp only
  repeat' split
  all_goals simp
@[simp] theorem report_keys (s : State) (code src data : Nat) : (report s code src data).keys = s.keys := by
  unfold report
  dsimp only
  repeat' split
  all_goals simp
@[simp] theorem report_bn (s : State) (code src data : Nat) : (report s code src data).bn = s.bn := by
  unfold report
  dsimp only
  repeat' split
  all_goals simp
@[simp] theorem report_cu (s : State) (code src data : Nat) : (report s code src data).cu = s.cu := by
  unfold report
  dsimp only
  repeat' split
  all_goals simp
@[simp] theorem report_st (s : State) (code src data : Nat) : (report s code src data).st = s.st := by
  unfold report
  dsimp only
  repeat' split
  all_goals simp
@[simp] theorem report_sl (s : State) (code src data : Nat) : (report s code src data).sl = s.sl := by
  unfold report
  dsimp only
  repeat' split
  all_goals simp
@[simp] theorem report_tp (s : State) (code src data : Nat) : (report s code src data).tp = s.tp := by
  unfold report
  dsimp only
  repeat' split
  all_goals simp
@[simp] theorem report_lc (s : State) (code src data : Nat) : (report s code src data).lc = s.lc := by
  unfold report
  dsimp only
  repeat' split
  all_goals simp
@[simp] theorem report_ns (s : State) (code src data : Nat) : (report s code src data).ns = s.ns := by
  unfold report
  dsimp only
  repeat' split
  all_goals simp
@[simp] theorem report_ec (s : State) (code src data : Nat) : (report s code src data).ec = s.ec := by
  unfold report
  dsimp only
  repeat' split
  all_goals simp
@[simp] theorem report_sb (s : State) (code src data : Nat) : (report s code src data).sb = s.sb := by
  unfold report
  dsimp only
  repeat' split
  all_goals simp
@[simp] theorem evt_fresh (s : State) (blk n : Nat) : (evt s blk n).fresh = s.fresh := by simp [evt]
@[simp] theorem evt_pwrOk (s : State) (blk n : Nat) : (evt s blk n).pwrOk = s.pwrOk := by simp [evt]
@[simp] theorem evt_perstN (s : State) (blk n : Nat) : (evt s blk n).perstN = s.perstN := by simp [evt]
@[simp] theorem evt_starting (s : State) (blk n : Nat) : (evt s blk n).starting = s.starting := by simp [evt]
@[simp] theorem evt_inReset (s : State) (blk n : Nat) : (evt s blk n).inReset = s.inReset := by simp [evt]
@[simp] theorem evt_begun (s : State) (blk n : Nat) : (evt s blk n).begun = s.begun := by simp [evt]
@[simp] theorem evt_startIn (s : State) (blk n : Nat) : (evt s blk n).startIn = s.startIn := by simp [evt]
@[simp] theorem evt_cause (s : State) (blk n : Nat) : (evt s blk n).cause = s.cause := by simp [evt]
@[simp] theorem evt_alarmOut (s : State) (blk n : Nat) : (evt s blk n).alarmOut = s.alarmOut := by simp [evt]
@[simp] theorem evt_mode (s : State) (blk n : Nat) : (evt s blk n).mode = s.mode := by simp [evt]
@[simp] theorem evt_tb (s : State) (blk n : Nat) : (evt s blk n).tb = s.tb := by simp [evt]
@[simp] theorem evt_adm (s : State) (blk n : Nat) : (evt s blk n).adm = s.adm := by simp [evt]
@[simp] theorem evt_rooms (s : State) (blk n : Nat) : (evt s blk n).rooms = s.rooms := by simp [evt]
@[simp] theorem evt_ld (s : State) (blk n : Nat) : (evt s blk n).ld = s.ld := by simp [evt]
@[simp] theorem evt_ks (s : State) (blk n : Nat) : (evt s blk n).ks = s.ks := by simp [evt]
@[simp] theorem evt_bbram (s : State) (blk n : Nat) : (evt s blk n).bbram = s.bbram := by simp [evt]
@[simp] theorem evt_keys (s : State) (blk n : Nat) : (evt s blk n).keys = s.keys := by simp [evt]
@[simp] theorem evt_bn (s : State) (blk n : Nat) : (evt s blk n).bn = s.bn := by simp [evt]
@[simp] theorem evt_cu (s : State) (blk n : Nat) : (evt s blk n).cu = s.cu := by simp [evt]
@[simp] theorem evt_st (s : State) (blk n : Nat) : (evt s blk n).st = s.st := by simp [evt]
@[simp] theorem evt_sl (s : State) (blk n : Nat) : (evt s blk n).sl = s.sl := by simp [evt]
@[simp] theorem evt_tp (s : State) (blk n : Nat) : (evt s blk n).tp = s.tp := by simp [evt]
@[simp] theorem evt_lc (s : State) (blk n : Nat) : (evt s blk n).lc = s.lc := by simp [evt]
@[simp] theorem evt_ns (s : State) (blk n : Nat) : (evt s blk n).ns = s.ns := by simp [evt]
@[simp] theorem evt_ec (s : State) (blk n : Nat) : (evt s blk n).ec = s.ec := by simp [evt]
@[simp] theorem evt_ev (s : State) (blk n : Nat) : (evt s blk n).ev = s.ev := by simp [evt]
@[simp] theorem evt_sb (s : State) (blk n : Nat) : (evt s blk n).sb = s.sb := by simp [evt]
@[simp] theorem evtRec_fresh (s : State) (blk n src data : Nat) : (evtRec s blk n src data).fresh = s.fresh := by simp [evtRec]
@[simp] theorem evtRec_pwrOk (s : State) (blk n src data : Nat) : (evtRec s blk n src data).pwrOk = s.pwrOk := by simp [evtRec]
@[simp] theorem evtRec_perstN (s : State) (blk n src data : Nat) : (evtRec s blk n src data).perstN = s.perstN := by simp [evtRec]
@[simp] theorem evtRec_starting (s : State) (blk n src data : Nat) : (evtRec s blk n src data).starting = s.starting := by simp [evtRec]
@[simp] theorem evtRec_inReset (s : State) (blk n src data : Nat) : (evtRec s blk n src data).inReset = s.inReset := by simp [evtRec]
@[simp] theorem evtRec_begun (s : State) (blk n src data : Nat) : (evtRec s blk n src data).begun = s.begun := by simp [evtRec]
@[simp] theorem evtRec_startIn (s : State) (blk n src data : Nat) : (evtRec s blk n src data).startIn = s.startIn := by simp [evtRec]
@[simp] theorem evtRec_cause (s : State) (blk n src data : Nat) : (evtRec s blk n src data).cause = s.cause := by simp [evtRec]
@[simp] theorem evtRec_alarmOut (s : State) (blk n src data : Nat) : (evtRec s blk n src data).alarmOut = s.alarmOut := by simp [evtRec]
@[simp] theorem evtRec_mode (s : State) (blk n src data : Nat) : (evtRec s blk n src data).mode = s.mode := by simp [evtRec]
@[simp] theorem evtRec_tb (s : State) (blk n src data : Nat) : (evtRec s blk n src data).tb = s.tb := by simp [evtRec]
@[simp] theorem evtRec_adm (s : State) (blk n src data : Nat) : (evtRec s blk n src data).adm = s.adm := by simp [evtRec]
@[simp] theorem evtRec_rooms (s : State) (blk n src data : Nat) : (evtRec s blk n src data).rooms = s.rooms := by simp [evtRec]
@[simp] theorem evtRec_ld (s : State) (blk n src data : Nat) : (evtRec s blk n src data).ld = s.ld := by simp [evtRec]
@[simp] theorem evtRec_ks (s : State) (blk n src data : Nat) : (evtRec s blk n src data).ks = s.ks := by simp [evtRec]
@[simp] theorem evtRec_bbram (s : State) (blk n src data : Nat) : (evtRec s blk n src data).bbram = s.bbram := by simp [evtRec]
@[simp] theorem evtRec_keys (s : State) (blk n src data : Nat) : (evtRec s blk n src data).keys = s.keys := by simp [evtRec]
@[simp] theorem evtRec_bn (s : State) (blk n src data : Nat) : (evtRec s blk n src data).bn = s.bn := by simp [evtRec]
@[simp] theorem evtRec_cu (s : State) (blk n src data : Nat) : (evtRec s blk n src data).cu = s.cu := by simp [evtRec]
@[simp] theorem evtRec_st (s : State) (blk n src data : Nat) : (evtRec s blk n src data).st = s.st := by simp [evtRec]
@[simp] theorem evtRec_sl (s : State) (blk n src data : Nat) : (evtRec s blk n src data).sl = s.sl := by simp [evtRec]
@[simp] theorem evtRec_tp (s : State) (blk n src data : Nat) : (evtRec s blk n src data).tp = s.tp := by simp [evtRec]
@[simp] theorem evtRec_lc (s : State) (blk n src data : Nat) : (evtRec s blk n src data).lc = s.lc := by simp [evtRec]
@[simp] theorem evtRec_ns (s : State) (blk n src data : Nat) : (evtRec s blk n src data).ns = s.ns := by simp [evtRec]
@[simp] theorem evtRec_ec (s : State) (blk n src data : Nat) : (evtRec s blk n src data).ec = s.ec := by simp [evtRec]
@[simp] theorem evtRec_sb (s : State) (blk n src data : Nat) : (evtRec s blk n src data).sb = s.sb := by simp [evtRec]
@[simp] theorem gevt_fresh (s : State) (n : Nat) : (gevt s n).fresh = s.fresh := by simp [gevt]
@[simp] theorem gevt_pwrOk (s : State) (n : Nat) : (gevt s n).pwrOk = s.pwrOk := by simp [gevt]
@[simp] theorem gevt_perstN (s : State) (n : Nat) : (gevt s n).perstN = s.perstN := by simp [gevt]
@[simp] theorem gevt_starting (s : State) (n : Nat) : (gevt s n).starting = s.starting := by simp [gevt]
@[simp] theorem gevt_inReset (s : State) (n : Nat) : (gevt s n).inReset = s.inReset := by simp [gevt]
@[simp] theorem gevt_begun (s : State) (n : Nat) : (gevt s n).begun = s.begun := by simp [gevt]
@[simp] theorem gevt_startIn (s : State) (n : Nat) : (gevt s n).startIn = s.startIn := by simp [gevt]
@[simp] theorem gevt_cause (s : State) (n : Nat) : (gevt s n).cause = s.cause := by simp [gevt]
@[simp] theorem gevt_alarmOut (s : State) (n : Nat) : (gevt s n).alarmOut = s.alarmOut := by simp [gevt]
@[simp] theorem gevt_mode (s : State) (n : Nat) : (gevt s n).mode = s.mode := by simp [gevt]
@[simp] theorem gevt_tb (s : State) (n : Nat) : (gevt s n).tb = s.tb := by simp [gevt]
@[simp] theorem gevt_adm (s : State) (n : Nat) : (gevt s n).adm = s.adm := by simp [gevt]
@[simp] theorem gevt_rooms (s : State) (n : Nat) : (gevt s n).rooms = s.rooms := by simp [gevt]
@[simp] theorem gevt_ld (s : State) (n : Nat) : (gevt s n).ld = s.ld := by simp [gevt]
@[simp] theorem gevt_ks (s : State) (n : Nat) : (gevt s n).ks = s.ks := by simp [gevt]
@[simp] theorem gevt_bbram (s : State) (n : Nat) : (gevt s n).bbram = s.bbram := by simp [gevt]
@[simp] theorem gevt_keys (s : State) (n : Nat) : (gevt s n).keys = s.keys := by simp [gevt]
@[simp] theorem gevt_bn (s : State) (n : Nat) : (gevt s n).bn = s.bn := by simp [gevt]
@[simp] theorem gevt_cu (s : State) (n : Nat) : (gevt s n).cu = s.cu := by simp [gevt]
@[simp] theorem gevt_st (s : State) (n : Nat) : (gevt s n).st = s.st := by simp [gevt]
@[simp] theorem gevt_sl (s : State) (n : Nat) : (gevt s n).sl = s.sl := by simp [gevt]
@[simp] theorem gevt_tp (s : State) (n : Nat) : (gevt s n).tp = s.tp := by simp [gevt]
@[simp] theorem gevt_lc (s : State) (n : Nat) : (gevt s n).lc = s.lc := by simp [gevt]
@[simp] theorem gevt_ns (s : State) (n : Nat) : (gevt s n).ns = s.ns := by simp [gevt]
@[simp] theorem gevt_ec (s : State) (n : Nat) : (gevt s n).ec = s.ec := by simp [gevt]
@[simp] theorem gevt_ev (s : State) (n : Nat) : (gevt s n).ev = s.ev := by simp [gevt]
@[simp] theorem gevt_sb (s : State) (n : Nat) : (gevt s n).sb = s.sb := by simp [gevt]
@[simp] theorem gevtRec_fresh (s : State) (n src data : Nat) : (gevtRec s n src data).fresh = s.fresh := by simp [gevtRec]
@[simp] theorem gevtRec_pwrOk (s : State) (n src data : Nat) : (gevtRec s n src data).pwrOk = s.pwrOk := by simp [gevtRec]
@[simp] theorem gevtRec_perstN (s : State) (n src data : Nat) : (gevtRec s n src data).perstN = s.perstN := by simp [gevtRec]
@[simp] theorem gevtRec_starting (s : State) (n src data : Nat) : (gevtRec s n src data).starting = s.starting := by simp [gevtRec]
@[simp] theorem gevtRec_inReset (s : State) (n src data : Nat) : (gevtRec s n src data).inReset = s.inReset := by simp [gevtRec]
@[simp] theorem gevtRec_begun (s : State) (n src data : Nat) : (gevtRec s n src data).begun = s.begun := by simp [gevtRec]
@[simp] theorem gevtRec_startIn (s : State) (n src data : Nat) : (gevtRec s n src data).startIn = s.startIn := by simp [gevtRec]
@[simp] theorem gevtRec_cause (s : State) (n src data : Nat) : (gevtRec s n src data).cause = s.cause := by simp [gevtRec]
@[simp] theorem gevtRec_alarmOut (s : State) (n src data : Nat) : (gevtRec s n src data).alarmOut = s.alarmOut := by simp [gevtRec]
@[simp] theorem gevtRec_mode (s : State) (n src data : Nat) : (gevtRec s n src data).mode = s.mode := by simp [gevtRec]
@[simp] theorem gevtRec_tb (s : State) (n src data : Nat) : (gevtRec s n src data).tb = s.tb := by simp [gevtRec]
@[simp] theorem gevtRec_adm (s : State) (n src data : Nat) : (gevtRec s n src data).adm = s.adm := by simp [gevtRec]
@[simp] theorem gevtRec_rooms (s : State) (n src data : Nat) : (gevtRec s n src data).rooms = s.rooms := by simp [gevtRec]
@[simp] theorem gevtRec_ld (s : State) (n src data : Nat) : (gevtRec s n src data).ld = s.ld := by simp [gevtRec]
@[simp] theorem gevtRec_ks (s : State) (n src data : Nat) : (gevtRec s n src data).ks = s.ks := by simp [gevtRec]
@[simp] theorem gevtRec_bbram (s : State) (n src data : Nat) : (gevtRec s n src data).bbram = s.bbram := by simp [gevtRec]
@[simp] theorem gevtRec_keys (s : State) (n src data : Nat) : (gevtRec s n src data).keys = s.keys := by simp [gevtRec]
@[simp] theorem gevtRec_bn (s : State) (n src data : Nat) : (gevtRec s n src data).bn = s.bn := by simp [gevtRec]
@[simp] theorem gevtRec_cu (s : State) (n src data : Nat) : (gevtRec s n src data).cu = s.cu := by simp [gevtRec]
@[simp] theorem gevtRec_st (s : State) (n src data : Nat) : (gevtRec s n src data).st = s.st := by simp [gevtRec]
@[simp] theorem gevtRec_sl (s : State) (n src data : Nat) : (gevtRec s n src data).sl = s.sl := by simp [gevtRec]
@[simp] theorem gevtRec_tp (s : State) (n src data : Nat) : (gevtRec s n src data).tp = s.tp := by simp [gevtRec]
@[simp] theorem gevtRec_lc (s : State) (n src data : Nat) : (gevtRec s n src data).lc = s.lc := by simp [gevtRec]
@[simp] theorem gevtRec_ns (s : State) (n src data : Nat) : (gevtRec s n src data).ns = s.ns := by simp [gevtRec]
@[simp] theorem gevtRec_ec (s : State) (n src data : Nat) : (gevtRec s n src data).ec = s.ec := by simp [gevtRec]
@[simp] theorem gevtRec_sb (s : State) (n src data : Nat) : (gevtRec s n src data).sb = s.sb := by simp [gevtRec]
@[simp] theorem rmEvt_fresh (s : State) (r n : Nat) : (rmEvt s r n).fresh = s.fresh := by simp [rmEvt]
@[simp] theorem rmEvt_pwrOk (s : State) (r n : Nat) : (rmEvt s r n).pwrOk = s.pwrOk := by simp [rmEvt]
@[simp] theorem rmEvt_perstN (s : State) (r n : Nat) : (rmEvt s r n).perstN = s.perstN := by simp [rmEvt]
@[simp] theorem rmEvt_starting (s : State) (r n : Nat) : (rmEvt s r n).starting = s.starting := by simp [rmEvt]
@[simp] theorem rmEvt_inReset (s : State) (r n : Nat) : (rmEvt s r n).inReset = s.inReset := by simp [rmEvt]
@[simp] theorem rmEvt_begun (s : State) (r n : Nat) : (rmEvt s r n).begun = s.begun := by simp [rmEvt]
@[simp] theorem rmEvt_startIn (s : State) (r n : Nat) : (rmEvt s r n).startIn = s.startIn := by simp [rmEvt]
@[simp] theorem rmEvt_cause (s : State) (r n : Nat) : (rmEvt s r n).cause = s.cause := by simp [rmEvt]
@[simp] theorem rmEvt_alarmOut (s : State) (r n : Nat) : (rmEvt s r n).alarmOut = s.alarmOut := by simp [rmEvt]
@[simp] theorem rmEvt_mode (s : State) (r n : Nat) : (rmEvt s r n).mode = s.mode := by simp [rmEvt]
@[simp] theorem rmEvt_tb (s : State) (r n : Nat) : (rmEvt s r n).tb = s.tb := by simp [rmEvt]
@[simp] theorem rmEvt_adm (s : State) (r n : Nat) : (rmEvt s r n).adm = s.adm := by simp [rmEvt]
@[simp] theorem rmEvt_rooms (s : State) (r n : Nat) : (rmEvt s r n).rooms = s.rooms := by simp [rmEvt]
@[simp] theorem rmEvt_ld (s : State) (r n : Nat) : (rmEvt s r n).ld = s.ld := by simp [rmEvt]
@[simp] theorem rmEvt_ks (s : State) (r n : Nat) : (rmEvt s r n).ks = s.ks := by simp [rmEvt]
@[simp] theorem rmEvt_bbram (s : State) (r n : Nat) : (rmEvt s r n).bbram = s.bbram := by simp [rmEvt]
@[simp] theorem rmEvt_keys (s : State) (r n : Nat) : (rmEvt s r n).keys = s.keys := by simp [rmEvt]
@[simp] theorem rmEvt_bn (s : State) (r n : Nat) : (rmEvt s r n).bn = s.bn := by simp [rmEvt]
@[simp] theorem rmEvt_cu (s : State) (r n : Nat) : (rmEvt s r n).cu = s.cu := by simp [rmEvt]
@[simp] theorem rmEvt_st (s : State) (r n : Nat) : (rmEvt s r n).st = s.st := by simp [rmEvt]
@[simp] theorem rmEvt_sl (s : State) (r n : Nat) : (rmEvt s r n).sl = s.sl := by simp [rmEvt]
@[simp] theorem rmEvt_tp (s : State) (r n : Nat) : (rmEvt s r n).tp = s.tp := by simp [rmEvt]
@[simp] theorem rmEvt_lc (s : State) (r n : Nat) : (rmEvt s r n).lc = s.lc := by simp [rmEvt]
@[simp] theorem rmEvt_ns (s : State) (r n : Nat) : (rmEvt s r n).ns = s.ns := by simp [rmEvt]
@[simp] theorem rmEvt_ec (s : State) (r n : Nat) : (rmEvt s r n).ec = s.ec := by simp [rmEvt]
@[simp] theorem rmEvt_ev (s : State) (r n : Nat) : (rmEvt s r n).ev = s.ev := by simp [rmEvt]
@[simp] theorem rmEvt_sb (s : State) (r n : Nat) : (rmEvt s r n).sb = s.sb := by simp [rmEvt]
@[simp] theorem rmEvtRec_fresh (s : State) (r n src data : Nat) : (rmEvtRec s r n src data).fresh = s.fresh := by simp [rmEvtRec]
@[simp] theorem rmEvtRec_pwrOk (s : State) (r n src data : Nat) : (rmEvtRec s r n src data).pwrOk = s.pwrOk := by simp [rmEvtRec]
@[simp] theorem rmEvtRec_perstN (s : State) (r n src data : Nat) : (rmEvtRec s r n src data).perstN = s.perstN := by simp [rmEvtRec]
@[simp] theorem rmEvtRec_starting (s : State) (r n src data : Nat) : (rmEvtRec s r n src data).starting = s.starting := by simp [rmEvtRec]
@[simp] theorem rmEvtRec_inReset (s : State) (r n src data : Nat) : (rmEvtRec s r n src data).inReset = s.inReset := by simp [rmEvtRec]
@[simp] theorem rmEvtRec_begun (s : State) (r n src data : Nat) : (rmEvtRec s r n src data).begun = s.begun := by simp [rmEvtRec]
@[simp] theorem rmEvtRec_startIn (s : State) (r n src data : Nat) : (rmEvtRec s r n src data).startIn = s.startIn := by simp [rmEvtRec]
@[simp] theorem rmEvtRec_cause (s : State) (r n src data : Nat) : (rmEvtRec s r n src data).cause = s.cause := by simp [rmEvtRec]
@[simp] theorem rmEvtRec_alarmOut (s : State) (r n src data : Nat) : (rmEvtRec s r n src data).alarmOut = s.alarmOut := by simp [rmEvtRec]
@[simp] theorem rmEvtRec_mode (s : State) (r n src data : Nat) : (rmEvtRec s r n src data).mode = s.mode := by simp [rmEvtRec]
@[simp] theorem rmEvtRec_tb (s : State) (r n src data : Nat) : (rmEvtRec s r n src data).tb = s.tb := by simp [rmEvtRec]
@[simp] theorem rmEvtRec_adm (s : State) (r n src data : Nat) : (rmEvtRec s r n src data).adm = s.adm := by simp [rmEvtRec]
@[simp] theorem rmEvtRec_rooms (s : State) (r n src data : Nat) : (rmEvtRec s r n src data).rooms = s.rooms := by simp [rmEvtRec]
@[simp] theorem rmEvtRec_ld (s : State) (r n src data : Nat) : (rmEvtRec s r n src data).ld = s.ld := by simp [rmEvtRec]
@[simp] theorem rmEvtRec_ks (s : State) (r n src data : Nat) : (rmEvtRec s r n src data).ks = s.ks := by simp [rmEvtRec]
@[simp] theorem rmEvtRec_bbram (s : State) (r n src data : Nat) : (rmEvtRec s r n src data).bbram = s.bbram := by simp [rmEvtRec]
@[simp] theorem rmEvtRec_keys (s : State) (r n src data : Nat) : (rmEvtRec s r n src data).keys = s.keys := by simp [rmEvtRec]
@[simp] theorem rmEvtRec_bn (s : State) (r n src data : Nat) : (rmEvtRec s r n src data).bn = s.bn := by simp [rmEvtRec]
@[simp] theorem rmEvtRec_cu (s : State) (r n src data : Nat) : (rmEvtRec s r n src data).cu = s.cu := by simp [rmEvtRec]
@[simp] theorem rmEvtRec_st (s : State) (r n src data : Nat) : (rmEvtRec s r n src data).st = s.st := by simp [rmEvtRec]
@[simp] theorem rmEvtRec_sl (s : State) (r n src data : Nat) : (rmEvtRec s r n src data).sl = s.sl := by simp [rmEvtRec]
@[simp] theorem rmEvtRec_tp (s : State) (r n src data : Nat) : (rmEvtRec s r n src data).tp = s.tp := by simp [rmEvtRec]
@[simp] theorem rmEvtRec_lc (s : State) (r n src data : Nat) : (rmEvtRec s r n src data).lc = s.lc := by simp [rmEvtRec]
@[simp] theorem rmEvtRec_ns (s : State) (r n src data : Nat) : (rmEvtRec s r n src data).ns = s.ns := by simp [rmEvtRec]
@[simp] theorem rmEvtRec_ec (s : State) (r n src data : Nat) : (rmEvtRec s r n src data).ec = s.ec := by simp [rmEvtRec]
@[simp] theorem rmEvtRec_sb (s : State) (r n src data : Nat) : (rmEvtRec s r n src data).sb = s.sb := by simp [rmEvtRec]
@[simp] theorem memCE_fresh (s : State) (m n : Nat) : (memCE s m n).fresh = s.fresh := by unfold memCE; split <;> simp
@[simp] theorem memCE_pwrOk (s : State) (m n : Nat) : (memCE s m n).pwrOk = s.pwrOk := by unfold memCE; split <;> simp
@[simp] theorem memCE_perstN (s : State) (m n : Nat) : (memCE s m n).perstN = s.perstN := by unfold memCE; split <;> simp
@[simp] theorem memCE_starting (s : State) (m n : Nat) : (memCE s m n).starting = s.starting := by unfold memCE; split <;> simp
@[simp] theorem memCE_inReset (s : State) (m n : Nat) : (memCE s m n).inReset = s.inReset := by unfold memCE; split <;> simp
@[simp] theorem memCE_begun (s : State) (m n : Nat) : (memCE s m n).begun = s.begun := by unfold memCE; split <;> simp
@[simp] theorem memCE_startIn (s : State) (m n : Nat) : (memCE s m n).startIn = s.startIn := by unfold memCE; split <;> simp
@[simp] theorem memCE_cause (s : State) (m n : Nat) : (memCE s m n).cause = s.cause := by unfold memCE; split <;> simp
@[simp] theorem memCE_alarmOut (s : State) (m n : Nat) : (memCE s m n).alarmOut = s.alarmOut := by unfold memCE; split <;> simp
@[simp] theorem memCE_mode (s : State) (m n : Nat) : (memCE s m n).mode = s.mode := by unfold memCE; split <;> simp
@[simp] theorem memCE_tb (s : State) (m n : Nat) : (memCE s m n).tb = s.tb := by unfold memCE; split <;> simp
@[simp] theorem memCE_adm (s : State) (m n : Nat) : (memCE s m n).adm = s.adm := by unfold memCE; split <;> simp
@[simp] theorem memCE_rooms (s : State) (m n : Nat) : (memCE s m n).rooms = s.rooms := by unfold memCE; split <;> simp
@[simp] theorem memCE_ld (s : State) (m n : Nat) : (memCE s m n).ld = s.ld := by unfold memCE; split <;> simp
@[simp] theorem memCE_ks (s : State) (m n : Nat) : (memCE s m n).ks = s.ks := by unfold memCE; split <;> simp
@[simp] theorem memCE_bbram (s : State) (m n : Nat) : (memCE s m n).bbram = s.bbram := by unfold memCE; split <;> simp
@[simp] theorem memCE_keys (s : State) (m n : Nat) : (memCE s m n).keys = s.keys := by unfold memCE; split <;> simp
@[simp] theorem memCE_bn (s : State) (m n : Nat) : (memCE s m n).bn = s.bn := by unfold memCE; split <;> simp
@[simp] theorem memCE_cu (s : State) (m n : Nat) : (memCE s m n).cu = s.cu := by unfold memCE; split <;> simp
@[simp] theorem memCE_st (s : State) (m n : Nat) : (memCE s m n).st = s.st := by unfold memCE; split <;> simp
@[simp] theorem memCE_sl (s : State) (m n : Nat) : (memCE s m n).sl = s.sl := by unfold memCE; split <;> simp
@[simp] theorem memCE_tp (s : State) (m n : Nat) : (memCE s m n).tp = s.tp := by unfold memCE; split <;> simp
@[simp] theorem memCE_lc (s : State) (m n : Nat) : (memCE s m n).lc = s.lc := by unfold memCE; split <;> simp
@[simp] theorem memCE_ns (s : State) (m n : Nat) : (memCE s m n).ns = s.ns := by unfold memCE; split <;> simp
@[simp] theorem memCE_ec (s : State) (m n : Nat) : (memCE s m n).ec = s.ec := by unfold memCE; split <;> simp
@[simp] theorem memCE_ev (s : State) (m n : Nat) : (memCE s m n).ev = s.ev := by unfold memCE; split <;> simp
@[simp] theorem memCE_sb (s : State) (m n : Nat) : (memCE s m n).sb = s.sb := by unfold memCE; split <;> simp
@[simp] theorem memUE_fresh (s : State) (m n : Nat) : (memUE s m n).fresh = s.fresh := by unfold memUE; split <;> simp
@[simp] theorem memUE_pwrOk (s : State) (m n : Nat) : (memUE s m n).pwrOk = s.pwrOk := by unfold memUE; split <;> simp
@[simp] theorem memUE_perstN (s : State) (m n : Nat) : (memUE s m n).perstN = s.perstN := by unfold memUE; split <;> simp
@[simp] theorem memUE_starting (s : State) (m n : Nat) : (memUE s m n).starting = s.starting := by unfold memUE; split <;> simp
@[simp] theorem memUE_inReset (s : State) (m n : Nat) : (memUE s m n).inReset = s.inReset := by unfold memUE; split <;> simp
@[simp] theorem memUE_begun (s : State) (m n : Nat) : (memUE s m n).begun = s.begun := by unfold memUE; split <;> simp
@[simp] theorem memUE_startIn (s : State) (m n : Nat) : (memUE s m n).startIn = s.startIn := by unfold memUE; split <;> simp
@[simp] theorem memUE_cause (s : State) (m n : Nat) : (memUE s m n).cause = s.cause := by unfold memUE; split <;> simp
@[simp] theorem memUE_alarmOut (s : State) (m n : Nat) : (memUE s m n).alarmOut = s.alarmOut := by unfold memUE; split <;> simp
@[simp] theorem memUE_mode (s : State) (m n : Nat) : (memUE s m n).mode = s.mode := by unfold memUE; split <;> simp
@[simp] theorem memUE_tb (s : State) (m n : Nat) : (memUE s m n).tb = s.tb := by unfold memUE; split <;> simp
@[simp] theorem memUE_adm (s : State) (m n : Nat) : (memUE s m n).adm = s.adm := by unfold memUE; split <;> simp
@[simp] theorem memUE_rooms (s : State) (m n : Nat) : (memUE s m n).rooms = s.rooms := by unfold memUE; split <;> simp
@[simp] theorem memUE_ld (s : State) (m n : Nat) : (memUE s m n).ld = s.ld := by unfold memUE; split <;> simp
@[simp] theorem memUE_ks (s : State) (m n : Nat) : (memUE s m n).ks = s.ks := by unfold memUE; split <;> simp
@[simp] theorem memUE_bbram (s : State) (m n : Nat) : (memUE s m n).bbram = s.bbram := by unfold memUE; split <;> simp
@[simp] theorem memUE_keys (s : State) (m n : Nat) : (memUE s m n).keys = s.keys := by unfold memUE; split <;> simp
@[simp] theorem memUE_bn (s : State) (m n : Nat) : (memUE s m n).bn = s.bn := by unfold memUE; split <;> simp
@[simp] theorem memUE_cu (s : State) (m n : Nat) : (memUE s m n).cu = s.cu := by unfold memUE; split <;> simp
@[simp] theorem memUE_st (s : State) (m n : Nat) : (memUE s m n).st = s.st := by unfold memUE; split <;> simp
@[simp] theorem memUE_sl (s : State) (m n : Nat) : (memUE s m n).sl = s.sl := by unfold memUE; split <;> simp
@[simp] theorem memUE_tp (s : State) (m n : Nat) : (memUE s m n).tp = s.tp := by unfold memUE; split <;> simp
@[simp] theorem memUE_lc (s : State) (m n : Nat) : (memUE s m n).lc = s.lc := by unfold memUE; split <;> simp
@[simp] theorem memUE_ns (s : State) (m n : Nat) : (memUE s m n).ns = s.ns := by unfold memUE; split <;> simp
@[simp] theorem memUE_ec (s : State) (m n : Nat) : (memUE s m n).ec = s.ec := by unfold memUE; split <;> simp
@[simp] theorem memUE_ev (s : State) (m n : Nat) : (memUE s m n).ev = s.ev := by unfold memUE; split <;> simp
@[simp] theorem memUE_sb (s : State) (m n : Nat) : (memUE s m n).sb = s.sb := by unfold memUE; split <;> simp
@[simp] theorem accRefused_fresh (s : State) (off kind : Nat) (w : Bool) : (accRefused s off kind w).fresh = s.fresh := by simp [accRefused]
@[simp] theorem accRefused_out (s : State) (off kind : Nat) (w : Bool) : (accRefused s off kind w).out = s.out := by simp [accRefused]
@[simp] theorem accRefused_pwrOk (s : State) (off kind : Nat) (w : Bool) : (accRefused s off kind w).pwrOk = s.pwrOk := by simp [accRefused]
@[simp] theorem accRefused_perstN (s : State) (off kind : Nat) (w : Bool) : (accRefused s off kind w).perstN = s.perstN := by simp [accRefused]
@[simp] theorem accRefused_starting (s : State) (off kind : Nat) (w : Bool) : (accRefused s off kind w).starting = s.starting := by simp [accRefused]
@[simp] theorem accRefused_inReset (s : State) (off kind : Nat) (w : Bool) : (accRefused s off kind w).inReset = s.inReset := by simp [accRefused]
@[simp] theorem accRefused_begun (s : State) (off kind : Nat) (w : Bool) : (accRefused s off kind w).begun = s.begun := by simp [accRefused]
@[simp] theorem accRefused_startIn (s : State) (off kind : Nat) (w : Bool) : (accRefused s off kind w).startIn = s.startIn := by simp [accRefused]
@[simp] theorem accRefused_cause (s : State) (off kind : Nat) (w : Bool) : (accRefused s off kind w).cause = s.cause := by simp [accRefused]
@[simp] theorem accRefused_alarmOut (s : State) (off kind : Nat) (w : Bool) : (accRefused s off kind w).alarmOut = s.alarmOut := by simp [accRefused]
@[simp] theorem accRefused_mode (s : State) (off kind : Nat) (w : Bool) : (accRefused s off kind w).mode = s.mode := by simp [accRefused]
@[simp] theorem accRefused_tb (s : State) (off kind : Nat) (w : Bool) : (accRefused s off kind w).tb = s.tb := by simp [accRefused]
@[simp] theorem accRefused_pch (s : State) (off kind : Nat) (w : Bool) : (accRefused s off kind w).pch = s.pch := by simp [accRefused]
@[simp] theorem accRefused_adm (s : State) (off kind : Nat) (w : Bool) : (accRefused s off kind w).adm = s.adm := by simp [accRefused]
@[simp] theorem accRefused_rooms (s : State) (off kind : Nat) (w : Bool) : (accRefused s off kind w).rooms = s.rooms := by simp [accRefused]
@[simp] theorem accRefused_ld (s : State) (off kind : Nat) (w : Bool) : (accRefused s off kind w).ld = s.ld := by simp [accRefused]
@[simp] theorem accRefused_ks (s : State) (off kind : Nat) (w : Bool) : (accRefused s off kind w).ks = s.ks := by simp [accRefused]
@[simp] theorem accRefused_bbram (s : State) (off kind : Nat) (w : Bool) : (accRefused s off kind w).bbram = s.bbram := by simp [accRefused]
@[simp] theorem accRefused_keys (s : State) (off kind : Nat) (w : Bool) : (accRefused s off kind w).keys = s.keys := by simp [accRefused]
@[simp] theorem accRefused_bn (s : State) (off kind : Nat) (w : Bool) : (accRefused s off kind w).bn = s.bn := by simp [accRefused]
@[simp] theorem accRefused_cu (s : State) (off kind : Nat) (w : Bool) : (accRefused s off kind w).cu = s.cu := by simp [accRefused]
@[simp] theorem accRefused_st (s : State) (off kind : Nat) (w : Bool) : (accRefused s off kind w).st = s.st := by simp [accRefused]
@[simp] theorem accRefused_sl (s : State) (off kind : Nat) (w : Bool) : (accRefused s off kind w).sl = s.sl := by simp [accRefused]
@[simp] theorem accRefused_tp (s : State) (off kind : Nat) (w : Bool) : (accRefused s off kind w).tp = s.tp := by simp [accRefused]
@[simp] theorem accRefused_lc (s : State) (off kind : Nat) (w : Bool) : (accRefused s off kind w).lc = s.lc := by simp [accRefused]
@[simp] theorem accRefused_ns (s : State) (off kind : Nat) (w : Bool) : (accRefused s off kind w).ns = s.ns := by simp [accRefused]
@[simp] theorem accRefused_ec (s : State) (off kind : Nat) (w : Bool) : (accRefused s off kind w).ec = s.ec := by simp [accRefused]
@[simp] theorem accRefused_ev (s : State) (off kind : Nat) (w : Bool) : (accRefused s off kind w).ev = s.ev := by simp [accRefused]
@[simp] theorem accRefused_sb (s : State) (off kind : Nat) (w : Bool) : (accRefused s off kind w).sb = s.sb := by simp [accRefused]
@[simp] theorem modeField_fresh (w0 w1 : Nat) (s : State) (f : Nat × Nat × Nat) : (modeField w0 w1 s f).fresh = s.fresh := by unfold modeField; split <;> simp
@[simp] theorem modeField_out (w0 w1 : Nat) (s : State) (f : Nat × Nat × Nat) : (modeField w0 w1 s f).out = s.out := by unfold modeField; split <;> simp
@[simp] theorem modeField_pwrOk (w0 w1 : Nat) (s : State) (f : Nat × Nat × Nat) : (modeField w0 w1 s f).pwrOk = s.pwrOk := by unfold modeField; split <;> simp
@[simp] theorem modeField_perstN (w0 w1 : Nat) (s : State) (f : Nat × Nat × Nat) : (modeField w0 w1 s f).perstN = s.perstN := by unfold modeField; split <;> simp
@[simp] theorem modeField_starting (w0 w1 : Nat) (s : State) (f : Nat × Nat × Nat) : (modeField w0 w1 s f).starting = s.starting := by unfold modeField; split <;> simp
@[simp] theorem modeField_inReset (w0 w1 : Nat) (s : State) (f : Nat × Nat × Nat) : (modeField w0 w1 s f).inReset = s.inReset := by unfold modeField; split <;> simp
@[simp] theorem modeField_begun (w0 w1 : Nat) (s : State) (f : Nat × Nat × Nat) : (modeField w0 w1 s f).begun = s.begun := by unfold modeField; split <;> simp
@[simp] theorem modeField_startIn (w0 w1 : Nat) (s : State) (f : Nat × Nat × Nat) : (modeField w0 w1 s f).startIn = s.startIn := by unfold modeField; split <;> simp
@[simp] theorem modeField_cause (w0 w1 : Nat) (s : State) (f : Nat × Nat × Nat) : (modeField w0 w1 s f).cause = s.cause := by unfold modeField; split <;> simp
@[simp] theorem modeField_alarmOut (w0 w1 : Nat) (s : State) (f : Nat × Nat × Nat) : (modeField w0 w1 s f).alarmOut = s.alarmOut := by unfold modeField; split <;> simp
@[simp] theorem modeField_mode (w0 w1 : Nat) (s : State) (f : Nat × Nat × Nat) : (modeField w0 w1 s f).mode = s.mode := by unfold modeField; split <;> simp
@[simp] theorem modeField_tb (w0 w1 : Nat) (s : State) (f : Nat × Nat × Nat) : (modeField w0 w1 s f).tb = s.tb := by unfold modeField; split <;> simp
@[simp] theorem modeField_pch (w0 w1 : Nat) (s : State) (f : Nat × Nat × Nat) : (modeField w0 w1 s f).pch = s.pch := by unfold modeField; split <;> simp
@[simp] theorem modeField_adm (w0 w1 : Nat) (s : State) (f : Nat × Nat × Nat) : (modeField w0 w1 s f).adm = s.adm := by unfold modeField; split <;> simp
@[simp] theorem modeField_rooms (w0 w1 : Nat) (s : State) (f : Nat × Nat × Nat) : (modeField w0 w1 s f).rooms = s.rooms := by unfold modeField; split <;> simp
@[simp] theorem modeField_ld (w0 w1 : Nat) (s : State) (f : Nat × Nat × Nat) : (modeField w0 w1 s f).ld = s.ld := by unfold modeField; split <;> simp
@[simp] theorem modeField_ks (w0 w1 : Nat) (s : State) (f : Nat × Nat × Nat) : (modeField w0 w1 s f).ks = s.ks := by unfold modeField; split <;> simp
@[simp] theorem modeField_bbram (w0 w1 : Nat) (s : State) (f : Nat × Nat × Nat) : (modeField w0 w1 s f).bbram = s.bbram := by unfold modeField; split <;> simp
@[simp] theorem modeField_keys (w0 w1 : Nat) (s : State) (f : Nat × Nat × Nat) : (modeField w0 w1 s f).keys = s.keys := by unfold modeField; split <;> simp
@[simp] theorem modeField_bn (w0 w1 : Nat) (s : State) (f : Nat × Nat × Nat) : (modeField w0 w1 s f).bn = s.bn := by unfold modeField; split <;> simp
@[simp] theorem modeField_cu (w0 w1 : Nat) (s : State) (f : Nat × Nat × Nat) : (modeField w0 w1 s f).cu = s.cu := by unfold modeField; split <;> simp
@[simp] theorem modeField_st (w0 w1 : Nat) (s : State) (f : Nat × Nat × Nat) : (modeField w0 w1 s f).st = s.st := by unfold modeField; split <;> simp
@[simp] theorem modeField_sl (w0 w1 : Nat) (s : State) (f : Nat × Nat × Nat) : (modeField w0 w1 s f).sl = s.sl := by unfold modeField; split <;> simp
@[simp] theorem modeField_tp (w0 w1 : Nat) (s : State) (f : Nat × Nat × Nat) : (modeField w0 w1 s f).tp = s.tp := by unfold modeField; split <;> simp
@[simp] theorem modeField_lc (w0 w1 : Nat) (s : State) (f : Nat × Nat × Nat) : (modeField w0 w1 s f).lc = s.lc := by unfold modeField; split <;> simp
@[simp] theorem modeField_ns (w0 w1 : Nat) (s : State) (f : Nat × Nat × Nat) : (modeField w0 w1 s f).ns = s.ns := by unfold modeField; split <;> simp
@[simp] theorem modeField_ec (w0 w1 : Nat) (s : State) (f : Nat × Nat × Nat) : (modeField w0 w1 s f).ec = s.ec := by unfold modeField; split <;> simp
@[simp] theorem modeField_sb (w0 w1 : Nat) (s : State) (f : Nat × Nat × Nat) : (modeField w0 w1 s f).sb = s.sb := by unfold modeField; split <;> simp
/-- What a mode change leaves as it was. -/
theorem setMode_step {γ : Type} (p : State → γ) (hm : ∀ s m, p { s with mode := m } = p s)
    (h1 : ∀ w0 w1 s x, p (modeField w0 w1 s x) = p s) (h2 : ∀ s a b, p (sendMsix s a b) = p s) (s : State)
    (f : Mode → Mode) : p (setMode s f) = p s := by
  unfold setMode
  extract_lets w0 m w1 s1
  have e : p s1 = p s := hm s m
  by_cases hc : w0 = w1
  · rw [if_pos hc]; exact e
  · rw [if_neg hc, h2, foldl_same (h1 w0 w1), e]

@[simp] theorem setMode_fresh (s : State) (f : Mode → Mode) : (setMode s f).fresh = s.fresh :=
  setMode_step State.fresh (fun _ _ => rfl) modeField_fresh sendMsix_fresh s f
@[simp] theorem setMode_pwrOk (s : State) (f : Mode → Mode) : (setMode s f).pwrOk = s.pwrOk :=
  setMode_step State.pwrOk (fun _ _ => rfl) modeField_pwrOk sendMsix_pwrOk s f
@[simp] theorem setMode_perstN (s : State) (f : Mode → Mode) : (setMode s f).perstN = s.perstN :=
  setMode_step State.perstN (fun _ _ => rfl) modeField_perstN sendMsix_perstN s f
@[simp] theorem setMode_starting (s : State) (f : Mode → Mode) : (setMode s f).starting = s.starting :=
  setMode_step State.starting (fun _ _ => rfl) modeField_starting sendMsix_starting s f
@[simp] theorem setMode_inReset (s : State) (f : Mode → Mode) : (setMode s f).inReset = s.inReset :=
  setMode_step State.inReset (fun _ _ => rfl) modeField_inReset sendMsix_inReset s f
@[simp] theorem setMode_begun (s : State) (f : Mode → Mode) : (setMode s f).begun = s.begun :=
  setMode_step State.begun (fun _ _ => rfl) modeField_begun sendMsix_begun s f
@[simp] theorem setMode_startIn (s : State) (f : Mode → Mode) : (setMode s f).startIn = s.startIn :=
  setMode_step State.startIn (fun _ _ => rfl) modeField_startIn sendMsix_startIn s f
@[simp] theorem setMode_cause (s : State) (f : Mode → Mode) : (setMode s f).cause = s.cause :=
  setMode_step State.cause (fun _ _ => rfl) modeField_cause sendMsix_cause s f
@[simp] theorem setMode_alarmOut (s : State) (f : Mode → Mode) : (setMode s f).alarmOut = s.alarmOut :=
  setMode_step State.alarmOut (fun _ _ => rfl) modeField_alarmOut sendMsix_alarmOut s f
@[simp] theorem setMode_tb (s : State) (f : Mode → Mode) : (setMode s f).tb = s.tb :=
  setMode_step State.tb (fun _ _ => rfl) modeField_tb sendMsix_tb s f
@[simp] theorem setMode_adm (s : State) (f : Mode → Mode) : (setMode s f).adm = s.adm :=
  setMode_step State.adm (fun _ _ => rfl) modeField_adm sendMsix_adm s f
@[simp] theorem setMode_rooms (s : State) (f : Mode → Mode) : (setMode s f).rooms = s.rooms :=
  setMode_step State.rooms (fun _ _ => rfl) modeField_rooms sendMsix_rooms s f
@[simp] theorem setMode_ld (s : State) (f : Mode → Mode) : (setMode s f).ld = s.ld :=
  setMode_step State.ld (fun _ _ => rfl) modeField_ld sendMsix_ld s f
@[simp] theorem setMode_ks (s : State) (f : Mode → Mode) : (setMode s f).ks = s.ks :=
  setMode_step State.ks (fun _ _ => rfl) modeField_ks sendMsix_ks s f
@[simp] theorem setMode_bbram (s : State) (f : Mode → Mode) : (setMode s f).bbram = s.bbram :=
  setMode_step State.bbram (fun _ _ => rfl) modeField_bbram sendMsix_bbram s f
@[simp] theorem setMode_keys (s : State) (f : Mode → Mode) : (setMode s f).keys = s.keys :=
  setMode_step State.keys (fun _ _ => rfl) modeField_keys sendMsix_keys s f
@[simp] theorem setMode_bn (s : State) (f : Mode → Mode) : (setMode s f).bn = s.bn :=
  setMode_step State.bn (fun _ _ => rfl) modeField_bn sendMsix_bn s f
@[simp] theorem setMode_cu (s : State) (f : Mode → Mode) : (setMode s f).cu = s.cu :=
  setMode_step State.cu (fun _ _ => rfl) modeField_cu sendMsix_cu s f
@[simp] theorem setMode_st (s : State) (f : Mode → Mode) : (setMode s f).st = s.st :=
  setMode_step State.st (fun _ _ => rfl) modeField_st sendMsix_st s f
@[simp] theorem setMode_sl (s : State) (f : Mode → Mode) : (setMode s f).sl = s.sl :=
  setMode_step State.sl (fun _ _ => rfl) modeField_sl sendMsix_sl s f
@[simp] theorem setMode_tp (s : State) (f : Mode → Mode) : (setMode s f).tp = s.tp :=
  setMode_step State.tp (fun _ _ => rfl) modeField_tp sendMsix_tp s f
@[simp] theorem setMode_lc (s : State) (f : Mode → Mode) : (setMode s f).lc = s.lc :=
  setMode_step State.lc (fun _ _ => rfl) modeField_lc sendMsix_lc s f
@[simp] theorem setMode_ns (s : State) (f : Mode → Mode) : (setMode s f).ns = s.ns :=
  setMode_step State.ns (fun _ _ => rfl) modeField_ns sendMsix_ns s f
@[simp] theorem setMode_ec (s : State) (f : Mode → Mode) : (setMode s f).ec = s.ec :=
  setMode_step State.ec (fun _ _ => rfl) modeField_ec sendMsix_ec s f
@[simp] theorem setMode_sb (s : State) (f : Mode → Mode) : (setMode s f).sb = s.sb :=
  setMode_step State.sb (fun _ _ => rfl) modeField_sb sendMsix_sb s f
@[simp] theorem setOrder_fresh (s : State) (o : Nat) (v : Order) : (setOrder s o v).fresh = s.fresh := by simp [setOrder]
@[simp] theorem setOrder_out (s : State) (o : Nat) (v : Order) : (setOrder s o v).out = s.out := by simp [setOrder]
@[simp] theorem setOrder_pwrOk (s : State) (o : Nat) (v : Order) : (setOrder s o v).pwrOk = s.pwrOk := by simp [setOrder]
@[simp] theorem setOrder_perstN (s : State) (o : Nat) (v : Order) : (setOrder s o v).perstN = s.perstN := by simp [setOrder]
@[simp] theorem setOrder_starting (s : State) (o : Nat) (v : Order) : (setOrder s o v).starting = s.starting := by simp [setOrder]
@[simp] theorem setOrder_inReset (s : State) (o : Nat) (v : Order) : (setOrder s o v).inReset = s.inReset := by simp [setOrder]
@[simp] theorem setOrder_begun (s : State) (o : Nat) (v : Order) : (setOrder s o v).begun = s.begun := by simp [setOrder]
@[simp] theorem setOrder_startIn (s : State) (o : Nat) (v : Order) : (setOrder s o v).startIn = s.startIn := by simp [setOrder]
@[simp] theorem setOrder_cause (s : State) (o : Nat) (v : Order) : (setOrder s o v).cause = s.cause := by simp [setOrder]
@[simp] theorem setOrder_alarmOut (s : State) (o : Nat) (v : Order) : (setOrder s o v).alarmOut = s.alarmOut := by simp [setOrder]
@[simp] theorem setOrder_mode (s : State) (o : Nat) (v : Order) : (setOrder s o v).mode = s.mode := by simp [setOrder]
@[simp] theorem setOrder_regs (s : State) (o : Nat) (v : Order) : (setOrder s o v).regs = s.regs := by simp [setOrder]
@[simp] theorem setOrder_tb (s : State) (o : Nat) (v : Order) : (setOrder s o v).tb = s.tb := by simp [setOrder]
@[simp] theorem setOrder_pch (s : State) (o : Nat) (v : Order) : (setOrder s o v).pch = s.pch := by simp [setOrder]
@[simp] theorem setOrder_rooms (s : State) (o : Nat) (v : Order) : (setOrder s o v).rooms = s.rooms := by simp [setOrder]
@[simp] theorem setOrder_ld (s : State) (o : Nat) (v : Order) : (setOrder s o v).ld = s.ld := by simp [setOrder]
@[simp] theorem setOrder_ks (s : State) (o : Nat) (v : Order) : (setOrder s o v).ks = s.ks := by simp [setOrder]
@[simp] theorem setOrder_bbram (s : State) (o : Nat) (v : Order) : (setOrder s o v).bbram = s.bbram := by simp [setOrder]
@[simp] theorem setOrder_keys (s : State) (o : Nat) (v : Order) : (setOrder s o v).keys = s.keys := by simp [setOrder]
@[simp] theorem setOrder_bn (s : State) (o : Nat) (v : Order) : (setOrder s o v).bn = s.bn := by simp [setOrder]
@[simp] theorem setOrder_cu (s : State) (o : Nat) (v : Order) : (setOrder s o v).cu = s.cu := by simp [setOrder]
@[simp] theorem setOrder_st (s : State) (o : Nat) (v : Order) : (setOrder s o v).st = s.st := by simp [setOrder]
@[simp] theorem setOrder_sl (s : State) (o : Nat) (v : Order) : (setOrder s o v).sl = s.sl := by simp [setOrder]
@[simp] theorem setOrder_tp (s : State) (o : Nat) (v : Order) : (setOrder s o v).tp = s.tp := by simp [setOrder]
@[simp] theorem setOrder_lc (s : State) (o : Nat) (v : Order) : (setOrder s o v).lc = s.lc := by simp [setOrder]
@[simp] theorem setOrder_ns (s : State) (o : Nat) (v : Order) : (setOrder s o v).ns = s.ns := by simp [setOrder]
@[simp] theorem setOrder_ec (s : State) (o : Nat) (v : Order) : (setOrder s o v).ec = s.ec := by simp [setOrder]
@[simp] theorem setOrder_ev (s : State) (o : Nat) (v : Order) : (setOrder s o v).ev = s.ev := by simp [setOrder]
@[simp] theorem setOrder_sb (s : State) (o : Nat) (v : Order) : (setOrder s o v).sb = s.sb := by simp [setOrder]
@[simp] theorem updOrder_fresh (s : State) (o : Nat) (f : Order → Order) : (updOrder s o f).fresh = s.fresh := by unfold updOrder; split <;> simp
@[simp] theorem updOrder_out (s : State) (o : Nat) (f : Order → Order) : (updOrder s o f).out = s.out := by unfold updOrder; split <;> simp
@[simp] theorem updOrder_pwrOk (s : State) (o : Nat) (f : Order → Order) : (updOrder s o f).pwrOk = s.pwrOk := by unfold updOrder; split <;> simp
@[simp] theorem updOrder_perstN (s : State) (o : Nat) (f : Order → Order) : (updOrder s o f).perstN = s.perstN := by unfold updOrder; split <;> simp
@[simp] theorem updOrder_starting (s : State) (o : Nat) (f : Order → Order) : (updOrder s o f).starting = s.starting := by unfold updOrder; split <;> simp
@[simp] theorem updOrder_inReset (s : State) (o : Nat) (f : Order → Order) : (updOrder s o f).inReset = s.inReset := by unfold updOrder; split <;> simp
@[simp] theorem updOrder_begun (s : State) (o : Nat) (f : Order → Order) : (updOrder s o f).begun = s.begun := by unfold updOrder; split <;> simp
@[simp] theorem updOrder_startIn (s : State) (o : Nat) (f : Order → Order) : (updOrder s o f).startIn = s.startIn := by unfold updOrder; split <;> simp
@[simp] theorem updOrder_cause (s : State) (o : Nat) (f : Order → Order) : (updOrder s o f).cause = s.cause := by unfold updOrder; split <;> simp
@[simp] theorem updOrder_alarmOut (s : State) (o : Nat) (f : Order → Order) : (updOrder s o f).alarmOut = s.alarmOut := by unfold updOrder; split <;> simp
@[simp] theorem updOrder_mode (s : State) (o : Nat) (f : Order → Order) : (updOrder s o f).mode = s.mode := by unfold updOrder; split <;> simp
@[simp] theorem updOrder_regs (s : State) (o : Nat) (f : Order → Order) : (updOrder s o f).regs = s.regs := by unfold updOrder; split <;> simp
@[simp] theorem updOrder_tb (s : State) (o : Nat) (f : Order → Order) : (updOrder s o f).tb = s.tb := by unfold updOrder; split <;> simp
@[simp] theorem updOrder_pch (s : State) (o : Nat) (f : Order → Order) : (updOrder s o f).pch = s.pch := by unfold updOrder; split <;> simp
@[simp] theorem updOrder_rooms (s : State) (o : Nat) (f : Order → Order) : (updOrder s o f).rooms = s.rooms := by unfold updOrder; split <;> simp
@[simp] theorem updOrder_ld (s : State) (o : Nat) (f : Order → Order) : (updOrder s o f).ld = s.ld := by unfold updOrder; split <;> simp
@[simp] theorem updOrder_ks (s : State) (o : Nat) (f : Order → Order) : (updOrder s o f).ks = s.ks := by unfold updOrder; split <;> simp
@[simp] theorem updOrder_bbram (s : State) (o : Nat) (f : Order → Order) : (updOrder s o f).bbram = s.bbram := by unfold updOrder; split <;> simp
@[simp] theorem updOrder_keys (s : State) (o : Nat) (f : Order → Order) : (updOrder s o f).keys = s.keys := by unfold updOrder; split <;> simp
@[simp] theorem updOrder_bn (s : State) (o : Nat) (f : Order → Order) : (updOrder s o f).bn = s.bn := by unfold updOrder; split <;> simp
@[simp] theorem updOrder_cu (s : State) (o : Nat) (f : Order → Order) : (updOrder s o f).cu = s.cu := by unfold updOrder; split <;> simp
@[simp] theorem updOrder_st (s : State) (o : Nat) (f : Order → Order) : (updOrder s o f).st = s.st := by unfold updOrder; split <;> simp
@[simp] theorem updOrder_sl (s : State) (o : Nat) (f : Order → Order) : (updOrder s o f).sl = s.sl := by unfold updOrder; split <;> simp
@[simp] theorem updOrder_tp (s : State) (o : Nat) (f : Order → Order) : (updOrder s o f).tp = s.tp := by unfold updOrder; split <;> simp
@[simp] theorem updOrder_lc (s : State) (o : Nat) (f : Order → Order) : (updOrder s o f).lc = s.lc := by unfold updOrder; split <;> simp
@[simp] theorem updOrder_ns (s : State) (o : Nat) (f : Order → Order) : (updOrder s o f).ns = s.ns := by unfold updOrder; split <;> simp
@[simp] theorem updOrder_ec (s : State) (o : Nat) (f : Order → Order) : (updOrder s o f).ec = s.ec := by unfold updOrder; split <;> simp
@[simp] theorem updOrder_ev (s : State) (o : Nat) (f : Order → Order) : (updOrder s o f).ev = s.ev := by unfold updOrder; split <;> simp
@[simp] theorem updOrder_sb (s : State) (o : Nat) (f : Order → Order) : (updOrder s o f).sb = s.sb := by unfold updOrder; split <;> simp
@[simp] theorem setEng_fresh (s : State) (e : Nat) (v : Engine) : (setEng s e v).fresh = s.fresh := by simp [setEng]
@[simp] theorem setEng_out (s : State) (e : Nat) (v : Engine) : (setEng s e v).out = s.out := by simp [setEng]
@[simp] theorem setEng_pwrOk (s : State) (e : Nat) (v : Engine) : (setEng s e v).pwrOk = s.pwrOk := by simp [setEng]
@[simp] theorem setEng_perstN (s : State) (e : Nat) (v : Engine) : (setEng s e v).perstN = s.perstN := by simp [setEng]
@[simp] theorem setEng_starting (s : State) (e : Nat) (v : Engine) : (setEng s e v).starting = s.starting := by simp [setEng]
@[simp] theorem setEng_inReset (s : State) (e : Nat) (v : Engine) : (setEng s e v).inReset = s.inReset := by simp [setEng]
@[simp] theorem setEng_begun (s : State) (e : Nat) (v : Engine) : (setEng s e v).begun = s.begun := by simp [setEng]
@[simp] theorem setEng_startIn (s : State) (e : Nat) (v : Engine) : (setEng s e v).startIn = s.startIn := by simp [setEng]
@[simp] theorem setEng_cause (s : State) (e : Nat) (v : Engine) : (setEng s e v).cause = s.cause := by simp [setEng]
@[simp] theorem setEng_alarmOut (s : State) (e : Nat) (v : Engine) : (setEng s e v).alarmOut = s.alarmOut := by simp [setEng]
@[simp] theorem setEng_mode (s : State) (e : Nat) (v : Engine) : (setEng s e v).mode = s.mode := by simp [setEng]
@[simp] theorem setEng_regs (s : State) (e : Nat) (v : Engine) : (setEng s e v).regs = s.regs := by simp [setEng]
@[simp] theorem setEng_tb (s : State) (e : Nat) (v : Engine) : (setEng s e v).tb = s.tb := by simp [setEng]
@[simp] theorem setEng_pch (s : State) (e : Nat) (v : Engine) : (setEng s e v).pch = s.pch := by simp [setEng]
@[simp] theorem setEng_adm (s : State) (e : Nat) (v : Engine) : (setEng s e v).adm = s.adm := by simp [setEng]
@[simp] theorem setEng_ld (s : State) (e : Nat) (v : Engine) : (setEng s e v).ld = s.ld := by simp [setEng]
@[simp] theorem setEng_ks (s : State) (e : Nat) (v : Engine) : (setEng s e v).ks = s.ks := by simp [setEng]
@[simp] theorem setEng_bbram (s : State) (e : Nat) (v : Engine) : (setEng s e v).bbram = s.bbram := by simp [setEng]
@[simp] theorem setEng_keys (s : State) (e : Nat) (v : Engine) : (setEng s e v).keys = s.keys := by simp [setEng]
@[simp] theorem setEng_bn (s : State) (e : Nat) (v : Engine) : (setEng s e v).bn = s.bn := by simp [setEng]
@[simp] theorem setEng_cu (s : State) (e : Nat) (v : Engine) : (setEng s e v).cu = s.cu := by simp [setEng]
@[simp] theorem setEng_st (s : State) (e : Nat) (v : Engine) : (setEng s e v).st = s.st := by simp [setEng]
@[simp] theorem setEng_sl (s : State) (e : Nat) (v : Engine) : (setEng s e v).sl = s.sl := by simp [setEng]
@[simp] theorem setEng_tp (s : State) (e : Nat) (v : Engine) : (setEng s e v).tp = s.tp := by simp [setEng]
@[simp] theorem setEng_lc (s : State) (e : Nat) (v : Engine) : (setEng s e v).lc = s.lc := by simp [setEng]
@[simp] theorem setEng_ns (s : State) (e : Nat) (v : Engine) : (setEng s e v).ns = s.ns := by simp [setEng]
@[simp] theorem setEng_ec (s : State) (e : Nat) (v : Engine) : (setEng s e v).ec = s.ec := by simp [setEng]
@[simp] theorem setEng_ev (s : State) (e : Nat) (v : Engine) : (setEng s e v).ev = s.ev := by simp [setEng]
@[simp] theorem setEng_sb (s : State) (e : Nat) (v : Engine) : (setEng s e v).sb = s.sb := by simp [setEng]
@[simp] theorem setCore_fresh (s : State) (e : EngIx) (c : Core) : (setCore s e c).fresh = s.fresh := by simp [setCore]
@[simp] theorem setCore_out (s : State) (e : EngIx) (c : Core) : (setCore s e c).out = s.out := by simp [setCore]
@[simp] theorem setCore_pwrOk (s : State) (e : EngIx) (c : Core) : (setCore s e c).pwrOk = s.pwrOk := by simp [setCore]
@[simp] theorem setCore_perstN (s : State) (e : EngIx) (c : Core) : (setCore s e c).perstN = s.perstN := by simp [setCore]
@[simp] theorem setCore_starting (s : State) (e : EngIx) (c : Core) : (setCore s e c).starting = s.starting := by simp [setCore]
@[simp] theorem setCore_inReset (s : State) (e : EngIx) (c : Core) : (setCore s e c).inReset = s.inReset := by simp [setCore]
@[simp] theorem setCore_begun (s : State) (e : EngIx) (c : Core) : (setCore s e c).begun = s.begun := by simp [setCore]
@[simp] theorem setCore_startIn (s : State) (e : EngIx) (c : Core) : (setCore s e c).startIn = s.startIn := by simp [setCore]
@[simp] theorem setCore_cause (s : State) (e : EngIx) (c : Core) : (setCore s e c).cause = s.cause := by simp [setCore]
@[simp] theorem setCore_alarmOut (s : State) (e : EngIx) (c : Core) : (setCore s e c).alarmOut = s.alarmOut := by simp [setCore]
@[simp] theorem setCore_mode (s : State) (e : EngIx) (c : Core) : (setCore s e c).mode = s.mode := by simp [setCore]
@[simp] theorem setCore_regs (s : State) (e : EngIx) (c : Core) : (setCore s e c).regs = s.regs := by simp [setCore]
@[simp] theorem setCore_tb (s : State) (e : EngIx) (c : Core) : (setCore s e c).tb = s.tb := by simp [setCore]
@[simp] theorem setCore_pch (s : State) (e : EngIx) (c : Core) : (setCore s e c).pch = s.pch := by simp [setCore]
@[simp] theorem setCore_adm (s : State) (e : EngIx) (c : Core) : (setCore s e c).adm = s.adm := by simp [setCore]
@[simp] theorem setCore_ld (s : State) (e : EngIx) (c : Core) : (setCore s e c).ld = s.ld := by simp [setCore]
@[simp] theorem setCore_ks (s : State) (e : EngIx) (c : Core) : (setCore s e c).ks = s.ks := by simp [setCore]
@[simp] theorem setCore_bbram (s : State) (e : EngIx) (c : Core) : (setCore s e c).bbram = s.bbram := by simp [setCore]
@[simp] theorem setCore_keys (s : State) (e : EngIx) (c : Core) : (setCore s e c).keys = s.keys := by simp [setCore]
@[simp] theorem setCore_bn (s : State) (e : EngIx) (c : Core) : (setCore s e c).bn = s.bn := by simp [setCore]
@[simp] theorem setCore_cu (s : State) (e : EngIx) (c : Core) : (setCore s e c).cu = s.cu := by simp [setCore]
@[simp] theorem setCore_st (s : State) (e : EngIx) (c : Core) : (setCore s e c).st = s.st := by simp [setCore]
@[simp] theorem setCore_sl (s : State) (e : EngIx) (c : Core) : (setCore s e c).sl = s.sl := by simp [setCore]
@[simp] theorem setCore_tp (s : State) (e : EngIx) (c : Core) : (setCore s e c).tp = s.tp := by simp [setCore]
@[simp] theorem setCore_lc (s : State) (e : EngIx) (c : Core) : (setCore s e c).lc = s.lc := by simp [setCore]
@[simp] theorem setCore_ns (s : State) (e : EngIx) (c : Core) : (setCore s e c).ns = s.ns := by simp [setCore]
@[simp] theorem setCore_ec (s : State) (e : EngIx) (c : Core) : (setCore s e c).ec = s.ec := by simp [setCore]
@[simp] theorem setCore_ev (s : State) (e : EngIx) (c : Core) : (setCore s e c).ev = s.ev := by simp [setCore]
@[simp] theorem setCore_sb (s : State) (e : EngIx) (c : Core) : (setCore s e c).sb = s.sb := by simp [setCore]
@[simp] theorem idleEngine_fresh (s : State) (e : Nat) : (idleEngine s e).fresh = s.fresh := by simp [idleEngine]
@[simp] theorem idleEngine_out (s : State) (e : Nat) : (idleEngine s e).out = s.out := by simp [idleEngine]
@[simp] theorem idleEngine_pwrOk (s : State) (e : Nat) : (idleEngine s e).pwrOk = s.pwrOk := by simp [idleEngine]
@[simp] theorem idleEngine_perstN (s : State) (e : Nat) : (idleEngine s e).perstN = s.perstN := by simp [idleEngine]
@[simp] theorem idleEngine_starting (s : State) (e : Nat) : (idleEngine s e).starting = s.starting := by simp [idleEngine]
@[simp] theorem idleEngine_inReset (s : State) (e : Nat) : (idleEngine s e).inReset = s.inReset := by simp [idleEngine]
@[simp] theorem idleEngine_begun (s : State) (e : Nat) : (idleEngine s e).begun = s.begun := by simp [idleEngine]
@[simp] theorem idleEngine_startIn (s : State) (e : Nat) : (idleEngine s e).startIn = s.startIn := by simp [idleEngine]
@[simp] theorem idleEngine_cause (s : State) (e : Nat) : (idleEngine s e).cause = s.cause := by simp [idleEngine]
@[simp] theorem idleEngine_alarmOut (s : State) (e : Nat) : (idleEngine s e).alarmOut = s.alarmOut := by simp [idleEngine]
@[simp] theorem idleEngine_mode (s : State) (e : Nat) : (idleEngine s e).mode = s.mode := by simp [idleEngine]
@[simp] theorem idleEngine_regs (s : State) (e : Nat) : (idleEngine s e).regs = s.regs := by simp [idleEngine]
@[simp] theorem idleEngine_tb (s : State) (e : Nat) : (idleEngine s e).tb = s.tb := by simp [idleEngine]
@[simp] theorem idleEngine_pch (s : State) (e : Nat) : (idleEngine s e).pch = s.pch := by simp [idleEngine]
@[simp] theorem idleEngine_adm (s : State) (e : Nat) : (idleEngine s e).adm = s.adm := by simp [idleEngine]
@[simp] theorem idleEngine_ld (s : State) (e : Nat) : (idleEngine s e).ld = s.ld := by simp [idleEngine]
@[simp] theorem idleEngine_ks (s : State) (e : Nat) : (idleEngine s e).ks = s.ks := by simp [idleEngine]
@[simp] theorem idleEngine_bbram (s : State) (e : Nat) : (idleEngine s e).bbram = s.bbram := by simp [idleEngine]
@[simp] theorem idleEngine_keys (s : State) (e : Nat) : (idleEngine s e).keys = s.keys := by simp [idleEngine]
@[simp] theorem idleEngine_bn (s : State) (e : Nat) : (idleEngine s e).bn = s.bn := by simp [idleEngine]
@[simp] theorem idleEngine_cu (s : State) (e : Nat) : (idleEngine s e).cu = s.cu := by simp [idleEngine]
@[simp] theorem idleEngine_st (s : State) (e : Nat) : (idleEngine s e).st = s.st := by simp [idleEngine]
@[simp] theorem idleEngine_sl (s : State) (e : Nat) : (idleEngine s e).sl = s.sl := by simp [idleEngine]
@[simp] theorem idleEngine_tp (s : State) (e : Nat) : (idleEngine s e).tp = s.tp := by simp [idleEngine]
@[simp] theorem idleEngine_lc (s : State) (e : Nat) : (idleEngine s e).lc = s.lc := by simp [idleEngine]
@[simp] theorem idleEngine_ns (s : State) (e : Nat) : (idleEngine s e).ns = s.ns := by simp [idleEngine]
@[simp] theorem idleEngine_ec (s : State) (e : Nat) : (idleEngine s e).ec = s.ec := by simp [idleEngine]
@[simp] theorem idleEngine_ev (s : State) (e : Nat) : (idleEngine s e).ev = s.ev := by simp [idleEngine]
@[simp] theorem idleEngine_sb (s : State) (e : Nat) : (idleEngine s e).sb = s.sb := by simp [idleEngine]
@[simp] theorem setQueue_fresh (s : State) (g : Nat) (q : Queue) : (setQueue s g q).fresh = s.fresh := by simp [setQueue]
@[simp] theorem setQueue_out (s : State) (g : Nat) (q : Queue) : (setQueue s g q).out = s.out := by simp [setQueue]
@[simp] theorem setQueue_pwrOk (s : State) (g : Nat) (q : Queue) : (setQueue s g q).pwrOk = s.pwrOk := by simp [setQueue]
@[simp] theorem setQueue_perstN (s : State) (g : Nat) (q : Queue) : (setQueue s g q).perstN = s.perstN := by simp [setQueue]
@[simp] theorem setQueue_starting (s : State) (g : Nat) (q : Queue) : (setQueue s g q).starting = s.starting := by simp [setQueue]
@[simp] theorem setQueue_inReset (s : State) (g : Nat) (q : Queue) : (setQueue s g q).inReset = s.inReset := by simp [setQueue]
@[simp] theorem setQueue_begun (s : State) (g : Nat) (q : Queue) : (setQueue s g q).begun = s.begun := by simp [setQueue]
@[simp] theorem setQueue_startIn (s : State) (g : Nat) (q : Queue) : (setQueue s g q).startIn = s.startIn := by simp [setQueue]
@[simp] theorem setQueue_cause (s : State) (g : Nat) (q : Queue) : (setQueue s g q).cause = s.cause := by simp [setQueue]
@[simp] theorem setQueue_alarmOut (s : State) (g : Nat) (q : Queue) : (setQueue s g q).alarmOut = s.alarmOut := by simp [setQueue]
@[simp] theorem setQueue_mode (s : State) (g : Nat) (q : Queue) : (setQueue s g q).mode = s.mode := by simp [setQueue]
@[simp] theorem setQueue_regs (s : State) (g : Nat) (q : Queue) : (setQueue s g q).regs = s.regs := by simp [setQueue]
@[simp] theorem setQueue_tb (s : State) (g : Nat) (q : Queue) : (setQueue s g q).tb = s.tb := by simp [setQueue]
@[simp] theorem setQueue_adm (s : State) (g : Nat) (q : Queue) : (setQueue s g q).adm = s.adm := by simp [setQueue]
@[simp] theorem setQueue_rooms (s : State) (g : Nat) (q : Queue) : (setQueue s g q).rooms = s.rooms := by simp [setQueue]
@[simp] theorem setQueue_ld (s : State) (g : Nat) (q : Queue) : (setQueue s g q).ld = s.ld := by simp [setQueue]
@[simp] theorem setQueue_ks (s : State) (g : Nat) (q : Queue) : (setQueue s g q).ks = s.ks := by simp [setQueue]
@[simp] theorem setQueue_bbram (s : State) (g : Nat) (q : Queue) : (setQueue s g q).bbram = s.bbram := by simp [setQueue]
@[simp] theorem setQueue_keys (s : State) (g : Nat) (q : Queue) : (setQueue s g q).keys = s.keys := by simp [setQueue]
@[simp] theorem setQueue_bn (s : State) (g : Nat) (q : Queue) : (setQueue s g q).bn = s.bn := by simp [setQueue]
@[simp] theorem setQueue_cu (s : State) (g : Nat) (q : Queue) : (setQueue s g q).cu = s.cu := by simp [setQueue]
@[simp] theorem setQueue_st (s : State) (g : Nat) (q : Queue) : (setQueue s g q).st = s.st := by simp [setQueue]
@[simp] theorem setQueue_sl (s : State) (g : Nat) (q : Queue) : (setQueue s g q).sl = s.sl := by simp [setQueue]
@[simp] theorem setQueue_tp (s : State) (g : Nat) (q : Queue) : (setQueue s g q).tp = s.tp := by simp [setQueue]
@[simp] theorem setQueue_lc (s : State) (g : Nat) (q : Queue) : (setQueue s g q).lc = s.lc := by simp [setQueue]
@[simp] theorem setQueue_ns (s : State) (g : Nat) (q : Queue) : (setQueue s g q).ns = s.ns := by simp [setQueue]
@[simp] theorem setQueue_ec (s : State) (g : Nat) (q : Queue) : (setQueue s g q).ec = s.ec := by simp [setQueue]
@[simp] theorem setQueue_ev (s : State) (g : Nat) (q : Queue) : (setQueue s g q).ev = s.ev := by simp [setQueue]
@[simp] theorem setQueue_sb (s : State) (g : Nat) (q : Queue) : (setQueue s g q).sb = s.sb := by simp [setQueue]
@[simp] theorem updQueue_fresh (s : State) (g : Nat) (f : Queue → Queue) : (updQueue s g f).fresh = s.fresh := by unfold updQueue; split <;> simp
@[simp] theorem updQueue_out (s : State) (g : Nat) (f : Queue → Queue) : (updQueue s g f).out = s.out := by unfold updQueue; split <;> simp
@[simp] theorem updQueue_pwrOk (s : State) (g : Nat) (f : Queue → Queue) : (updQueue s g f).pwrOk = s.pwrOk := by unfold updQueue; split <;> simp
@[simp] theorem updQueue_perstN (s : State) (g : Nat) (f : Queue → Queue) : (updQueue s g f).perstN = s.perstN := by unfold updQueue; split <;> simp
@[simp] theorem updQueue_starting (s : State) (g : Nat) (f : Queue → Queue) : (updQueue s g f).starting = s.starting := by unfold updQueue; split <;> simp
@[simp] theorem updQueue_inReset (s : State) (g : Nat) (f : Queue → Queue) : (updQueue s g f).inReset = s.inReset := by unfold updQueue; split <;> simp
@[simp] theorem updQueue_begun (s : State) (g : Nat) (f : Queue → Queue) : (updQueue s g f).begun = s.begun := by unfold updQueue; split <;> simp
@[simp] theorem updQueue_startIn (s : State) (g : Nat) (f : Queue → Queue) : (updQueue s g f).startIn = s.startIn := by unfold updQueue; split <;> simp
@[simp] theorem updQueue_cause (s : State) (g : Nat) (f : Queue → Queue) : (updQueue s g f).cause = s.cause := by unfold updQueue; split <;> simp
@[simp] theorem updQueue_alarmOut (s : State) (g : Nat) (f : Queue → Queue) : (updQueue s g f).alarmOut = s.alarmOut := by unfold updQueue; split <;> simp
@[simp] theorem updQueue_mode (s : State) (g : Nat) (f : Queue → Queue) : (updQueue s g f).mode = s.mode := by unfold updQueue; split <;> simp
@[simp] theorem updQueue_regs (s : State) (g : Nat) (f : Queue → Queue) : (updQueue s g f).regs = s.regs := by unfold updQueue; split <;> simp
@[simp] theorem updQueue_tb (s : State) (g : Nat) (f : Queue → Queue) : (updQueue s g f).tb = s.tb := by unfold updQueue; split <;> simp
@[simp] theorem updQueue_adm (s : State) (g : Nat) (f : Queue → Queue) : (updQueue s g f).adm = s.adm := by unfold updQueue; split <;> simp
@[simp] theorem updQueue_rooms (s : State) (g : Nat) (f : Queue → Queue) : (updQueue s g f).rooms = s.rooms := by unfold updQueue; split <;> simp
@[simp] theorem updQueue_ld (s : State) (g : Nat) (f : Queue → Queue) : (updQueue s g f).ld = s.ld := by unfold updQueue; split <;> simp
@[simp] theorem updQueue_ks (s : State) (g : Nat) (f : Queue → Queue) : (updQueue s g f).ks = s.ks := by unfold updQueue; split <;> simp
@[simp] theorem updQueue_bbram (s : State) (g : Nat) (f : Queue → Queue) : (updQueue s g f).bbram = s.bbram := by unfold updQueue; split <;> simp
@[simp] theorem updQueue_keys (s : State) (g : Nat) (f : Queue → Queue) : (updQueue s g f).keys = s.keys := by unfold updQueue; split <;> simp
@[simp] theorem updQueue_bn (s : State) (g : Nat) (f : Queue → Queue) : (updQueue s g f).bn = s.bn := by unfold updQueue; split <;> simp
@[simp] theorem updQueue_cu (s : State) (g : Nat) (f : Queue → Queue) : (updQueue s g f).cu = s.cu := by unfold updQueue; split <;> simp
@[simp] theorem updQueue_st (s : State) (g : Nat) (f : Queue → Queue) : (updQueue s g f).st = s.st := by unfold updQueue; split <;> simp
@[simp] theorem updQueue_sl (s : State) (g : Nat) (f : Queue → Queue) : (updQueue s g f).sl = s.sl := by unfold updQueue; split <;> simp
@[simp] theorem updQueue_tp (s : State) (g : Nat) (f : Queue → Queue) : (updQueue s g f).tp = s.tp := by unfold updQueue; split <;> simp
@[simp] theorem updQueue_lc (s : State) (g : Nat) (f : Queue → Queue) : (updQueue s g f).lc = s.lc := by unfold updQueue; split <;> simp
@[simp] theorem updQueue_ns (s : State) (g : Nat) (f : Queue → Queue) : (updQueue s g f).ns = s.ns := by unfold updQueue; split <;> simp
@[simp] theorem updQueue_ec (s : State) (g : Nat) (f : Queue → Queue) : (updQueue s g f).ec = s.ec := by unfold updQueue; split <;> simp
@[simp] theorem updQueue_ev (s : State) (g : Nat) (f : Queue → Queue) : (updQueue s g f).ev = s.ev := by unfold updQueue; split <;> simp
@[simp] theorem updQueue_sb (s : State) (g : Nat) (f : Queue → Queue) : (updQueue s g f).sb = s.sb := by unfold updQueue; split <;> simp
@[simp] theorem setBn_fresh (s : State) (b : BnIx) (g : BnEng) : (setBn s b g).fresh = s.fresh := by simp [setBn]
@[simp] theorem setBn_out (s : State) (b : BnIx) (g : BnEng) : (setBn s b g).out = s.out := by simp [setBn]
@[simp] theorem setBn_pwrOk (s : State) (b : BnIx) (g : BnEng) : (setBn s b g).pwrOk = s.pwrOk := by simp [setBn]
@[simp] theorem setBn_perstN (s : State) (b : BnIx) (g : BnEng) : (setBn s b g).perstN = s.perstN := by simp [setBn]
@[simp] theorem setBn_starting (s : State) (b : BnIx) (g : BnEng) : (setBn s b g).starting = s.starting := by simp [setBn]
@[simp] theorem setBn_inReset (s : State) (b : BnIx) (g : BnEng) : (setBn s b g).inReset = s.inReset := by simp [setBn]
@[simp] theorem setBn_begun (s : State) (b : BnIx) (g : BnEng) : (setBn s b g).begun = s.begun := by simp [setBn]
@[simp] theorem setBn_startIn (s : State) (b : BnIx) (g : BnEng) : (setBn s b g).startIn = s.startIn := by simp [setBn]
@[simp] theorem setBn_cause (s : State) (b : BnIx) (g : BnEng) : (setBn s b g).cause = s.cause := by simp [setBn]
@[simp] theorem setBn_alarmOut (s : State) (b : BnIx) (g : BnEng) : (setBn s b g).alarmOut = s.alarmOut := by simp [setBn]
@[simp] theorem setBn_mode (s : State) (b : BnIx) (g : BnEng) : (setBn s b g).mode = s.mode := by simp [setBn]
@[simp] theorem setBn_regs (s : State) (b : BnIx) (g : BnEng) : (setBn s b g).regs = s.regs := by simp [setBn]
@[simp] theorem setBn_tb (s : State) (b : BnIx) (g : BnEng) : (setBn s b g).tb = s.tb := by simp [setBn]
@[simp] theorem setBn_pch (s : State) (b : BnIx) (g : BnEng) : (setBn s b g).pch = s.pch := by simp [setBn]
@[simp] theorem setBn_adm (s : State) (b : BnIx) (g : BnEng) : (setBn s b g).adm = s.adm := by simp [setBn]
@[simp] theorem setBn_rooms (s : State) (b : BnIx) (g : BnEng) : (setBn s b g).rooms = s.rooms := by simp [setBn]
@[simp] theorem setBn_ld (s : State) (b : BnIx) (g : BnEng) : (setBn s b g).ld = s.ld := by simp [setBn]
@[simp] theorem setBn_ks (s : State) (b : BnIx) (g : BnEng) : (setBn s b g).ks = s.ks := by simp [setBn]
@[simp] theorem setBn_bbram (s : State) (b : BnIx) (g : BnEng) : (setBn s b g).bbram = s.bbram := by simp [setBn]
@[simp] theorem setBn_keys (s : State) (b : BnIx) (g : BnEng) : (setBn s b g).keys = s.keys := by simp [setBn]
@[simp] theorem setBn_cu (s : State) (b : BnIx) (g : BnEng) : (setBn s b g).cu = s.cu := by simp [setBn]
@[simp] theorem setBn_st (s : State) (b : BnIx) (g : BnEng) : (setBn s b g).st = s.st := by simp [setBn]
@[simp] theorem setBn_sl (s : State) (b : BnIx) (g : BnEng) : (setBn s b g).sl = s.sl := by simp [setBn]
@[simp] theorem setBn_tp (s : State) (b : BnIx) (g : BnEng) : (setBn s b g).tp = s.tp := by simp [setBn]
@[simp] theorem setBn_lc (s : State) (b : BnIx) (g : BnEng) : (setBn s b g).lc = s.lc := by simp [setBn]
@[simp] theorem setBn_ns (s : State) (b : BnIx) (g : BnEng) : (setBn s b g).ns = s.ns := by simp [setBn]
@[simp] theorem setBn_ec (s : State) (b : BnIx) (g : BnEng) : (setBn s b g).ec = s.ec := by simp [setBn]
@[simp] theorem setBn_ev (s : State) (b : BnIx) (g : BnEng) : (setBn s b g).ev = s.ev := by simp [setBn]
@[simp] theorem setBn_sb (s : State) (b : BnIx) (g : BnEng) : (setBn s b g).sb = s.sb := by simp [setBn]
@[simp] theorem withCu_fresh (s : State) (f : Cu → Cu) : (withCu s f).fresh = s.fresh := by simp [withCu]
@[simp] theorem withCu_out (s : State) (f : Cu → Cu) : (withCu s f).out = s.out := by simp [withCu]
@[simp] theorem withCu_pwrOk (s : State) (f : Cu → Cu) : (withCu s f).pwrOk = s.pwrOk := by simp [withCu]
@[simp] theorem withCu_perstN (s : State) (f : Cu → Cu) : (withCu s f).perstN = s.perstN := by simp [withCu]
@[simp] theorem withCu_starting (s : State) (f : Cu → Cu) : (withCu s f).starting = s.starting := by simp [withCu]
@[simp] theorem withCu_inReset (s : State) (f : Cu → Cu) : (withCu s f).inReset = s.inReset := by simp [withCu]
@[simp] theorem withCu_begun (s : State) (f : Cu → Cu) : (withCu s f).begun = s.begun := by simp [withCu]
@[simp] theorem withCu_startIn (s : State) (f : Cu → Cu) : (withCu s f).startIn = s.startIn := by simp [withCu]
@[simp] theorem withCu_cause (s : State) (f : Cu → Cu) : (withCu s f).cause = s.cause := by simp [withCu]
@[simp] theorem withCu_alarmOut (s : State) (f : Cu → Cu) : (withCu s f).alarmOut = s.alarmOut := by simp [withCu]
@[simp] theorem withCu_mode (s : State) (f : Cu → Cu) : (withCu s f).mode = s.mode := by simp [withCu]
@[simp] theorem withCu_regs (s : State) (f : Cu → Cu) : (withCu s f).regs = s.regs := by simp [withCu]
@[simp] theorem withCu_tb (s : State) (f : Cu → Cu) : (withCu s f).tb = s.tb := by simp [withCu]
@[simp] theorem withCu_pch (s : State) (f : Cu → Cu) : (withCu s f).pch = s.pch := by simp [withCu]
@[simp] theorem withCu_adm (s : State) (f : Cu → Cu) : (withCu s f).adm = s.adm := by simp [withCu]
@[simp] theorem withCu_rooms (s : State) (f : Cu → Cu) : (withCu s f).rooms = s.rooms := by simp [withCu]
@[simp] theorem withCu_ld (s : State) (f : Cu → Cu) : (withCu s f).ld = s.ld := by simp [withCu]
@[simp] theorem withCu_ks (s : State) (f : Cu → Cu) : (withCu s f).ks = s.ks := by simp [withCu]
@[simp] theorem withCu_bbram (s : State) (f : Cu → Cu) : (withCu s f).bbram = s.bbram := by simp [withCu]
@[simp] theorem withCu_keys (s : State) (f : Cu → Cu) : (withCu s f).keys = s.keys := by simp [withCu]
@[simp] theorem withCu_bn (s : State) (f : Cu → Cu) : (withCu s f).bn = s.bn := by simp [withCu]
@[simp] theorem withCu_st (s : State) (f : Cu → Cu) : (withCu s f).st = s.st := by simp [withCu]
@[simp] theorem withCu_sl (s : State) (f : Cu → Cu) : (withCu s f).sl = s.sl := by simp [withCu]
@[simp] theorem withCu_tp (s : State) (f : Cu → Cu) : (withCu s f).tp = s.tp := by simp [withCu]
@[simp] theorem withCu_lc (s : State) (f : Cu → Cu) : (withCu s f).lc = s.lc := by simp [withCu]
@[simp] theorem withCu_ns (s : State) (f : Cu → Cu) : (withCu s f).ns = s.ns := by simp [withCu]
@[simp] theorem withCu_ec (s : State) (f : Cu → Cu) : (withCu s f).ec = s.ec := by simp [withCu]
@[simp] theorem withCu_ev (s : State) (f : Cu → Cu) : (withCu s f).ev = s.ev := by simp [withCu]
@[simp] theorem withCu_sb (s : State) (f : Cu → Cu) : (withCu s f).sb = s.sb := by simp [withCu]
@[simp] theorem withEv_fresh (s : State) (f : Ev → Ev) : (withEv s f).fresh = s.fresh := by simp [withEv]
@[simp] theorem withEv_out (s : State) (f : Ev → Ev) : (withEv s f).out = s.out := by simp [withEv]
@[simp] theorem withEv_pwrOk (s : State) (f : Ev → Ev) : (withEv s f).pwrOk = s.pwrOk := by simp [withEv]
@[simp] theorem withEv_perstN (s : State) (f : Ev → Ev) : (withEv s f).perstN = s.perstN := by simp [withEv]
@[simp] theorem withEv_starting (s : State) (f : Ev → Ev) : (withEv s f).starting = s.starting := by simp [withEv]
@[simp] theorem withEv_inReset (s : State) (f : Ev → Ev) : (withEv s f).inReset = s.inReset := by simp [withEv]
@[simp] theorem withEv_begun (s : State) (f : Ev → Ev) : (withEv s f).begun = s.begun := by simp [withEv]
@[simp] theorem withEv_startIn (s : State) (f : Ev → Ev) : (withEv s f).startIn = s.startIn := by simp [withEv]
@[simp] theorem withEv_cause (s : State) (f : Ev → Ev) : (withEv s f).cause = s.cause := by simp [withEv]
@[simp] theorem withEv_alarmOut (s : State) (f : Ev → Ev) : (withEv s f).alarmOut = s.alarmOut := by simp [withEv]
@[simp] theorem withEv_mode (s : State) (f : Ev → Ev) : (withEv s f).mode = s.mode := by simp [withEv]
@[simp] theorem withEv_regs (s : State) (f : Ev → Ev) : (withEv s f).regs = s.regs := by simp [withEv]
@[simp] theorem withEv_tb (s : State) (f : Ev → Ev) : (withEv s f).tb = s.tb := by simp [withEv]
@[simp] theorem withEv_pch (s : State) (f : Ev → Ev) : (withEv s f).pch = s.pch := by simp [withEv]
@[simp] theorem withEv_adm (s : State) (f : Ev → Ev) : (withEv s f).adm = s.adm := by simp [withEv]
@[simp] theorem withEv_rooms (s : State) (f : Ev → Ev) : (withEv s f).rooms = s.rooms := by simp [withEv]
@[simp] theorem withEv_ld (s : State) (f : Ev → Ev) : (withEv s f).ld = s.ld := by simp [withEv]
@[simp] theorem withEv_ks (s : State) (f : Ev → Ev) : (withEv s f).ks = s.ks := by simp [withEv]
@[simp] theorem withEv_bbram (s : State) (f : Ev → Ev) : (withEv s f).bbram = s.bbram := by simp [withEv]
@[simp] theorem withEv_keys (s : State) (f : Ev → Ev) : (withEv s f).keys = s.keys := by simp [withEv]
@[simp] theorem withEv_bn (s : State) (f : Ev → Ev) : (withEv s f).bn = s.bn := by simp [withEv]
@[simp] theorem withEv_cu (s : State) (f : Ev → Ev) : (withEv s f).cu = s.cu := by simp [withEv]
@[simp] theorem withEv_st (s : State) (f : Ev → Ev) : (withEv s f).st = s.st := by simp [withEv]
@[simp] theorem withEv_sl (s : State) (f : Ev → Ev) : (withEv s f).sl = s.sl := by simp [withEv]
@[simp] theorem withEv_tp (s : State) (f : Ev → Ev) : (withEv s f).tp = s.tp := by simp [withEv]
@[simp] theorem withEv_lc (s : State) (f : Ev → Ev) : (withEv s f).lc = s.lc := by simp [withEv]
@[simp] theorem withEv_ns (s : State) (f : Ev → Ev) : (withEv s f).ns = s.ns := by simp [withEv]
@[simp] theorem withEv_ec (s : State) (f : Ev → Ev) : (withEv s f).ec = s.ec := by simp [withEv]
@[simp] theorem withEv_sb (s : State) (f : Ev → Ev) : (withEv s f).sb = s.sb := by simp [withEv]
@[simp] theorem withLc_fresh (s : State) (f : Lc → Lc) : (withLc s f).fresh = s.fresh := by simp [withLc]
@[simp] theorem withLc_out (s : State) (f : Lc → Lc) : (withLc s f).out = s.out := by simp [withLc]
@[simp] theorem withLc_pwrOk (s : State) (f : Lc → Lc) : (withLc s f).pwrOk = s.pwrOk := by simp [withLc]
@[simp] theorem withLc_perstN (s : State) (f : Lc → Lc) : (withLc s f).perstN = s.perstN := by simp [withLc]
@[simp] theorem withLc_starting (s : State) (f : Lc → Lc) : (withLc s f).starting = s.starting := by simp [withLc]
@[simp] theorem withLc_inReset (s : State) (f : Lc → Lc) : (withLc s f).inReset = s.inReset := by simp [withLc]
@[simp] theorem withLc_begun (s : State) (f : Lc → Lc) : (withLc s f).begun = s.begun := by simp [withLc]
@[simp] theorem withLc_startIn (s : State) (f : Lc → Lc) : (withLc s f).startIn = s.startIn := by simp [withLc]
@[simp] theorem withLc_cause (s : State) (f : Lc → Lc) : (withLc s f).cause = s.cause := by simp [withLc]
@[simp] theorem withLc_alarmOut (s : State) (f : Lc → Lc) : (withLc s f).alarmOut = s.alarmOut := by simp [withLc]
@[simp] theorem withLc_mode (s : State) (f : Lc → Lc) : (withLc s f).mode = s.mode := by simp [withLc]
@[simp] theorem withLc_regs (s : State) (f : Lc → Lc) : (withLc s f).regs = s.regs := by simp [withLc]
@[simp] theorem withLc_tb (s : State) (f : Lc → Lc) : (withLc s f).tb = s.tb := by simp [withLc]
@[simp] theorem withLc_pch (s : State) (f : Lc → Lc) : (withLc s f).pch = s.pch := by simp [withLc]
@[simp] theorem withLc_adm (s : State) (f : Lc → Lc) : (withLc s f).adm = s.adm := by simp [withLc]
@[simp] theorem withLc_rooms (s : State) (f : Lc → Lc) : (withLc s f).rooms = s.rooms := by simp [withLc]
@[simp] theorem withLc_ld (s : State) (f : Lc → Lc) : (withLc s f).ld = s.ld := by simp [withLc]
@[simp] theorem withLc_ks (s : State) (f : Lc → Lc) : (withLc s f).ks = s.ks := by simp [withLc]
@[simp] theorem withLc_bbram (s : State) (f : Lc → Lc) : (withLc s f).bbram = s.bbram := by simp [withLc]
@[simp] theorem withLc_keys (s : State) (f : Lc → Lc) : (withLc s f).keys = s.keys := by simp [withLc]
@[simp] theorem withLc_bn (s : State) (f : Lc → Lc) : (withLc s f).bn = s.bn := by simp [withLc]
@[simp] theorem withLc_cu (s : State) (f : Lc → Lc) : (withLc s f).cu = s.cu := by simp [withLc]
@[simp] theorem withLc_st (s : State) (f : Lc → Lc) : (withLc s f).st = s.st := by simp [withLc]
@[simp] theorem withLc_sl (s : State) (f : Lc → Lc) : (withLc s f).sl = s.sl := by simp [withLc]
@[simp] theorem withLc_tp (s : State) (f : Lc → Lc) : (withLc s f).tp = s.tp := by simp [withLc]
@[simp] theorem withLc_ns (s : State) (f : Lc → Lc) : (withLc s f).ns = s.ns := by simp [withLc]
@[simp] theorem withLc_ec (s : State) (f : Lc → Lc) : (withLc s f).ec = s.ec := by simp [withLc]
@[simp] theorem withLc_ev (s : State) (f : Lc → Lc) : (withLc s f).ev = s.ev := by simp [withLc]
@[simp] theorem withLc_sb (s : State) (f : Lc → Lc) : (withLc s f).sb = s.sb := by simp [withLc]
@[simp] theorem withTp_fresh (s : State) (f : Tp → Tp) : (withTp s f).fresh = s.fresh := by simp [withTp]
@[simp] theorem withTp_out (s : State) (f : Tp → Tp) : (withTp s f).out = s.out := by simp [withTp]
@[simp] theorem withTp_pwrOk (s : State) (f : Tp → Tp) : (withTp s f).pwrOk = s.pwrOk := by simp [withTp]
@[simp] theorem withTp_perstN (s : State) (f : Tp → Tp) : (withTp s f).perstN = s.perstN := by simp [withTp]
@[simp] theorem withTp_starting (s : State) (f : Tp → Tp) : (withTp s f).starting = s.starting := by simp [withTp]
@[simp] theorem withTp_inReset (s : State) (f : Tp → Tp) : (withTp s f).inReset = s.inReset := by simp [withTp]
@[simp] theorem withTp_begun (s : State) (f : Tp → Tp) : (withTp s f).begun = s.begun := by simp [withTp]
@[simp] theorem withTp_startIn (s : State) (f : Tp → Tp) : (withTp s f).startIn = s.startIn := by simp [withTp]
@[simp] theorem withTp_cause (s : State) (f : Tp → Tp) : (withTp s f).cause = s.cause := by simp [withTp]
@[simp] theorem withTp_alarmOut (s : State) (f : Tp → Tp) : (withTp s f).alarmOut = s.alarmOut := by simp [withTp]
@[simp] theorem withTp_mode (s : State) (f : Tp → Tp) : (withTp s f).mode = s.mode := by simp [withTp]
@[simp] theorem withTp_regs (s : State) (f : Tp → Tp) : (withTp s f).regs = s.regs := by simp [withTp]
@[simp] theorem withTp_tb (s : State) (f : Tp → Tp) : (withTp s f).tb = s.tb := by simp [withTp]
@[simp] theorem withTp_pch (s : State) (f : Tp → Tp) : (withTp s f).pch = s.pch := by simp [withTp]
@[simp] theorem withTp_adm (s : State) (f : Tp → Tp) : (withTp s f).adm = s.adm := by simp [withTp]
@[simp] theorem withTp_rooms (s : State) (f : Tp → Tp) : (withTp s f).rooms = s.rooms := by simp [withTp]
@[simp] theorem withTp_ld (s : State) (f : Tp → Tp) : (withTp s f).ld = s.ld := by simp [withTp]
@[simp] theorem withTp_ks (s : State) (f : Tp → Tp) : (withTp s f).ks = s.ks := by simp [withTp]
@[simp] theorem withTp_bbram (s : State) (f : Tp → Tp) : (withTp s f).bbram = s.bbram := by simp [withTp]
@[simp] theorem withTp_keys (s : State) (f : Tp → Tp) : (withTp s f).keys = s.keys := by simp [withTp]
@[simp] theorem withTp_bn (s : State) (f : Tp → Tp) : (withTp s f).bn = s.bn := by simp [withTp]
@[simp] theorem withTp_cu (s : State) (f : Tp → Tp) : (withTp s f).cu = s.cu := by simp [withTp]
@[simp] theorem withTp_st (s : State) (f : Tp → Tp) : (withTp s f).st = s.st := by simp [withTp]
@[simp] theorem withTp_sl (s : State) (f : Tp → Tp) : (withTp s f).sl = s.sl := by simp [withTp]
@[simp] theorem withTp_lc (s : State) (f : Tp → Tp) : (withTp s f).lc = s.lc := by simp [withTp]
@[simp] theorem withTp_ns (s : State) (f : Tp → Tp) : (withTp s f).ns = s.ns := by simp [withTp]
@[simp] theorem withTp_ec (s : State) (f : Tp → Tp) : (withTp s f).ec = s.ec := by simp [withTp]
@[simp] theorem withTp_ev (s : State) (f : Tp → Tp) : (withTp s f).ev = s.ev := by simp [withTp]
@[simp] theorem withTp_sb (s : State) (f : Tp → Tp) : (withTp s f).sb = s.sb := by simp [withTp]
@[simp] theorem withBb_fresh (s : State) (f : Bbram → Bbram) : (withBb s f).fresh = s.fresh := by simp [withBb]
@[simp] theorem withBb_out (s : State) (f : Bbram → Bbram) : (withBb s f).out = s.out := by simp [withBb]
@[simp] theorem withBb_pwrOk (s : State) (f : Bbram → Bbram) : (withBb s f).pwrOk = s.pwrOk := by simp [withBb]
@[simp] theorem withBb_perstN (s : State) (f : Bbram → Bbram) : (withBb s f).perstN = s.perstN := by simp [withBb]
@[simp] theorem withBb_starting (s : State) (f : Bbram → Bbram) : (withBb s f).starting = s.starting := by simp [withBb]
@[simp] theorem withBb_inReset (s : State) (f : Bbram → Bbram) : (withBb s f).inReset = s.inReset := by simp [withBb]
@[simp] theorem withBb_begun (s : State) (f : Bbram → Bbram) : (withBb s f).begun = s.begun := by simp [withBb]
@[simp] theorem withBb_startIn (s : State) (f : Bbram → Bbram) : (withBb s f).startIn = s.startIn := by simp [withBb]
@[simp] theorem withBb_cause (s : State) (f : Bbram → Bbram) : (withBb s f).cause = s.cause := by simp [withBb]
@[simp] theorem withBb_alarmOut (s : State) (f : Bbram → Bbram) : (withBb s f).alarmOut = s.alarmOut := by simp [withBb]
@[simp] theorem withBb_mode (s : State) (f : Bbram → Bbram) : (withBb s f).mode = s.mode := by simp [withBb]
@[simp] theorem withBb_regs (s : State) (f : Bbram → Bbram) : (withBb s f).regs = s.regs := by simp [withBb]
@[simp] theorem withBb_tb (s : State) (f : Bbram → Bbram) : (withBb s f).tb = s.tb := by simp [withBb]
@[simp] theorem withBb_pch (s : State) (f : Bbram → Bbram) : (withBb s f).pch = s.pch := by simp [withBb]
@[simp] theorem withBb_adm (s : State) (f : Bbram → Bbram) : (withBb s f).adm = s.adm := by simp [withBb]
@[simp] theorem withBb_rooms (s : State) (f : Bbram → Bbram) : (withBb s f).rooms = s.rooms := by simp [withBb]
@[simp] theorem withBb_ld (s : State) (f : Bbram → Bbram) : (withBb s f).ld = s.ld := by simp [withBb]
@[simp] theorem withBb_ks (s : State) (f : Bbram → Bbram) : (withBb s f).ks = s.ks := by simp [withBb]
@[simp] theorem withBb_keys (s : State) (f : Bbram → Bbram) : (withBb s f).keys = s.keys := by simp [withBb]
@[simp] theorem withBb_bn (s : State) (f : Bbram → Bbram) : (withBb s f).bn = s.bn := by simp [withBb]
@[simp] theorem withBb_cu (s : State) (f : Bbram → Bbram) : (withBb s f).cu = s.cu := by simp [withBb]
@[simp] theorem withBb_st (s : State) (f : Bbram → Bbram) : (withBb s f).st = s.st := by simp [withBb]
@[simp] theorem withBb_sl (s : State) (f : Bbram → Bbram) : (withBb s f).sl = s.sl := by simp [withBb]
@[simp] theorem withBb_tp (s : State) (f : Bbram → Bbram) : (withBb s f).tp = s.tp := by simp [withBb]
@[simp] theorem withBb_lc (s : State) (f : Bbram → Bbram) : (withBb s f).lc = s.lc := by simp [withBb]
@[simp] theorem withBb_ns (s : State) (f : Bbram → Bbram) : (withBb s f).ns = s.ns := by simp [withBb]
@[simp] theorem withBb_ec (s : State) (f : Bbram → Bbram) : (withBb s f).ec = s.ec := by simp [withBb]
@[simp] theorem withBb_ev (s : State) (f : Bbram → Bbram) : (withBb s f).ev = s.ev := by simp [withBb]
@[simp] theorem withBb_sb (s : State) (f : Bbram → Bbram) : (withBb s f).sb = s.sb := by simp [withBb]
@[simp] theorem withEc_fresh (s : State) (f : Ec → Ec) : (withEc s f).fresh = s.fresh := by simp [withEc]
@[simp] theorem withEc_out (s : State) (f : Ec → Ec) : (withEc s f).out = s.out := by simp [withEc]
@[simp] theorem withEc_pwrOk (s : State) (f : Ec → Ec) : (withEc s f).pwrOk = s.pwrOk := by simp [withEc]
@[simp] theorem withEc_perstN (s : State) (f : Ec → Ec) : (withEc s f).perstN = s.perstN := by simp [withEc]
@[simp] theorem withEc_starting (s : State) (f : Ec → Ec) : (withEc s f).starting = s.starting := by simp [withEc]
@[simp] theorem withEc_inReset (s : State) (f : Ec → Ec) : (withEc s f).inReset = s.inReset := by simp [withEc]
@[simp] theorem withEc_begun (s : State) (f : Ec → Ec) : (withEc s f).begun = s.begun := by simp [withEc]
@[simp] theorem withEc_startIn (s : State) (f : Ec → Ec) : (withEc s f).startIn = s.startIn := by simp [withEc]
@[simp] theorem withEc_cause (s : State) (f : Ec → Ec) : (withEc s f).cause = s.cause := by simp [withEc]
@[simp] theorem withEc_alarmOut (s : State) (f : Ec → Ec) : (withEc s f).alarmOut = s.alarmOut := by simp [withEc]
@[simp] theorem withEc_mode (s : State) (f : Ec → Ec) : (withEc s f).mode = s.mode := by simp [withEc]
@[simp] theorem withEc_regs (s : State) (f : Ec → Ec) : (withEc s f).regs = s.regs := by simp [withEc]
@[simp] theorem withEc_tb (s : State) (f : Ec → Ec) : (withEc s f).tb = s.tb := by simp [withEc]
@[simp] theorem withEc_pch (s : State) (f : Ec → Ec) : (withEc s f).pch = s.pch := by simp [withEc]
@[simp] theorem withEc_adm (s : State) (f : Ec → Ec) : (withEc s f).adm = s.adm := by simp [withEc]
@[simp] theorem withEc_rooms (s : State) (f : Ec → Ec) : (withEc s f).rooms = s.rooms := by simp [withEc]
@[simp] theorem withEc_ld (s : State) (f : Ec → Ec) : (withEc s f).ld = s.ld := by simp [withEc]
@[simp] theorem withEc_ks (s : State) (f : Ec → Ec) : (withEc s f).ks = s.ks := by simp [withEc]
@[simp] theorem withEc_bbram (s : State) (f : Ec → Ec) : (withEc s f).bbram = s.bbram := by simp [withEc]
@[simp] theorem withEc_keys (s : State) (f : Ec → Ec) : (withEc s f).keys = s.keys := by simp [withEc]
@[simp] theorem withEc_bn (s : State) (f : Ec → Ec) : (withEc s f).bn = s.bn := by simp [withEc]
@[simp] theorem withEc_cu (s : State) (f : Ec → Ec) : (withEc s f).cu = s.cu := by simp [withEc]
@[simp] theorem withEc_st (s : State) (f : Ec → Ec) : (withEc s f).st = s.st := by simp [withEc]
@[simp] theorem withEc_sl (s : State) (f : Ec → Ec) : (withEc s f).sl = s.sl := by simp [withEc]
@[simp] theorem withEc_tp (s : State) (f : Ec → Ec) : (withEc s f).tp = s.tp := by simp [withEc]
@[simp] theorem withEc_lc (s : State) (f : Ec → Ec) : (withEc s f).lc = s.lc := by simp [withEc]
@[simp] theorem withEc_ns (s : State) (f : Ec → Ec) : (withEc s f).ns = s.ns := by simp [withEc]
@[simp] theorem withEc_ev (s : State) (f : Ec → Ec) : (withEc s f).ev = s.ev := by simp [withEc]
@[simp] theorem withEc_sb (s : State) (f : Ec → Ec) : (withEc s f).sb = s.sb := by simp [withEc]
@[simp] theorem setSlot_fresh (s : State) (n : Fin 4) (c : CardSlot) : (setSlot s n c).fresh = s.fresh := by simp [setSlot]
@[simp] theorem setSlot_out (s : State) (n : Fin 4) (c : CardSlot) : (setSlot s n c).out = s.out := by simp [setSlot]
@[simp] theorem setSlot_pwrOk (s : State) (n : Fin 4) (c : CardSlot) : (setSlot s n c).pwrOk = s.pwrOk := by simp [setSlot]
@[simp] theorem setSlot_perstN (s : State) (n : Fin 4) (c : CardSlot) : (setSlot s n c).perstN = s.perstN := by simp [setSlot]
@[simp] theorem setSlot_starting (s : State) (n : Fin 4) (c : CardSlot) : (setSlot s n c).starting = s.starting := by simp [setSlot]
@[simp] theorem setSlot_inReset (s : State) (n : Fin 4) (c : CardSlot) : (setSlot s n c).inReset = s.inReset := by simp [setSlot]
@[simp] theorem setSlot_begun (s : State) (n : Fin 4) (c : CardSlot) : (setSlot s n c).begun = s.begun := by simp [setSlot]
@[simp] theorem setSlot_startIn (s : State) (n : Fin 4) (c : CardSlot) : (setSlot s n c).startIn = s.startIn := by simp [setSlot]
@[simp] theorem setSlot_cause (s : State) (n : Fin 4) (c : CardSlot) : (setSlot s n c).cause = s.cause := by simp [setSlot]
@[simp] theorem setSlot_alarmOut (s : State) (n : Fin 4) (c : CardSlot) : (setSlot s n c).alarmOut = s.alarmOut := by simp [setSlot]
@[simp] theorem setSlot_mode (s : State) (n : Fin 4) (c : CardSlot) : (setSlot s n c).mode = s.mode := by simp [setSlot]
@[simp] theorem setSlot_regs (s : State) (n : Fin 4) (c : CardSlot) : (setSlot s n c).regs = s.regs := by simp [setSlot]
@[simp] theorem setSlot_tb (s : State) (n : Fin 4) (c : CardSlot) : (setSlot s n c).tb = s.tb := by simp [setSlot]
@[simp] theorem setSlot_pch (s : State) (n : Fin 4) (c : CardSlot) : (setSlot s n c).pch = s.pch := by simp [setSlot]
@[simp] theorem setSlot_adm (s : State) (n : Fin 4) (c : CardSlot) : (setSlot s n c).adm = s.adm := by simp [setSlot]
@[simp] theorem setSlot_rooms (s : State) (n : Fin 4) (c : CardSlot) : (setSlot s n c).rooms = s.rooms := by simp [setSlot]
@[simp] theorem setSlot_ld (s : State) (n : Fin 4) (c : CardSlot) : (setSlot s n c).ld = s.ld := by simp [setSlot]
@[simp] theorem setSlot_ks (s : State) (n : Fin 4) (c : CardSlot) : (setSlot s n c).ks = s.ks := by simp [setSlot]
@[simp] theorem setSlot_bbram (s : State) (n : Fin 4) (c : CardSlot) : (setSlot s n c).bbram = s.bbram := by simp [setSlot]
@[simp] theorem setSlot_keys (s : State) (n : Fin 4) (c : CardSlot) : (setSlot s n c).keys = s.keys := by simp [setSlot]
@[simp] theorem setSlot_bn (s : State) (n : Fin 4) (c : CardSlot) : (setSlot s n c).bn = s.bn := by simp [setSlot]
@[simp] theorem setSlot_cu (s : State) (n : Fin 4) (c : CardSlot) : (setSlot s n c).cu = s.cu := by simp [setSlot]
@[simp] theorem setSlot_st (s : State) (n : Fin 4) (c : CardSlot) : (setSlot s n c).st = s.st := by simp [setSlot]
@[simp] theorem setSlot_tp (s : State) (n : Fin 4) (c : CardSlot) : (setSlot s n c).tp = s.tp := by simp [setSlot]
@[simp] theorem setSlot_lc (s : State) (n : Fin 4) (c : CardSlot) : (setSlot s n c).lc = s.lc := by simp [setSlot]
@[simp] theorem setSlot_ns (s : State) (n : Fin 4) (c : CardSlot) : (setSlot s n c).ns = s.ns := by simp [setSlot]
@[simp] theorem setSlot_ec (s : State) (n : Fin 4) (c : CardSlot) : (setSlot s n c).ec = s.ec := by simp [setSlot]
@[simp] theorem setSlot_ev (s : State) (n : Fin 4) (c : CardSlot) : (setSlot s n c).ev = s.ev := by simp [setSlot]
@[simp] theorem setSlot_sb (s : State) (n : Fin 4) (c : CardSlot) : (setSlot s n c).sb = s.sb := by simp [setSlot]
@[simp] theorem setPort_fresh (s : State) (p : Bool) (q : Port) : (setPort s p q).fresh = s.fresh := by unfold setPort; split <;> simp
@[simp] theorem setPort_out (s : State) (p : Bool) (q : Port) : (setPort s p q).out = s.out := by unfold setPort; split <;> simp
@[simp] theorem setPort_pwrOk (s : State) (p : Bool) (q : Port) : (setPort s p q).pwrOk = s.pwrOk := by unfold setPort; split <;> simp
@[simp] theorem setPort_perstN (s : State) (p : Bool) (q : Port) : (setPort s p q).perstN = s.perstN := by unfold setPort; split <;> simp
@[simp] theorem setPort_starting (s : State) (p : Bool) (q : Port) : (setPort s p q).starting = s.starting := by unfold setPort; split <;> simp
@[simp] theorem setPort_inReset (s : State) (p : Bool) (q : Port) : (setPort s p q).inReset = s.inReset := by unfold setPort; split <;> simp
@[simp] theorem setPort_begun (s : State) (p : Bool) (q : Port) : (setPort s p q).begun = s.begun := by unfold setPort; split <;> simp
@[simp] theorem setPort_startIn (s : State) (p : Bool) (q : Port) : (setPort s p q).startIn = s.startIn := by unfold setPort; split <;> simp
@[simp] theorem setPort_cause (s : State) (p : Bool) (q : Port) : (setPort s p q).cause = s.cause := by unfold setPort; split <;> simp
@[simp] theorem setPort_alarmOut (s : State) (p : Bool) (q : Port) : (setPort s p q).alarmOut = s.alarmOut := by unfold setPort; split <;> simp
@[simp] theorem setPort_mode (s : State) (p : Bool) (q : Port) : (setPort s p q).mode = s.mode := by unfold setPort; split <;> simp
@[simp] theorem setPort_regs (s : State) (p : Bool) (q : Port) : (setPort s p q).regs = s.regs := by unfold setPort; split <;> simp
@[simp] theorem setPort_tb (s : State) (p : Bool) (q : Port) : (setPort s p q).tb = s.tb := by unfold setPort; split <;> simp
@[simp] theorem setPort_pch (s : State) (p : Bool) (q : Port) : (setPort s p q).pch = s.pch := by unfold setPort; split <;> simp
@[simp] theorem setPort_adm (s : State) (p : Bool) (q : Port) : (setPort s p q).adm = s.adm := by unfold setPort; split <;> simp
@[simp] theorem setPort_rooms (s : State) (p : Bool) (q : Port) : (setPort s p q).rooms = s.rooms := by unfold setPort; split <;> simp
@[simp] theorem setPort_ld (s : State) (p : Bool) (q : Port) : (setPort s p q).ld = s.ld := by unfold setPort; split <;> simp
@[simp] theorem setPort_ks (s : State) (p : Bool) (q : Port) : (setPort s p q).ks = s.ks := by unfold setPort; split <;> simp
@[simp] theorem setPort_bbram (s : State) (p : Bool) (q : Port) : (setPort s p q).bbram = s.bbram := by unfold setPort; split <;> simp
@[simp] theorem setPort_keys (s : State) (p : Bool) (q : Port) : (setPort s p q).keys = s.keys := by unfold setPort; split <;> simp
@[simp] theorem setPort_bn (s : State) (p : Bool) (q : Port) : (setPort s p q).bn = s.bn := by unfold setPort; split <;> simp
@[simp] theorem setPort_cu (s : State) (p : Bool) (q : Port) : (setPort s p q).cu = s.cu := by unfold setPort; split <;> simp
@[simp] theorem setPort_sl (s : State) (p : Bool) (q : Port) : (setPort s p q).sl = s.sl := by unfold setPort; split <;> simp
@[simp] theorem setPort_tp (s : State) (p : Bool) (q : Port) : (setPort s p q).tp = s.tp := by unfold setPort; split <;> simp
@[simp] theorem setPort_lc (s : State) (p : Bool) (q : Port) : (setPort s p q).lc = s.lc := by unfold setPort; split <;> simp
@[simp] theorem setPort_ns (s : State) (p : Bool) (q : Port) : (setPort s p q).ns = s.ns := by unfold setPort; split <;> simp
@[simp] theorem setPort_ec (s : State) (p : Bool) (q : Port) : (setPort s p q).ec = s.ec := by unfold setPort; split <;> simp
@[simp] theorem setPort_ev (s : State) (p : Bool) (q : Port) : (setPort s p q).ev = s.ev := by unfold setPort; split <;> simp
@[simp] theorem setPort_sb (s : State) (p : Bool) (q : Port) : (setPort s p q).sb = s.sb := by unfold setPort; split <;> simp
@[simp] theorem emitFrame_fresh (s : State) (p : Bool) (n : Nat) (l : List Nat) : (emitFrame s p n l).fresh = s.fresh := by simp [emitFrame]
@[simp] theorem emitFrame_pwrOk (s : State) (p : Bool) (n : Nat) (l : List Nat) : (emitFrame s p n l).pwrOk = s.pwrOk := by simp [emitFrame]
@[simp] theorem emitFrame_perstN (s : State) (p : Bool) (n : Nat) (l : List Nat) : (emitFrame s p n l).perstN = s.perstN := by simp [emitFrame]
@[simp] theorem emitFrame_starting (s : State) (p : Bool) (n : Nat) (l : List Nat) : (emitFrame s p n l).starting = s.starting := by simp [emitFrame]
@[simp] theorem emitFrame_inReset (s : State) (p : Bool) (n : Nat) (l : List Nat) : (emitFrame s p n l).inReset = s.inReset := by simp [emitFrame]
@[simp] theorem emitFrame_begun (s : State) (p : Bool) (n : Nat) (l : List Nat) : (emitFrame s p n l).begun = s.begun := by simp [emitFrame]
@[simp] theorem emitFrame_startIn (s : State) (p : Bool) (n : Nat) (l : List Nat) : (emitFrame s p n l).startIn = s.startIn := by simp [emitFrame]
@[simp] theorem emitFrame_cause (s : State) (p : Bool) (n : Nat) (l : List Nat) : (emitFrame s p n l).cause = s.cause := by simp [emitFrame]
@[simp] theorem emitFrame_alarmOut (s : State) (p : Bool) (n : Nat) (l : List Nat) : (emitFrame s p n l).alarmOut = s.alarmOut := by simp [emitFrame]
@[simp] theorem emitFrame_mode (s : State) (p : Bool) (n : Nat) (l : List Nat) : (emitFrame s p n l).mode = s.mode := by simp [emitFrame]
@[simp] theorem emitFrame_regs (s : State) (p : Bool) (n : Nat) (l : List Nat) : (emitFrame s p n l).regs = s.regs := by simp [emitFrame]
@[simp] theorem emitFrame_tb (s : State) (p : Bool) (n : Nat) (l : List Nat) : (emitFrame s p n l).tb = s.tb := by simp [emitFrame]
@[simp] theorem emitFrame_pch (s : State) (p : Bool) (n : Nat) (l : List Nat) : (emitFrame s p n l).pch = s.pch := by simp [emitFrame]
@[simp] theorem emitFrame_adm (s : State) (p : Bool) (n : Nat) (l : List Nat) : (emitFrame s p n l).adm = s.adm := by simp [emitFrame]
@[simp] theorem emitFrame_rooms (s : State) (p : Bool) (n : Nat) (l : List Nat) : (emitFrame s p n l).rooms = s.rooms := by simp [emitFrame]
@[simp] theorem emitFrame_ld (s : State) (p : Bool) (n : Nat) (l : List Nat) : (emitFrame s p n l).ld = s.ld := by simp [emitFrame]
@[simp] theorem emitFrame_ks (s : State) (p : Bool) (n : Nat) (l : List Nat) : (emitFrame s p n l).ks = s.ks := by simp [emitFrame]
@[simp] theorem emitFrame_bbram (s : State) (p : Bool) (n : Nat) (l : List Nat) : (emitFrame s p n l).bbram = s.bbram := by simp [emitFrame]
@[simp] theorem emitFrame_keys (s : State) (p : Bool) (n : Nat) (l : List Nat) : (emitFrame s p n l).keys = s.keys := by simp [emitFrame]
@[simp] theorem emitFrame_bn (s : State) (p : Bool) (n : Nat) (l : List Nat) : (emitFrame s p n l).bn = s.bn := by simp [emitFrame]
@[simp] theorem emitFrame_cu (s : State) (p : Bool) (n : Nat) (l : List Nat) : (emitFrame s p n l).cu = s.cu := by simp [emitFrame]
@[simp] theorem emitFrame_sl (s : State) (p : Bool) (n : Nat) (l : List Nat) : (emitFrame s p n l).sl = s.sl := by simp [emitFrame]
@[simp] theorem emitFrame_tp (s : State) (p : Bool) (n : Nat) (l : List Nat) : (emitFrame s p n l).tp = s.tp := by simp [emitFrame]
@[simp] theorem emitFrame_lc (s : State) (p : Bool) (n : Nat) (l : List Nat) : (emitFrame s p n l).lc = s.lc := by simp [emitFrame]
@[simp] theorem emitFrame_ns (s : State) (p : Bool) (n : Nat) (l : List Nat) : (emitFrame s p n l).ns = s.ns := by simp [emitFrame]
@[simp] theorem emitFrame_ec (s : State) (p : Bool) (n : Nat) (l : List Nat) : (emitFrame s p n l).ec = s.ec := by simp [emitFrame]
@[simp] theorem emitFrame_ev (s : State) (p : Bool) (n : Nat) (l : List Nat) : (emitFrame s p n l).ev = s.ev := by simp [emitFrame]
@[simp] theorem emitFrame_sb (s : State) (p : Bool) (n : Nat) (l : List Nat) : (emitFrame s p n l).sb = s.sb := by simp [emitFrame]
@[simp] theorem scanPort_fresh (s : State) (p : Bool) (l : List ScanHop) : (scanPort s p l).fresh = s.fresh := by unfold scanPort; split <;> simp
@[simp] theorem scanPort_pwrOk (s : State) (p : Bool) (l : List ScanHop) : (scanPort s p l).pwrOk = s.pwrOk := by unfold scanPort; split <;> simp
@[simp] theorem scanPort_perstN (s : State) (p : Bool) (l : List ScanHop) : (scanPort s p l).perstN = s.perstN := by unfold scanPort; split <;> simp
@[simp] theorem scanPort_starting (s : State) (p : Bool) (l : List ScanHop) : (scanPort s p l).starting = s.starting := by unfold scanPort; split <;> simp
@[simp] theorem scanPort_inReset (s : State) (p : Bool) (l : List ScanHop) : (scanPort s p l).inReset = s.inReset := by unfold scanPort; split <;> simp
@[simp] theorem scanPort_begun (s : State) (p : Bool) (l : List ScanHop) : (scanPort s p l).begun = s.begun := by unfold scanPort; split <;> simp
@[simp] theorem scanPort_startIn (s : State) (p : Bool) (l : List ScanHop) : (scanPort s p l).startIn = s.startIn := by unfold scanPort; split <;> simp
@[simp] theorem scanPort_cause (s : State) (p : Bool) (l : List ScanHop) : (scanPort s p l).cause = s.cause := by unfold scanPort; split <;> simp
@[simp] theorem scanPort_alarmOut (s : State) (p : Bool) (l : List ScanHop) : (scanPort s p l).alarmOut = s.alarmOut := by unfold scanPort; split <;> simp
@[simp] theorem scanPort_mode (s : State) (p : Bool) (l : List ScanHop) : (scanPort s p l).mode = s.mode := by unfold scanPort; split <;> simp
@[simp] theorem scanPort_regs (s : State) (p : Bool) (l : List ScanHop) : (scanPort s p l).regs = s.regs := by unfold scanPort; split <;> simp
@[simp] theorem scanPort_tb (s : State) (p : Bool) (l : List ScanHop) : (scanPort s p l).tb = s.tb := by unfold scanPort; split <;> simp
@[simp] theorem scanPort_pch (s : State) (p : Bool) (l : List ScanHop) : (scanPort s p l).pch = s.pch := by unfold scanPort; split <;> simp
@[simp] theorem scanPort_adm (s : State) (p : Bool) (l : List ScanHop) : (scanPort s p l).adm = s.adm := by unfold scanPort; split <;> simp
@[simp] theorem scanPort_rooms (s : State) (p : Bool) (l : List ScanHop) : (scanPort s p l).rooms = s.rooms := by unfold scanPort; split <;> simp
@[simp] theorem scanPort_ld (s : State) (p : Bool) (l : List ScanHop) : (scanPort s p l).ld = s.ld := by unfold scanPort; split <;> simp
@[simp] theorem scanPort_ks (s : State) (p : Bool) (l : List ScanHop) : (scanPort s p l).ks = s.ks := by unfold scanPort; split <;> simp
@[simp] theorem scanPort_bbram (s : State) (p : Bool) (l : List ScanHop) : (scanPort s p l).bbram = s.bbram := by unfold scanPort; split <;> simp
@[simp] theorem scanPort_keys (s : State) (p : Bool) (l : List ScanHop) : (scanPort s p l).keys = s.keys := by unfold scanPort; split <;> simp
@[simp] theorem scanPort_bn (s : State) (p : Bool) (l : List ScanHop) : (scanPort s p l).bn = s.bn := by unfold scanPort; split <;> simp
@[simp] theorem scanPort_cu (s : State) (p : Bool) (l : List ScanHop) : (scanPort s p l).cu = s.cu := by unfold scanPort; split <;> simp
@[simp] theorem scanPort_sl (s : State) (p : Bool) (l : List ScanHop) : (scanPort s p l).sl = s.sl := by unfold scanPort; split <;> simp
@[simp] theorem scanPort_tp (s : State) (p : Bool) (l : List ScanHop) : (scanPort s p l).tp = s.tp := by unfold scanPort; split <;> simp
@[simp] theorem scanPort_lc (s : State) (p : Bool) (l : List ScanHop) : (scanPort s p l).lc = s.lc := by unfold scanPort; split <;> simp
@[simp] theorem scanPort_ns (s : State) (p : Bool) (l : List ScanHop) : (scanPort s p l).ns = s.ns := by unfold scanPort; split <;> simp
@[simp] theorem scanPort_ec (s : State) (p : Bool) (l : List ScanHop) : (scanPort s p l).ec = s.ec := by unfold scanPort; split <;> simp
@[simp] theorem scanPort_ev (s : State) (p : Bool) (l : List ScanHop) : (scanPort s p l).ev = s.ev := by unfold scanPort; split <;> simp
@[simp] theorem scanPort_sb (s : State) (p : Bool) (l : List ScanHop) : (scanPort s p l).sb = s.sb := by unfold scanPort; split <;> simp
@[simp] theorem sendScan_fresh (s : State) : (sendScan s).fresh = s.fresh := by simp [sendScan]
@[simp] theorem sendScan_pwrOk (s : State) : (sendScan s).pwrOk = s.pwrOk := by simp [sendScan]
@[simp] theorem sendScan_perstN (s : State) : (sendScan s).perstN = s.perstN := by simp [sendScan]
@[simp] theorem sendScan_starting (s : State) : (sendScan s).starting = s.starting := by simp [sendScan]
@[simp] theorem sendScan_inReset (s : State) : (sendScan s).inReset = s.inReset := by simp [sendScan]
@[simp] theorem sendScan_begun (s : State) : (sendScan s).begun = s.begun := by simp [sendScan]
@[simp] theorem sendScan_startIn (s : State) : (sendScan s).startIn = s.startIn := by simp [sendScan]
@[simp] theorem sendScan_cause (s : State) : (sendScan s).cause = s.cause := by simp [sendScan]
@[simp] theorem sendScan_alarmOut (s : State) : (sendScan s).alarmOut = s.alarmOut := by simp [sendScan]
@[simp] theorem sendScan_mode (s : State) : (sendScan s).mode = s.mode := by simp [sendScan]
@[simp] theorem sendScan_regs (s : State) : (sendScan s).regs = s.regs := by simp [sendScan]
@[simp] theorem sendScan_tb (s : State) : (sendScan s).tb = s.tb := by simp [sendScan]
@[simp] theorem sendScan_pch (s : State) : (sendScan s).pch = s.pch := by simp [sendScan]
@[simp] theorem sendScan_adm (s : State) : (sendScan s).adm = s.adm := by simp [sendScan]
@[simp] theorem sendScan_rooms (s : State) : (sendScan s).rooms = s.rooms := by simp [sendScan]
@[simp] theorem sendScan_ld (s : State) : (sendScan s).ld = s.ld := by simp [sendScan]
@[simp] theorem sendScan_ks (s : State) : (sendScan s).ks = s.ks := by simp [sendScan]
@[simp] theorem sendScan_bbram (s : State) : (sendScan s).bbram = s.bbram := by simp [sendScan]
@[simp] theorem sendScan_keys (s : State) : (sendScan s).keys = s.keys := by simp [sendScan]
@[simp] theorem sendScan_bn (s : State) : (sendScan s).bn = s.bn := by simp [sendScan]
@[simp] theorem sendScan_cu (s : State) : (sendScan s).cu = s.cu := by simp [sendScan]
@[simp] theorem sendScan_sl (s : State) : (sendScan s).sl = s.sl := by simp [sendScan]
@[simp] theorem sendScan_tp (s : State) : (sendScan s).tp = s.tp := by simp [sendScan]
@[simp] theorem sendScan_lc (s : State) : (sendScan s).lc = s.lc := by simp [sendScan]
@[simp] theorem sendScan_ns (s : State) : (sendScan s).ns = s.ns := by simp [sendScan]
@[simp] theorem sendScan_ec (s : State) : (sendScan s).ec = s.ec := by simp [sendScan]
@[simp] theorem sendScan_ev (s : State) : (sendScan s).ev = s.ev := by simp [sendScan]
@[simp] theorem sendScan_sb (s : State) : (sendScan s).sb = s.sb := by simp [sendScan]
@[simp] theorem sendCtl_fresh (s : State) (p : Bool) (n q : Nat) : (sendCtl s p n q).fresh = s.fresh := by simp [sendCtl]
@[simp] theorem sendCtl_pwrOk (s : State) (p : Bool) (n q : Nat) : (sendCtl s p n q).pwrOk = s.pwrOk := by simp [sendCtl]
@[simp] theorem sendCtl_perstN (s : State) (p : Bool) (n q : Nat) : (sendCtl s p n q).perstN = s.perstN := by simp [sendCtl]
@[simp] theorem sendCtl_starting (s : State) (p : Bool) (n q : Nat) : (sendCtl s p n q).starting = s.starting := by simp [sendCtl]
@[simp] theorem sendCtl_inReset (s : State) (p : Bool) (n q : Nat) : (sendCtl s p n q).inReset = s.inReset := by simp [sendCtl]
@[simp] theorem sendCtl_begun (s : State) (p : Bool) (n q : Nat) : (sendCtl s p n q).begun = s.begun := by simp [sendCtl]
@[simp] theorem sendCtl_startIn (s : State) (p : Bool) (n q : Nat) : (sendCtl s p n q).startIn = s.startIn := by simp [sendCtl]
@[simp] theorem sendCtl_cause (s : State) (p : Bool) (n q : Nat) : (sendCtl s p n q).cause = s.cause := by simp [sendCtl]
@[simp] theorem sendCtl_alarmOut (s : State) (p : Bool) (n q : Nat) : (sendCtl s p n q).alarmOut = s.alarmOut := by simp [sendCtl]
@[simp] theorem sendCtl_mode (s : State) (p : Bool) (n q : Nat) : (sendCtl s p n q).mode = s.mode := by simp [sendCtl]
@[simp] theorem sendCtl_regs (s : State) (p : Bool) (n q : Nat) : (sendCtl s p n q).regs = s.regs := by simp [sendCtl]
@[simp] theorem sendCtl_tb (s : State) (p : Bool) (n q : Nat) : (sendCtl s p n q).tb = s.tb := by simp [sendCtl]
@[simp] theorem sendCtl_pch (s : State) (p : Bool) (n q : Nat) : (sendCtl s p n q).pch = s.pch := by simp [sendCtl]
@[simp] theorem sendCtl_adm (s : State) (p : Bool) (n q : Nat) : (sendCtl s p n q).adm = s.adm := by simp [sendCtl]
@[simp] theorem sendCtl_rooms (s : State) (p : Bool) (n q : Nat) : (sendCtl s p n q).rooms = s.rooms := by simp [sendCtl]
@[simp] theorem sendCtl_ld (s : State) (p : Bool) (n q : Nat) : (sendCtl s p n q).ld = s.ld := by simp [sendCtl]
@[simp] theorem sendCtl_ks (s : State) (p : Bool) (n q : Nat) : (sendCtl s p n q).ks = s.ks := by simp [sendCtl]
@[simp] theorem sendCtl_bbram (s : State) (p : Bool) (n q : Nat) : (sendCtl s p n q).bbram = s.bbram := by simp [sendCtl]
@[simp] theorem sendCtl_keys (s : State) (p : Bool) (n q : Nat) : (sendCtl s p n q).keys = s.keys := by simp [sendCtl]
@[simp] theorem sendCtl_bn (s : State) (p : Bool) (n q : Nat) : (sendCtl s p n q).bn = s.bn := by simp [sendCtl]
@[simp] theorem sendCtl_cu (s : State) (p : Bool) (n q : Nat) : (sendCtl s p n q).cu = s.cu := by simp [sendCtl]
@[simp] theorem sendCtl_sl (s : State) (p : Bool) (n q : Nat) : (sendCtl s p n q).sl = s.sl := by simp [sendCtl]
@[simp] theorem sendCtl_tp (s : State) (p : Bool) (n q : Nat) : (sendCtl s p n q).tp = s.tp := by simp [sendCtl]
@[simp] theorem sendCtl_lc (s : State) (p : Bool) (n q : Nat) : (sendCtl s p n q).lc = s.lc := by simp [sendCtl]
@[simp] theorem sendCtl_ns (s : State) (p : Bool) (n q : Nat) : (sendCtl s p n q).ns = s.ns := by simp [sendCtl]
@[simp] theorem sendCtl_ec (s : State) (p : Bool) (n q : Nat) : (sendCtl s p n q).ec = s.ec := by simp [sendCtl]
@[simp] theorem sendCtl_ev (s : State) (p : Bool) (n q : Nat) : (sendCtl s p n q).ev = s.ev := by simp [sendCtl]
@[simp] theorem sendCtl_sb (s : State) (p : Bool) (n q : Nat) : (sendCtl s p n q).sb = s.sb := by simp [sendCtl]
@[simp] theorem enterDoze_fresh (s : State) (p : Bool) : (enterDoze s p).fresh = s.fresh := by unfold enterDoze; dsimp only; split <;> simp
@[simp] theorem enterDoze_pwrOk (s : State) (p : Bool) : (enterDoze s p).pwrOk = s.pwrOk := by unfold enterDoze; dsimp only; split <;> simp
@[simp] theorem enterDoze_perstN (s : State) (p : Bool) : (enterDoze s p).perstN = s.perstN := by unfold enterDoze; dsimp only; split <;> simp
@[simp] theorem enterDoze_starting (s : State) (p : Bool) : (enterDoze s p).starting = s.starting := by unfold enterDoze; dsimp only; split <;> simp
@[simp] theorem enterDoze_inReset (s : State) (p : Bool) : (enterDoze s p).inReset = s.inReset := by unfold enterDoze; dsimp only; split <;> simp
@[simp] theorem enterDoze_begun (s : State) (p : Bool) : (enterDoze s p).begun = s.begun := by unfold enterDoze; dsimp only; split <;> simp
@[simp] theorem enterDoze_startIn (s : State) (p : Bool) : (enterDoze s p).startIn = s.startIn := by unfold enterDoze; dsimp only; split <;> simp
@[simp] theorem enterDoze_cause (s : State) (p : Bool) : (enterDoze s p).cause = s.cause := by unfold enterDoze; dsimp only; split <;> simp
@[simp] theorem enterDoze_alarmOut (s : State) (p : Bool) : (enterDoze s p).alarmOut = s.alarmOut := by unfold enterDoze; dsimp only; split <;> simp
@[simp] theorem enterDoze_mode (s : State) (p : Bool) : (enterDoze s p).mode = s.mode := by unfold enterDoze; dsimp only; split <;> simp
@[simp] theorem enterDoze_tb (s : State) (p : Bool) : (enterDoze s p).tb = s.tb := by unfold enterDoze; dsimp only; split <;> simp
@[simp] theorem enterDoze_adm (s : State) (p : Bool) : (enterDoze s p).adm = s.adm := by unfold enterDoze; dsimp only; split <;> simp
@[simp] theorem enterDoze_rooms (s : State) (p : Bool) : (enterDoze s p).rooms = s.rooms := by unfold enterDoze; dsimp only; split <;> simp
@[simp] theorem enterDoze_ld (s : State) (p : Bool) : (enterDoze s p).ld = s.ld := by unfold enterDoze; dsimp only; split <;> simp
@[simp] theorem enterDoze_ks (s : State) (p : Bool) : (enterDoze s p).ks = s.ks := by unfold enterDoze; dsimp only; split <;> simp
@[simp] theorem enterDoze_bbram (s : State) (p : Bool) : (enterDoze s p).bbram = s.bbram := by unfold enterDoze; dsimp only; split <;> simp
@[simp] theorem enterDoze_keys (s : State) (p : Bool) : (enterDoze s p).keys = s.keys := by unfold enterDoze; dsimp only; split <;> simp
@[simp] theorem enterDoze_bn (s : State) (p : Bool) : (enterDoze s p).bn = s.bn := by unfold enterDoze; dsimp only; split <;> simp
@[simp] theorem enterDoze_cu (s : State) (p : Bool) : (enterDoze s p).cu = s.cu := by unfold enterDoze; dsimp only; split <;> simp
@[simp] theorem enterDoze_sl (s : State) (p : Bool) : (enterDoze s p).sl = s.sl := by unfold enterDoze; dsimp only; split <;> simp
@[simp] theorem enterDoze_tp (s : State) (p : Bool) : (enterDoze s p).tp = s.tp := by unfold enterDoze; dsimp only; split <;> simp
@[simp] theorem enterDoze_lc (s : State) (p : Bool) : (enterDoze s p).lc = s.lc := by unfold enterDoze; dsimp only; split <;> simp
@[simp] theorem enterDoze_ns (s : State) (p : Bool) : (enterDoze s p).ns = s.ns := by unfold enterDoze; dsimp only; split <;> simp
@[simp] theorem enterDoze_ec (s : State) (p : Bool) : (enterDoze s p).ec = s.ec := by unfold enterDoze; dsimp only; split <;> simp
@[simp] theorem enterDoze_sb (s : State) (p : Bool) : (enterDoze s p).sb = s.sb := by unfold enterDoze; dsimp only; split <;> simp
@[simp] theorem tick_fresh (s : State) : (tick s).fresh = s.fresh := by unfold tick; dsimp only; (repeat' split) <;> simp
@[simp] theorem tick_pwrOk (s : State) : (tick s).pwrOk = s.pwrOk := by unfold tick; dsimp only; (repeat' split) <;> simp
@[simp] theorem tick_perstN (s : State) : (tick s).perstN = s.perstN := by unfold tick; dsimp only; (repeat' split) <;> simp
@[simp] theorem tick_starting (s : State) : (tick s).starting = s.starting := by unfold tick; dsimp only; (repeat' split) <;> simp
@[simp] theorem tick_inReset (s : State) : (tick s).inReset = s.inReset := by unfold tick; dsimp only; (repeat' split) <;> simp
@[simp] theorem tick_begun (s : State) : (tick s).begun = s.begun := by unfold tick; dsimp only; (repeat' split) <;> simp
@[simp] theorem tick_startIn (s : State) : (tick s).startIn = s.startIn := by unfold tick; dsimp only; (repeat' split) <;> simp
@[simp] theorem tick_cause (s : State) : (tick s).cause = s.cause := by unfold tick; dsimp only; (repeat' split) <;> simp
@[simp] theorem tick_alarmOut (s : State) : (tick s).alarmOut = s.alarmOut := by unfold tick; dsimp only; (repeat' split) <;> simp
@[simp] theorem tick_mode (s : State) : (tick s).mode = s.mode := by unfold tick; dsimp only; (repeat' split) <;> simp
@[simp] theorem tick_pch (s : State) : (tick s).pch = s.pch := by unfold tick; dsimp only; (repeat' split) <;> simp
@[simp] theorem tick_adm (s : State) : (tick s).adm = s.adm := by unfold tick; dsimp only; (repeat' split) <;> simp
@[simp] theorem tick_rooms (s : State) : (tick s).rooms = s.rooms := by unfold tick; dsimp only; (repeat' split) <;> simp
@[simp] theorem tick_ld (s : State) : (tick s).ld = s.ld := by unfold tick; dsimp only; (repeat' split) <;> simp
@[simp] theorem tick_ks (s : State) : (tick s).ks = s.ks := by unfold tick; dsimp only; (repeat' split) <;> simp
@[simp] theorem tick_bbram (s : State) : (tick s).bbram = s.bbram := by unfold tick; dsimp only; (repeat' split) <;> simp
@[simp] theorem tick_keys (s : State) : (tick s).keys = s.keys := by unfold tick; dsimp only; (repeat' split) <;> simp
@[simp] theorem tick_bn (s : State) : (tick s).bn = s.bn := by unfold tick; dsimp only; (repeat' split) <;> simp
@[simp] theorem tick_cu (s : State) : (tick s).cu = s.cu := by unfold tick; dsimp only; (repeat' split) <;> simp
@[simp] theorem tick_sl (s : State) : (tick s).sl = s.sl := by unfold tick; dsimp only; (repeat' split) <;> simp
@[simp] theorem tick_tp (s : State) : (tick s).tp = s.tp := by unfold tick; dsimp only; (repeat' split) <;> simp
@[simp] theorem tick_lc (s : State) : (tick s).lc = s.lc := by unfold tick; dsimp only; (repeat' split) <;> simp
@[simp] theorem tick_ns (s : State) : (tick s).ns = s.ns := by unfold tick; dsimp only; (repeat' split) <;> simp
@[simp] theorem tick_ec (s : State) : (tick s).ec = s.ec := by unfold tick; dsimp only; (repeat' split) <;> simp
@[simp] theorem tick_sb (s : State) : (tick s).sb = s.sb := by unfold tick; dsimp only; (repeat' split) <;> simp
@[simp] theorem tick_regs (s : State) : (tick s).regs = s.regs := by unfold tick; dsimp only; (repeat' split) <;> simp
@[simp] theorem tick_ev (s : State) : (tick s).ev = s.ev := by unfold tick; dsimp only; (repeat' split) <;> simp
@[simp] theorem tick_out (s : State) : (tick s).out = s.out := by unfold tick; dsimp only; (repeat' split) <;> simp
@[simp] theorem tick_st (s : State) : (tick s).st = s.st := by unfold tick; dsimp only; (repeat' split) <;> simp
@[simp] theorem setHsrc_fresh (s : State) (r : Nat) (v : Hsrc) : (setHsrc s r v).fresh = s.fresh := by simp [setHsrc]
@[simp] theorem setHsrc_out (s : State) (r : Nat) (v : Hsrc) : (setHsrc s r v).out = s.out := by simp [setHsrc]
@[simp] theorem setHsrc_pwrOk (s : State) (r : Nat) (v : Hsrc) : (setHsrc s r v).pwrOk = s.pwrOk := by simp [setHsrc]
@[simp] theorem setHsrc_perstN (s : State) (r : Nat) (v : Hsrc) : (setHsrc s r v).perstN = s.perstN := by simp [setHsrc]
@[simp] theorem setHsrc_starting (s : State) (r : Nat) (v : Hsrc) : (setHsrc s r v).starting = s.starting := by simp [setHsrc]
@[simp] theorem setHsrc_inReset (s : State) (r : Nat) (v : Hsrc) : (setHsrc s r v).inReset = s.inReset := by simp [setHsrc]
@[simp] theorem setHsrc_begun (s : State) (r : Nat) (v : Hsrc) : (setHsrc s r v).begun = s.begun := by simp [setHsrc]
@[simp] theorem setHsrc_startIn (s : State) (r : Nat) (v : Hsrc) : (setHsrc s r v).startIn = s.startIn := by simp [setHsrc]
@[simp] theorem setHsrc_cause (s : State) (r : Nat) (v : Hsrc) : (setHsrc s r v).cause = s.cause := by simp [setHsrc]
@[simp] theorem setHsrc_alarmOut (s : State) (r : Nat) (v : Hsrc) : (setHsrc s r v).alarmOut = s.alarmOut := by simp [setHsrc]
@[simp] theorem setHsrc_mode (s : State) (r : Nat) (v : Hsrc) : (setHsrc s r v).mode = s.mode := by simp [setHsrc]
@[simp] theorem setHsrc_regs (s : State) (r : Nat) (v : Hsrc) : (setHsrc s r v).regs = s.regs := by simp [setHsrc]
@[simp] theorem setHsrc_tb (s : State) (r : Nat) (v : Hsrc) : (setHsrc s r v).tb = s.tb := by simp [setHsrc]
@[simp] theorem setHsrc_pch (s : State) (r : Nat) (v : Hsrc) : (setHsrc s r v).pch = s.pch := by simp [setHsrc]
@[simp] theorem setHsrc_adm (s : State) (r : Nat) (v : Hsrc) : (setHsrc s r v).adm = s.adm := by simp [setHsrc]
@[simp] theorem setHsrc_rooms (s : State) (r : Nat) (v : Hsrc) : (setHsrc s r v).rooms = s.rooms := by simp [setHsrc]
@[simp] theorem setHsrc_ld (s : State) (r : Nat) (v : Hsrc) : (setHsrc s r v).ld = s.ld := by simp [setHsrc]
@[simp] theorem setHsrc_ks (s : State) (r : Nat) (v : Hsrc) : (setHsrc s r v).ks = s.ks := by simp [setHsrc]
@[simp] theorem setHsrc_bbram (s : State) (r : Nat) (v : Hsrc) : (setHsrc s r v).bbram = s.bbram := by simp [setHsrc]
@[simp] theorem setHsrc_keys (s : State) (r : Nat) (v : Hsrc) : (setHsrc s r v).keys = s.keys := by simp [setHsrc]
@[simp] theorem setHsrc_bn (s : State) (r : Nat) (v : Hsrc) : (setHsrc s r v).bn = s.bn := by simp [setHsrc]
@[simp] theorem setHsrc_cu (s : State) (r : Nat) (v : Hsrc) : (setHsrc s r v).cu = s.cu := by simp [setHsrc]
@[simp] theorem setHsrc_st (s : State) (r : Nat) (v : Hsrc) : (setHsrc s r v).st = s.st := by simp [setHsrc]
@[simp] theorem setHsrc_sl (s : State) (r : Nat) (v : Hsrc) : (setHsrc s r v).sl = s.sl := by simp [setHsrc]
@[simp] theorem setHsrc_tp (s : State) (r : Nat) (v : Hsrc) : (setHsrc s r v).tp = s.tp := by simp [setHsrc]
@[simp] theorem setHsrc_lc (s : State) (r : Nat) (v : Hsrc) : (setHsrc s r v).lc = s.lc := by simp [setHsrc]
@[simp] theorem setHsrc_ec (s : State) (r : Nat) (v : Hsrc) : (setHsrc s r v).ec = s.ec := by simp [setHsrc]
@[simp] theorem setHsrc_ev (s : State) (r : Nat) (v : Hsrc) : (setHsrc s r v).ev = s.ev := by simp [setHsrc]
@[simp] theorem setHsrc_sb (s : State) (r : Nat) (v : Hsrc) : (setHsrc s r v).sb = s.sb := by simp [setHsrc]
@[simp] theorem setTsrc_fresh (s : State) (n : Nat) (v : Source) : (setTsrc s n v).fresh = s.fresh := by simp [setTsrc]
@[simp] theorem setTsrc_out (s : State) (n : Nat) (v : Source) : (setTsrc s n v).out = s.out := by simp [setTsrc]
@[simp] theorem setTsrc_pwrOk (s : State) (n : Nat) (v : Source) : (setTsrc s n v).pwrOk = s.pwrOk := by simp [setTsrc]
@[simp] theorem setTsrc_perstN (s : State) (n : Nat) (v : Source) : (setTsrc s n v).perstN = s.perstN := by simp [setTsrc]
@[simp] theorem setTsrc_starting (s : State) (n : Nat) (v : Source) : (setTsrc s n v).starting = s.starting := by simp [setTsrc]
@[simp] theorem setTsrc_inReset (s : State) (n : Nat) (v : Source) : (setTsrc s n v).inReset = s.inReset := by simp [setTsrc]
@[simp] theorem setTsrc_begun (s : State) (n : Nat) (v : Source) : (setTsrc s n v).begun = s.begun := by simp [setTsrc]
@[simp] theorem setTsrc_startIn (s : State) (n : Nat) (v : Source) : (setTsrc s n v).startIn = s.startIn := by simp [setTsrc]
@[simp] theorem setTsrc_cause (s : State) (n : Nat) (v : Source) : (setTsrc s n v).cause = s.cause := by simp [setTsrc]
@[simp] theorem setTsrc_alarmOut (s : State) (n : Nat) (v : Source) : (setTsrc s n v).alarmOut = s.alarmOut := by simp [setTsrc]
@[simp] theorem setTsrc_mode (s : State) (n : Nat) (v : Source) : (setTsrc s n v).mode = s.mode := by simp [setTsrc]
@[simp] theorem setTsrc_regs (s : State) (n : Nat) (v : Source) : (setTsrc s n v).regs = s.regs := by simp [setTsrc]
@[simp] theorem setTsrc_tb (s : State) (n : Nat) (v : Source) : (setTsrc s n v).tb = s.tb := by simp [setTsrc]
@[simp] theorem setTsrc_pch (s : State) (n : Nat) (v : Source) : (setTsrc s n v).pch = s.pch := by simp [setTsrc]
@[simp] theorem setTsrc_adm (s : State) (n : Nat) (v : Source) : (setTsrc s n v).adm = s.adm := by simp [setTsrc]
@[simp] theorem setTsrc_rooms (s : State) (n : Nat) (v : Source) : (setTsrc s n v).rooms = s.rooms := by simp [setTsrc]
@[simp] theorem setTsrc_ld (s : State) (n : Nat) (v : Source) : (setTsrc s n v).ld = s.ld := by simp [setTsrc]
@[simp] theorem setTsrc_ks (s : State) (n : Nat) (v : Source) : (setTsrc s n v).ks = s.ks := by simp [setTsrc]
@[simp] theorem setTsrc_bbram (s : State) (n : Nat) (v : Source) : (setTsrc s n v).bbram = s.bbram := by simp [setTsrc]
@[simp] theorem setTsrc_keys (s : State) (n : Nat) (v : Source) : (setTsrc s n v).keys = s.keys := by simp [setTsrc]
@[simp] theorem setTsrc_bn (s : State) (n : Nat) (v : Source) : (setTsrc s n v).bn = s.bn := by simp [setTsrc]
@[simp] theorem setTsrc_cu (s : State) (n : Nat) (v : Source) : (setTsrc s n v).cu = s.cu := by simp [setTsrc]
@[simp] theorem setTsrc_st (s : State) (n : Nat) (v : Source) : (setTsrc s n v).st = s.st := by simp [setTsrc]
@[simp] theorem setTsrc_sl (s : State) (n : Nat) (v : Source) : (setTsrc s n v).sl = s.sl := by simp [setTsrc]
@[simp] theorem setTsrc_lc (s : State) (n : Nat) (v : Source) : (setTsrc s n v).lc = s.lc := by simp [setTsrc]
@[simp] theorem setTsrc_ns (s : State) (n : Nat) (v : Source) : (setTsrc s n v).ns = s.ns := by simp [setTsrc]
@[simp] theorem setTsrc_ec (s : State) (n : Nat) (v : Source) : (setTsrc s n v).ec = s.ec := by simp [setTsrc]
@[simp] theorem setTsrc_ev (s : State) (n : Nat) (v : Source) : (setTsrc s n v).ev = s.ev := by simp [setTsrc]
@[simp] theorem setTsrc_sb (s : State) (n : Nat) (v : Source) : (setTsrc s n v).sb = s.sb := by simp [setTsrc]
@[simp] theorem setRoster_fresh (s : State) (m : Nat) (e : RosterEntry) : (setRoster s m e).fresh = s.fresh := by simp [setRoster]
@[simp] theorem setRoster_out (s : State) (m : Nat) (e : RosterEntry) : (setRoster s m e).out = s.out := by simp [setRoster]
@[simp] theorem setRoster_pwrOk (s : State) (m : Nat) (e : RosterEntry) : (setRoster s m e).pwrOk = s.pwrOk := by simp [setRoster]
@[simp] theorem setRoster_perstN (s : State) (m : Nat) (e : RosterEntry) : (setRoster s m e).perstN = s.perstN := by simp [setRoster]
@[simp] theorem setRoster_starting (s : State) (m : Nat) (e : RosterEntry) : (setRoster s m e).starting = s.starting := by simp [setRoster]
@[simp] theorem setRoster_inReset (s : State) (m : Nat) (e : RosterEntry) : (setRoster s m e).inReset = s.inReset := by simp [setRoster]
@[simp] theorem setRoster_begun (s : State) (m : Nat) (e : RosterEntry) : (setRoster s m e).begun = s.begun := by simp [setRoster]
@[simp] theorem setRoster_startIn (s : State) (m : Nat) (e : RosterEntry) : (setRoster s m e).startIn = s.startIn := by simp [setRoster]
@[simp] theorem setRoster_cause (s : State) (m : Nat) (e : RosterEntry) : (setRoster s m e).cause = s.cause := by simp [setRoster]
@[simp] theorem setRoster_alarmOut (s : State) (m : Nat) (e : RosterEntry) : (setRoster s m e).alarmOut = s.alarmOut := by simp [setRoster]
@[simp] theorem setRoster_mode (s : State) (m : Nat) (e : RosterEntry) : (setRoster s m e).mode = s.mode := by simp [setRoster]
@[simp] theorem setRoster_regs (s : State) (m : Nat) (e : RosterEntry) : (setRoster s m e).regs = s.regs := by simp [setRoster]
@[simp] theorem setRoster_tb (s : State) (m : Nat) (e : RosterEntry) : (setRoster s m e).tb = s.tb := by simp [setRoster]
@[simp] theorem setRoster_pch (s : State) (m : Nat) (e : RosterEntry) : (setRoster s m e).pch = s.pch := by simp [setRoster]
@[simp] theorem setRoster_adm (s : State) (m : Nat) (e : RosterEntry) : (setRoster s m e).adm = s.adm := by simp [setRoster]
@[simp] theorem setRoster_rooms (s : State) (m : Nat) (e : RosterEntry) : (setRoster s m e).rooms = s.rooms := by simp [setRoster]
@[simp] theorem setRoster_ld (s : State) (m : Nat) (e : RosterEntry) : (setRoster s m e).ld = s.ld := by simp [setRoster]
@[simp] theorem setRoster_ks (s : State) (m : Nat) (e : RosterEntry) : (setRoster s m e).ks = s.ks := by simp [setRoster]
@[simp] theorem setRoster_bbram (s : State) (m : Nat) (e : RosterEntry) : (setRoster s m e).bbram = s.bbram := by simp [setRoster]
@[simp] theorem setRoster_keys (s : State) (m : Nat) (e : RosterEntry) : (setRoster s m e).keys = s.keys := by simp [setRoster]
@[simp] theorem setRoster_bn (s : State) (m : Nat) (e : RosterEntry) : (setRoster s m e).bn = s.bn := by simp [setRoster]
@[simp] theorem setRoster_st (s : State) (m : Nat) (e : RosterEntry) : (setRoster s m e).st = s.st := by simp [setRoster]
@[simp] theorem setRoster_sl (s : State) (m : Nat) (e : RosterEntry) : (setRoster s m e).sl = s.sl := by simp [setRoster]
@[simp] theorem setRoster_tp (s : State) (m : Nat) (e : RosterEntry) : (setRoster s m e).tp = s.tp := by simp [setRoster]
@[simp] theorem setRoster_lc (s : State) (m : Nat) (e : RosterEntry) : (setRoster s m e).lc = s.lc := by simp [setRoster]
@[simp] theorem setRoster_ns (s : State) (m : Nat) (e : RosterEntry) : (setRoster s m e).ns = s.ns := by simp [setRoster]
@[simp] theorem setRoster_ec (s : State) (m : Nat) (e : RosterEntry) : (setRoster s m e).ec = s.ec := by simp [setRoster]
@[simp] theorem setRoster_ev (s : State) (m : Nat) (e : RosterEntry) : (setRoster s m e).ev = s.ev := by simp [setRoster]
@[simp] theorem setRoster_sb (s : State) (m : Nat) (e : RosterEntry) : (setRoster s m e).sb = s.sb := by simp [setRoster]
@[simp] theorem beginStart_fresh (s : State) (c : Nat) : (beginStart s c).fresh = s.fresh := by simp [beginStart]
@[simp] theorem beginStart_out (s : State) (c : Nat) : (beginStart s c).out = s.out := by simp [beginStart]
@[simp] theorem beginStart_pwrOk (s : State) (c : Nat) : (beginStart s c).pwrOk = s.pwrOk := by simp [beginStart]
@[simp] theorem beginStart_perstN (s : State) (c : Nat) : (beginStart s c).perstN = s.perstN := by simp [beginStart]
@[simp] theorem beginStart_begun (s : State) (c : Nat) : (beginStart s c).begun = s.begun := by simp [beginStart]
@[simp] theorem beginStart_startIn (s : State) (c : Nat) : (beginStart s c).startIn = s.startIn := by simp [beginStart]
@[simp] theorem beginStart_alarmOut (s : State) (c : Nat) : (beginStart s c).alarmOut = s.alarmOut := by simp [beginStart]
@[simp] theorem beginStart_mode (s : State) (c : Nat) : (beginStart s c).mode = s.mode := by simp [beginStart]
@[simp] theorem beginStart_regs (s : State) (c : Nat) : (beginStart s c).regs = s.regs := by simp [beginStart]
@[simp] theorem beginStart_tb (s : State) (c : Nat) : (beginStart s c).tb = s.tb := by simp [beginStart]
@[simp] theorem beginStart_pch (s : State) (c : Nat) : (beginStart s c).pch = s.pch := by simp [beginStart]
@[simp] theorem beginStart_adm (s : State) (c : Nat) : (beginStart s c).adm = s.adm := by simp [beginStart]
@[simp] theorem beginStart_rooms (s : State) (c : Nat) : (beginStart s c).rooms = s.rooms := by simp [beginStart]
@[simp] theorem beginStart_ld (s : State) (c : Nat) : (beginStart s c).ld = s.ld := by simp [beginStart]
@[simp] theorem beginStart_ks (s : State) (c : Nat) : (beginStart s c).ks = s.ks := by simp [beginStart]
@[simp] theorem beginStart_bbram (s : State) (c : Nat) : (beginStart s c).bbram = s.bbram := by simp [beginStart]
@[simp] theorem beginStart_keys (s : State) (c : Nat) : (beginStart s c).keys = s.keys := by simp [beginStart]
@[simp] theorem beginStart_bn (s : State) (c : Nat) : (beginStart s c).bn = s.bn := by simp [beginStart]
@[simp] theorem beginStart_cu (s : State) (c : Nat) : (beginStart s c).cu = s.cu := by simp [beginStart]
@[simp] theorem beginStart_st (s : State) (c : Nat) : (beginStart s c).st = s.st := by simp [beginStart]
@[simp] theorem beginStart_sl (s : State) (c : Nat) : (beginStart s c).sl = s.sl := by simp [beginStart]
@[simp] theorem beginStart_tp (s : State) (c : Nat) : (beginStart s c).tp = s.tp := by simp [beginStart]
@[simp] theorem beginStart_lc (s : State) (c : Nat) : (beginStart s c).lc = s.lc := by simp [beginStart]
@[simp] theorem beginStart_ns (s : State) (c : Nat) : (beginStart s c).ns = s.ns := by simp [beginStart]
@[simp] theorem beginStart_ec (s : State) (c : Nat) : (beginStart s c).ec = s.ec := by simp [beginStart]
@[simp] theorem beginStart_ev (s : State) (c : Nat) : (beginStart s c).ev = s.ev := by simp [beginStart]
@[simp] theorem beginStart_sb (s : State) (c : Nat) : (beginStart s c).sb = s.sb := by simp [beginStart]

/-! ## The changed field itself -/

@[simp] theorem setMode_mode (s : State) (f : Mode → Mode) : (setMode s f).mode = f s.mode := by
  unfold setMode
  extract_lets w0 m w1 s1
  have e : s1.mode = f s.mode := rfl
  by_cases hc : w0 = w1
  · rw [if_pos hc]
  · rw [if_neg hc, sendMsix_mode, foldl_same (modeField_mode w0 w1), e]
@[simp] theorem withCu_cu (s : State) (f : Cu → Cu) : (withCu s f).cu = f s.cu := rfl
@[simp] theorem withEv_ev (s : State) (f : Ev → Ev) : (withEv s f).ev = f s.ev := rfl
@[simp] theorem withLc_lc (s : State) (f : Lc → Lc) : (withLc s f).lc = f s.lc := rfl
@[simp] theorem withTp_tp (s : State) (f : Tp → Tp) : (withTp s f).tp = f s.tp := rfl
@[simp] theorem withBb_bbram (s : State) (f : Bbram → Bbram) : (withBb s f).bbram = f s.bbram := rfl
@[simp] theorem withEc_ec (s : State) (f : Ec → Ec) : (withEc s f).ec = f s.ec := rfl
@[simp] theorem order_setOrder (s : State) (o : Nat) (v : Order) : order? (setOrder s o v) o = some v := by
  simp [order?, setOrder]

end Machine
end Sys2Proof
end

