-- ==== Sys2Proof/Tests/Slice0.lean ====
section
/-! SUPPORT. Small tests: ill-formed commands that the checks refuse, and for every statement of Obligations.lean states and
operands that meet its hypotheses together, with one step of the block where that says more. Expected values come from the
rules of spec/ that the statements name. -/

namespace Sys2Proof
namespace Tests

set_option linter.unusedVariables false
set_option Elab.async false
open Sys2Proof.Machine

/-! ## Helpers -/

/-- The outcome is a next state that satisfies p. -/
def nextHas (r : Result) (p : State → Bool) : Bool :=
  match r with
  | .next t => p t
  | _ => false

/-- The outcome is the refusal of a form that the loader refuses. -/
def refusedForm (r : Result) : Bool :=
  match r with
  | .refused .refusedByLoader => true
  | _ => false

/-- Power on, out of reset, no start in progress; life-cycle state BLANK, time FREE. -/
def upState : State := { State.reset with pwrOk := true, perstN := true, inReset := false }

/-- The same in a given mode. -/
def inMode (m : Mode) : State := { upState with mode := m }

/-- READY in PRODUCTION with time LOCKED. -/
def readyMode : Mode := { valid := true, ready := true, time := .locked, lc := .production }
def readyState : State := inMode readyMode

/-- Some order that engine 0 of room 0 runs in frame 0, of supervisor code, with a big-number operation. -/
def runOrder : Order := { phase := .running 0 false, hdr := { supv := true, bnLen := 1000, constLen := 65536 }, bnEng := some 0 }

/-- Engine 0 with given registers and doorframes runs an order in frame 0. -/
def runWith (v : Order) (g : Engine) : State :=
  { readyState with adm := { orders := [(0, v)] }, rooms := { engines := [(0, { g with order := some 0 })], frames := [(0, 0)] } }
def runCore (c : Core) : State := runWith runOrder { core := c }

/-- A held ticket of an operation with arguments, of the card numbered k. -/
def ticketOf (op args k kind : Nat) : Held :=
  { raw := BitVec.ofNat 2176 (op * 2 ^ 48 + k * 2 ^ 320 + args * 2 ^ 768), digest := BitVec.ofNat 256 k, isLocal := true, index := 64,
    kind := kind, lapse := none }

/-- A state that holds a pair of tickets of an operation. -/
def withPair (s : State) (op args : Nat) : State :=
  { s with sl := { s.sl with held := [ticketOf op args 1 (if op = 1 then 0xFF else 0), ticketOf op args 2 (if op = 1 then 0xFF else 1)] } }

/-! ## Well-formed commands: each check refuses a term -/

theorem test_wf_register_offset : instrWf (.registerWrite (2 ^ 24) 8 0) = false := by decide
theorem test_wf_register_size : instrWf (.registerWrite 0 9 0) = false := by decide
theorem test_wf_register_good : instrWf (.registerWrite 0x38 8 0x5A5A) = true := by decide
theorem test_wf_link_speed : instrWf (.linkUp 4 0) = false := by decide
theorem test_wf_batch : instrWf (.sqBatchFetch 0 0 (List.replicate 33 .failed)) = false := by decide
theorem test_wf_shi : instrWf (.shi 0 1 2 0x0100) = false := by decide
theorem test_wf_quads : instrWf (.bmov 0 4 1 true) = false ∧ instrWf (.bxor 0 4 8 2 true) = false ∧ instrWf (.band 0 1 4 8 true) = false
    ∧ instrWf (.bzero 0 3 true) = false ∧ instrWf (.brev 0 4 9 true) = false ∧ instrWf (.bseal 0 4 6 true) = false := by decide
theorem test_wf_aes_quads : instrWf (.aesE 0 1 4 (.reg 0) false true) = false ∧ instrWf (.aesD 0 4 1 (.pair 0) false true) = false
    ∧ instrWf (.bctr4 0 2 0) = false := by decide
theorem test_wf_branches : instrWf (.beq 0 1 2 0) = false ∧ instrWf (.bne 0 1 2 0) = false ∧ instrWf (.blt 0 1 2 0) = false
    ∧ instrWf (.bge 0 1 2 0) = false ∧ instrWf (.bltu 0 1 2 0) = false ∧ instrWf (.bgeu 0 1 2 0) = false := by decide
theorem test_wf_roster_sync (h : EnvHdr) (e : RosterEntry) : instrWf (.rosterSync h (2 ^ 18) []) = false
    ∧ instrWf (.rosterSync h 0 (List.replicate 97 e)) = false := by simp [instrWf]

/-! ## The queue, the beat, the reset -/

theorem test_step_front : nextHas (step { upState with pending := [.linkDown] }) (fun t => t.pending == []) = true := by decide +kernel
theorem test_beat_counts : nextHas (step { upState with tb := { running := true } }) (fun t => t.tb.run == 1) = true
    ∧ nextHas (step upState) (fun t => t.tb.run == 0) = true := by decide +kernel
theorem test_keeps_queue : nextHas (exec .linkDown { upState with pending := [.linkDown] }) (fun t => t.pending == [.linkDown]) = true := by
  decide +kernel
theorem test_memory_form : memoryWf upState = true ∧ nextHas (step { upState with pending := [.linkDown] }) memoryWf = true := by decide +kernel

/-- Reset columns of 19 that are not zero, as the map reads them right after reset. -/
theorem test_reset_columns : rd State.reset 0x30 = regReset 0x30 ∧ rd State.reset 0x20 = regReset 0x20 := by decide +kernel

/-! ## Pins and starts (18) -/

theorem test_pins : (nextHas (exec .pwrOkRise { State.reset with perstN := true }) fun t => t.pwrOk && t.starting && t.cause == 1) = true
    ∧ (nextHas (exec .pwrOkRise State.reset) fun t => t.pwrOk && !t.starting) = true
    ∧ (nextHas (exec .perstRise { State.reset with pwrOk := true }) fun t => t.perstN && t.starting) = true
    ∧ (nextHas (exec .perstRise State.reset) fun t => t.perstN && !t.starting) = true := by decide +kernel
theorem test_pins_fall : (nextHas (exec (.pwrOkFall 7) upState) fun t => t.inReset && t.tp.fell == 7) = true
    ∧ (nextHas (exec .perstFall upState) fun t => t.inReset && t.cause == 2) = true
    ∧ (nextHas (exec .perstFall { upState with inReset := true }) fun t => !t.perstN) = true
    ∧ (nextHas (exec .managerReset upState) fun t => t.starting && t.cause == 3) = true
    ∧ (nextHas (exec .managerReset State.reset) fun t => t.inReset) = true := by decide +kernel
theorem test_start_hypotheses (i : StartIn) : ({ upState with starting := true }).starting = true ∧ ({ upState with starting := true }).begun = false
    ∧ ({ upState with bbram := { retentionLost := false } }).bbram.retentionLost = false
    ∧ ({ i with hearth := [0] } : StartIn).hearth.getD 0 0 = 0 := by exact ⟨rfl, rfl, rfl, rfl⟩
theorem test_retest_timer :
    let s := wrF { upState with starting := true, startIn := some ⟨(true, true), 0, [], ⟨0, 0, false, [], 0⟩, false, 0⟩, tb := { run := 1048576 } } 0x30 15 8 6
    s.starting = true ∧ s.startIn.isSome = true ∧ rdF s 0x30 15 8 = 6 ∧ s.ns.retestRun + beatsPerSec ≤ runNow s := by decide +kernel
theorem test_scans (i : ScanIn) : managerOpen upState ∧ rdF (wrF upState 0xE0000 9 9 1) 0xE0000 9 9 = 1
    ∧ ({ i with devs := [] } : ScanIn).devs.getD 0 .nak = .nak ∧ recordErr 0 0 = 2 := by
  refine ⟨?_, ?_, rfl, ?_⟩ <;> decide +kernel

/-! ## Life cycle and profiles (14) -/

theorem test_transition_hypotheses : managerOpen upState ∧ rdF upState 0xA0018 24 24 ≠ 1 ∧ lcOfCode (1 : Fin 8).val = some .test
    ∧ allowed (lcDecode upState.lc.otp.marks) .test = true ∧ resuming upState = false := by decide +kernel
theorem test_token_passes : tokenCheck { upState with lc := { otp := { tokens := List.replicate 5 (BitVec.ofNat 256 (sha256 16 0)) } } } 1 = none := by
  decide +kernel
theorem test_transition_refused : (nextHas (exec (.transition 2) upState) fun t => t.tp.e2 == []) = true := by decide +kernel
theorem test_transition_waits : (nextHas (exec (.transition 1) { upState with lc := { otp := { tokens := List.replicate 5 (BitVec.ofNat 256 (sha256 16 0)) } } })
    fun t => t.tp.e2 == [(.transition .test, 0)] && rdF t 0xA0018 24 24 == 1) = true := by decide +kernel
theorem test_debug : (nextHas (exec .lcDebug upState) fun t => t.tp.e2 == []) = true
    ∧ (nextHas (exec .lcDebug readyState) fun t => rdF t 0xA0018 15 0 == 5) = true := by decide +kernel
theorem test_e2 : (nextHas (exec (.e2Evaluation true 0) { upState with tp := { e2 := [(.alarm 3, 0)] } }) fun t => t.tp.e2 == []) = true
    ∧ isAlarm (.alarm 3) = true ∧ isAlarm .jtag = false
    ∧ (nextHas (exec (.e2Evaluation true 0) { upState with tp := { e2 := [(.jtag, 0)] } }) fun t => t.tp.e2 == []) = true
    ∧ (nextHas (exec (.e2Evaluation false 0) { upState with tp := { e2 := [(.jtag, 0)] } }) fun t => t.tp.e2 == [(.alarm 18, 0)]) = true
    ∧ (nextHas (exec (.e2Evaluation true 0) { upState with tp := { e2 := [(.jtag, 1)] } }) fun t => t.tp.e2 == []) = true := by decide +kernel
theorem test_fix_profile : (ticketPair (withPair readyState 0x0A (profArgs 2 0)) 0x0A (profArgs 2 0)).isSome = true
    ∧ rdF readyState 0xA0018 24 24 ≠ 1 ∧ isLocked readyState = false
    ∧ (nextHas (exec (.fixProfileSel 2) (withPair readyState 0x0A (profArgs 2 0))) fun t => t.lc.otp.fix == some 2) = true := by decide +kernel
theorem test_switch : (nextHas (exec (.switch 1) (wr readyState 0xA0038 64)) fun t => t.tb.sched.length == 1) = true := by decide +kernel

/-- A schedule entry that is due at once. -/
def dueEntry : Sched := { kind := 2, held := false, target := 0, gen := 0, slot := 0 }
theorem test_schedule : tfind ({ readyState with tb := { sched := [(0, dueEntry)] } }).tb.sched 0 = some dueEntry
    ∧ entryDue { readyState with tb := { running := true, sched := [(0, dueEntry)] } } dueEntry = true
    ∧ (nextHas (exec (.schedEntryFire 0) { readyState with tb := { running := true, sched := [(0, dueEntry)] } }) fun t => t.tb.sched == []) = true
    ∧ (nextHas (exec (.schedEntryFire 0) { upState with tb := { running := true, sched := [(0, dueEntry)] } })
        fun t => t.tb.sched == [(0, { dueEntry with held := true })]) = true
    ∧ (nextHas (exec (.schedHeldEntryFire 0) { readyState with tb := { running := true, sched := [(0, { dueEntry with held := true })] } })
        fun t => t.tb.sched == []) = true := by decide +kernel

/-! ## Registers (19) -/

theorem test_register_writes : (nextHas (exec (.registerWrite 0x38 8 0x5A5A) State.reset) fun t => t.inReset) = true
    ∧ (nextHas (exec (.registerWrite 0x1000000 8 1) upState) fun t => t.regs == []) = true
    ∧ (nextHas (exec (.registerWrite 0x30020 8 1) { upState with starting := true }) fun t => rdF t 0 30 29 == 3) = true
    ∧ (nextHas (exec (.registerWrite 0x20FFF 8 1) upState) fun t => rdF t 0 30 29 == 1) = true
    ∧ (nextHas (exec (.registerWrite 0x30020 4 1) upState) fun t => rdF t 0 30 29 == 1) = true
    ∧ (nextHas (exec (.registerWrite 0xFFFFF8 8 1) upState) fun t => rdF t 0 30 29 == 2) = true
    ∧ regDesc 0xFFFFF8 = none ∧ (regDesc 0xC0010).isSome = true
    ∧ (nextHas (exec (.registerWrite 0x400000 8 5) upState) fun t => tget 0 t.mem.words 0 == 5) = true
    ∧ (nextHas (exec (.registerWrite 0x21027 8 5) upState) fun t => rdF t 0 63 32 == 0) = true := by decide +kernel
theorem test_accesses_saturate : (nextHas (exec (.registerWrite 0xFFFFF8 8 1) (wrF upState 0 63 32 0xFFFFFFFF)) fun t => rdF t 0 63 32 == 0xFFFFFFFF) = true := by
  decide +kernel

/-! ## Time (02) -/

theorem test_beat_length : beatLength { rate := 1099511, frac := 0 } = (1000, 1099511000) ∧ (beatLength { rate := -1099511, frac := 0 }).1 = 999
    ∧ (beatLength { rate := 1099511, frac := 4294967295, phase := 5 }).1 ≤ 1002 := by decide +kernel
theorem test_holdover : (nextHas (exec .holdoverTimeout { readyState with tb := { run := 1572864 } }) fun t => t.mode.time == .holdover) = true
    ∧ (nextHas (exec .holdoverTimeout { readyState with tb := { run := 1572863 } }) fun t => t.mode.time == .locked) = true := by decide +kernel
theorem test_free_entry : (let s := wrF { readyState with mode := { readyMode with time := .holdover } } 0x10038 47 16 0
    decide (rdF s 0x10038 47 16 ≤ uncert s) && nextHas (exec .freeEntry s) fun t => t.mode.time == .free) = true := by decide +kernel
theorem test_labels : (nextHas (exec (.tbLabelWrite 5) upState) fun t => t.tb.label == some 5) = true
    ∧ (nextHas (exec .stepApprovalTimeout { upState with tb := { run := 314572800, step := some ⟨5, 0, false, false⟩ } }) fun t => t.tb.step == none) = true
    ∧ (nextHas (exec .acqWindowClose { upState with tb := { cycle := 1048785716, acqEdge := some (0, true, 0) } }) fun t => t.tb.acqEdge == none) = true
    ∧ (nextHas (exec .timeFloorWrite { readyState with tb := { offset := 0x4000000, floorDue := some 64 } }) fun t => t.bbram.floorValid && t.bbram.floor == 64) = true := by
  decide +kernel
theorem test_edge_limits : (let s := fun (c : Nat) => ({ readyState with tb := { running := true, cycle := c, lastEdge := some (0, 0) } } : State)
    decide ((timepulse (s 1048366285) 0).tb.lastEdge ≠ some (0, 0)) && ((timepulse (s 1048366284) 0).tb.lastEdge == some (0, 0))
      && decide ((timepulse (s 1048785715) 0).tb.lastEdge ≠ some (0, 0)) && ((timepulse (s 1048785716) 0).tb.lastEdge == some (0, 0))) = true := by
  decide +kernel
theorem test_cancel_and_rooms : (nextHas (exec (.schedCancel 0) { upState with tb := { sched := [(0, { dueEntry with kind := 1 })] } }) fun t => t.tb.sched == []) = true
    ∧ (nextHas (exec (.schedCancel 0) { upState with tb := { sched := [(0, dueEntry)] } }) fun t => t.tb.sched.length == 1) = true
    ∧ (nextHas (exec (.roomApplyGeneration 63) (wr (inMode { switch := true }) 0x10068 0x7FFFFFFFFFFFFFFF)) fun t => !t.mode.switch) = true
    ∧ (nextHas (exec (.roomApplyGeneration 63) (wr (inMode { switch := true }) 0x10068 0)) fun t => t.mode.switch && rd t 0x10068 == 0x8000000000000000) = true := by
  decide +kernel

/-! ## Host interface (03) -/

/-- A state in which slices 1 and 2 are bound to PASIDs a and b, slice 2 being enabled. -/
def boundState (a b : Nat) : State := wrF (wrF (wrF upState (sltBase 1) 19 0 a) (sltBase 2) 19 0 b) (sltBase 2) 63 63 1

theorem test_link_events : (nextHas (exec (.linkUp 4 5) upState) fun t => t.pch.up && t.pch.width == 4) = true
    ∧ canIssue upState false = false
    ∧ canIssue { upState with pch := { up := true, bme0 := true } } false = true
    ∧ (nextHas (exec .l1Entry { upState with pch := { up := true }, tb := { run := 2 ^ 16 } }) fun t => t.pch.l1) = true
    ∧ (nextHas (exec .l1Entry upState) fun t => !t.pch.l1) = true := by decide +kernel
theorem test_slice_enable : (nextHas (exec (.sliceEnable 1) (boundState 7 8)) fun t => enabled t 1) = true
    ∧ (nextHas (exec (.sliceEnable 1) (boundState 7 7)) fun t => !enabled t 1) = true
    ∧ (nextHas (exec (.sliceEnable 0) (boundState 0 0)) fun t => enabled t 0) = true
    ∧ pasidOf (boundState 7 7) 1 = pasidOf (boundState 7 7) 2 ∧ enabled (boundState 7 7) 2 = true := by decide +kernel
theorem test_slice_enable_other_pasids : ∀ t : Fin 1024, t.val ≠ 1 → t.val ≠ 0 → enabled (boundState 7 8) t.val = true → pasidOf (boundState 7 8) t.val ≠ pasidOf (boundState 7 8) 1 := by
  decide +kernel
theorem test_qcmd_busy : rdF (wrF upState 0x20018 16 16 1) 0x20018 16 16 = 1
    ∧ (nextHas (exec (.queueCreate 0 0) (wrF upState 0x20018 16 16 1)) fun t => t.pch.queues == []) = true := by decide +kernel

/-- Slice 0 enabled, with a created pair 0 of 64 entries. -/
def queueState : State := { wrF upState (sltBase 0) 63 63 1 with
  pch := { up := true, bme0 := true, bme1 := true, fetching := true, queues := [(0, { tail := 3 })] } }

theorem test_queues : (nextHas (exec (.queueCreate 0 1) (wrF queueState 0x20018 16 16 0)) fun t => t.pch.queues.length == 2) = true
    ∧ (nextHas (exec (.queueCreate 1 1) queueState) fun t => t.pch.queues.length == 1) = true
    ∧ (nextHas (exec (.queueDelete 0 0) queueState) fun t => rdF t 0x20018 16 16 == 1) = true
    ∧ (nextHas (exec (.queueDeleteDone 0 0) { queueState with pch := { queues := [(0, { deleting := true })] } }) fun t => t.pch.queues == []) = true
    ∧ (nextHas (exec (.sliceRebind 1 5 6 7) upState) fun t => pasidOf t 1 == 5) = true
    ∧ (nextHas (exec (.sliceRebind 0 5 6 7) queueState) fun t => pasidOf t 0 == 0) = true
    ∧ pasidOf queueState 0 ≠ 5 ∧ tenantOf upState 1 ≠ 6 := by decide +kernel
theorem test_doorbells : (nextHas (exec (.sqTailWrite 0 none 0 8 63) queueState) fun t => (tget {} t.pch.queues 0).tail == 63) = true
    ∧ (nextHas (exec (.sqTailWrite 0 none 0 4 64) queueState) fun t => (tget {} t.pch.queues 0).tail == 3) = true
    ∧ (nextHas (exec (.cqHeadWrite 0 none 8 8 1) queueState) fun t => (tget {} t.pch.queues 0).cqHead == 1) = true
    ∧ (nextHas (exec (.sqTailWrite 1 (some 9) 0 8 1) (boundState 7 8)) fun t => rdF t 0x20030 31 0 == 1) = true
    ∧ (nextHas (exec (.sqTailWrite 1 none 0 8 1) (boundState 7 8)) fun t => rdF t 0x20030 31 0 == 0) = true
    ∧ (nextHas (exec (.sqTailWrite 0 (some 9) 0 8 1) queueState) fun t => (tget {} t.pch.queues 0).tail == 3) = true := by decide +kernel
theorem test_fetch : tfind queueState.pch.queues (4 * (0 : Slice).val + (0 : PairIx).val) = some { tail := 3 } ∧ fetchRoom { tail := 3 } = 3
    ∧ (nextHas (exec (.sqBatchFetch 0 0 [.ok 1, .ok 2, .ok 3]) queueState) fun t => (tget {} t.pch.queues 0).fetch == 3) = true
    ∧ (nextHas (exec (.sqBatchFetch 0 0 [.ok 1]) { queueState with pch := { queueState.pch with fetching := false } }) fun t => (tget {} t.pch.queues 0).fetch == 0) = true := by
  decide +kernel

/-- A channel whose first bank holds one entry, readable or not. -/
def bankState (d : OrderWord) (bad : Bool) : State :=
  { queueState with pch := { queueState.pch with chans := [(0, { banks := [⟨0, [⟨0, d, bad⟩]⟩], wcnt := 1 })] } }
theorem test_dispatch : (takeSlot (tget {} (bankState 0 false).pch.chans 0)).isSome = true ∧ (takeSlot (tget {} (bankState 0 true).pch.chans 0)).isSome = true
    ∧ (nextHas (exec (.orderDispatch 0 0 0) (bankState 0 true)) fun t => t.adm.orders.length == 1) = true
    ∧ (nextHas (exec (.orderDispatch 0 0 0) (bankState 0 false)) fun t => t.adm.orders.length == 1) = true := by decide +kernel
theorem test_check_statuses : (match porchCheck readyState (slotOrder 0 ⟨0, BitVec.ofNat 512 (5 * 2 ^ 32), false⟩) with | .error .spoof => true | _ => false) = true
    ∧ orderCheck (inMode { lc := .retired }) runOrder {} = some .locked
    ∧ orderCheck (inMode { lc := .production, lock := true }) runOrder {} = some .locked := by decide +kernel

/-- An ended order of slice 0. -/
def endedOrder : Order := { phase := .ended, outcome := some (.done, 5) }
def endedState : State := { queueState with adm := { orders := [(0, endedOrder)] } }
theorem test_completion : order? endedState 0 = some endedOrder ∧ endedOrder.intern = false ∧ canIssue endedState (endedOrder.slice.val == 0) = true
    ∧ outputBytes endedOrder .done = none
    ∧ (nextHas (exec (.completionWrite 0 []) endedState) fun t => t.adm.orders == [] && (tget {} t.pch.queues 0).cqPos == 1) = true
    ∧ (nextHas (exec (.completionWrite 0 []) { endedState with pch := { endedState.pch with queues := [(0, { cqPos := 63 })] } })
        fun t => (tget {} t.pch.queues 0).cqPos == 0 && (tget {} t.pch.queues 0).phase == false) = true
    ∧ (nextHas (exec (.completionWrite 0 []) { endedState with pch := { endedState.pch with bme0 := false, bme1 := false } })
        fun t => t.adm.orders == [] && (tget {} t.pch.queues 0).cqPos == 0) = true := by decide +kernel
theorem test_completion_output : (outputBytes { endedOrder with data := BitVec.ofNat 512 (8 * 2 ^ 448), staged := [] } .done).isSome = true := by decide +kernel
theorem test_coalescing : (nextHas (exec (.irqCoalTimeout 0 0) { wr queueState (qCfgAddr 0 0) 0x10002000000 with
    pch := { queueState.pch with queues := [(0, { coalCnt := 1 })] }, tb := { run := 2 } }) fun t => (tget {} t.pch.queues 0).coalCnt == 0) = true := by decide +kernel

/-! ## Admission (04) -/

theorem test_grant_release : (nextHas (exec (.grantRelease 0 3) readyState) fun t => t.adm.grants == []) = true
    ∧ (match grantCheck readyState [] [] 0 (writtenGrant readyState 0 0) with | .ok _ => true | .error _ => false) = true
    ∧ (match grantCheck readyState [] [] 0 { res := 0xFFFFFF, maxw := 0xFF, rooms := 0xFFFFFFFFFFFFFFFF } with | .ok _ => false | .error _ => true) = true := by
  decide +kernel
theorem test_be_cfg : (nextHas (exec (.beCfgWrite 0) readyState) fun t => rdF t 0x30020 15 0 == 1) = true := by decide +kernel
theorem test_be_cfg_refused : ∃ r, r < 64 ∧ capOf (engIn { readyState with adm := { grants := [(0, { res := 2 ^ 40, rooms := 1 })] } } r)
    (dmaxWith [(0, { res := 2 ^ 40, rooms := 1 })] 1 r) < grantedIn [(0, { res := 2 ^ 40, rooms := 1 })] r := ⟨0, by decide +kernel⟩

/-- A parked order whose time has come. -/
def parkedState : State := { readyState with adm := { orders := [(0, { phase := .parked })], park := [0] } }
theorem test_park : order? parkedState 0 = some { phase := .parked } ∧ tfind parkedState.ld.dir 0 = none
    ∧ (nextHas (exec (.parkRelease 0) parkedState) fun t => t.adm.park == []) = true
    ∧ (nextHas (exec (.busyHintClear 0 0) { readyState with adm := { hints := [(0, 0)] } }) fun t => t.adm.hints == []) = true
    ∧ (nextHas (exec (.chargeRelease 0) readyState) fun t => t.adm.charges == []) = true := by decide +kernel
theorem test_park_known (im : Image) : tfind ({ parkedState with ld := { dir := [(0, im)] } }).ld.dir 0 = some im := rfl

/-! ## Phases (05) -/

/-- An order queued for its first phase, and room 0 idle. -/
def queuedState : State := { readyState with adm := { orders := [(0, { phase := .queued false })] }, tb := { run := 1 } }
theorem test_phase_start : (nextHas (exec (.phaseStart 0 0) queuedState) fun t => (eng t 0).order == some 0) = true ∧ idle queuedState 0 = true := by decide +kernel
/-- Eight running orders, and one of an earlier window waiting. -/
def busyRoom : State := { readyState with
  adm := { orders := [(0, { phase := .running 0 false, deadline := 900000, hdr := { boundA := 100 } }), (1, { phase := .queued false, num := 1 })] }
  rooms := { engines := (List.range 8).map fun i => (i, { order := some 0 }) } }
theorem test_preempt : (nextHas (exec (.preempt 0) busyRoom) fun t => (match order? t 0 with | some v => v.phase == .preempted false | none => false)) = true := by
  decide +kernel
theorem test_resume : (nextHas (exec (.orderResume 0 0) { readyState with adm := { orders := [(0, { phase := .preempted false })] } })
    fun t => (eng t 0).order == some 0) = true := by decide +kernel
theorem test_overrun_and_watchdog : (nextHas (exec (.phaseOverrun 0) (runCore {})) fun t => (match order? t 0 with | some v => v.outcome.isSome | none => false)) = true
    ∧ (nextHas (exec (.deadlineWatchdog 0) (runWith { runOrder with deadline := 1 } {})) fun t => (match order? t 0 with | some v => v.outcome.isSome | none => false)) = true := by decide +kernel

/-- An accepted order that waits for eight bytes of input. -/
def inputOrder : Order := { phase := .queued false, data := BitVec.ofNat 512 (8 * 2 ^ 320), deadline := 100 }
theorem test_input : inputOrder.inLen ≠ 0 ∧ (nextHas (exec (.inputDmaComplete 0 (.ok [1, 2, 3, 4, 5, 6, 7, 8]) [])
      { readyState with adm := { orders := [(0, inputOrder)] } }) fun t => (match order? t 0 with | some v => v.inputIn | none => false)) = true
    ∧ (nextHas (exec (.inputDmaComplete 0 .failed []) { readyState with adm := { orders := [(0, inputOrder)] } })
        fun t => (match order? t 0 with | some v => v.outcome == some (.aborted, 0) | none => false)) = true
    ∧ (nextHas (exec (.inputReadTimeout 0) { readyState with adm := { orders := [(0, inputOrder)] }, tb := { run := 100 } })
        fun t => (match order? t 0 with | some v => v.outcome == some (.aborted, 0) | none => false)) = true := by decide +kernel
theorem test_engines_leave : (nextHas (exec (.engineTakeOut 0 0) (runCore {})) fun t => (eng t 0).out) = true
    ∧ (nextHas (exec (.engineReturn 0 0) { readyState with rooms := { engines := [(0, { out := true })] } }) fun t => (eng t 0).testing) = true
    ∧ (nextHas (exec (.engineTakeOut 0 0) { readyState with rooms := { engines := [(0, { out := true })] } }) fun t => (eng t 0).out) = true
    ∧ (nextHas (exec (.engineSelftestDone 0 0) { readyState with rooms := { engines := [(0, { out := true, testing := true })] } }) fun t => !(eng t 0).out) = true := by
  decide +kernel
theorem test_door_regions : doorReason readyState 0 0 0 = 0 ∧ doorReason readyState 0 0 0xFFFFFFFFFFFFFFFF ≠ 0
    ∧ (nextHas (exec (.doorSyncApply 0 .ls) { readyState with rooms := { engines := [(0, { syncLs := true })] } }) fun t => !(eng t 0).syncLs) = true
    ∧ (nextHas (exec (.doorSyncApply 0 .dma) { readyState with rooms := { engines := [(0, { syncDma := true })] } }) fun t => !(eng t 0).syncDma) = true := by
  decide +kernel
theorem test_doorframes : (∀ p ∈ ([] : Tab Word), regCovers p.2 (0x200000000 / 4096) = false) ∧ doorGrants [] true 0x200000000 false false = true
    ∧ doorGrants [] true 0x200003FFF false true = false ∧ doorGrants [] true 0x200004000 true false = false
    ∧ doorGrants [] true 0x300BFFFFF true true = true ∧ doorGrants [] true 0x4003FFFFF true false = false ∧ doorGrants [] false 0x400000000 false false = false
    ∧ doorGrants [] true (2 ^ 36) false false = false := by decide +kernel

/-! ## The engine core (05) -/

/-- The outcome is a next state in which engine 0's registers satisfy p. -/
def coreHas (r : Result) (p : Core → Bool) : Bool := nextHas r fun t => p (eng t 0).core

/-- The outcome is a next state in which order 0 has ended with the status. -/
def endsAs (r : Result) (st : Status) : Bool :=
  nextHas r fun t => match order? t 0 with
    | some v => v.outcome.map Prod.fst == some st
    | none => false

/-- The outcome is a next state in which big-number engine 0 has fixed the status. -/
def fixes (r : Result) (st : Status) : Bool := nextHas r fun t => (bnEng t 0).result.map Prod.fst == some st

/-- Registers x1 = a and x2 = b. -/
def regsAB (a b : Word) : Core := { x := [(1, a), (2, b)] }
/-- Engine 0 runs an order in supervisor code with these in x1 and x2. -/
def withAB (a b : Word) : State := runCore (regsAB a b)
/-- The value a result leaves in x3 of engine 0. -/
def x3Is (r : Result) (w : Word) : Bool := coreHas r fun c => xget c 3 == w && c.slot == 1

theorem test_engine_runs : engineRuns (runCore {}) 0 0 runOrder ∧ engineRuns (withAB 5 0) 0 0 runOrder ∧ xget (eng (withAB 5 0) 0).core 2 = 0 := by decide +kernel
theorem test_add_wraps : x3Is (exec (.add 0 3 1 2) (withAB 0xFFFFFFFFFFFFFFFF 2)) 1 = true ∧ x3Is (exec (.sub 0 3 1 2) (withAB 1 2)) 0xFFFFFFFFFFFFFFFF = true := by decide +kernel
theorem test_logic : x3Is (exec (.and 0 3 1 2) (withAB 0xC 0xA)) 8 = true ∧ x3Is (exec (.or 0 3 1 2) (withAB 0xC 0xA)) 0xE = true
    ∧ x3Is (exec (.xor 0 3 1 2) (withAB 0xC 0xA)) 6 = true ∧ x3Is (exec (.andn 0 3 1 2) (withAB 0xC 0xA)) 4 = true := by decide +kernel
theorem test_shifts : x3Is (exec (.sll 0 3 1 2) (withAB 1 0x7F)) 0x8000000000000000 = true ∧ x3Is (exec (.srl 0 3 1 2) (withAB 0x8000000000000000 63)) 1 = true
    ∧ x3Is (exec (.sra 0 3 1 2) (withAB 0x8000000000000000 63)) 0xFFFFFFFFFFFFFFFF = true ∧ x3Is (exec (.rol 0 3 1 2) (withAB 0x8000000000000000 1)) 1 = true
    ∧ x3Is (exec (.ror 0 3 1 2) (withAB 1 64)) 1 = true := by decide +kernel
theorem test_compares : x3Is (exec (.slt 0 3 1 2) (withAB 0xFFFFFFFFFFFFFFFF 0)) 1 = true ∧ x3Is (exec (.sltu 0 3 1 2) (withAB 0xFFFFFFFFFFFFFFFF 0)) 0 = true := by decide +kernel
theorem test_products : x3Is (exec (.mul 0 3 1 2) (withAB 0x100000000 0x100000001)) 0x100000000 = true ∧ x3Is (exec (.mulh 0 3 1 2) (withAB 0xFFFFFFFFFFFFFFFF 1)) 0xFFFFFFFFFFFFFFFF = true
    ∧ x3Is (exec (.mulhu 0 3 1 2) (withAB 0xFFFFFFFFFFFFFFFF 2)) 1 = true ∧ x3Is (exec (.divu 0 3 1 2) (withAB 7 2)) 3 = true ∧ x3Is (exec (.remu 0 3 1 2) (withAB 7 2)) 1 = true := by decide +kernel
theorem test_division_by_zero : x3Is (exec (.divu 0 3 1 2) (withAB 7 0)) 0xFFFFFFFFFFFFFFFF = true ∧ x3Is (exec (.remu 0 3 1 2) (withAB 7 0)) 7 = true := by decide +kernel
theorem test_counts : x3Is (exec (.popc 0 3 1) (withAB 0xF0F 0)) 8 = true ∧ x3Is (exec (.clz 0 3 1) (withAB 0 0)) 64 = true ∧ x3Is (exec (.clz 0 3 1) (withAB 1 0)) 63 = true
    ∧ x3Is (exec (.bswap 0 3 1) (withAB 0x0102030405060708 0)) 0x0807060504030201 = true := by decide +kernel
theorem test_select : x3Is (exec (.sel 0 3 1 2) (withAB 7 9)) 9 = true ∧ x3Is (exec (.sel 0 3 1 2) (runCore { x := [(1, 7), (2, 9), (3, 1)] })) 7 = true
    ∧ x3Is (exec (.nop 0) (withAB 7 9)) 0 = true := by decide +kernel
theorem test_x0 : coreHas (exec (.add 0 0 1 2) (withAB 7 9)) (fun c => xget c 0 == 0 && c.x == [(1, 7), (2, 9)]) = true := by decide +kernel
theorem test_read_back_hypotheses : twf 0 (regsAB 1 2).x = true ∧ twf 0 (regsAB 1 2).b = true ∧ twf false (regsAB 1 2).seals = true := by decide +kernel
theorem test_immediates : x3Is (exec (.addi 0 3 1 0xFFFF) (withAB 0 0)) 0xFFFFFFFFFFFFFFFF = true ∧ x3Is (exec (.andi 0 3 1 0xFFFF) (withAB 0xABCDEF 0)) 0xCDEF = true
    ∧ x3Is (exec (.ori 0 3 1 0x8000) (withAB 0 0)) 0x8000 = true ∧ x3Is (exec (.xori 0 3 1 0xFFFF) (withAB 0xF 0)) 0xFFF0 = true := by decide +kernel
theorem test_shift_immediates : bits (0x00FF : BitVec 16) 15 8 = 0 ∧ x3Is (exec (.shi 0 3 1 0x003F) (withAB 1 0)) 0x8000000000000000 = true ∧ x3Is (exec (.shi 0 3 1 0x007F) (withAB 0x8000000000000000 0)) 1 = true
    ∧ x3Is (exec (.shi 0 3 1 0x00BF) (withAB 0x8000000000000000 0)) 0xFFFFFFFFFFFFFFFF = true ∧ x3Is (exec (.shi 0 3 1 0x00C1) (withAB 1 0)) 0x8000000000000000 = true
    ∧ refusedForm (exec (.shi 0 3 1 0x0100) (withAB 1 0)) = true := by decide +kernel
theorem test_constants : x3Is (exec (.movz 0 3 3 0x1234) (withAB 0 0)) 0x1234000000000000 = true
    ∧ coreHas (exec (.movk 0 1 1 0xBEEF) (withAB 0xFFFFFFFFFFFFFFFF 0)) (fun c => xget c 1 == 0xFFFFFFFFBEEFFFFF) = true
    ∧ coreHas (exec (.li32 0 3 0x80000000) (withAB 0 0)) (fun c => xget c 3 == 0xFFFFFFFF80000000 && c.slot == 2) = true := by decide +kernel

/-- Engine 0 with a frame whose first bytes are 1 to 8. -/
def frameState (c : Core) : State := { runCore c with mem := { win := (List.range 8).map fun i => (i, BitVec.ofNat 8 (i + 1)) } }
theorem test_frame_loads : x3Is (exec (.ld 0 .d 3 1 0 .ok) (frameState {})) 0x0807060504030201 = true ∧ x3Is (exec (.ld 0 .b 3 1 7 .ok) (frameState {})) 8 = true
    ∧ x3Is (exec (.ld 0 .h 3 1 0xFFFF .ok) (frameState (regsAB 4 0))) 0x0403 = true
    ∧ coreHas (exec (.ldq 0 2 1 0 .ok) (frameState {})) (fun c => bget c 2 == 0x0807060504030201 && !sealedB c 2) = true
    ∧ coreHas (exec (.ldl 0 1 1 0 .ok) (frameState {})) (fun c => bget c 4 == 0x0807060504030201 && bget c 5 == 0) = true := by decide +kernel
theorem test_frame_hypotheses : winBase (frameOf runOrder) = 0 ∧ poisoned (frameState {}) 0 (wordsOf (frameOf runOrder) (frameAddr {} 1 0xFFFF 64) 64) = false
    ∧ frameAddr {} 1 0xFFFF 64 = 960 ∧ memoryWf (frameState {}) = true ∧ poisoned (poisonWord (frameState {}) 0 0) 0 [0] = true
    ∧ endsAs (exec (.ld 0 .d 3 1 0 .ok) (poisonWord (frameState {}) 0 0)) .poison = true := by decide +kernel
theorem test_frame_stores : nextHas (exec (.st 0 .w 1 2 0 .ok) (frameState (regsAB 0x11223344AABBCCDD 4))) (fun t => tbytes t.mem.win 0 9 == 0xAABBCCDD04030201) = true
    ∧ nextHas (exec (.stq 0 0 0 0x10) (frameState { b := [(0, 5)] })) (fun t => tbytes t.mem.win 16 16 == 5 && tbytes t.mem.win 0 8 == 0x0807060504030201) = true
    ∧ nextHas (exec (.stl 0 0 0 0x40) (frameState { b := [(3, 5)] })) (fun t => tbytes t.mem.win 112 16 == 5) = true
    ∧ endsAs (exec (.stq 0 0 0 0) (frameState { seals := [(0, true)] })) .policy = true
    ∧ endsAs (exec (.stl 0 0 0 0) (frameState { seals := [(3, true)] })) .policy = true := by decide +kernel

/-- The same with a transfer from a pantry page into the frame's bytes 8 to 15 outstanding (R150). -/
def flyingState (c : Core) : State :=
  let s := frameState c
  { s with rooms := { s.rooms with dma := [(0, [{ toFrame := true, off := 8, addr := 0x300000000, len := 8 }])] } }
theorem test_load_beside_transfer : x3Is (exec (.ld 0 .d 3 1 0 .ok) (flyingState {})) 0x0807060504030201 = true := by decide +kernel
theorem test_load_in_transfer : nextHas (exec (.ld 0 .d 3 1 8 .ok) (flyingState {})) (fun t => t.fresh == 1 && t.mem == (flyingState {}).mem) = true
    ∧ nextHas (exec (.ldq 0 2 1 0 .ok) (flyingState {})) (fun t => t.fresh == 1) = true := by decide +kernel

/-- A posted write to the global address 300000000h, the first byte of the pantry. -/
def postedState (n : Nat) : State := runWith runOrder { core := regsAB 0x300000000 9, stg := List.replicate n (0x300000000, 7, none) }
theorem test_global : lsGrants (eng (postedState 0) 0) runOrder 0x300000000 true = true ∧ lsGrants (eng (postedState 0) 0) runOrder 0x300000000 false = true
    ∧ lsGrants (eng (postedState 0) 0) runOrder 0 true = false ∧ lsGrants (eng (postedState 0) 0) runOrder 0 false = false
    ∧ x3Is (exec (.ldg 0 3 1 0) (postedState 1)) 7 = true ∧ x3Is (exec (.ldg 0 3 1 0) (postedState 0)) 0 = true
    ∧ nextHas (exec (.stg 0 2 1 0) (postedState 7)) (fun t => (eng t 0).stg.length == 8) = true
    ∧ nextHas (exec (.stg 0 2 1 0) (postedState 8)) (fun t => (eng t 0).stg.length == 8 && (eng t 0).core.slot == 0) = true
    ∧ endsAs (exec (.ldg 0 3 0 0) (postedState 0)) .doorFault = true ∧ endsAs (exec (.stg 0 2 0 0) (postedState 0)) .doorFault = true
    ∧ endsAs (exec (.ldgl 0 0 0 0) (postedState 0)) .doorFault = true ∧ endsAs (exec (.stgl 0 0 0 0) (postedState 0)) .doorFault = true := by decide +kernel
theorem test_global_lines : coreHas (exec (.ldgl 0 0 1 0) (postedState 1)) (fun c => bget c 0 == 7 && c.slot == 1) = true
    ∧ coreHas (exec (.stgl 0 0 1 0) (postedState 1)) (fun c => c.slot == 1) = true
    ∧ nextHas (exec (.stgAcknowledged 0) (postedState 1)) (fun t => (eng t 0).stg == [] && t.mem.pantry != []) = true
    ∧ nextHas (exec (.stgAcknowledged 0) (postedState 0)) (fun t => t.mem.pantry == []) = true := by decide +kernel

/-- Engine 0 with n transfers of its frame outstanding: x1 the frame offset, x2 the address, x3 the length. -/
def dmaState (n : Nat) (f a l : Word) : State :=
  let s := runCore { x := [(1, f), (2, a), (3, l)] }
  { s with rooms := { s.rooms with dma := [(0, List.replicate n ⟨true, 0, 0x300000000, 8⟩)] } }
theorem test_dma : nextHas (exec (.dmaI 0 1 2 3 0x3FF) (dmaState 3 0 0x300000000 1024)) (fun t => (tget [] t.rooms.dma 0).length == 4) = true
    ∧ nextHas (exec (.dmaO 0 1 2 3 0x3FF) (dmaState 0 1016 0x300000000 8)) (fun t => (tget [] t.rooms.dma 0).length == 1) = true
    ∧ nextHas (exec (.dmaI 0 1 2 3 0x3FF) (dmaState 4 0 0x300000000 8)) (fun t => (eng t 0).core.slot == 0) = true
    ∧ endsAs (exec (.dmaI 0 1 2 3 0x3FF) (dmaState 0 1016 0x300000000 9)) .doorFault = true
    ∧ nextHas (exec (.dmaI 0 1 2 3 0x3FF) (dmaState 0 1016 0x300000000 0)) (fun t => (tget [] t.rooms.dma 0).length == 0 && (eng t 0).core.slot == 1) = true
    ∧ (∀ p ∈ pieces 0x300000000 1024, doorGrants [] true p false true = true) := by decide +kernel
theorem test_fences : nextHas (exec (.dmawait 0) (dmaState 0 0 0 0)) (fun t => (eng t 0).core.slot == 1) = true ∧ nextHas (exec (.dmawait 0) (dmaState 1 0 0 0)) (fun t => (eng t 0).core.slot == 0) = true
    ∧ nextHas (exec (.fenceM 0) (postedState 0)) (fun t => (eng t 0).core.slot == 1) = true ∧ nextHas (exec (.fenceM 0) (postedState 1)) (fun t => (eng t 0).core.slot == 0) = true
    ∧ nextHas (exec (.fenceD 0) (postedState 0)) (fun t => (eng t 0).core.slot == 1) = true := by decide +kernel
theorem test_dma_done : tfind (dmaState 1 0 0 0).rooms.frames (frameKey (0 : Room).val (0 : Fin 128).val) = some 0
    ∧ nextHas (exec (.dmaTransferDone 0 0 .ok) (dmaState 1 0 0 0)) (fun t => (tget [] t.rooms.dma 0).length == 0) = true := by decide +kernel
theorem test_time_reads : x3Is (exec (.time 0 3) { runCore {} with tb := { run := 5, offset := 7 } }) 12 = true ∧ x3Is (exec (.runt 0 3) { runCore {} with tb := { run := 5 } }) 5 = true
    ∧ x3Is (exec (.dln 0 3) (runWith { runOrder with deadline := 9 } {})) 9 = true ∧ x3Is (exec (.left 0 3) (runWith { runOrder with hdr := {}, deadline := 9 } {})) 8 = true := by decide +kernel
theorem test_doorframe_instructions : dfwReason (eng (withAB 0 0) 0) .ls 4 0 = 0 ∧ dfwReason (eng (withAB 0 0) 0) .ls 3 0 = 0 ∧ dfwReason (eng (withAB 0 0) 0) .dma 12 (BitVec.ofNat 64 (2 ^ 63)) = 4
    ∧ x3Is (exec (.dfw 0 3 1 .ls 11) (withAB 0 0)) 0 = true ∧ x3Is (exec (.dfw 0 3 1 .ls 12) (withAB 0x8000000000000000 0)) 4 = true ∧ x3Is (exec (.dfr 0 3 1) (withAB 4 0)) 0 = true
    ∧ refusedForm (exec (.dfr 0 3 1) (runWith { runOrder with hdr := { bnLen := 1000 } } {})) = true
    ∧ refusedForm (exec (.dfw 0 3 1 .ls 4) (runWith { runOrder with hdr := { bnLen := 1000 } } {})) = true := by decide +kernel
theorem test_branches : coreHas (exec (.beq 0 1 2 1) (withAB 5 5)) (fun c => c.pc == 1) = true ∧ coreHas (exec (.bne 0 1 2 1) (withAB 5 5)) (fun c => c.pc == 0 && c.slot == 1) = true
    ∧ coreHas (exec (.blt 0 1 2 2) (withAB 0xFFFFFFFFFFFFFFFF 0)) (fun c => c.pc == 2) = true ∧ coreHas (exec (.bltu 0 1 2 2) (withAB 0xFFFFFFFFFFFFFFFF 0)) (fun c => c.slot == 1) = true
    ∧ coreHas (exec (.bge 0 1 2 2) (withAB 5 5)) (fun c => c.pc == 2) = true ∧ coreHas (exec (.bgeu 0 1 2 2) (withAB 4 5)) (fun c => c.slot == 1) = true
    ∧ refusedForm (exec (.beq 0 1 2 0) (withAB 5 5)) = true := by decide +kernel
theorem test_jumps : coreHas (exec (.j 0 1023) (runCore {})) (fun c => c.pc == 1023) = true ∧ refusedForm (exec (.j 0 0) (runCore {})) = true ∧ refusedForm (exec (.j 0 1024) (runCore {})) = true
    ∧ coreHas (exec (.call 0 9) (runCore { rets := List.replicate 7 0 })) (fun c => c.pc == 9 && c.rets.head? == some 1) = true
    ∧ refusedForm (exec (.call 0 9) (runCore { rets := List.replicate 8 0 })) = true
    ∧ coreHas (exec (.ret 0) (runCore { rets := [3] })) (fun c => c.pc == 3 && c.rets == []) = true := by decide +kernel
theorem test_loop : coreHas (exec (.loop 0 1 0 5) (withAB 2 0)) (fun c => c.pc == 1 && (c.loops.head?.map LoopFrame.left) == some 2) = true
    ∧ coreHas (exec (.loop 0 1 3 5) (withAB 0 0)) (fun c => c.pc == 5 && c.loops == []) = true
    ∧ coreHas (exec (.loop 0 0 0 0xFFFF) (runCore { loops := List.replicate 3 ⟨0, 9, 2⟩ })) (fun c => c.loops.length == 4) = true
    ∧ refusedForm (exec (.loop 0 0 0 1) (runCore { loops := List.replicate 4 ⟨0, 9, 2⟩ })) = true
    ∧ loopNext [⟨1, 3, 2⟩] 3 = ([⟨1, 3, 1⟩], 1) ∧ loopNext [⟨1, 3, 1⟩] 3 = ([], 4) := by decide +kernel
theorem test_exit : endsAs (exec (.exit 0 0 1) (runWith { runOrder with hdr := { signer := 1 } } { core := regsAB 5 0 })) .done = true
    ∧ endsAs (exec (.exit 0 1 1) (runWith { runOrder with data := 0x61, hdr := { signer := 1 } } { core := regsAB 5 0 })) .authFail = true ∧ stOfCode (0 : BitVec 16).toNat = some .done ∧ exitOk .done = true := by decide +kernel
/-- RANDOM exits with REJECT_LIMIT and the four reads that it made (07 R202). -/
theorem test_exit_shipped : nextHas (exec (.exit 0 0x0E 1) (runWith { runOrder with data := 0x60 } {})) (fun t => match order? t 0 with
    | some v => v.outcome == some (.rejectLimit, 4)
    | none => false) = true
    ∧ pastArgs (withAB 5 0) runOrder false := by decide +kernel

/-- An order with a complete hand-off, in its first phase on engine 0. -/
def yieldOrder : Order := { runOrder with
  hdr := { supv := true, bnLen := 1000, constLen := 65536, maint := true }, hand := { op := some (.slots 0 0), ins := [⟨0, false, true, 8, 0, []⟩] } }
theorem test_yield : handOk (runWith yieldOrder {}) yieldOrder = true ∧ nextHas (exec (.yield 0 3) (runWith yieldOrder {})) (fun t => (eng t 0).order == none
      && (match order? t 0 with | some v => v.phase == .bnQueued && v.yieldPc == 3 | none => false)) = true
    ∧ endsAs (exec (.yield 0 3) (poisonWord (runWith yieldOrder {}) 0 0)) .poison = true
    ∧ refusedForm (exec (.yield 0 3) (runCore {})) = true := by decide +kernel

/-- Room 0's source in service, n unread bits in the share of engine 0. -/
def hearthState (n : Nat) : State := { runCore {} with
  rooms := { (runCore {}).rooms with hearth := [(0, true :: List.replicate (n - 1) false)] }, ns := { srcs := [(0, { inService := true })] } }
theorem test_hearth : sourceIn (hearthState 64) 0 = true ∧ sourceIn (runCore {}) 0 = false
    ∧ nextHas (exec (.hearth 0 3 4) (hearthState 64)) (fun t => xget (eng t 0).core 3 == 1 && xget (eng t 0).core 4 == 64 && tget [] t.rooms.hearth 0 == []) = true
    ∧ coreHas (exec (.hearth 0 3 4) (hearthState 63)) (fun c => xget c 3 == 0 && xget c 4 == 0) = true
    ∧ coreHas (exec (.hearth 0 3 4) (runCore {})) (fun c => xget c 3 == 0 && xget c 4 == 0xFFFFFFFFFFFFFFFF) = true := by decide +kernel

/-! ## Crypto instructions (06) -/

theorem test_sealed : endsAs (exec (.bget 0 3 1 false) (runCore { seals := [(1, true)] })) .policy = true
    ∧ coreHas (exec (.bceq 0 3 1 2) (runCore { seals := [(1, true)] })) (fun c => xget c 3 == 1) = true
    ∧ coreHas (exec (.bceqh 0 3 1 2 true) (runCore { b := [(1, 0x10000000000000000)] })) (fun c => xget c 3 == 0) = true
    ∧ sealedB { seals := [(3, true)] } (quadOf 0 3) = true := by decide +kernel

/-- A record of slice 0 that is live, AES-256, with every use. -/
def aRec : Rec := { typ := 3, gen := 1, index := 5, complete := true, policy := 0xFF, mat := 0x11, created := 1 }
/-- Engine 0 with the record's handle in x1, the key-use permission as given. -/
def keyState (use : Bool) (r : Rec) : State :=
  { runCore (regsAB (recHandle r) 0) with ks := { recs := [(5, r)], table := [(5, (.live, 1))] }, tp := { keyUse := use } }

/-- An answer of the key store that carries a value. -/
def answers {α β : Type} (x : α × Except Status β) : Bool := match x.2 with | .ok _ => true | .error _ => false
theorem answers_ok {α β : Type} {x : α × Except Status β} (h : answers x = true) : ∃ a b, x = (a, .ok b) := by
  obtain ⟨a, _ | b⟩ := x
  · cases h
  · exact ⟨a, b, rfl⟩
theorem answers_error {α β : Type} {x : α × Except Status β} (h : answers x = false) : ∃ a e, x = (a, .error e) := by
  obtain ⟨a, e | _⟩ := x
  · exact ⟨a, e, rfl⟩
  · cases h
theorem test_key_hypotheses : mayNameKey runOrder (recHandle aRec) = true ∧ mayNameKey { runOrder with hdr := {} } (recHandle { aRec with slice := 1 }) = false
    ∧ answers (keyChecks (keyState true aRec) (recHandle aRec) 0 0 .clean .clean) = true
    ∧ answers (keyChecks (keyState true { aRec with policy := 0 }) (recHandle aRec) 0 0 .clean .clean) = false := by decide +kernel
theorem test_keyload : endsAs (exec (.keyload 0 2 1 0 (.imm 0) .clean .clean) (keyState false aRec)) .locked = true := by decide +kernel
theorem test_keyload_spoof : endsAs (exec (.keyload 0 2 1 0 (.imm 0) .clean .clean)
    (runWith { runOrder with hdr := {} } { core := regsAB (recHandle { aRec with slice := 1 }) 0 })) .spoof = true := by decide +kernel
theorem test_keyload_loads : coreHas (exec (.keyload 0 2 1 0 (.imm 0) .clean .clean) (keyState true aRec)) (fun c => (kget c 2).loaded && (kget c 2).len == 32) = true := by
  decide +kernel

/-- Key register k0 holds the AES-128 key of FIPS 197, appendix C.1, for a use. -/
def aesCore (use : Nat) : Core := { k := [(0, { mat := 0x0f0e0d0c0b0a09080706050403020100, loaded := true, use := use, typ := 1, len := 16 })], b := [(1, 0xffeeddccbbaa99887766554433221100)] }
theorem test_key_tags : coreHas (exec (.keyinfo 0 3 0) (runCore (aesCore 4))) (fun c => xget c 3 == 0x8401001000000000) = true
    ∧ coreHas (exec (.keyinfo 0 3 1) (runCore (aesCore 4))) (fun c => xget c 3 == 0) = true
    ∧ coreHas (exec (.keyclr 0 0) (runCore (aesCore 4))) (fun c => !(kget c 0).loaded) = true := by decide +kernel

/-- Engine 0 with a sealed pair 0 and a template of an ephemeral AES-256 record in its frame. -/
def putState (flags : Byte) : State := { runCore { seals := [(0, true), (1, true)] } with
  mem := { win := [(0, 3), (3, 32), (4, 1), (5, flags)] }, mode := { readyMode with lc := .test }, regs := [(sltBase 0 + 0x400, 5)] }
theorem test_keyput : pairSealed (eng (putState 2) 0).core 0 = true ∧ pairSealed {} 0 = false
    ∧ endsAs (exec (.keyput 0 3 4 0 .clean 7) (putState 1)) .malformed = true
    ∧ endsAs (exec (.keyput 0 3 4 0 .clean 7) (runCore {})) .policy = true
    ∧ answers (keyStorePut (putState 2) .routine 0 (tmplOf (3 + 32 * 2 ^ 24 + 2 ^ 32 + 2 * 2 ^ 40)) 0 .clean 7) = true := by decide +kernel

/-- FIPS 197, appendix C.1: the ciphertext of 00112233…ff under 000102…0f is 69c4e0d8…5a. -/
theorem test_aes_vector : aesCheck (kget (aesCore 0) 0) .enc = none ∧ aesCheck (kget (aesCore 4) 0) .dec = none ∧ aesCheck (kget (aesCore 7) 0) .enc = some .policy
    ∧ coreHas (exec (.aesE 0 2 1 (.reg 0) false false) (runCore (aesCore 0))) (fun c => bget c 2 == 0x5ac5b47080b7cdd830047b6ad8e0c469 && !sealedB c 2) = true
    ∧ coreHas (exec (.aesD 0 2 1 (.reg 0) false false) (runCore { aesCore 2 with b := [(1, 0x5ac5b47080b7cdd830047b6ad8e0c469)] }))
        (fun c => bget c 2 == 0xffeeddccbbaa99887766554433221100 && sealedB c 2) = true := by decide +kernel
theorem test_aes_forms : endsAs (exec (.aesE 0 2 1 (.reg 0) false false) (runCore (aesCore 7))) .policy = true
    ∧ refusedForm (exec (.aesE 0 4 1 (.reg 0) false true) (runCore (aesCore 0))) = true
    ∧ coreHas (exec (.aesE 0 4 8 (.pair 0) false true) (runCore (aesCore 0))) (fun c => c.slot == 1) = true
    ∧ aesCheck (kget (aesCore 1) 0) .kd = none
    ∧ coreHas (exec (.aesKd 0 2 1 0 0 1 false) (runCore { aesCore 1 with k := (aesCore 1).k ++ [(1, { loaded := true, use := 7, typ := 3, len := 32 })] }))
        (fun c => !sealedB c 2 && c.slot == 1) = true := by decide +kernel
/-- XTS doubling carries into 87h; the field products of zero are zero. -/
theorem test_field_products : coreHas (exec (.xtsdbl 0 2 1) (runCore { b := [(1, 0x80000000000000000000000000000000)] })) (fun c => bget c 2 == 0x87) = true
    ∧ coreHas (exec (.ghmul 0 2 1 3) (runCore { seals := [(3, true)] })) (fun c => bget c 2 == 0 && sealedB c 2) = true
    ∧ coreHas (exec (.ghacc 0 2 1 3) (runCore {})) (fun c => bget c 2 == 0) = true
    ∧ coreHas (exec (.pvmul 0 2 1 3) (runCore {})) (fun c => bget c 2 == 0) = true := by decide +kernel
/-- In GHASH the block 80 00 … 00 is the unit: its product with H is H (NIST SP 800-38D). -/
theorem test_ghash_unit : coreHas (exec (.ghmul 0 2 1 3) (runCore { b := [(1, 0x80), (3, 0x0102030405060708090A0B0C0D0E0F10)] }))
    (fun c => bget c 2 == 0x0102030405060708090A0B0C0D0E0F10) = true := by decide +kernel
theorem test_blocks : coreHas (exec (.bxor 0 0 4 8 true) (runCore { b := [(7, 5), (11, 3)], seals := [(11, true)] })) (fun c => bget c 3 == 6 && sealedB c 3 && !sealedB c 0) = true
    ∧ coreHas (exec (.band 0 0 1 2 false) (runCore { b := [(1, 5), (2, 4)] })) (fun c => bget c 0 == 4) = true
    ∧ coreHas (exec (.bmov 0 0 1 false) (runCore { b := [(1, 5)] })) (fun c => bget c 0 == 5) = true
    ∧ coreHas (exec (.brev 0 0 1 false) (runCore { b := [(1, 5)] })) (fun c => bget c 0 == 0x05000000000000000000000000000000) = true
    ∧ coreHas (exec (.bzero 0 0 false) (runCore { b := [(0, 5)], seals := [(0, true)] })) (fun c => bget c 0 == 0 && !sealedB c 0) = true
    ∧ coreHas (exec (.bseal 0 0 1 false) (runCore { b := [(1, 5)] })) (fun c => bget c 0 == 5 && sealedB c 0) = true
    ∧ refusedForm (exec (.bzero 0 3 true) (runCore {})) = true ∧ refusedForm (exec (.bxor 0 0 4 9 true) (runCore {})) = true := by decide +kernel
theorem test_counters : coreHas (exec (.binc32 0 0 1 1) (runCore { b := [(1, 0xFF000000000000000000000000000000)] })) (fun c => bget c 0 == 0x00010000000000000000000000000000) = true
    ∧ coreHas (exec (.binc128 0 0 1 1) (runCore { b := [(1, 0xFF000000000000000000000000000000)] })) (fun c => bget c 0 == 0x00010000000000000000000000000000) = true
    ∧ coreHas (exec (.binc32l 0 0 1 2) (runCore { b := [(1, 0x1FFFFFFFF)] })) (fun c => bget c 0 == 0x100000001) = true
    ∧ coreHas (exec (.bctr4 0 4 1) (runCore {})) (fun c => bget c 4 == 0x01000000000000000000000000000000 && bget c 7 == 0x04000000000000000000000000000000) = true
    ∧ refusedForm (exec (.bctr4 0 5 1) (runCore {})) = true := by decide +kernel
theorem test_halves : coreHas (exec (.bmrg 0 0 1 2) (runCore { b := [(1, 5), (2, 0x90000000000000007)] })) (fun c => bget c 0 == 0x90000000000000005) = true
    ∧ coreHas (exec (.bget 0 3 2 true) (runCore { b := [(2, 0x90000000000000007)] })) (fun c => xget c 3 == 9) = true
    ∧ coreHas (exec (.bput 0 1 2 true) (runCore { regsAB 8 0 with b := [(2, 0x90000000000000007)], seals := [(2, true)] })) (fun c => bget c 2 == 0x80000000000000007 && sealedB c 2) = true := by
  decide +kernel

/-- Engine 0 with a frame that begins with the bytes of the empty SHA-256 message block. -/
def hashState : State := { runCore { x := [(1, 0), (2, 256)] } with mem := { win := [(256, 0x80)] } }
/-- SHA-256 of the empty message (FIPS 180-4): e3b0c442…, as 32-bit words of the state. -/
theorem test_hash : (ringRead hashState runOrder 0 (stateBytes .sha256)).isSome = true ∧ (ringRead hashState runOrder 256 (blockBytes .sha256)).isSome = true
    ∧ nextHas (exec (.hinit 0 1 .sha256) hashState) (fun t => nextHas (exec (.habs 0 1 2 .sha256 .ok) t) fun u => tbytes u.mem.win 0 4 == 0x42c4b0e3) = true
    ∧ endsAs (exec (.habs 0 1 2 .sha256 .uncorrectable) hashState) .poison = true
    ∧ endsAs (exec (.hkey 0 1 .sha256 0 false .ok) hashState) .noKey = true
    ∧ endsAs (exec (.hkey 0 1 .sha256 0 false .ok) (runCore (aesCore 7))) .policy = true
    ∧ nextHas (exec (.hkey 0 1 .sha256 0 false .ok) (runCore (aesCore 5))) (fun t => (eng t 0).core.slot == 1) = true
    ∧ refusedForm (exec (.hperm 0 1 .sha256 .ok) hashState) = true := by decide +kernel

/-! ## Big-number engines (09) -/

/-- Big-number engine 0 with an operation of order 0 queued. -/
def queuedBn (h : HandOff) : State := { readyState with
  adm := { orders := [(0, { runOrder with phase := .bnQueued, hand := h, bnEng := some 0 })] }, bn := { engs := [(0, { queue := [0] })] } }
/-- The same with the operation running. -/
def runningBn (v : Order) (h : HandOff) (g : BnEng) : State := { readyState with
  adm := { orders := [(0, { v with phase := .bnRunning, hand := h, bnEng := some 0 })] }, bn := { engs := [(0, { g with running := some 0 })] } }
theorem test_hand_off : (eng (runCore {}) 0).second = false ∧ runOrder.hdr.bnLen ≠ 0 ∧ runOrder.hand.op = none ∧ runOrder.hand.ins.length < 8
    ∧ nextHas (exec (.bnset 0 (.service 2 1)) (runCore {})) (fun t => match order? t 0 with | some v => v.hand.op == some (.service 2 1) | none => false) = true
    ∧ refusedForm (exec (.bnset 0 (.service 2 1)) (runWith yieldOrder {})) = true
    ∧ nextHas (exec (.bnarg 0 1 3 5) (withAB 9 0)) (fun t => match order? t 0 with | some v => v.hand.args == [(3, 9, 5)] | none => false) = true := by decide +kernel
theorem test_hand_off_operands : ioLen 127 = 1024 ∧ nextHas (exec (.bnin 0 1 1023 false true 127) (withAB 0 0)) (fun t => match order? t 0 with | some v => v.hand.ins.length == 1 | none => false) = true
    ∧ refusedForm (exec (.bnin 0 1 0 false true 128) (withAB 0 0)) = true
    ∧ refusedForm (exec (.bnin 0 1 0 true true 0) (runWith { runOrder with hand := { ins := List.replicate 8 ⟨0, true, true, 8, 0, []⟩ } } {})) = true
    ∧ nextHas (exec (.bnout 0 1 0 true 0) (runWith { runOrder with hand := { outs := List.replicate 7 ⟨0, true, true, 8, 0, []⟩ } } {}))
        (fun t => match order? t 0 with | some v => v.hand.outs.length == 8 | none => false) = true
    ∧ refusedForm (exec (.bnout 0 1 0 true 0) (runWith { runOrder with hand := { outs := List.replicate 8 ⟨0, true, true, 8, 0, []⟩ } } {})) = true := by decide +kernel

/-- A hand-off of a slot program without arguments, and one whose handle names no key, and one outside its window. -/
def slotsHand : HandOff := { op := some (.slots 0 0) }
def argHand : HandOff := { op := some (.slots 0 0), args := [(0, 0x123456789, 5)] }
def outsideHand : HandOff := { op := some (.slots 0 0), ins := [⟨0, true, true, 8, 0x0FFFFFFF8, []⟩] }
theorem test_bn_start : nextHas (exec (.bnOperationStart 0 [] .ok 0) (queuedBn slotsHand)) (fun t => (bnEng t 0).running == some 0) = true
    ∧ endsAs (exec (.bnOperationStart 0 [] .uncorrectable 0) (queuedBn slotsHand)) .poison = true
    ∧ endsAs (exec (.bnOperationStart 0 [] .ok 0) (queuedBn argHand)) .locked = true
    ∧ endsAs (exec (.bnOperationStart 0 [] .ok 0) (queuedBn outsideHand)) .doorFault = true
    ∧ (nextBn (queuedBn slotsHand) 0).isSome = true ∧ (bnEng (queuedBn slotsHand) 0).running = none := by decide +kernel
theorem test_bn_end : nextHas (exec (.slotProgramStart 0) (runningBn runOrder slotsHand {})) (fun t => (bnEng t 0).inProg) = true
    ∧ nextHas (exec (.bnOperationEnd 0) (runningBn runOrder slotsHand { result := some (.authFail, 0, 2) }))
        (fun t => match order? t 0 with | some v => v.phase == .queued true && v.x16 == outcomeWord .authFail 0 2 | none => false) = true
    ∧ outcomeWord .done 7 2 = 7 := by decide +kernel
/-- An operation with BN_LEN 1,000 has 998 whole beats, and is over in the 999th. -/
theorem test_bn_overrun : endsAs (exec (.bnOverrun 0) { runningBn runOrder slotsHand {} with tb := { run := 998 } }) .deadlineFault = true
    ∧ nextHas (exec (.bnOverrun 0) { runningBn runOrder slotsHand {} with tb := { run := 997 } }) (fun t => (bnEng t 0).running == some 0) = true := by decide +kernel

/-- Engine 0 runs service operation op on a set; supv as given. -/
def svcState (supv : Bool) (op : Fin 256) (set : Fin 64) (g : BnEng) : State :=
  runningBn { runOrder with hdr := { supv := supv, bnLen := 1000 } } { op := some (.service op set) } g
theorem test_service_runs : ∃ v, serviceRuns (svcState true 2 1 {}) 0 0 v 2 1 := ⟨_, rfl, rfl, rfl, rfl⟩
theorem test_services : fixes (exec (.ecdsaVerify 0) (svcState true 2 1 {})) .authFail = true
    ∧ fixes (exec (.rsaCrtPriv 0) (svcState true 8 8 {})) .done = true ∧ fixes (exec (.mlkemDecaps 0) (svcState true 16 16 {})) .done = true := by decide +kernel
theorem test_drbg_ready : (drbgReady (svcState true 1 1 { seeded := true, drbgReqs := 65535 }) 0).1 = true ∧ (drbgReady (svcState true 1 1 { seeded := true, drbgReqs := 65536 }) 0).1 = false := by decide +kernel
theorem test_random_services : fixes (exec (.ecdsaSign 0 0) (svcState true 1 1 { seeded := true })) .rejectLimit = true ∧ fixes (exec (.ecdsaSign 0 2) (svcState true 1 1 { seeded := true })) .done = true
    ∧ fixes (exec (.ecdsaSign 0 2) (svcState true 1 1 { seeded := true, drbgReqs := 65536 })) .rejectLimit = true
    ∧ fixes (exec (.ecKeygen 0 0 9) (svcState true 3 1 { seeded := true })) .rejectLimit = true ∧ fixes (exec (.ecKeygen 0 1 9) (svcState false 3 1 { seeded := true })) .policy = true
    ∧ fixes (exec (.rsaKeygen 0 8192 9) (svcState false 10 8 { seeded := true })) .policy = true ∧ fixes (exec (.rsaKeygen 0 8193 9) (svcState true 10 8 { seeded := true })) .rejectLimit = true
    ∧ fixes (exec (.mldsaSign 0 24) (svcState true 20 17 { seeded := true })) .done = true ∧ fixes (exec (.mldsaSign 0 25) (svcState true 20 17 { seeded := true })) .rejectLimit = true
    ∧ fixes (exec (.mldsaSign 0 100) (svcState true 21 17 { seeded := true })) .done = true ∧ fixes (exec (.mldsaSign 0 101) (svcState true 21 17 { seeded := true })) .rejectLimit = true := by decide +kernel
theorem test_key_services : (nextHas (exec (.ecKeygen 0 2 9) (svcState true 3 1 { seeded := true })) fun t => (bnEng t 0).result.isSome) = true
    ∧ (nextHas (exec (.rsaKeygen 0 8192 9) (svcState true 10 8 { seeded := true })) fun t => (bnEng t 0).result.isSome) = true
    ∧ fixes (exec (.hybridOpen 0 9) (svcState false 24 2 {})) .policy = true ∧ fixes (exec (.hybridOpen 0 9) (svcState true 24 2 {})) .noKey = true
    ∧ ({ svcState true 24 2 {} with keys := { ident := true } }).keys.ident = true := by decide +kernel

/-- Engine 0 runs a slot program: slots 0 to 3 of four words each at words 0, 4, 8 and 12, slot 4 of 25 words at 100; words
0 and 4 hold a and x; an active modulus m of lm words. -/
def progState (lc : LifeCycle) (maint : Bool) (a x m lm : Nat) : State :=
  { runningBn { runOrder with hdr := { maint := maint, bnLen := 1000 } } slotsHand
      { inProg := true, seeded := true, modulus := m, lm := lm, set := 40, sets := [(33, { typ := 3, bitLen := 7, checked := true, fields := [97] }), (34, { typ := 4, bitLen := 7, checked := true }),
          (35, { typ := 3, bitLen := 7, fields := [97] }), (40, { typ := 5, bitLen := 7, checked := true, fields := [97, 8, 3] })] } with
    mode := { readyMode with lc := lc }
    mem := { words := [(0, BitVec.ofNat 64 a), (4, BitVec.ofNat 64 x)].filter fun p => p.2 != 0
             descs := [(0, 0x8000000300000000), (1, 0x8000000300000004), (2, 0x8000000300000008), (3, 0x800000030000000C), (4, 0x8000001800000064)] } }
/-- The value a result leaves in slot 3 of engine 0, when the program goes on with the next instruction. -/
def slot3Is (r : Result) (n : Nat) : Bool := nextHas r fun t => (bnEng t 0).pc == 1 && slotLow t 0 3 4 == n && memoryWf t
theorem test_program_runs : ∃ v, programRuns (progState .production false 5 7 97 1) 0 0 v := ⟨_, rfl, rfl, rfl, rfl⟩
theorem test_psel : nextHas (exec (.psel 0 33 1) (progState .production false 5 7 0 0)) (fun t => (bnEng t 0).modulus == 97 && (bnEng t 0).lm == 1) = true
    ∧ nextHas (exec (.psel 0 33 256) (progState .production false 5 7 0 0)) (fun t => (bnEng t 0).lm == 256) = true
    ∧ nextHas (exec (.psel 0 0 0) (progState .production false 5 7 0 0)) (fun t => (bnEng t 0).lm == 4) = true
    ∧ fixes (exec (.psel 0 34 1) (progState .production false 5 7 0 0)) .malformed = true ∧ fixes (exec (.psel 0 35 1) (progState .production false 5 7 0 0)) .policy = true
    ∧ nextHas (exec (.psel 0 35 1) (progState .test false 5 7 0 0)) (fun t => (bnEng t 0).modulus == 97) = true
    ∧ fixes (exec (.psel 0 63 1) (progState .production false 5 7 0 0)) .malformed = true := by decide +kernel
theorem test_psetm : fixes (exec (.psetm 0 0) (progState .production false 5 7 0 0)) .policy = true
    ∧ fixes (exec (.psetm 0 0) (progState .production true 4 7 0 0)) .malformed = true
    ∧ nextHas (exec (.psetm 0 0) (progState .production true 5 7 0 0)) (fun t => (bnEng t 0).modulus == 5 && (bnEng t 0).lm == 4) = true := by decide +kernel
theorem test_pull : nextHas (exec (.pull 0 3 0 0 0) { runningBn runOrder { op := some (.slots 0 0), args := [(0, recHandle aRec, 5)] } { inProg := true, keyIn := [(0, 77)] } with
      mem := (progState .test false 0 0 0 0).mem, ks := { recs := [(5, aRec)], table := [(5, (.live, 1))] } })
      (fun t => bit (slotDesc t 0 3) 62 && slotLow t 0 3 4 == 77) = true := by decide +kernel
theorem test_sdef : slotRefused (progState .test false 0 0 0 0) 0 9 (BitVec.ofNat 64 (200 + 2 ^ 63)) = false ∧ slotRefused (progState .test false 0 0 0 0) 0 9 (BitVec.ofNat 64 (2 ^ 63)) = true
    ∧ nextHas (exec (.sdef 0 9 200) (progState .test false 0 0 0 0)) (fun t => slotDesc t 0 9 == 0x80000000000000C8) = true
    ∧ nextHas (exec (.sdef 0 9 0) (progState .test false 0 0 0 0)) (fun t => slotDesc t 0 9 == 0) = true := by decide +kernel
theorem test_moves : slot3Is (exec (.mov 0 3 0) (progState .test false 5 7 0 0)) 5 = true ∧ slot3Is (exec (.zero 0 3) (progState .test false 5 7 0 0)) 0 = true
    ∧ endsAs (exec (.mov 0 3 0) (poisonWord (progState .test false 5 7 0 0) 6 3)) .poison = true
    ∧ nextHas (exec (.keccak 0 4) (progState .test false 0 0 0 0)) (fun t => slotLow t 0 4 1 == 0xF1258F7940E1DDE7) = true := by decide +kernel
theorem test_compare : nextHas (exec (.cmp 0 0 1) (progState .test false 5 7 0 0)) (fun t => !(bnEng t 0).eq && (bnEng t 0).lt) = true
    ∧ nextHas (exec (.cmp 0 0 1) (progState .test false 5 5 0 0)) (fun t => (bnEng t 0).eq && !(bnEng t 0).lt) = true := by decide +kernel
theorem test_flow : bnFlag (bnEng (progState .test false 0 0 0 0) 0) (0 : SkipFlag).val = some false
    ∧ nextHas (exec (.skip 0 0 true 3) (progState .test false 0 0 0 0)) (fun t => (bnEng t 0).pc == 4) = true
    ∧ nextHas (exec (.skip 0 4 false 3) (progState .test false 0 0 0 0)) (fun t => (bnEng t 0).pc == 1) = true
    ∧ refusedForm (exec (.skip 0 5 false 3) (progState .test false 0 0 0 0)) = true
    ∧ nextHas (exec (.bnLoop 0 0 0xFFFF) (progState .test false 0 0 0 0)) (fun t => (bnEng t 0).loops.length == 1) = true
    ∧ fixes (exec (.bnEnd 0 0) (progState .test false 0 0 0 0)) .done = true ∧ refusedForm (exec (.bnEnd 0 7) (progState .test false 0 0 0 0)) = true := by decide +kernel
theorem test_rndm : (nextHas (exec (.rndm 0 3) (progState .test false 0 0 97 1)) fun t => (bnEng t 0).pc == 1) = true := by decide +kernel
theorem test_modular : slot3Is (exec (.madd 0 3 0 1) (progState .production false 96 96 97 1)) 95 = true ∧ slot3Is (exec (.msub 0 3 0 1) (progState .production false 0 96 97 1)) 1 = true
    ∧ (nextHas (exec (.mmul 0 3 0 1) (progState .production false 95 96 97 1)) fun t => (bnEng t 0).pc == 1) = true ∧ slot3Is (exec (.minv 0 3 0) (progState .production false 2 0 97 1)) 49 = true
    ∧ slot3Is (exec (.mexp 0 3 0 1) (progState .production false 2 7 97 1)) 31 = true ∧ slot3Is (exec (.bnMul 0 3 0 1) (progState .production false 5 7 97 1)) 35 = true
    ∧ slot3Is (exec (.mred 0 3 0) (progState .production false 99 0 97 1)) 2 = true
    ∧ fixes (exec (.madd 0 3 0 1) (progState .production false 1 1 0 1)) .malformed = true := by decide +kernel
theorem test_montgomery : (nextHas (exec (.tom 0 3 0) (progState .production false 96 0 97 1)) fun t => (bnEng t 0).pc == 1) = true
    ∧ (nextHas (exec (.fromm 0 3 0) (progState .production false 96 0 97 1)) fun t => (bnEng t 0).pc == 1) = true := by decide +kernel
theorem test_sums : slot3Is (exec (.sump 0 3 0 1 1 3) (progState .production false 5 7 97 1)) 35 = true ∧ sumProducts (2 ^ 376 - 1) (2 ^ 376 - 1) 6 1 = ((2 ^ 376 - 1) * (2 ^ 376 - 1), false)
    ∧ nextHas (exec (.vred 0 0 1 3) (progState .production false 99 0 97 1)) (fun t => slotLow t 0 0 4 == 2) = true := by decide +kernel
theorem test_polynomials : nttSet (bnEng (progState .test false 1 2 97 1) 0) = some (97, 8, 3) ∧ polyWords (bnEng (progState .test false 1 2 97 1) 0) = 4
    ∧ slot3Is (exec (.padd 0 3 0 1 false) (progState .test false 96 2 97 1)) 1 = true ∧ slot3Is (exec (.pmul 0 3 0 1) (progState .test false 96 2 97 1)) 95 = true
    ∧ (nextHas (exec (.ntt 0 3 0) (progState .test false 96 2 97 1)) fun t => (bnEng t 0).pc == 1) = true
    ∧ (nextHas (exec (.sample 0 3 0) (progState .test false 96 2 97 1)) fun t => (bnEng t 0).pc == 1) = true := by decide +kernel

/-! ## The loader and the library (07, 09) -/

/-- Routine 0010h as 07 lays it out in its worked example: six bundles, each word written from the encodings of 05 and 06. -/
def kdfImage : Image := { hdr := { routine := 0x10, version := 1, boundA := 848, fetch := 1, codeLen := 6 }, code := [
  0x05821860, 0x0DA80008, 0x15AD0008, 0x058C6860,
  0x25400000, 0x01000000, 0xB8000600, 0x7D800004,
  0xA8040000, 0x054A2060, 0xBD420400, 0xBCA21400,
  0xB0800000, 0xB8880E00, 0xB4883000, 0xB8880E00,
  0xB8448000, 0xB0C40000, 0xBD660000, 0xA1600000,
  0x00000000, 0x00000000, 0x00000000, 0xA000000A] }

/-- The worked example of 07: BOUND_A 848, BOUND_B and BN_LEN 0, FETCH 1, class c0. -/
theorem test_worked_bound : (match analyse kdfImage [] false with | .ok f => f == ⟨848, 0, 0, 1, false⟩ && minClassOf f == some 0 | .error _ => false) = true := by decide +kernel

/-- The first slot of bundle 0 with a nonzero low field is refused, by its bundle. -/
theorem test_bad_bits : (match analyse { kdfImage with code := 0x05821861 :: kdfImage.code.tail } [] false with | .ok _ => false | .error k => k == 0) = true := by decide +kernel

/-- The worked example of 09: a longest path of 2,028 cycles, BN_LEN 8 with its transfers of 1,504 cycles. -/
theorem test_worked_program : slotCheck [
    0x040040BF00000000, 0x040080BF000000C0, 0x0400C00300000180, 0x0100000000000003, 0x1100C0100806001F, 0x20000000000B0005,
    0x120040000006001F, 0x120080000006001F, 0x1100C0100806001F, 0x20000000000B0001, 0x220000000000000F, 0x2200000000000000] = some (2028, 0)
    ∧ handTransfers [(0, .inp 1 1536 true), (0, .inp 2 1536 true), (0, .out 3 32)] = 1504
    ∧ ceilDiv (4352 + 1504 + 2028) 998 = 8 := by decide +kernel

/-- Engine 0 runs library routine rn with given order data and input. -/
def routineOrder (rn : Nat) (data : Nat) (l : List Byte) : Order := { runOrder with data := BitVec.ofNat 512 (rn + data), input := l, inputIn := true }
def routineState (rn data : Nat) (l : List Byte) : State := runWith (routineOrder rn data l) {}
theorem test_routine_runs : routineRuns (routineState 0x34 (2 ^ 19) []) 0 0 (routineOrder 0x34 (2 ^ 19) []) 0x34 ∧ rekeySlotOk (routineOrder 0x34 (2 ^ 19) []) = true
    ∧ rekeySlotOk (routineOrder 0x34 0 []) = false ∧ rekeySlotOk (routineOrder 0x34 (2 ^ 19 + 24 * 2 ^ 320) []) = true
    ∧ rekeySlotOk (routineOrder 0x34 (2 ^ 19 + 25 * 2 ^ 320) []) = false := by decide +kernel
theorem test_echo : endsAs (exec (.echo 0) (routineState 0 0 [])) .done = true ∧ endsAs (exec (.rekeySlot 0) (routineState 0x34 (2 ^ 19) [])) .done = true
    ∧ endsAs (exec (.rekeySlot 0) (routineState 0x34 0 [])) .malformed = true := by decide +kernel

/-- A REKEY_STEP of one subject under the record's key: the template of an ephemeral AES-256 record. -/
def stepInput : List Byte := [3, 0, 0, 32, 1, 2] ++ List.replicate 66 0
def stepData : Nat := (recHandle aRec).toNat * 2 ^ 128 + 72 * 2 ^ 320 + 8 * 2 ^ 448
def stepState : State := { routineState 0x35 stepData stepInput with
  mode := { readyMode with lc := .test }, ks := { recs := [(5, aRec)], table := [(5, (.live, 1))] }, regs := [(sltBase 0 + 0x400, 5)] }
theorem test_rekey_step : rekeyCount (routineOrder 0x35 stepData stepInput) = some 1 ∧ rekeyCount (routineOrder 0x35 0 []) = none
    ∧ rekeyTmplOk (tmplOf (inputNum (routineOrder 0x35 stepData stepInput) % 2 ^ 512)) = true
    ∧ mayNameKey (routineOrder 0x35 stepData stepInput) (recHandle aRec) = true
    ∧ answers (keyChecks stepState (recHandle aRec) 0 0 .clean .clean) = true
    ∧ endsAs (exec (.rekeyStep 0 .clean [7]) (routineState 0x35 0 [])) .malformed = true := by decide +kernel
theorem test_two_phases : nextHas (exec (.transportOpen 0) (routineState 0x50 (1120 * 2 ^ 320) [])) (fun t => match order? t 0 with | some v => v.phase == .bnQueued | none => false) = true
    ∧ endsAs (exec (.transportOpen 0) (routineState 0x50 (1119 * 2 ^ 320) [])) .malformed = true
    ∧ endsAs (exec (.transportOpen 0) { runCore {} with adm := { orders := [(0, routineOrder 0x50 0 [])] }, rooms := { engines := [(0, { order := some 0, second := true })], frames := [(0, 0)] } }) .done = true := by decide +kernel

/-- An attestation request that names no key of the own slice. -/
def attestInput : List Byte := [0x41, 0x54, 0x52, 0x51] ++ List.replicate 36 0 ++ [1] ++ List.replicate 23 0
theorem test_attest : attestOk (routineOrder 0x58 (64 * 2 ^ 320 + 320 * 2 ^ 448) attestInput) = true ∧ attestOk (routineOrder 0x58 (64 * 2 ^ 320 + 319 * 2 ^ 448) attestInput) = false
    ∧ hSlice (BitVec.ofNat 64 (bytesOf (inputNum (routineOrder 0x58 0 attestInput)) 0x28 8)) = 1
    ∧ endsAs (exec (.attest 0 .clean) (routineState 0x58 0 attestInput)) .malformed = true := by decide +kernel
theorem test_hearth_raw : endsAs (exec (.hearthRaw 0) { routineState 0xE0 (8 * 2 ^ 448) [] with ns := { capValid := true, cap := List.replicate 64 true } }) .done = true
    ∧ endsAs (exec (.hearthRaw 0) { routineState 0xE0 (8 * 2 ^ 448) [] with ns := { capValid := true, cap := List.replicate 63 true } }) .rejectLimit = true
    ∧ endsAs (exec (.hearthRaw 0) (routineState 0xE0 (8 * 2 ^ 448) [])) .malformed = true := by decide +kernel

/-- A test-mode image header of one bundle that only exits: magic, format 1, routine 7FFh, version 1, lengths. -/
def tinyImage : List Byte :=
  [0x44, 0x59, 0x56, 0x31, 1, 0, 0xFF, 0x07, 1, 0, 0, 0, 0, 0, 0, 0, 123, 0, 0, 0] ++ List.replicate 12 0 ++ [1, 0, 0, 0, 0, 0, 0, 0, 0xDD, 0x0D, 0, 0]
    ++ List.replicate 84 0 ++ List.replicate 15 0 ++ [0xA0] ++ List.replicate 3405 0
/-- BLANK, READY. -/
def blankState : State := inMode { valid := true, ready := true, time := .locked }
theorem test_loader_form : tinyImage.length = 3549 ∧ imageFormOk 3549 tinyImage = true ∧ imageFormOk 3548 tinyImage = false ∧ ldGate blankState = none
    ∧ managerOpen blankState := by decide +kernel
theorem test_loader_tests : (imageTests blankState (imageOfBytes tinyImage) false).1 ≠ 0 ∧ (imageTests blankState (imageOfBytes tinyImage) true).1 = 0 := by decide +kernel
/-- In TEST with signing slot 1 filled: the image passes its tests and, when the command is done, is in the directory. -/
def signedImage : List Byte := tinyImage.take 0x1F ++ [1] ++ tinyImage.drop 0x20
def signState : State := { inMode { valid := true, ready := true, time := .locked, lc := .test } with ld := { keys := [(1, 0)] } }
theorem test_loader_loads : (imageTests signState (imageOfBytes signedImage) true).1 = 0
    ∧ nextHas (exec (.routineLoad 3549 (.ok signedImage) true) signState) (fun t => nextHas (exec .loaderCommandDone t) fun u => (tfind u.ld.dir 0x7FF).isSome) = true
    ∧ nextHas (exec (.routineCheck 3549 (.ok signedImage) true) signState) (fun t => nextHas (exec .loaderCommandDone t) fun u => u.ld.dir == []) = true := by decide +kernel
theorem test_loader_refusals : (match (loadImage signState 1 3549 .failed true).ld.cmd with | some c => c.reason == 3 | none => false) = true
    ∧ (match (loadImage signState 1 3548 (.ok tinyImage) true).ld.cmd with | some c => c.reason == 4 | none => false) = true
    ∧ (match (unloadCmd signState 5).ld.cmd with | some c => c.reason == 0xC | none => false) = true
    ∧ isLocked { signState with mode := { readyMode with lock := true } } = true := by decide +kernel

/-! ## Key store (08) -/

/-- READY, the key store restored, one live record; the keys of the cellar derived. -/
def storeState : State := wrF { readyState with ks := { recs := [(5, aRec)], table := [(5, (.live, 1))] }, keys := { memory := true, cache := true, vault := true } } 0x40000 0 0 1
/-- The status code in KS_CMD_STS after a result. -/
def ksSts (r : Result) (code : Nat) : Bool := nextHas r fun t => rdF t 0x40020 15 0 == code && rdF t 0x40020 16 16 == 0
theorem test_ks_commands : managerOpen storeState ∧ ksRestored storeState = true ∧ ksRestored readyState = false ∧ journalFull storeState = false
    ∧ (ksSts (exec .ksDelete storeState) 6 = true) ∧ (ksSts (exec .ksDelete (wr storeState 0x40028 (recHandle aRec))) 0 = true)
    ∧ (nextHas (exec .ksDelete (wr storeState 0x40028 (recHandle aRec))) fun t => t.ks.recs == []) = true
    ∧ (ksSts (exec (.ksRestrict 1) (wr storeState 0x40028 (recHandle aRec))) 0 = true)
    ∧ (nextHas (exec (.ksRestrict 1) (wr storeState 0x40028 (recHandle aRec))) fun t => (tget {} t.ks.recs 5).policy == 0xFE) = true := by decide +kernel
theorem test_ks_others : (ksSts (exec (.ksPurge 0) storeState) 0 = true) ∧ (ksSts (exec .ksNewImage storeState) 0 = true)
    ∧ (nextHas (exec .ksNewImage storeState) fun t => t.ks.building.isSome) = true
    ∧ (nextHas (exec .ksRotateTransport storeState) fun t => rdF t 0x40068 31 0 == 1) = true
    ∧ (ksSts (exec .ksDelete { storeState with mode := { readyMode with lock := true } }) 7 = true)
    ∧ (chainOf { storeState with ks := { recs := [(5, { aRec with typ := 0x40 })] } } (recHandle { aRec with typ := 0x40 })).isSome = true := by decide +kernel
theorem test_ks_busy : (nextHas (exec .ksDelete { storeState with ks := { cmd := some ⟨1, 0, 0⟩ } }) fun t => rdF t 0x40008 10 10 == 1) = true
    ∧ journalFull (wrF storeState 0xC0218 63 48 2048) = true
    ∧ (nextHas (exec (.ksPurge 3) (wrF storeState 0xC0218 63 48 2048)) fun t => t.ks.cmd == some ⟨2, 3, 0⟩ && rdF t 0x40020 16 16 == 1) = true := by decide +kernel
theorem test_gen_base : (nextHas (exec (.genBaseWrite 9) { storeState with ks := { fresh := true } }) fun t => rdF t 0x40058 20 0 == 9) = true
    ∧ (nextHas (exec (.genBaseWrite 9) storeState) fun t => rdF t 0x40058 20 0 == rdF storeState 0x40058 20 0) = true := by decide +kernel
theorem test_ways : (nextHas (exec (.waysWrite 1 15) storeState) fun t => minWays t 1 == 14) = true
    ∧ (nextHas (exec (.waysWrite 1 14) (wrF storeState (sltBase 2 + 0x410) 3 0 1)) fun t => minWays t 1 == 0) = true := by decide +kernel
theorem test_chain_expiry : (nextHas (exec (.chainExpiry 5) { storeState with ks := { recs := [(5, { aRec with complete := false })] }, tb := { run := beatsPerSec } }) fun t => t.ks.recs == []) = true
    ∧ (nextHas (exec (.chainExpiry 5) { storeState with ks := { recs := [(5, { aRec with complete := false })] }, tb := { run := beatsPerSec - 1 } }) fun t => t.ks.recs.length == 1) = true := by decide +kernel
theorem test_journal : pageDue { storeState with ks := { buffer := [⟨5, .live, 1, none, 0, 0⟩] }, tb := { run := 256 } } = true
    ∧ (nextHas (exec .journalProgram { storeState with ks := { buffer := [⟨5, .live, 1, none, 0, 0⟩] }, tb := { run := 256 } }) fun t => t.ks.durable.length == 1 && t.ks.buffer == []) = true
    ∧ (nextHas (exec .imageComplete { storeState with ks := { building := some ({}, 1), durable := [[], []] } }) fun t => t.ks.durable == [[]] && t.ks.building == none) = true := by decide +kernel
theorem test_restores : (nextHas (exec (.recordRestore 0) { storeState with ks := { poisoned := [63] } }) fun t => t.ks.poisoned == []) = true
    ∧ (nextHas (exec (.nodeReencryptionDone 2 7) { storeState with ks := { reenc := [(2, 7, 0)] } }) fun t => t.ks.reenc == []) = true
    ∧ (nextHas (exec (.cellarRestoreDone {}) { readyState with keys := { memory := true } }) fun t => t.mode.ready) = true := by decide +kernel

/-! ## Larder and parameter sets (09) -/

/-- A charge that holds the slot area of engine 0. -/
def heldArea : State := { readyState with adm := { charges := [
  { order := 0, slice := 0, cls := 0, room := 0, w := 0, den := 0, cel := 0, rd := 0, wr := 0, stg := 0, bnLen := 1, bnEng := some 0, bnOld := none,
    reserve := true, oldRes := true, release := 0, due := 0, held := true, stgHeld := true, area := true }] } }
theorem test_larder_writes : areaTaken heldArea 0 = true ∧ areaTaken readyState 0 = false
    ∧ (nextHas (exec (.slotDescriptorWrite 0 0 0x8000000000000000) heldArea) fun t => slotDesc t 0 0 == 0 && rdF t 0x50008 1 1 == 1) = true
    ∧ (nextHas (exec (.slotDescriptorWrite 0 5 0x8000000000000001) (progState .test false 0 0 0 0)) fun t => slotDesc t 0 5 == 0) = true
    ∧ (nextHas (exec (.slotDescriptorWrite 0 1023 0x8000000000003FFF) readyState) fun t => slotDesc t 0 1023 == 0x8000000000003FFF && memoryWf t) = true
    ∧ slotRefused readyState 0 0 0x8000000100003FFF = true
    ∧ (nextHas (exec (.larderWindowWrite 0 16383 9) readyState) fun t => tget 0 t.mem.words 16383 == 9) = true
    ∧ (nextHas (exec (.larderWindowWrite 0 0 9) (setDesc readyState 0 0 0xC000000000000000)) fun t => tget 0 t.mem.words 0 == 0) = true := by decide +kernel

/-- A type-03h descriptor of 64 bits: header, then the prime 2⁶⁴ − 59 big-endian. -/
def primeDesc : List Byte := [0x42, 0x4E, 0x50, 0x53, 3, 64, 0] ++ List.replicate 57 0 ++ [255, 255, 255, 255, 255, 255, 255, 197]
def testState : State := inMode { valid := true, ready := true, time := .locked, lc := .test }
theorem test_pset_gates : psetGate testState 32 true = none ∧ psetGate testState 31 false = some (2, .policy) ∧ psetGate readyState 32 true = some (2, .policy)
    ∧ psetGate { readyState with mode := { readyMode with lock := true } } 32 false = some (1, .locked) ∧ psetFormOk testState 72 primeDesc = true ∧ psetFormOk testState 71 primeDesc = false
    ∧ psetFormOk readyState 72 primeDesc = false := by decide +kernel
theorem test_pset_load : (nextHas (exec (.psetLoad 32 false 72 (.ok primeDesc)) testState) fun t => t.bn.cmd.isSome) = true
    ∧ (nextHas (exec (.psetLoad 32 true 72 (.ok primeDesc)) testState) fun t => (match tfind t.bn.psets 32 with | some p => p.fields == [2 ^ 64 - 59] && !p.checked | none => false)) = true
    ∧ (nextHas (exec (.psetErase 32) { testState with bn := { psets := [(32, {})] } }) fun t => t.bn.psets == []) = true
    ∧ (nextHas (exec .psetCheckDone { testState with bn := { cmd := some (32, { typ := 4, bitLen := 64, fields := [65537] }) } }) fun t => (match tfind t.bn.psets 32 with | some p => p.checked | none => false)) = true
    ∧ (nextHas (exec .psetCheckDone { testState with bn := { cmd := some (32, { typ := 3, bitLen := 64, fields := [98] }) } }) fun t => t.bn.psets == [] && t.bn.cmd == none) = true := by decide +kernel
/-- q = 17, n = 4: 2n = 8 divides 16, and 2 has order exactly 8 modulo 17, 4 has order 4. Miller–Rabin finds 91 composite
to base 2 and prime to base 9, and 2⁶⁴ − 59 prime. -/
theorem test_pset_order : badNtt { typ := 5, bitLen := 64, fields := [17, 4, 2] } = false ∧ badNtt { typ := 5, bitLen := 64, fields := [17, 4, 4] } = true
    ∧ firstReason testState { typ := 4, bitLen := 64, fields := [65537] } = 0 ∧ firstReason testState { typ := 4, bitLen := 64, fields := [65535] } = 0x19
    ∧ firstReason testState { typ := 3, bitLen := 64, fields := [98] } = 0x10
    ∧ roundPasses 91 2 = false ∧ roundPasses 91 9 = true ∧ probablyPrime [0, 1, 3] (2 ^ 64 - 59) = true := by decide +kernel
theorem test_bn_engines : (nextHas (exec (.bnEngineTakeOut 0) (queuedBn slotsHand)) fun t => (bnEng t 0).out) = true
    ∧ (nextHas (exec (.bnEngineReturn 0) { readyState with bn := { engs := [(0, { out := true })] } }) fun t => (bnEng t 0).testing) = true
    ∧ (nextHas (exec (.bnSelftestDone 0) { readyState with bn := { engs := [(0, { out := true, testing := true })] } }) fun t => !(bnEng t 0).out) = true
    ∧ (nextHas (exec (.bnSelftestDone 0) { readyState with bn := { engs := [(0, { out := true })] } }) fun t => (bnEng t 0).out) = true := by decide +kernel

/-! ## The domain (10) -/

/-- An active roster entry of a device. -/
def entry (dev : Nat) : RosterEntry := ⟨BitVec.ofNat 128 dev, 1, 1, 0, 0⟩
/-- A member, number 7 of domain 5, that holds a pair key with member 9. -/
def memberCu : Cu := { member := some 7, domainId := 5, cert := { serial := 1 }, roster := [(7, entry 0xD7), (9, entry 0xD9)], pairs := [(9, { id := 3, made := 0 })] }
def memberState : State := { readyState with cu := memberCu }
/-- An envelope header of member 9 to this module. -/
def hdr9 : EnvHdr := ⟨9, 7, true, 5, 1, 0, false, 3, 0, 1⟩
/-- CU_CMD_STS's status code and detail after a result. -/
def cuSts (r : Result) (st detail : Nat) : Bool := nextHas r fun t => rdF t 0x60028 15 0 == st && rdF t 0x60028 23 16 == detail

theorem test_enrol_gate : managerOpen readyState ∧ rdF readyState 0x60028 24 24 ≠ 1 ∧ enrolGate readyState = none ∧ enrolGate memberState = some (.policy, 0x10)
    ∧ enrolGate (inMode { readyMode with lock := true }) = some (.locked, 0xFF) ∧ enrolGate (inMode { readyMode with time := .free }) = some (.timeUntrusted, 0xFF) := by decide +kernel
theorem test_found_refusals : cuSts (exec (.found true) readyState) 5 0x11 = true ∧ cuSts (exec (.found true) memberState) 5 0x10 = true
    ∧ (nextHas (exec .remove memberState) fun t => rdF t 0x60028 15 0 == 5) = true := by decide +kernel

/-- FOUND tickets of number 7 by the cards in slots 0 and 1. -/
def cardTicket (pub : BitVec 768) : Held := { raw := BitVec.ofNat 2176 (1 * 2 ^ 48 + keyIdOf pub * 2 ^ 320 + 7 * 2 ^ 768), digest := 0, isLocal := true, index := 64, kind := 0xFF, lapse := none }
def foundState : State := wrF { readyState with sl := { held := [cardTicket 1, cardTicket 2], slots := [(0, { card := some (1, 0xFF) }), (1, { card := some (2, 0xFF) })] } } 0x60030 17 0 7
theorem test_found : ticketPair foundState 1 (cuNumber foundState) = some (cardTicket 1, cardTicket 2)
    ∧ foundSlots foundState (cardTicket 1, cardTicket 2) = some (0, 1) ∧ cuSts (exec (.found false) foundState) 9 0xFF = true := by decide +kernel
theorem test_found_enrolls : (nextHas (exec (.found true) foundState) fun t => t.cu.member == some 7 && t.sl.custody.length == 2) = true := by decide +kernel

/-- JOIN tickets of number 7 with sponsor 9. -/
def joinTicketOf (k kind : Nat) : Held := { raw := BitVec.ofNat 2176 (2 * 2 ^ 48 + k * 2 ^ 320 + (9 + 7 * 2 ^ 32) * 2 ^ 768), digest := 0, isLocal := true, index := 64, kind := kind, lapse := none }
def cert9 : Cert := { domain := 5, device := 0xD9, member := 9, serial := 1, sponsor := 9 }
def joinState : State := wrF (wrF { readyState with sl := { held := [joinTicketOf (keyIdOf 1) 0, joinTicketOf (keyIdOf 2) 1], slots := [(0, { card := some (1, 0) }), (1, { card := some (2, 1) })] } } 0x60030 17 0 7) 0x60030 49 32 9
theorem test_join : (ticketPair joinState 2 (cuPeer joinState + fld (cuNumber joinState) 32)).isSome = true ∧ cuSts (exec (.join .failed (some (1, 2))) joinState) 9 0xFF = true
    ∧ cuSts (exec (.join (.ok (some cert9)) none) joinState) 5 0x11 = true
    ∧ joinSlots joinState (joinTicketOf (keyIdOf 1) 0, joinTicketOf (keyIdOf 2) 1) = some (0, 1)
    ∧ joinSlots joinState (joinTicketOf (keyIdOf 2) 1, joinTicketOf (keyIdOf 3) 0) = none
    ∧ (nextHas (exec (.join (.ok (some cert9)) (some (1, 2))) joinState) fun t => t.cu.joining.isSome && t.sl.held == []) = true := by decide +kernel
theorem test_remove : (nextHas (exec .remove (wrF { memberState with sl := { held := [ticketOf 3 (9 + 2 ^ 32) 1 0, ticketOf 3 (9 + 2 ^ 32) 2 1] } } 0x60030 17 0 9)) fun t => !rosterActive t 9) = true
    ∧ rosterActive memberState 9 = true := by decide +kernel
theorem test_challenge : cuSts (exec (.challenge .failed) memberState) 9 0xFF = true ∧ cuSts (exec (.challenge (.ok 4)) (wrF memberState 0x60030 49 32 9)) 0 0xFF = true
    ∧ nextHas (exec (.challenge (.ok 4)) upState) (fun t => t.regs == []) = true := by decide +kernel

/-- A join under way, with its number of sendings. -/
def joiningState (n run : Nat) : State := { readyState with cu := { joining := some { cert := cert9, number := 7, sends := n, lastRun := 0 } }, tb := { run := BitVec.ofNat 64 run } }
theorem test_join_resend : (nextHas (exec .joinReqResend (joiningState 3 (16 * beatsPerSec))) fun t => (t.cu.joining.map Joining.sends) == some 4) = true
    ∧ (nextHas (exec .joinReqResend (joiningState 4 (16 * beatsPerSec))) fun t => t.cu.joining == none) = true
    ∧ (nextHas (exec .joinReqResend (joiningState 3 (16 * beatsPerSec - 1))) fun t => (t.cu.joining.map Joining.sends) == some 3) = true := by decide +kernel
theorem test_watching : (nextHas (exec .rosterSyncSend { memberState with cu := { memberCu with syncing := [(9, 262048)] } }) fun t => t.cu.syncing == []) = true
    ∧ (nextHas (exec .handshakeStepRelease { memberState with cu := { memberCu with shakeQ := [{ step := 3, peer := 9 }] } }) fun t => t.cu.shakeQ == [] && t.cu.shakeRun == 1) = true
    ∧ shakeRan { memberState with cu := { memberCu with shakeRun := 255 } } < 256
    ∧ (nextHas (exec (.pairKeyAgeExpiry 9) { memberState with tb := { run := 65536 * 1048576 } }) fun t => t.cu.shakes.length == 1) = true
    ∧ (nextHas (exec (.previousPairKeyExpiry 9) { memberState with cu := { memberCu with pairs := [(9, { id := 3, made := 0, prev := some (2, 0, 0) })] }, tb := { run := 1048576 } })
        fun t => (pairWith t 9).map Pair.prev == some none) = true := by decide +kernel
theorem test_beats : (nextHas (exec .beatSend { memberState with tb := { run := 0x100000000 } }) fun t => t.cu.lastBeat == 0x100000000) = true
    ∧ (nextHas (exec (.peerAbsenceTimeout 9) { memberState with cu := { memberCu with watch := [(9, { heard := 0 })] }, tb := { run := 0x1000000000 } }) fun t => t.cu.watch.all fun p => p.2.absent) = true
    ∧ (nextHas (exec .isolationTimeout { memberState with tb := { run := 0x10000000000000 } }) fun t => t.mode.domain == .isolated) = true
    ∧ (nextHas (exec .internalOrderResubmit { memberState with cu := { memberCu with intern := [(0xF2, 0, none), (0xF2, 99, none)] } }) fun t => t.cu.intern.any fun p => p.2.1 == 99) = true := by decide +kernel

/-! ## Envelopes (10) -/

/-- The key under which an envelope of a kind is sealed. -/
def sealKey (s : State) (h : EnvHdr) (kind : Nat) (m : Msg) : Key256 := if envMode kind = 0 then (heldKey s h).getD 0 else m.key
/-- A header with the tag that is due. -/
def sealedHdr (s : State) (h : EnvHdr) (kind : Nat) (m : Msg) : EnvHdr := { h with tag := dueTag h kind m (sealKey s h kind m) }
/-- What a header and a message need beside the tag. -/
def sealFits (s : State) (h : EnvHdr) (kind : Nat) (m : Msg) : Bool :=
  !isLocked s && h.formOk && envDomainOk s h kind && envForMe s h kind && m.sigsOk
    && (match m.serial with
        | some n => (roster s h.sender.val).serial ≤ n
        | none => true)
    && (envMode kind != 0 || (match pairWith s h.sender.val with
        | some q => (heldKey s h).isSome && seqFresh q h.seq.toNat
        | none => false))
/-- The state in which an envelope that passes is heard. -/
def heardState (s : State) (h : EnvHdr) (kind : Nat) : State :=
  let pass := fun (u : State) =>
    let s1 := cntUp u envCnt 63 32
    if showsMember kind && h.sender.val != ownNum u then heardFrom s1 h.sender.val h.locked else s1
  if envMode kind = 0 then
    match pairWith s h.sender.val with
    | some q =>
      let q1 := takeSeq { q with lastUse := runNow s } h.seq.toNat
      pass (withCu s fun c => { c with pairs := tins c.pairs h.sender.val q1, dpKey := (heldKey s h).getD 0 })
    | none => s
  else pass s

theorem sealed_accept (s : State) (h : EnvHdr) (kind : Nat) (m : Msg) (hf : sealFits s h kind m = true) :
    acceptEnv s (sealedHdr s h kind m) kind m = (heardState s h kind, true) := by
  simp only [sealFits, Bool.and_eq_true] at hf
  obtain ⟨⟨⟨⟨⟨⟨h1, h2⟩, h3⟩, h4⟩, h5⟩, h6⟩, h7⟩ := hf
  have e3 : envDomainOk s (sealedHdr s h kind m) kind = true := h3
  have e4 : envForMe s (sealedHdr s h kind m) kind = true := h4
  have ek : heldKey s (sealedHdr s h kind m) = heldKey s h := rfl
  have ev : verifies s (sealedHdr s h kind m) kind m = true := by
    have et : (sealedHdr s h kind m).tag == dueTag (sealedHdr s h kind m) kind m (sealKey s h kind m) := beq_self_eq_true (dueTag h kind m (sealKey s h kind m))
    simp only [verifies, ek, h5, Bool.and_true]
    rw [Bool.and_eq_true]
    exact ⟨et, h6⟩
  have el : isLocked s = false := by simpa using h1
  have ef : (sealedHdr s h kind m).formOk = true := h2
  by_cases hm : envMode kind = 0
  · rw [hm] at h7
    simp only [bne_self_eq_false, Bool.false_or] at h7
    cases hp : pairWith s h.sender.val with
    | none => rw [hp] at h7; exact absurd h7 Bool.false_ne_true
    | some q =>
      rw [hp] at h7
      simp only [Bool.and_eq_true] at h7
      have hk : (heldKey s h).isNone = false := by
        cases hh : heldKey s h with
        | none => rw [hh] at h7; exact absurd h7.1 Bool.false_ne_true
        | some _ => rfl
      have hp' : pairWith s (sealedHdr s h kind m).sender.val = some q := hp
      have hq : seqFresh q (sealedHdr s h kind m).seq.toNat = true := h7.2
      simp only [acceptEnv, heardState, el, ef, e3, e4, ek, ev, hm, hp, hp', hk, hq]
      rfl
  · have hmb : (envMode kind == 0) = false := by simpa using hm
    simp only [acceptEnv, heardState, el, ef, e3, e4, ev, hmb, if_neg hm]
    rfl
theorem sealed_passes (s : State) (h : EnvHdr) (kind : Nat) (m : Msg) (hf : sealFits s h kind m = true) :
    envelopePasses s (sealedHdr s h kind m) kind m := by rw [envelopePasses, sealed_accept s h kind m hf]
theorem sealed_heard (s : State) (h : EnvHdr) (kind : Nat) (m : Msg) (hf : sealFits s h kind m = true) :
    heard s (sealedHdr s h kind m) kind m = heardState s h kind := by rw [heard, sealed_accept s h kind m hf]

/-- A join under way at the candidate. -/
def candidate : State := joiningState 1 0
/-- A ring sender without a certificate's signature, or with another body, fails. -/
theorem test_envelope_fails : ¬ envelopePasses memberState { hdr9 with formOk := false } 0x14 (chalMsg 4 9)
    ∧ ¬ envelopePasses memberState { hdr9 with domain := 6 } 0x14 (chalMsg 4 9)
    ∧ ¬ envelopePasses memberState { hdr9 with recipient := 8 } 0x15 (respMsg 4 true)
    ∧ ¬ envelopePasses memberState { hdr9 with tag := 1 } 0x14 (chalMsg 4 9) ∧ ¬ envelopePasses memberState hdr9 0x15 (respMsg 4 false)
    ∧ ¬ envelopePasses memberState { hdr9 with pairId := 4 } 0x10 (beatMsg 0 0 1)
    ∧ envelopePasses memberState hdr9 0x14 (chalMsg 4 9) ∧ envelopePasses memberState hdr9 0x15 (respMsg 4 true) := by decide +kernel
theorem test_replay : ¬ seqFresh { id := 3, made := 0, high := 1, seen := [1] } 1 ∧ seqFresh { id := 3, made := 0, high := 65, seen := [65] } 1
    ∧ ¬ seqFresh { id := 3, made := 0, high := 66, seen := [66] } 1
    ∧ (takeSeq { id := 3, made := 0, high := 66, seen := [66, 2] } 67).seen = [67, 66] := by decide +kernel
theorem test_seal_fits (c : Cert) (x : BitVec 256) (ct : BitVec 8704) (t : Ticket) (b : JoinBody) (hb : b.cert.sigsOk = true) :
    sealFits memberState hdr9 0x08 (joinReqMsg memberState c x ct t t) = true ∧ sealFits candidate hdr9 0x09 (joinAckMsg candidate b) = true
    ∧ sealFits candidate hdr9 0x0A (joinNakMsg candidate 5 1) = true := by
  refine ⟨rfl, ?_, rfl⟩
  simp only [sealFits, joinAckMsg, hb]; rfl
theorem test_seal_kinds : sealFits memberState hdr9 0x01 (helloMsg cert9 0) = true ∧ sealFits memberState hdr9 0x02 (helloAckMsg memberState hdr9 cert9 0 0 0) = true
    ∧ sealFits memberState hdr9 0x03 (helloFinMsg memberState hdr9 0 0) = true ∧ sealFits memberState hdr9 0x0C (addMsg cert9) = true
    ∧ sealFits memberState (syncHdr hdr9 (List.replicate 96 (entry 1))) 0x0E (syncMsg 0 (List.replicate 96 (entry 1))) = true
    ∧ sealFits memberState hdr9 0x10 (beatMsg 0 0 1) = true ∧ sealFits memberState hdr9 0x11 (leaveMsg hdr9 1) = true
    ∧ sealFits memberState (ticketHdr hdr9 []) 0x40 (ticketMsg [] none) = true ∧ sealFits memberState hdr9 0x11 (leaveMsg hdr9 0) = false := by decide +kernel
theorem test_hello : certFits memberState cert9 = true ∧ (nextHas (exec (.hello hdr9 cert9 0) memberState) fun t => t.cu.shakeQ.length + t.cu.shakes.length ≠ 0) = true
    ∧ (nextHas (exec (.hello hdr9 { cert9 with member := 8 } 0) memberState) fun t => rdF t envErr 63 48 == 1) = true
    ∧ (nextHas (exec (.hello hdr9 { cert9 with sigsOk := false } 0) memberState) fun t => rdF t envErr 63 48 == 1) = true := by decide +kernel
/-- Handshakes with member 9, begun here or there. -/
def shakeOf (mine : Bool) : Shake := { peer := 9, mine := mine, id := 4 }
def shakeState (mine : Bool) : State := { memberState with cu := { memberCu with shakes := [shakeOf mine] } }
theorem test_hello_ack (x : BitVec 256) (ct : BitVec 8704) (confirm : BitVec 256) :
    envelopePasses (shakeState true) (sealedHdr (shakeState true) hdr9 0x02 (helloAckMsg (shakeState true) hdr9 cert9 x ct confirm)) 0x02 (helloAckMsg (shakeState true) hdr9 cert9 x ct confirm)
    ∧ shakeWith (heardState (shakeState true) hdr9 0x02) 9 true = some (shakeOf true) ∧ certFits (heardState (shakeState true) hdr9 0x02) cert9 = true
    ∧ (runShake (heardState (shakeState true) hdr9 0x02) { step := 1, peer := 9 }).cu.shakeRun = 1 := by
  refine ⟨sealed_passes _ _ _ _ ?_, ?_, ?_, ?_⟩ <;> rfl
theorem test_hello_fin (ct : BitVec 8704) (confirm : BitVec 256) :
    envelopePasses (shakeState false) (sealedHdr (shakeState false) hdr9 0x03 (helloFinMsg (shakeState false) hdr9 ct confirm)) 0x03 (helloFinMsg (shakeState false) hdr9 ct confirm)
    ∧ shakeWith (heardState (shakeState false) hdr9 0x03) 9 false = some (shakeOf false) ∧ shakeWith (heardState memberState hdr9 0x03) 9 false = none := by
  refine ⟨sealed_passes _ _ _ _ ?_, ?_, ?_⟩ <;> rfl
/-- The JOIN_REQ of device 0xDA for number 10, and a JOIN_ACK that was sent for it. -/
def askedCert : Cert := { domain := 5, device := 0xDA, member := 10 }
def answeredState : State := { memberState with cu := { memberCu with joined := [(0xDA, 3, 0, { kind := 9, dst := 10, body := [] })] } }
theorem test_join_req (ct : BitVec 8704) (t : Ticket) :
    envelopePasses memberState (sealedHdr memberState hdr9 0x08 (joinReqMsg memberState askedCert 3 ct t t)) 0x08 (joinReqMsg memberState askedCert 3 ct t t)
    ∧ answeredJoin (heardState memberState hdr9 0x08) 0xDA 3 = none ∧ sealFits answeredState hdr9 0x08 (joinReqMsg answeredState askedCert 3 ct t t) = true
    ∧ answeredJoin (heardState answeredState hdr9 0x08) 0xDA 3 = some { kind := 9, dst := 10, body := [] } := by
  refine ⟨sealed_passes _ _ _ _ ?_, ?_, ?_, ?_⟩
  · rfl
  · decide +kernel
  · rfl
  · decide +kernel
theorem test_join_refusal : joinRefusal memberState askedCert ⟨0, false⟩ ⟨0, false⟩ = some (.policy, 1)
    ∧ joinRefusal { memberState with mode := { readyMode with time := .free } } askedCert ⟨0, false⟩ ⟨0, false⟩ = some (.timeUntrusted, 4) := by decide +kernel
/-- The certificate that a candidate asked for. -/
def ownCert : Cert := { domain := 5, device := deviceId, member := 7, sponsor := 9 }
def ackBody (c : Cert) : JoinBody := ⟨0, 0, c, 5, 0, 0, 0, 0, 0⟩
theorem test_join_ack (again : Bool) : (let s := { candidate with cu := { joining := some { cert := cert9, number := 7, sends := 1, lastRun := 0, answered := again } } }
    envelopePasses s (sealedHdr s hdr9 0x09 (joinAckMsg s (ackBody ownCert))) 0x09 (joinAckMsg s (ackBody ownCert))
    ∧ (heardState s hdr9 0x09).cu.joining = some { cert := cert9, number := 7, sends := 1, lastRun := 0, answered := again })
    ∧ joinFits { cert := cert9, number := 7, sends := 1, lastRun := 0 } (ackBody ownCert) = true
    ∧ joinFits { cert := cert9, number := 8, sends := 1, lastRun := 0 } (ackBody ownCert) = false := by
  refine ⟨⟨sealed_passes _ _ _ _ ?_, ?_⟩, ?_, ?_⟩
  · rfl
  · rfl
  · simp [joinFits, ackBody, ownCert, cert9]
  · simp [joinFits, ackBody, ownCert, cert9]
theorem test_join_nak : envelopePasses candidate (sealedHdr candidate hdr9 0x0A (joinNakMsg candidate 5 1)) 0x0A (joinNakMsg candidate 5 1)
    ∧ (nextHas (exec (.joinNak (sealedHdr candidate hdr9 0x0A (joinNakMsg candidate 5 1)) 5 1) candidate) fun t => t.cu.joining == none && rdF t 0x60028 15 0 == 5) = true := by decide +kernel
/-- Certificates for number 10, and an entry that another device holds there. -/
def rival : State := { memberState with cu := { memberCu with roster := [(7, entry 0xD7), (9, entry 0xD9), (10, { entry 0xDB with joinTime := 1 })] } }
theorem test_roster_add : envelopePasses memberState (sealedHdr memberState hdr9 0x0C (addMsg askedCert)) 0x0C (addMsg askedCert)
    ∧ certFits (heardState memberState hdr9 0x0C) askedCert = true ∧ (roster (heardState memberState hdr9 0x0C) 9).serial = cert9.serial
    ∧ certFits (heardState rival hdr9 0x0C) askedCert = false ∧ certWins (heardState rival hdr9 0x0C) askedCert = true
    ∧ certWins (heardState rival hdr9 0x0C) { askedCert with joinTime := 2 } = false
    ∧ rosterActive (takeCert memberState askedCert 9) 10 = true ∧ (roster (takeCert rival askedCert 9) 10).device = 0xDA := by
  refine ⟨sealed_passes _ _ _ _ ?_, ?_, ?_, ?_, ?_, ?_, ?_, ?_⟩ <;> decide +kernel
theorem test_roster_sync : (nextHas (exec (.rosterSync (sealedHdr memberState hdr9 0x0E (syncMsg 0 [entry 1])) 0 [entry 1]) memberState) fun t => rdF t envErr 63 48 == 1) = true
    ∧ envelopePasses memberState (sealedHdr memberState (syncHdr hdr9 (List.replicate 96 (entry 1))) 0x0E (syncMsg 0 (List.replicate 96 (entry 1)))) 0x0E (syncMsg 0 (List.replicate 96 (entry 1)))
    ∧ syncHdr (sealedHdr memberState (syncHdr hdr9 (List.replicate 96 (entry 1))) 0x0E (syncMsg 0 (List.replicate 96 (entry 1)))) (List.replicate 96 (entry 1))
        = sealedHdr memberState (syncHdr hdr9 (List.replicate 96 (entry 1))) 0x0E (syncMsg 0 (List.replicate 96 (entry 1))) := by
  refine ⟨?_, sealed_passes _ _ _ _ ?_, rfl⟩ <;> decide +kernel
theorem test_presence_envelopes : (nextHas (exec (.beat (sealedHdr memberState hdr9 0x10 (beatMsg 0 0 1)) 0 0 1) memberState) fun t => rdF t envCnt 63 32 == 1 && t.cu.watch.length == 1) = true
    ∧ (nextHas (exec (.leave (sealedHdr memberState hdr9 0x11 (leaveMsg hdr9 1)) 1) memberState) fun t => rdF t envCnt 63 32 == 1) = true
    ∧ (nextHas (exec (.chal hdr9 4 9) (wrF memberState 0x60010 47 32 1)) fun t => t.cu.chalRun == 1) = true
    ∧ (nextHas (exec (.chal hdr9 4 9) (wrF memberState 0x60010 47 32 0)) fun t => t.cu.chalRun == 0 && rdF t envErr 15 0 == 1) = true
    ∧ (nextHas (exec (.resp hdr9 4 true) memberState) fun t => rdF t envCnt 63 32 == 1) = true := by decide +kernel
/-- A register entry of index 63. -/
def entry63 : RegEntry := { ix := 63, kindB := true, pub := 1, name := 0, serial := 1 }
theorem test_ticket_envelope : envelopePasses memberState (sealedHdr memberState hdr9 0x40 (ticketMsg [] (some entry63))) 0x40 (ticketMsg [] (some entry63))
    ∧ seenMark (heardState memberState hdr9 0x40) (entryMark 63) 1 = false ∧ (tfind (takeReg memberState entry63 [] 9).sl.custody 63).isSome = true
    ∧ envelopePasses memberState (sealedHdr memberState hdr9 0x40 (ticketMsg [] none)) 0x40 (ticketMsg [] none) := by
  refine ⟨sealed_passes _ _ _ _ ?_, ?_, ?_, sealed_passes _ _ _ _ ?_⟩ <;> decide +kernel

/-- A body ticket of member 9's device for an operation, under a registered custodian. -/
def bodyTk (op args k : Nat) : Ticket := ⟨BitVec.ofNat 2176 (0x544B5752 + 2 ^ 32 + op * 2 ^ 48 + 5 * 2 ^ 64 + 0xD9 * 2 ^ 192 + k * 2 ^ 320 + args * 2 ^ 768), true⟩
/-- Two registered custodians, with key identities 1 and 2. -/
def custodians : Tab Custodian := [(0, { pub := 1, keyId := 1, kindB := false, name := 0, serial := 1 }), (1, { pub := 2, keyId := 2, kindB := true, name := 0, serial := 1 })]
def keptState : State := { memberState with sl := { custody := custodians } }
theorem test_roster_del : (let a := bodyTk 3 (9 + 2 ^ 32) 1
    let b := bodyTk 3 (9 + 2 ^ 32) 2
    envelopePasses keptState (sealedHdr keptState hdr9 0x0D (delMsg 9 1 a b)) 0x0D (delMsg 9 1 a b)
    ∧ memberDevice (heardState keptState hdr9 0x0D) (tkTarget a.raw) = true ∧ bodyPair (heardState keptState hdr9 0x0D) a b (tkTarget a.raw) 3 (9 + 2 ^ 32) = true
    ∧ seenMark (heardState keptState hdr9 0x0D) 9 (4294967296 + 1) = false ∧ bodyPair keptState a a (tkTarget a.raw) 3 (9 + 2 ^ 32) = false
    ∧ rosterActive (removeNumber keptState 9 1) 9 = false ∧ rosterActive (removeNumber keptState 9 2) 9 = true) := by
  refine ⟨sealed_passes _ _ _ _ ?_, ?_, ?_, ?_, ?_, ?_, ?_⟩ <;> decide +kernel
theorem test_body_ticket_fields : tkOp (bodyTk 3 8 1).raw = 3 ∧ tkDomain (bodyTk 3 8 1).raw = 5 ∧ tkTarget (bodyTk 3 8 1).raw = 0xD9 ∧ tkKey (bodyTk 3 8 1).raw = 1
    ∧ tkArgs (bodyTk 3 8 1).raw = 8 ∧ memberDevice memberState 0xD9 = true := by decide +kernel
theorem test_rings : (nextHas (exec (.outRingHeadWrite 5) memberState) fun t => rdF t outPtr 43 32 == 5) = true
    ∧ (nextHas (exec (.inRingTailWrite 5) memberState) fun t => t.cu.member == some 7) = true := by decide +kernel

/-! ## The stair (10) -/

/-- Both ports ACTIVE, unless the first is given; the ring map of three modules, this one at position 1. -/
def stairState (p : Port) : State := { memberState with st := { p0 := p, p1 := { state := .active }, map := List.replicate 3 ⟨0, 0, false⟩, self := 1, closed := true } }
def aPort : Port := { state := .active }
/-- A stair without a map. -/
def bareStair (p : Port) : State := { memberState with st := { p0 := p } }
def aFrame : Frame := { src := 0, dst := 1, hops := 0, seq := 0, tag := 0, frag := 0, frags := 1, payload := [1, 2, 3], crc := 0 }
/-- A frame with its CRC. -/
def good (f : Frame) : Frame := { f with crc := BitVec.ofNat 32 (crc32 (layBytes (dataHead f) ++ f.payload.map BitVec.toNat)) }
theorem test_crc : crc32 (ascii "123456789") = 0xCBF43926 ∧ crcHolds (good aFrame) = true ∧ crcHolds { good aFrame with payload := [1, 2, 2] } = false := by decide +kernel
theorem test_stair_data : (nextHas (exec (.stairData false (good aFrame)) (stairState aPort)) fun t => t.st.p0.rxSeq == 1) = true
    ∧ (nextHas (exec (.stairData false (good { aFrame with seq := 1 })) (stairState aPort)) fun t => t.st.p0.rxSeq == 0 && rdF t (stErr false) 63 48 == 1) = true
    ∧ (nextHas (exec (.stairData false { good aFrame with crc := 0 }) (stairState aPort)) fun t => t.st.p0.rxSeq == 0) = true
    ∧ (nextHas (exec (.stairData false (good aFrame)) (stairState { aPort with miswired := true })) fun t => t.st.p0.rxSeq == 0) = true := by decide +kernel
theorem test_stair_ack : (nextHas (exec (.stairAck false 0) (stairState { aPort with unacked := [{ sent := 1, frame := aFrame }] })) fun t => t.st.p0.unacked == []) = true
    ∧ (nextHas (exec (.stairRetransmitTimeout false) { stairState { aPort with unacked := [{ sent := 1, frame := aFrame }] } with tb := { run := 4 } }) fun t => t.st.p0.unacked.map TxFrame.again == [1]) = true
    ∧ (nextHas (exec (.stairRetransmitTimeout false) { bareStair { aPort with unacked := [{ sent := 1, again := 15, frame := aFrame }] } with tb := { run := 4 } }) fun t => t.st.p0.state == .train) = true := by decide +kernel
theorem test_stair_links : (nextHas (exec (.linkTrained false true) (stairState { state := .train })) fun t => t.st.p0.state == .active) = true
    ∧ (nextHas (exec (.linkTrained false false) (stairState { state := .train })) fun t => t.st.p0.state == .train) = true
    ∧ (nextHas (exec (.stairLinkDown false) (bareStair aPort)) fun t => t.st.p0.state == .train) = true
    ∧ (nextHas (exec (.stairLinkDown false) (stairState {})) fun t => t.st.p0.state == .disabled) = true := by decide +kernel
theorem test_stair_scan : (nextHas (exec (.stairScan false ⟨0, 0, false⟩ [] false false) (stairState aPort)) fun t => t.st.p0.miswired) = true
    ∧ (nextHas (exec (.stairScan false ⟨0, 0, false⟩ [] false false) (stairState { aPort with miswired := true })) fun t => t.st.p0.miswired) = true
    ∧ (∃ o : ScanHop, o.device = deviceId) := by
  refine ⟨?_, ?_, ⟨deviceId, 0, false⟩, rfl⟩ <;> decide +kernel
theorem test_doze : (nextHas (exec (.dozeIdleTimeout false) { wrF (wrF (stairState aPort) 0x70010 2 2 1) 0x70010 47 32 1 with tb := { run := 1 } }) fun t => t.st.p0.reqSent) = true
    ∧ (nextHas (exec (.dozeReq false) (wrF (stairState aPort) 0x70010 2 2 1)) fun t => t.st.p0.state != .active) = true
    ∧ (nextHas (exec (.dozeReq false) (stairState aPort)) fun t => t.st.p0.state == .active) = true
    ∧ (nextHas (exec (.dozeAck false) (stairState { aPort with reqSent := true })) fun t => t.st.p0.state != .active) = true
    ∧ (nextHas (exec (.dozeNak false) (stairState { aPort with reqSent := true })) fun t => !t.st.p0.reqSent) = true
    ∧ (nextHas (exec (.wakeRequest false) (stairState { state := .doze })) fun t => t.st.p0.state == .doze) = true
    ∧ (nextHas (exec (.dozeResidencyEnd false) { stairState { state := .doze, wake := true } with tb := { run := 8 } }) fun t => t.st.p0.state == .train) = true
    ∧ (nextHas (exec (.dozeResidencyEnd false) { stairState { state := .doze, wake := true } with tb := { run := 7 } }) fun t => t.st.p0.state == .doze) = true
    ∧ stPort (stairState { aPort with reqSent := true }) false = { aPort with reqSent := true } ∧ peerPos (stairState aPort) false = 2 := by decide +kernel
theorem test_stair_timers : (nextHas (exec .scanPeriodic { stairState aPort with tb := { run := 64 * 1048576 } }) fun t => t.st.lastScan == 64 * 1048576) = true
    ∧ (nextHas (exec (.reassemblyTimeout 2 5) { memberState with st := { reasm := [⟨2, 5, 0, 2, [0]⟩] }, tb := { run := 1024 } }) fun t => t.st.reasm == []) = true
    ∧ (nextHas (exec (.reassemblyTimeout 2 5) { memberState with st := { reasm := [⟨2, 5, 0, 2, [0]⟩] }, tb := { run := 1023 } }) fun t => t.st.reasm.length == 1) = true
    ∧ (nextHas (exec (.stCfgWrite 0) (bareStair aPort)) fun t => t.st.p0.state == .disabled) = true := by decide +kernel

/-! ## Sealing (SP 800-38D test cases 13 and 14, RFC 3394 section 4.6) -/

/-- The bytes of a hexadecimal number in the order they are written, as a little-endian number. -/
def asBytes (n v : Nat) : Nat := revBytes n v
theorem test_gcm : gcmTag 0 0 [] [] = asBytes 16 0x530f8afbc74536b9a963b4f1c4cb738b
    ∧ packBytes (gcmCrypt 0 0 (List.replicate 16 0)) = asBytes 16 0xcea7403d4d606b6e074ec5d3baf39d18
    ∧ gcmTag 0 0 [] (unpackBytes 16 (asBytes 16 0xcea7403d4d606b6e074ec5d3baf39d18)) = asBytes 16 0xd0d1c8a799996bf0265b98b5d48ab919 := by decide +kernel
theorem test_key_wrap : (let kek := asBytes 32 0x000102030405060708090A0B0C0D0E0F101112131415161718191A1B1C1D1E1F
    let v := asBytes 32 0x00112233445566778899AABBCCDDEEFF000102030405060708090A0B0C0D0E0F
    keyWrap kek v = asBytes 40 0x28C9F404C4B810F4CBCCB35CFB87F8263F5786E2D80ED326CBC7F0E71A99F43BFB988B9B7A02DD21
    ∧ keyUnwrap kek (keyWrap kek v) = some v ∧ keyUnwrap kek (keyWrap kek v + 1) = none) := by decide +kernel

/-! ## Custody groups (11) -/

def act (n : Fin 64) : Pos := ⟨true, n⟩
def shr (n : Fin 64) : Pos := ⟨false, n⟩
/-- A group descriptor: quorum 2, epochs of 2^12 seconds, rounds 16 seconds before, a grace of 64 seconds. -/
def gdesc (hs sh : List Member) : GroupDesc := ⟨77, hs.length, sh.length, 2, 0, 12, 16, 6, hs, sh⟩
/-- The 256 bytes of a descriptor. -/
def rawOf (d : GroupDesc) : BitVec 2048 := BitVec.ofNat 2048 (packBytes (layBytes (descFields d)))
def allConfirmed (n : Nat) : List PosState := List.replicate n .confirmed
/-- The commitment block of the zero sharing: the encoding of the neutral element four times; and its share. -/
def zeroBlock : List (BitVec 256) := [1, 1, 1, 1]
def zeroShare : ShareVal := ⟨0, 0, 0, 0⟩
/-- This module (7) coordinates; members 9, 20 and 21 hold shares. -/
def coordGroup : Group := { desc := gdesc [7] [9, 20, 21], states := allConfirmed 4, own := some (act 1), nextX := 8192, nextR := 8192 }
/-- Member 9 coordinates; this module holds share 1. -/
def shareGroup : Group := { desc := gdesc [9] [7, 20], states := allConfirmed 3, own := some (shr 1), cur := some ⟨0, zeroShare, zeroBlock⟩, nextX := 8192, nextR := 8192 }
/-- Both members hold shares of a group that a third coordinates. -/
def peerGroup : Group := { desc := gdesc [20] [9, 7], states := allConfirmed 3, own := some (shr 2), cur := some ⟨0, zeroShare, zeroBlock⟩, nextX := 8192, nextR := 8192 }
def groupCu (g : Group) : Cu := { memberCu with roster := [(7, entry 0xD7), (9, entry 0xD9), (20, entry 1), (21, entry 2), (22, entry 3)], groups := [(0, g)] }
def groupState (g : Group) : State := { readyState with mode := { readyMode with domain := .member }, cu := groupCu g }
/-- The same at a second of domain time. -/
def atSecond (s : State) (sec : Nat) : State := { s with tb := { s.tb with offset := BitVec.ofNat 64 (sec * beatsPerSec) } }
def cuhdr (p : Pos) : CuHdr := { group := 77, gen := 0, pos := p }
def nextGen (p : Pos) : CuHdr := { group := 77, gen := 1, pos := p }
/-- The header that member 9 sends with a custody body. -/
def cuSeal (s : State) (c : CuHdr) (kind : Nat) (body : List (Nat × Nat)) : EnvHdr := sealedHdr s hdr9 kind (cuMsg c body)
theorem sealed_group (s : State) (c : CuHdr) (kind : Nat) (body : List (Nat × Nat)) (k : Nat) (g : Group) (i : Nat)
    (hf : sealFits s hdr9 kind (cuMsg c body) = true)
    (hg : groupIx (heardState s hdr9 kind) c.group = some k ∧ groupOf (heardState s hdr9 kind) k = some g ∧
      placeOf (senderDesc g kind) c.pos = some i ∧ (descMembers (senderDesc g kind)).getD i 0 = hdr9.sender.val) :
    groupHeard s (cuSeal s c kind body) c kind body k g i := by
  refine ⟨sealed_passes s hdr9 kind _ hf, ?_, ?_, hg.2.2.1, hg.2.2.2⟩
  · rw [cuSeal, sealed_heard s hdr9 kind _ hf]; exact hg.1
  · rw [cuSeal, sealed_heard s hdr9 kind _ hf]; exact hg.2.1
/-- What a custody envelope of member 9 that passes does. -/
def groupRun (s : State) (c : CuHdr) (kind : Nat) (f : State → Nat → Group → Nat → State) : Result :=
  let t := heardState s hdr9 kind
  go (match groupIx t c.group with
    | none => envFail t 63 48
    | some k =>
      match groupOf t k with
      | none => envFail t 63 48
      | some g =>
        match placeOf (senderDesc g kind) c.pos with
        | some i => if (descMembers (senderDesc g kind)).getD i 0 = hdr9.sender.val then f t k g i else envFail t 63 48
        | none => envFail t 63 48)
theorem sealed_run (s : State) (c : CuHdr) (kind : Nat) (body : List (Nat × Nat)) (f : State → Nat → Group → Nat → State) (p : State → Bool)
    (hf : sealFits s hdr9 kind (cuMsg c body) = true) (hp : nextHas (groupRun s c kind f) p = true) :
    nextHas (onGroup s (cuSeal s c kind body) c kind body f) p = true := by
  have e : onGroup s (cuSeal s c kind body) c kind body f = groupRun s c kind f := by
    simp only [onGroup, onEnv, cuSeal, sealed_accept s hdr9 kind _ hf]; rfl
  rw [e]; exact hp
/-- CU_GCMD_STS after a result. -/
def gcSts (r : Result) (st detail : Nat) : Bool := nextHas r fun t => rdF t 0x61018 15 0 == st && rdF t 0x61018 23 16 == detail
/-- A group of a state, tested. -/
def groupIs (t : State) (p : Group → Bool) : Bool := match groupOf t 0 with | some g => p g | none => false
def roundIs (t : State) (p : Round → Bool) : Bool := groupIs t fun g => match g.round with | some r => p r | none => false

theorem test_group_gate : groupGateOpen (groupState coordGroup) ∧ groupOf (groupState coordGroup) 0 = some coordGroup ∧ groupOf (groupState coordGroup) 1 = none
    ∧ amCoord (groupState coordGroup) coordGroup = true ∧ amCoord (groupState shareGroup) shareGroup = false ∧ holdsActive coordGroup = true
    ∧ descValid (gdesc [7] [9, 20, 21]) = true ∧ descNames (groupState coordGroup) (gdesc [7] [9, 20, 21]) = true
    ∧ descNames (groupState coordGroup) (gdesc [7] [9, 9, 21]) = false ∧ watchFits (groupState coordGroup) (descMembers (gdesc [7] [9, 20, 21])) = true
    ∧ freeGroup (groupState coordGroup) = some 1 := by decide +kernel
theorem test_desc_bounds : descValid { gdesc [7] [9, 20] with rb := 8 } = false ∧ descValid { gdesc [7] [9, 20] with e := 11 } = false ∧ descValid { gdesc [7] [9, 20] with e := 24, gexp := 23, rb := 256 } = true
    ∧ descValid { gdesc [7] [9, 20] with e := 24, gexp := 24, rb := 256 } = false ∧ descValid { gdesc [7] [9, 20] with k := 3 } = false := by decide +kernel
theorem test_desc_bytes : descOf (rawOf (gdesc [7] [9, 20, 21])) = gdesc [7] [9, 20, 21] ∧ descForm (rawOf (gdesc [7] [9, 20, 21])) = true ∧ descForm (rawOf (gdesc [7] [9, 20, 21]) + 1) = false
    ∧ bytesOf (rawOf (gdesc [7] [9, 20, 21])).toNat 56 4 = 9 := by decide +kernel
/-- A descriptor without identity, and states with the tickets for it. -/
def freshRaw : BitVec 2048 := rawOf { gdesc [7] [9, 20, 21] with group := 0 }
def changeRaw : BitVec 2048 := rawOf (gdesc [7] [9, 20, 22])
theorem test_group_commands : gcSts (exec (.groupCreate .failed) (groupState coordGroup)) 9 0xFF = true ∧ gcSts (exec (.groupCreate (.ok freshRaw)) (groupState coordGroup)) 5 0x22 = true
    ∧ gcSts (exec (.groupBind 1) (groupState coordGroup)) 5 0x23 = true
    ∧ (nextHas (exec (.groupBind 0) (wr (groupState coordGroup) 0x61020 0x403)) fun t => groupIs t fun g => g.bound == some 3) = true
    ∧ (nextHas (exec (.groupBind 0) (groupState { coordGroup with bound := some 3 })) fun t => groupIs t fun g => g.bound == none) = true
    ∧ gcSts (exec (.groupSweep 0) (groupState coordGroup)) 0 0xFF = true := by decide +kernel
theorem test_group_tickets : (nextHas (exec (.groupDelete 0) (withPair (groupState coordGroup) 7 77)) fun t => (groupOf t 0).isNone) = true
    ∧ (ticketPair (withPair (groupState coordGroup) 5 (descDigest freshRaw)) 5 (descDigest freshRaw)).isSome = true
    ∧ descForm freshRaw = true ∧ descValid (descOf freshRaw) = true ∧ (descOf freshRaw).holders.head? = some 7
    ∧ (nextHas (exec (.groupChange 0 (.ok changeRaw)) (withPair (groupState coordGroup) 6 (descDigest changeRaw))) fun t => groupIs t fun g => g.change.isSome) = true
    ∧ (nextHas (exec (.groupReplace 0 22 0x01) (groupState { coordGroup with states := [.confirmed, .lost, .confirmed, .confirmed] })) fun t => groupIs t fun g => g.recon.isSome) = true
    ∧ (nextHas (exec (.groupReplace 0 22 0x01) (groupState { coordGroup with states := [.confirmed, .lost, .confirmed, .confirmed], round := some { x := 8192 } })) fun t => groupIs t fun g => g.waiting.length == 1) = true := by decide +kernel
theorem test_group_create : (nextHas (exec (.groupCreate (.ok freshRaw)) (withPair (groupState coordGroup) 5 (descDigest freshRaw))) fun t => t.sl.held == []) = true := by decide +kernel

/-! ## Shares (11 R311, R312, R328) -/

/-- A sharing of 5 and 6. -/
def aSharing : Polys := { lo := [5, 3], hi := [6, 1], bLo := [1, 2], bHi := [2, 2] }
theorem test_shares_verify : shareVerifies 2 1 (sharesAt aSharing 1) (commitBlock aSharing) = true ∧ shareVerifies 2 2 (sharesAt aSharing 1) (commitBlock aSharing) = false
    ∧ (sharesAt aSharing 1).sLo = 8 := by decide +kernel
theorem test_zero_sharing : shareVerifies 2 1 zeroShare zeroBlock = true ∧ zeroConstant 2 zeroBlock = true ∧ shareVerifies 2 1 ⟨1, 0, 0, 0⟩ zeroBlock = false
    ∧ shareVerifies 2 1 ⟨ellOrder, 0, 0, 0⟩ zeroBlock = false ∧ shareVerifies 3 1 zeroShare zeroBlock = false ∧ zeroConstant 2 [0, 1, 1, 1] = false := by decide +kernel
theorem test_interpolation : interpolate [(1, ⟨8, 7, 0, 0⟩), (2, ⟨11, 8, 0, 0⟩)] 0 = ⟨5, 6, 0, 0⟩ ∧ interpolate [(1, ⟨8, 7, 0, 0⟩), (2, ⟨11, 8, 0, 0⟩)] 3 = ⟨14, 9, 0, 0⟩ := by decide +kernel

/-! ## Rounds (11 R320 to R325) -/

/-- A round whose switch is at second 4096. -/
def aRound : Round := { x := 4096 }
/-- Groups with that round. -/
def coordRound (r : Round) : State := groupState { coordGroup with round := some r }
def shareRound (r : Round) : State := groupState { shareGroup with round := some r }
def peerRound : State := atSecond (groupState { peerGroup with round := some aRound }) 4080
theorem test_heard_in_group (body : List (Nat × Nat)) : (∀ kind ∈ [0x27, 0x28, 0x29, 0x2A], groupHeard (groupState coordGroup) (cuSeal (groupState coordGroup) (cuhdr (shr 1)) kind body) (cuhdr (shr 1)) kind body 0 coordGroup 1)
    ∧ (∀ kind ∈ [0x22, 0x24], groupHeard (coordRound aRound) (cuSeal (coordRound aRound) (nextGen (shr 1)) kind body) (nextGen (shr 1)) kind body 0 { coordGroup with round := some aRound } 1)
    ∧ (∀ kind ∈ [0x23, 0x25], groupHeard (shareRound aRound) (cuSeal (shareRound aRound) (nextGen (act 1)) kind body) (nextGen (act 1)) kind body 0 { shareGroup with round := some aRound } 0)
    ∧ groupHeard peerRound (cuSeal peerRound (nextGen (shr 1)) 0x21 body) (nextGen (shr 1)) 0x21 body 0 { peerGroup with round := some aRound } 1 := by
  refine ⟨?_, ?_, ?_, sealed_group _ _ _ _ _ _ _ rfl ?_⟩
  · intro kind hk
    have := List.mem_cons.mp hk
    rcases this with rfl | hk
    · exact sealed_group _ _ _ _ _ _ _ rfl (by decide +kernel)
    rcases List.mem_cons.mp hk with rfl | hk
    · exact sealed_group _ _ _ _ _ _ _ rfl (by decide +kernel)
    rcases List.mem_cons.mp hk with rfl | hk
    · exact sealed_group _ _ _ _ _ _ _ rfl (by decide +kernel)
    rcases List.mem_cons.mp hk with rfl | hk
    · exact sealed_group _ _ _ _ _ _ _ rfl (by decide +kernel)
    · cases hk
  · intro kind hk
    rcases List.mem_cons.mp hk with rfl | hk
    · exact sealed_group _ _ _ _ _ _ _ rfl (by decide +kernel)
    rcases List.mem_cons.mp hk with rfl | hk
    · exact sealed_group _ _ _ _ _ _ _ rfl (by decide +kernel)
    · cases hk
  · intro kind hk
    rcases List.mem_cons.mp hk with rfl | hk
    · exact sealed_group _ _ _ _ _ _ _ rfl (by decide +kernel)
    rcases List.mem_cons.mp hk with rfl | hk
    · exact sealed_group _ _ _ _ _ _ _ rfl (by decide +kernel)
    · cases hk
  · decide +kernel
/-- A DEAL of member 9 to share 2. -/
def dealHdr : CuHdr := { group := 77, gen := 1, pos := shr 1, dest := 2 }
theorem test_deal : (nextHas (exec (.deal (cuSeal peerRound dealHdr 0x21 (dealBody false zeroShare zeroBlock)) dealHdr false zeroShare zeroBlock) peerRound) fun t => roundIs t fun r => r.deals.length == 1) = true
    ∧ (let v : ShareVal := ⟨1, 0, 0, 0⟩
       (nextHas (exec (.deal (cuSeal peerRound dealHdr 0x21 (dealBody false v zeroBlock)) dealHdr false v zeroBlock) peerRound) fun t => roundIs t fun r => r.deals == []) = true)
    ∧ reached peerRound (dealBeat peerGroup aRound) = false ∧ reached peerRound (secBeat 4096 - secBeat 16) = true := by
  refine ⟨sealed_run _ _ _ _ _ _ rfl (by decide +kernel), sealed_run _ _ _ _ _ _ rfl (by decide +kernel), ?_, ?_⟩ <;> decide +kernel
theorem test_prepared : (nextHas (exec (.prepared (cuSeal (coordRound aRound) (nextGen (shr 1)) 0x22 (preparedBody [(0, 0)])) (nextGen (shr 1)) [(0, 0)]) (coordRound aRound)) fun t => roundIs t fun r => r.prepared == [(1, [(1, 0)])]) = true
    ∧ (nextHas (exec (.ack (cuSeal (coordRound aRound) (nextGen (shr 1)) 0x24 [(1, 0x23)]) (nextGen (shr 1)) 0x23) (coordRound aRound)) fun t => roundIs t fun r => r.acks == [1]) = true
    ∧ ackCounts aRound 1 = true ∧ ackCounts { aRound with decided := some (true, [2], [1], 0) } 1 = false ∧ ackCounts { aRound with acks := [1] } 1 = false := by
  refine ⟨sealed_run _ _ _ _ _ _ rfl (by decide +kernel), sealed_run _ _ _ _ _ _ rfl (by decide +kernel), ?_, ?_, ?_⟩ <;> decide +kernel
/-- The round in which this module has dealt and heard itself. -/
def dealtRound : Round := { aRound with deals := [(1, zeroShare, zeroBlock)] }
/-- The digest of the zero block. -/
def zeroDigest : BitVec 256 := blockDigest zeroBlock
theorem test_decide : (let s := shareRound dealtRound
    let h := fun (commit : Bool) (x : BitVec 256) => cuSeal s (nextGen (act 1)) 0x23 (decideBody commit 1 1 x.toNat)
    (nextHas (exec (.decide (h false 5) (nextGen (act 1)) false 1 1 5) s) fun t => groupIs t fun g => g.round.isNone) = true
    ∧ (nextHas (exec (.decide (h true 5) (nextGen (act 1)) true 1 1 5) s) fun t => groupIs t fun g => g.round.isNone && g.pend.isNone) = true
    ∧ (nextHas (exec (.decide (h true zeroDigest) (nextGen (act 1)) true 1 1 zeroDigest) s) fun t => groupIs t fun g => g.pend.isSome) = true) := by
  exact ⟨sealed_run _ _ _ _ _ _ rfl (by decide +kernel), sealed_run _ _ _ _ _ _ rfl (by decide +kernel), sealed_run _ _ _ _ _ _ rfl (by decide +kernel)⟩
theorem test_decide_parts : myIx shareGroup aRound = some 1 ∧ bitSet 1 = [0] ∧ bitSet 0x80000000 = [31] ∧ (newShare shareGroup dealtRound [1]).isSome = true ∧ (newShare shareGroup aRound [1]).isSome = false
    ∧ dealerOf true 0 = 0 ∧ dealerOf false 0 = 1 ∧ dealerBit false 1 = 0 := by decide +kernel
theorem test_settle : (nextHas (exec (.settle (cuSeal (shareRound aRound) (nextGen (act 1)) 0x25 [(1, 1)]) (nextGen (act 1)) true) (shareRound aRound)) fun t => groupIs t fun g => g.round.isNone && g.gen == 1 && g.cur.isNone) = true
    ∧ (nextHas (exec (.settle (cuSeal (shareRound aRound) (nextGen (act 1)) 0x25 [(1, 2)]) (nextGen (act 1)) false) (shareRound aRound)) fun t => groupIs t fun g => g.round.isNone && g.gen == 0 && g.cur.isSome) = true := by
  exact ⟨sealed_run _ _ _ _ _ _ rfl (by decide +kernel), sealed_run _ _ _ _ _ _ rfl (by decide +kernel)⟩

theorem test_cutoffs : reached (atSecond (groupState coordGroup) 4088) (dealBeat coordGroup aRound) = true
    ∧ reached (atSecond (groupState coordGroup) 4087) (dealBeat coordGroup aRound) = false
    ∧ reached (atSecond (groupState coordGroup) 4092) (decisionBeat coordGroup aRound) = true
    ∧ reached (atSecond (groupState coordGroup) 4160) (secBeat (aRound.x + graceSec coordGroup.desc)) = true
    ∧ (nextHas (exec (.decisionCutoff 0) (atSecond (coordRound aRound) 4092)) fun t => groupIs t fun g => g.round.isNone) = true
    ∧ (nextHas (exec (.settlement 0) (atSecond (coordRound aRound) 4159)) fun t => roundIs t fun r => r == aRound) = true
    ∧ (nextHas (exec (.settlement 0) (atSecond (coordRound aRound) 4160)) fun t => groupIs t fun g => g.round.isNone) = true := by decide +kernel
/-- Every holder has reported two dealers under one digest. -/
def preparedRound : Round := { aRound with prepared := [(1, [(1, 5), (2, 6)]), (2, [(1, 5), (2, 6)]), (3, [(1, 5), (2, 6)])] }
theorem test_decision : decideSets coordGroup.desc preparedRound = ([(1, 5), (2, 6)], [1, 2, 3]) ∧ decideSets coordGroup.desc aRound = ([], []) ∧ quorumOf coordGroup.desc = 3
    ∧ (nextHas (exec (.decisionCutoff 0) (atSecond (coordRound preparedRound) 4092)) fun t => roundIs t fun r => r.decided.isSome) = true := by decide +kernel
theorem test_round_timers : (nextHas (exec (.dealCutoff 0) (atSecond (groupState { desc := gdesc [20] [7, 20], states := [.lost, .confirmed, .confirmed], own := some (shr 1), round := some dealtRound }) 4088)) fun t =>
      roundIs t fun r => r.prepSent && r.prepared.length == 1) = true
    ∧ (nextHas (exec (.dealCutoff 0) (atSecond (shareRound dealtRound) 4088)) fun t => roundIs t fun r => r.prepSent && r.prepared == []) = true
    ∧ coordPlace shareGroup = some 0
    ∧ (nextHas (exec (.decideResend 0) { coordRound { aRound with decided := some (true, [1], [1], 0), switched := true } with tb := { run := 16777216 } }) fun t => roundIs t fun r => r.sentRun == 16777216) = true
    ∧ (nextHas (exec (.settlement 0) (atSecond (coordRound { aRound with decided := some (true, [1, 2, 3], [1, 2], 0), acks := [1, 2, 3], switched := true }) 4160)) fun t => groupIs t fun g => g.round.isNone && g.gen == 1) = true
    ∧ (nextHas (exec (.settlement 0) (atSecond (coordRound { aRound with decided := some (true, [1, 2, 3], [1, 2], 0), acks := [1], switched := true }) 4160)) fun t => groupIs t fun g => g.round.isNone && g.gen == 0) = true := by decide +kernel

/-! ## Reconstruction, and the life of a group (11 R318, R326 to R341) -/

theorem test_share_request : (let s := groupState { peerGroup with recon := some { target := shr 1, rc := 0 } }
    let m := [(8, 0), (1, posByte (shr 1))]
    (nextHas (exec (.shareReq (cuSeal s (cuhdr (shr 1)) 0x26 m) (cuhdr (shr 1)) 0 (shr 1)) s) fun t => t.cu.outQ.length + t.out.length == 1) = true
    ∧ heldShares peerGroup = [⟨0, zeroShare, zeroBlock⟩] ∧ canTakePart s = true)
    ∧ placeOf peerGroup.desc (shr 1) = some 1 ∧ memberAt peerGroup 1 = 9 ∧ ownShareIx peerGroup = some 2 ∧ placeOf peerGroup.desc (shr 3) = none ∧ placeOf peerGroup.desc (act 0) = none := by decide +kernel
/-- A reconstruction of this module's active position, with the shares that have come in. -/
def gathering (l : List (Nat × ShareGen)) : State := atSecond (groupState { coordGroup with recon := some { target := act 1, rc := 50, asked := true, shares := l } }) 50
def zeroGen : ShareGen := ⟨0, zeroShare, zeroBlock⟩
def shareHdr (s : State) (x : ShareGen) : EnvHdr := cuSeal s (cuhdr (shr 1)) 0x27 (shareBody 50 1 [shareGen x.gen.toNat x.val x.block])
theorem test_shares : (nextHas (exec (.share (shareHdr (gathering []) zeroGen) (cuhdr (shr 1)) 50 (act 1) [zeroGen]) (gathering [])) fun t => groupIs t fun g => match g.recon with | some r => r.shares.length == 1 && !r.stage | none => false) = true
    ∧ (nextHas (exec (.share (shareHdr (gathering []) { zeroGen with val := ⟨1, 0, 0, 0⟩ }) (cuhdr (shr 1)) 50 (act 1) [{ zeroGen with val := ⟨1, 0, 0, 0⟩ }]) (gathering [])) fun t => groupIs t fun g => match g.recon with | some r => r.shares == [] | none => false) = true
    ∧ (nextHas (exec (.share (shareHdr (gathering [(2, zeroGen)]) zeroGen) (cuhdr (shr 1)) 50 (act 1) [zeroGen]) (gathering [(2, zeroGen)])) fun t => groupIs t fun g => match g.recon with | some r => r.stage | none => false) = true
    ∧ reached (gathering []) (secBeat (50 + 16) - 2 * beatsPerSec) = false := by
  refine ⟨sealed_run _ _ _ _ _ _ rfl (by decide +kernel), sealed_run _ _ _ _ _ _ rfl (by decide +kernel), sealed_run _ _ _ _ _ _ rfl (by decide +kernel), ?_⟩ <;> decide +kernel
theorem test_recon_done : (let s := groupState { coordGroup with states := [.confirmed, .rebuilding, .confirmed, .confirmed], recon := some { target := shr 1, rc := 50 } }
    (nextHas (exec (.reconDone (cuSeal s (cuhdr (shr 1)) 0x28 [(1, 1), (1, 1), (2, 0)]) (cuhdr (shr 1)) (shr 1) true 0) s) fun t => groupIs t fun g => g.recon == none && stateAt g 1 == .confirmed) = true)
    ∧ (let s := groupState { peerGroup with recon := some { target := shr 1, rc := 50 } }
       amCoord s peerGroup = false ∧ (nextHas (exec (.reconDone (cuSeal s (cuhdr (shr 1)) 0x28 [(1, 1), (1, 1), (2, 0)]) (cuhdr (shr 1)) (shr 1) true 0) s) fun t => groupIs t fun g => g.recon == none) = true)
    ∧ (nextHas (exec (.reconCutoff 0) (atSecond (gathering []) 64)) fun t => (groupOf t 0).isSome) = true := by
  refine ⟨sealed_run _ _ _ _ _ _ rfl (by decide +kernel), ⟨?_, sealed_run _ _ _ _ _ _ rfl (by decide +kernel)⟩, ?_⟩ <;> decide +kernel
theorem test_accept : (let s := groupState { coordGroup with creating := some 9 }
    (nextHas (exec (.accept (cuSeal s (cuhdr (shr 1)) 0x29 [(1, 1), (1, 0), (2, 0)]) (cuhdr (shr 1)) true 0) s) fun t => groupIs t fun g => g.accepts == [1]) = true
    ∧ (nextHas (exec (.accept (cuSeal s (cuhdr (shr 1)) 0x29 [(1, 2), (1, 0), (2, 0)]) (cuhdr (shr 1)) false 0) s) fun t => groupIs t fun g => stateAt g 1 == .lost) = true) := by
  exact ⟨sealed_run _ _ _ _ _ _ rfl (by decide +kernel), sealed_run _ _ _ _ _ _ rfl (by decide +kernel)⟩
/-- GROUP_STATE bodies of member 9's group. -/
def stateBody (v : Nat) (sh : List Member) : GroupStateBody := ⟨BitVec.ofNat 32 v, rawOf (gdesc [9] sh), allConfirmed 3, 0, none⟩
def stateHdr (s : State) (b : GroupStateBody) : EnvHdr := sealedHdr s hdr9 0x20 (cuMsg (cuhdr (act 1)) (bodyFields b))
theorem sealed_state (s : State) (b : GroupStateBody) (p : State → Bool) (hb : bodyOk b = true) (hf : sealFits s hdr9 0x20 (cuMsg (cuhdr (act 1)) (bodyFields b)) = true)
    (hp : (let t := heardState s hdr9 0x20
      p (match groupIx t 77 with
        | none => namedInto t hdr9 (cuhdr (act 1)) b
        | some k =>
          match groupOf t k with
          | none => t
          | some g =>
            if !mayChange g b 9 then envFail t 63 48
            else if b.version.toNat ≤ g.version then t
            else if watchFits t (descMembers (descOf b.desc)) then planCustody (rewatch (takeState t k g b 0))
            else answerRole t hdr9 (cuhdr (act 1)) (withBody g b 0) .quota)) = true) :
    nextHas (exec (.groupState (stateHdr s b) (cuhdr (act 1)) b) s) p = true := by
  have eh : { stateHdr s b with formOk := (stateHdr s b).formOk && bodyOk b } = sealedHdr s hdr9 0x20 (cuMsg (cuhdr (act 1)) (bodyFields b)) := by rw [hb]; rfl
  have e : exec (.groupState (stateHdr s b) (cuhdr (act 1)) b) s = go _ := rfl
  rw [e, eh]
  simp only [onEnv, sealed_accept s hdr9 0x20 _ hf]
  exact hp
theorem test_group_state : (nextHas (exec (.groupState (stateHdr (groupState shareGroup) (stateBody 0 [7, 20])) (cuhdr (act 1)) (stateBody 0 [7, 20])) (groupState shareGroup)) fun t => groupIs t fun g => g == shareGroup) = true
    ∧ (nextHas (exec (.groupState (stateHdr (groupState shareGroup) (stateBody 1 [7, 21])) (cuhdr (act 1)) (stateBody 1 [7, 21])) (groupState shareGroup)) fun t => groupIs t fun g => g.version == 1 && g.desc.shares == [7, 21] && g.own == some (shr 1)) = true
    ∧ mayChange shareGroup (stateBody 1 [7, 20]) 9 = true ∧ bodyOk (stateBody 1 [7, 20]) = true
    ∧ (nextHas (exec (.groupState (stateHdr { groupState shareGroup with cu := { groupCu shareGroup with groups := [] } } (stateBody 1 [7, 20])) (cuhdr (act 1)) (stateBody 1 [7, 20])) { groupState shareGroup with cu := { groupCu shareGroup with groups := [] } }) fun t => groupIs t fun g => g.version == 1 && g.own == some (shr 1)) = true := by
  refine ⟨sealed_state _ _ _ (by decide +kernel) rfl (by decide +kernel), sealed_state _ _ _ (by decide +kernel) rfl (by decide +kernel), ?_, ?_, sealed_state _ _ _ (by decide +kernel) rfl (by decide +kernel)⟩ <;> decide +kernel
theorem test_group_del : (let s := { groupState coordGroup with sl := { custody := custodians } }
    let del := fun (a b : Ticket) => exec (.groupDel (cuSeal s (cuhdr (shr 1)) 0x2A (delTickets [a.raw, b.raw])) (cuhdr (shr 1)) a b) s
    (nextHas (del (bodyTk 7 77 1) (bodyTk 7 77 2)) fun t => (groupOf t 0).isNone) = true
    ∧ (nextHas (del (bodyTk 7 78 1) (bodyTk 7 78 2)) fun t => (groupOf t 0).isSome) = true) := by
  exact ⟨sealed_run _ _ _ _ _ _ rfl (by decide +kernel), sealed_run _ _ _ _ _ _ rfl (by decide +kernel)⟩
theorem test_loss : (nextHas (exec (.positionLossTimeout 0 (shr 1)) { groupState coordGroup with cu := { groupCu coordGroup with watch := [(9, { heard := 0, absent := true })] }, tb := { run := 4096 * 1048576 } }) fun t =>
      groupIs t fun g => stateAt g 1 != .confirmed) = true
    ∧ (nextHas (exec .groupCreateDeadline (groupState { coordGroup with creating := some 0 })) fun t => (groupOf t 0).isNone) = true
    ∧ (nextHas (exec (.custodySchedRetry 0) { groupState coordGroup with tb := { retry := [(2, 64, 0)] } }) fun t => t.tb.retry == [] && t.tb.sched.length == 1) = true
    ∧ schedRefusal (groupState coordGroup) 2 63 = 1 ∧ schedRefusal (groupState coordGroup) 2 64 = 0 ∧ retryAim (groupState coordGroup) 5 = 64
    ∧ (nextHas (exec (.backupRingHeadWrite 5) (groupState coordGroup)) fun t => rdF t 0x61210 43 32 == 5) = true
    ∧ (nextHas (exec (.restoreRingTailWrite 0 [] []) (groupState coordGroup)) fun t => (groupOf t 0).isSome) = true := by decide +kernel

/-! ## Foyer (12) -/

/-- Card slot 0 as given, switched on. -/
def slotState (c : CardSlot) : State := { readyState with sl := { slots := [(0, c)] } }
def slot0 (r : Result) (p : CardSlot → Bool) : Bool := nextHas r fun t => p (cslot t 0)
/-- SL_CMD_STS's status code after a result. -/
def slSts (r : Result) (st : Nat) : Bool := nextHas r fun t => rdF t 0x80018 15 0 == st && t.sl.cmd == none
theorem test_card_insert : slot0 (exec (.cardInsert 0) (slotState { found := true })) (fun c => c.det && c.state == .debounce) = true
    ∧ slot0 (exec (.cardInsert 0) (slotState {})) (fun c => c.det && c.state == .off) = true
    ∧ slot0 (exec (.cardRemove 0) (slotState { det := true, state := .active, card := some (1, 0) })) (fun c => !c.det && c.state == .empty) = true
    ∧ slot0 (exec (.sealBreak 0) (slotState { det := true, sealed := true, state := .active })) (fun c => !c.sealed) = true
    ∧ slot0 (exec (.slotOvercurrent 0) (slotState { det := true, state := .active })) (fun c => c.blocked && c.state == .refused) = true := by decide +kernel
theorem test_debounce : mayActivate { slotState { found := true, det := true, sealed := true, state := .debounce } with tb := { run := 10486 } } 0 = true
    ∧ mayActivate { slotState { found := true, det := true, sealed := true, state := .debounce } with tb := { run := 10485 } } 0 = false
    ∧ slot0 (exec (.slotDebounceDone 0) { slotState { found := true, det := true, sealed := true, state := .debounce } with tb := { run := 10486 } }) (fun c => c.state == .activating && c.cls == 1) = true := by decide +kernel
def atr (i : Option (Bool × Bool × Bool)) : Atr := ⟨i, true, none, (1, 1), none, none, none, false⟩
theorem test_answer_to_reset : slot0 (exec (.answerToReset 0 (atr none)) (slotState { det := true, state := .activating, cls := 1 })) (fun c => c.state != .refused) = true
    ∧ slot0 (exec (.answerToReset 0 (atr (some (true, false, false)))) (slotState { det := true, state := .activating, cls := 1 })) (fun c => c.higher == 3 && c.cls == 0) = true
    ∧ slot0 (exec (.answerToReset 0 (atr (some (false, false, true)))) (slotState { det := true, state := .activating, cls := 2 })) (fun c => c.state == .refused) = true
    ∧ includesCls (false, false, true) 1 = true
    ∧ slot0 (exec (.atrTimeout 0) (slotState { det := true, state := .activating, cls := 1 })) (fun c => c.state == .refused && c.err == 1) = true
    ∧ slot0 (exec (.classRetry 0) (slotState { det := true, state := .activating, cls := 1, higher := 3 })) (fun c => c.cls == 3) = true := by decide +kernel
theorem test_pps : slot0 (exec (.ppsResponse 0 true) (slotState { det := true, state := .activating, cls := 1, ppsWait := true })) (fun c => c.state == .active) = true
    ∧ slot0 (exec (.ppsResponse 0 false) (slotState { det := true, state := .activating, cls := 1, ppsWait := true })) (fun c => c.noPps && c.state == .activating) = true
    ∧ slot0 (exec (.ppsTimeout 0) (slotState { det := true, state := .activating, cls := 1, ppsWait := true })) (fun c => c.noPps) = true := by decide +kernel
theorem test_card_blocks : slot0 (exec (.cardBlockTimeout 0) (slotState { det := true, state := .active })) (fun c => c.tries == 1) = true
    ∧ slot0 (exec (.cardBlockReceive 0 .badEdc) (slotState { det := true, state := .active })) (fun c => c.tries == 1) = true
    ∧ slot0 (exec (.cardBlockReceive 0 .unsupported) (slotState { det := true, state := .active })) (fun c => c.state == .refused && c.err == 3) = true
    ∧ slot0 (exec (.cardBlockReceive 0 (.ident 5 1)) (slotState { det := true, state := .active, tries := 2 })) (fun c => c.tries == 0) = true := by decide +kernel

theorem test_slot_busy : (nextHas (exec .drop { readyState with sl := { cmd := some { op := 1, slot := 0, donor := 0, raw := 0, stage := 0 }, held := [ticketOf 1 0 1 0] } }) fun t => t.sl.held.length == 1 && rdF t 0x80008 6 6 == 1) = true
    ∧ slSts (exec .drop { readyState with sl := { held := [ticketOf 1 0 1 0] } }) 0 = true
    ∧ slSts (exec (.powerOff 0) (inMode { readyMode with lock := true })) 7 = true ∧ slSts (exec (.sign 0 .failed) readyState) 9 = true
    ∧ slSts (exec (.hold .failed) readyState) 9 = true ∧ slSts (exec (.relay 9 (.ok ⟨0, true⟩)) readyState) 5 = true
    ∧ slSts (exec (.relay 9 (.ok ⟨0, true⟩)) memberState) 0 = true := by decide +kernel
theorem test_sign : slotReady (slotState { det := true, state := .active, card := some (5, 0xFF) }) 0 = true ∧ slotReady readyState 0 = false
    ∧ (nextHas (exec (.sign 0 (.ok (0, 0))) (slotState { det := true, state := .active, card := some (5, 0xFF) })) fun t => t.sl.cmd.isSome) = true
    ∧ slSts (exec (.sign 0 (.ok (0, 0))) readyState) 9 = true ∧ slSts (exec (.powerOff 0) (slotState { det := true, state := .active })) 0 = true
    ∧ slSts (exec (.powerOn 0) (slotState { det := true, state := .active })) 0 = true ∧ slSts (exec (.powerOff 0) readyState) 9 = true
    ∧ slSts (exec (.powerOn 0) { slotState { found := true, det := true, sealed := true, state := .off } with tb := { run := 10486 } }) 0 = true := by decide +kernel
theorem test_hold : slSts (exec (.hold (.ok ⟨0, true⟩)) readyState) 10 = true
    ∧ (match holdTicket readyState 0 true false with | (_, some (1, .malformed)) => true | _ => false) = true := by decide +kernel
/-- A member with two registered custodians and donor and new card in slots 1 and 0. -/
def custodyState (op args : Nat) : State := withPair { memberState with sl := { custody := [(0, { pub := 1, keyId := 1, kindB := false, name := 0, serial := 1 }), (1, { pub := 2, keyId := 2, kindB := false, name := 0, serial := 1 })] } } op args
/-- The buffer of a SIGNKEY_SET: slot 8, key 3. -/
def keyBuf : BitVec 16512 := BitVec.ofNat 16512 (8 + fld 3 128)
theorem test_custodian_commands : (nextHas (exec (.custDel (.ok (0, 0, 0))) (custodyState 0x10 (custArgs 0 0 1))) fun t => (tget { pub := 9, keyId := 0, kindB := false, name := 0, serial := 0 } t.sl.custody 0).pub == 0) = true
    ∧ custAddRefusal (custodyState 0 0) 0 1 0 0 = some .aborted ∧ slSts (exec (.custAdd 0 1 (.ok (0, 0, 0, 0, 0))) (custodyState 0 0)) 9 = true
    ∧ (nextHas (exec (.signkeySet (.ok keyBuf)) (withPair readyState 8 (8 + fld (sha384 2064 keyBuf.toNat) 128))) fun t => tfind t.ld.keys 8 == some 3) = true
    ∧ (nextHas (exec (.signkeyRevoke (.ok 1)) { withPair readyState 9 1 with ld := { keys := [(1, 3)] } }) fun t => t.ld.keys == []) = true
    ∧ slSts (exec (.signkeyRevoke (.ok 9)) readyState) 10 = true ∧ slSts (exec (.signkeySet (.ok 0)) readyState) 10 = true := by decide +kernel
/-- CUST_ADD passes its checks: a new card in slot 0, a registered donor in slot 1, tickets that name entry, half and key. -/
def addSl : Sl := { slots := [(0, { state := .active, card := some (5, 0xFF) }), (1, { state := .active, card := some (1, 0) })], custody := [(0, { pub := 1, keyId := BitVec.ofNat 256 (keyIdOf 1), kindB := false, name := 0, serial := 1 })] }
theorem test_cust_add : custAddRefusal (withPair { memberState with sl := addSl } 0x0F (custArgs 3 0 (keyIdOf 5))) 0 1 3 0 = none := by decide +kernel
theorem test_lapses : (nextHas (exec (.ticketExpiry 0) { readyState with sl := { held := [{ ticketOf 1 0 1 0 with lapse := some 5 }] }, tb := { run := 5 } }) fun t => t.sl.held == []) = true
    ∧ (nextHas (exec (.ticketExpiry 0) { readyState with sl := { held := [{ ticketOf 1 0 1 0 with lapse := some 5 }] }, tb := { run := 4 } }) fun t => t.sl.held.length == 1) = true
    ∧ (nextHas (exec (.consumedEntryLapse 7) { readyState with sl := { consumed := [(7, 0, some 5)] }, tb := { run := 5 } }) fun t => t.sl.consumed == []) = true := by decide +kernel

/-! ## Tamper and noise (13, 15) -/

theorem test_tamper : (nextHas (exec (.tamperEvent [0x0E, 0x0E] 5) readyState) fun t => (tsrc t 0x0E).times == [5]) = true
    ∧ (nextHas (exec (.alarmLevelExit 0x0E 64) { readyState with tp := { sources := [(0x0E, { level := true })] } }) fun t => !(tsrc t 0x0E).level) = true
    ∧ (nextHas (exec (.alarmLevelExit 0x0E 63) { readyState with tp := { sources := [(0x0E, { level := true })] } }) fun t => (tsrc t 0x0E).level) = true
    ∧ (nextHas (exec .alarmPulseEnd { readyState with tp := { pulse := true } }) fun t => !t.tp.pulse) = true := by decide +kernel
theorem test_tamper_clock : (nextHas (exec .tamperClockFail readyState) fun t => !t.tp.tclkOk && t.mode.lock) = true ∧ (nextHas (exec .tamperClockFail testState) fun t => !t.tp.tclkOk && !t.mode.lock) = true
    ∧ (nextHas (exec .tamperClockReturn { readyState with tp := { tclkOk := false, lockPend := true } }) fun t => t.tp.tclkOk && t.bbram.lockFlag) = true
    ∧ (nextHas (exec .tamperClockTrim { readyState with tb := { run := 1048576 } }) fun t => t.tp.trims == 1048576) = true
    ∧ (nextHas (exec .vbatRetentionLost { State.reset with bbram := { retentionLost := false } }) fun t => t.bbram.retentionLost) = true := by decide +kernel
/-- A locked module in PRODUCTION. -/
def lockedState : State := { inMode { readyMode with lock := true } with bbram := { retentionLost := false, lockFlag := true, lockCount := 1, startCount := 2 } }
/-- UNLOCK tickets that name start 2 and lock count 1. -/
def unlockState : State := { lockedState with sl := { held := [ticketOf 4 (2 + 2 ^ 64) 1 0, ticketOf 4 (2 + 2 ^ 64) 2 1] } }
theorem test_unlock : managerOpen unlockState ∧ rdF unlockState 0x90018 24 24 ≠ 1 ∧ (ticketPair unlockState 4 (unlockArgs unlockState)).isNone = false ∧ blocking unlockState = none
    ∧ (nextHas (exec .unlock unlockState) fun t => t.tp.e2 == [(.unlock, 1)] && rdF t 0x90018 24 24 == 1) = true
    ∧ (nextHas (exec .unlock lockedState) fun t => rdF t 0x90018 15 0 == 5) = true ∧ (nextHas (exec .unlock readyState) fun t => t.tp.e2 == []) = true
    ∧ (nextHas (exec .unlock testState) fun t => rdF t 0x90018 15 0 == 5) = true
    ∧ blocking { unlockState with tp := { sources := [(0, { level := true })] } } = some 0 := by decide +kernel

/-- The default native policy as 256 bytes (13, Policies). -/
def policyBytes : List Byte :=
  [0x54, 0x50, 0x4F, 0x4C, 1, 0, 0, 0, 0xE7, 0x6E, 0, 0, 0, 0, 0, 0]
    ++ (List.range 24).flatMap (fun n => let p := defaultSrc n
        ([p.resp, 0] ++ unpackBytes 2 p.n ++ unpackBytes 4 p.w).map (BitVec.ofNat 8))
    ++ List.replicate 48 0
def policyDigest : Nat := sha256 256 (packBytes (policyBytes.map BitVec.toNat))
theorem test_policy : policyOk policyBytes = true ∧ policyOk (policyBytes.take 255) = false ∧ policyBytes.length = 256 ∧ (policyOf policyBytes).tempLow = -25
    ∧ (nextHas (exec (.policyOverride (.ok policyBytes)) testState) fun t => t.tp.override) = true
    ∧ (nextHas (exec (.policyOverride (.ok policyBytes)) readyState) fun t => !t.tp.override) = true
    ∧ (nextHas (exec (.policyOverride (.ok policyBytes)) lockedState) fun t => rdF t 0x90018 15 0 == 7) = true := by decide +kernel
theorem test_policy_tickets : (nextHas (exec (.policyOverride (.ok policyBytes)) (withPair readyState 0x0D policyDigest)) fun t => t.tp.override && t.sl.held == []) = true := by decide +kernel
theorem test_inject : (nextHas (exec (.inject 0x12 9) testState) fun t => (tsrc t 0x12).times == [9]) = true
    ∧ (nextHas (exec (.inject 0x12 9) readyState) fun t => (tsrc t 0x12).times == [] && rdF t 0x90018 15 0 == 5) = true := by decide +kernel

/-- Room 0's source in service. -/
def noiseState (h : Hsrc) : State := { readyState with ns := { srcs := [(0, h)] } }
theorem test_sources : sourceIn (noiseState { inService := true }) 0 = true ∧ (nextHas (exec (.healthTestFail 0 5) (noiseState { inService := true })) fun t => !sourceIn t 0) = true
    ∧ (nextHas (exec (.sourceTakeOut 0) (noiseState { inService := true })) fun t => !sourceIn t 0) = true
    ∧ (nextHas (exec (.sourceReturn 0) (noiseState {})) fun t => (hsrc t 0).testing) = true
    ∧ (nextHas (exec (.captureStart 0) (noiseState { inService := true })) fun t => t.ns.capBusy && capturing t 0) = true
    ∧ (nextHas (exec (.captureStart 0) { readyState with ns := { capBusy := true, capRoom := 5 } }) fun t => t.ns.capRoom == 5) = true := by decide +kernel
theorem test_raw_bits : (nextHas (exec (.rawBit 0 true 0) (noiseState { inService := true })) fun t => (tget [] t.rooms.hearth 0) == [true]) = true
    ∧ (nextHas (exec (.rawBit 0 true 0) (noiseState { inService := true, run := 40, last := true })) fun t => !sourceIn t 0) = true
    ∧ (nextHas (exec (.rawBit 0 true 0) (noiseState {})) fun t => t.rooms.hearth == []) = true
    ∧ (nextHas (exec (.rawBit 0 true 0) { readyState with ns := { capBusy := true } }) fun t => t.ns.cap == [true] && t.ns.capBits == 1) = true := by decide +kernel
theorem test_noise_settings : (nextHas (exec (.nsCfgWrite 0x000003202910FFFF) testState) fun t => rdF t 0xB0010 31 24 == 0x29) = true
    ∧ (nextHas (exec (.nsCfgWrite 0x000003202A10FFFF) testState) fun t => rdF t 0xB0010 31 24 == rdF testState 0xB0010 31 24) = true
    ∧ (nextHas (exec (.nsCfgWrite 0x000003202910FFFF) readyState) fun t => rdF t 0xB0008 5 5 == 1) = true := by decide +kernel
theorem test_captures : (nextHas (exec .captureAbort { readyState with ns := { capBusy := true, capBits := 64 } }) fun t => !t.ns.capBusy) = true
    ∧ (nextHas (exec .captureAbort { readyState with ns := { capBusy := true, capBits := 65 } }) fun t => t.ns.capBusy && t.ns.capStop) = true
    ∧ (nextHas (exec .captureDone { readyState with ns := { capBusy := true, capBits := captureSize } }) fun t => !t.ns.capBusy && t.ns.capValid) = true
    ∧ (nextHas (exec .captureDataRead { readyState with ns := { cap := List.replicate 64 true } }) fun t => rd t 0xB0038 == 0xFFFFFFFFFFFFFFFF && t.ns.cap == []) = true
    ∧ (nextHas (exec .captureDataRead { readyState with ns := { cap := List.replicate 63 true } }) fun t => rd t 0xB0038 == 0 && t.ns.cap.length == 63) = true := by decide +kernel

/-! ## Memory care and the attic (16, 17) -/

theorem test_scrub : (nextHas (exec (.scrubRead 0 1 .other .corrected) readyState) fun t => t.regs != readyState.regs) = true
    ∧ (nextHas (exec (.scrubRead 6 0 .other .uncorrectable) readyState) fun t => t.ec.poison.contains (6, 0)) = true
    ∧ (nextHas (exec (.scrubRead 9 7 .other .ok) readyState) fun t => t.ec.poison == []) = true
    ∧ (nextHas (exec (.programStoreRewrite 5) { readyState with ec := { rewrite := [(5, 0)], poison := [(3, 5)] } }) fun t => t.ec.rewrite == [] && t.ec.poison == []) = true := by decide +kernel
theorem test_flash : (vfArea 0).isSome = true ∧ (nextHas (exec (.vfProgramDone 0 false) readyState) fun t => t.ec.retired == [0]) = true
    ∧ (nextHas (exec (.vfEraseDone 0 false) readyState) fun t => t.ec.retired == [0]) = true
    ∧ (nextHas (exec (.vfPageRefresh 0 25) readyState) fun t => t.regs != readyState.regs) = true
    ∧ (nextHas (exec (.vfPageRefresh 0 24) readyState) fun t => t.regs == readyState.regs) = true := by decide +kernel
/-- The attic is loaded, with entries e at sequences 0 on. -/
def atticState (v : Ev) : State := { readyState with ev := { v with loaded := true }, keys := { vault := true } }
theorem test_attic_report : (nextHas (exec .atticReport (atticState { general := [⟨5, 0, 0⟩] })) fun t => t.ev.general == [] && t.ev.entries.length == 1 && (bucketOf t 5).tokens == 15) = true
    ∧ (nextHas (exec .atticReport (atticState { prio := [⟨0x240, 0, 0⟩], general := [⟨5, 0, 0⟩] })) fun t => t.ev.prio == [] && t.ev.general.length == 1) = true
    ∧ (nextHas (exec .atticReport (atticState { general := [⟨5, 0, 0⟩], buckets := [(5, { tokens := 0 })] })) fun t => t.ev.entries == [] && (bucketOf t 5).suppressed == 1) = true
    ∧ exempt 0x23F = false ∧ exempt 0x240 = true ∧ exempt 0x27F = true ∧ exempt 0x280 = false ∧ exempt 0x365 = true ∧ exempt 0x366 = false := by decide +kernel
theorem test_attic_buckets : (nextHas (exec (.bucketRefill 5) (atticState { buckets := [(5, { tokens := 0 })] })) fun t => (bucketOf t 5).tokens == 1) = true
    ∧ (nextHas (exec .queueRoomLostEntry (atticState { dropped := 3 })) fun t => t.ev.dropped == 0) = true
    ∧ (nextHas (exec (.rateWrite 0x00020000) (wrF (atticState {}) 0xD0080 9 0 5)) fun t => bucketOf t 5 == { tokens := 2, depth := 2, period := 0 }) = true
    ∧ (nextHas (exec (.rateWrite 0) (wrF (atticState {}) 0xD0080 9 0 0x240)) fun t => t.ev.buckets == []) = true := by decide +kernel
theorem test_attic_mirror : mirrorDue { atticState { entries := [(0, 7)], pageRun := [(0, 1)] } with tb := { run := 1048576 } } 0 = true
    ∧ (nextHas (exec (.mirrorProgram 0) { atticState { entries := [(0, 7)], pageRun := [(0, 1)] } with tb := { run := 1048576 } }) fun t => t.ev.mirror == [(0, 7)] && t.ev.pageRun == []) = true := by decide +kernel
theorem test_attic_reads : (nextHas (exec (.atticRead 0) (atticState { entries := [(0, 7)] })) fun t => rd t 0xD0048 == 7 && rd t 0xD0040 == 1) = true
    ∧ (nextHas (exec (.atticRead 1) (atticState { mirror := [(1, 9)] })) fun t => t.ev.reading == some 1 && rd t 0xD0040 == 2) = true
    ∧ (nextHas (exec .atticReadDone (atticState { mirror := [(1, 9)], reading := some 1 })) fun t => rd t 0xD0048 == 9 && rd t 0xD0040 == 1) = true
    ∧ (nextHas (exec .atticReadDone (atticState { reading := some 1 })) fun t => rd t 0xD0040 == 0) = true := by decide +kernel
theorem test_attic_copy : (nextHas (exec .copy (wrF (atticState {}) 0xD0028 16 0 69632)) fun t => t.ev.copying) = true ∧ (nextHas (exec .copy (wrF (atticState {}) 0xD0028 16 0 69633)) fun t => !t.ev.copying) = true
    ∧ (nextHas (exec .copy (atticState {})) fun t => !t.ev.copying) = true ∧ (nextHas (exec .clear (atticState { copying := true })) fun t => rdF t 0xD0008 2 2 == 1) = true
    ∧ (nextHas (exec (.atticCopyDone false) (atticState { copying := true })) fun t => !t.ev.copying && rdF t 0xD0018 15 0 == 9) = true
    ∧ (nextHas (exec (.atticCopyDone true) { wrF (atticState { copying := true }) 0xD0028 16 0 1 with pch := { up := true, bme1 := true } }) fun t => t.out.length != 0) = true := by decide +kernel
theorem test_attic_clear : (nextHas (exec .clear (withPair (atticState {}) 0x0B 1)) fun t => t.sl.held == []) = true ∧ (nextHas (exec .clear (atticState {})) fun t => rdF t 0xD0018 23 16 == 0x93) = true
    ∧ (nextHas (exec .clear { atticState {} with mode := { readyMode with lc := .test } }) fun t => rdF t 0xD0018 23 16 == 0x91) = true
    ∧ (nextHas (exec .clear { atticState {} with mode := { readyMode with lock := true } }) fun t => rdF t 0xD0018 23 16 == 0x90) = true := by decide +kernel

/-! ## A whole profile (14) -/

/-- A profile block's first 320 bytes for slot 2: magic, version, slot, the header words, the default policy. -/
def profileHead : List Byte :=
  [0x50, 0x52, 0x46, 0x4C, 1, 0, 2, 0] ++ List.replicate 16 0 ++ [1, 0, 0, 0, 2, 0, 0, 0] ++ List.replicate 32 0 ++ policyBytes
/-- The whole block: no slice has a grant. -/
def profileBytes : List Byte := profileHead ++ List.replicate 265920 0

theorem profile_head_length : profileHead.length = 320 := by decide +kernel

theorem pack_zeros (n : Nat) : packBytes (List.replicate n 0) = 0 := by
  induction n with
  | zero => rfl
  | succ n ih => rw [List.replicate_succ, packBytes, ih]

theorem block_in_head (off n : Nat) (h : off + n ≤ 320) : blockAt profileBytes off n = blockAt profileHead off n := by
  unfold blockAt profileBytes
  rw [List.drop_append_of_le_length (by have := profile_head_length; omega), List.take_append_of_le_length (by have := profile_head_length; rw [List.length_drop]; omega)]

theorem pieces_zeros (k n : Nat) : piecesOf k n (List.replicate (k * n) 0) = List.replicate n (List.replicate k 0) := by
  induction n with
  | zero => rfl
  | succ n ih =>
    have e : k * (n + 1) - k = k * n := by rw [Nat.mul_succ]; omega
    simp only [piecesOf, List.replicate_succ, List.take_replicate, List.drop_replicate]
    rw [e, ih, Nat.min_eq_left (Nat.le_mul_of_pos_right k (Nat.succ_pos n))]

theorem profile_entries : sliceEntries profileBytes = List.replicate 1024 (List.replicate 256 0) := by
  unfold sliceEntries profileBytes
  rw [List.drop_append, profile_head_length, List.drop_eq_nil_of_le (by have := profile_head_length; omega), List.drop_replicate, List.nil_append]
  exact pieces_zeros 256 1024

theorem map_zeros (n : Nat) : (List.replicate n (0 : Byte)).map BitVec.toNat = List.replicate n 0 := by rw [List.map_replicate]; rfl

theorem block_zeros (n off k : Nat) : blockAt (List.replicate n 0) off k = 0 := by
  unfold blockAt
  rw [List.drop_replicate, List.take_replicate, map_zeros, pack_zeros]

theorem word_zeros (off : Nat) : wordAt (List.replicate 256 0) off = 0 := by
  unfold wordAt; rw [block_zeros]; rfl

theorem entry_zeros : entryClean (List.replicate 256 0) = true := by
  unfold entryClean
  simp only [block_zeros, word_zeros]
  decide +kernel

theorem profile_words (off : Nat) : entryWords (sliceEntries profileBytes).zipIdx off = [] := by
  rw [profile_entries]
  simp only [entryWords, List.filterMap_eq_nil_iff]
  intro a ha
  have : a.1 = List.replicate 256 0 := List.eq_of_mem_replicate (List.fst_mem_of_mem_zipIdx ha)
  rw [this, word_zeros]; rfl

theorem profile_grants : ((sliceEntries profileBytes).zipIdx.flatMap fun e => entryGrants e.2 e.1).filter (fun g => g.2 != (0, 0, 0)) = [] := by
  rw [profile_entries, List.filter_eq_nil_iff]
  intro g hg
  obtain ⟨a, ha, hg⟩ := List.mem_flatMap.1 hg
  have h0 : a.1 = List.replicate 256 0 := List.eq_of_mem_replicate (List.fst_mem_of_mem_zipIdx ha)
  obtain ⟨c, -, rfl⟩ := List.mem_map.1 hg
  rw [h0]
  simp only [word_zeros]; decide

theorem profile_policy : (profileBytes.drop 64).take 256 = policyBytes := by
  unfold profileBytes
  rw [List.drop_append_of_le_length (by have := profile_head_length; omega), List.take_append_of_le_length (by have := profile_head_length; rw [List.length_drop]; omega)]
  decide +kernel

theorem profileOf_grants (l : List Byte) : (profileOf l).grants = (((sliceEntries l).zipIdx.flatMap fun e => entryGrants e.2 e.1).filter fun g => g.2 != (0, 0, 0)) := rfl
theorem profileOf_ways (l : List Byte) : (profileOf l).ways = entryWords (sliceEntries l).zipIdx 208 := rfl
theorem profileOf_hold (l : List Byte) : (profileOf l).hold = BitVec.ofNat 64 (blockAt l 24 8) := rfl

theorem grants_fit_none (p : Profile) (h : p.grants = []) : grantsFit p = true := by
  unfold grantsFit; rw [h]; rfl

/-- The profile is in form: what a PROFILE_WRITE of slot 2 needs. -/
theorem test_profile : profileOk 2 profileBytes = true ∧ profileBytes.take 266240 = profileBytes := by
  have hl : profileBytes.length = 266240 := by rw [profileBytes, List.length_append, profile_head_length, List.length_replicate]
  refine ⟨?_, List.take_of_length_le (Nat.le_of_eq hl)⟩
  have hz : blockAt profileBytes 320 3776 = 0 := by
    unfold blockAt profileBytes
    rw [List.drop_append, profile_head_length, List.drop_eq_nil_of_le (by have := profile_head_length; omega), List.nil_append, List.drop_replicate, List.take_replicate, map_zeros, pack_zeros]
  have hc : (sliceEntries profileBytes).all entryClean = true := by
    rw [profile_entries, List.all_eq_true]; intro e he; rw [List.eq_of_mem_replicate he]; exact entry_zeros
  have hg : grantsFit (profileOf profileBytes) = true :=
    grants_fit_none _ (by rw [profileOf_grants]; exact profile_grants)
  have hw : (profileOf profileBytes).ways = [] := by rw [profileOf_ways, profile_words]
  have hh : (profileOf profileBytes).hold = wordAt profileHead 24 := by
    rw [profileOf_hold, block_in_head 24 8 (by omega)]; rfl
  unfold profileOk
  simp only [hl, hz, hc, hg, hw, hh, profile_policy, block_in_head 0 4 (by omega), block_in_head 4 2 (by omega), block_in_head 6 1 (by omega),
    block_in_head 7 1 (by omega), block_in_head 48 16 (by omega)]
  decide +kernel

end Tests
end Sys2Proof
end

section
/-! PROOF. One beat of the block with no command waiting (01 R8, 02 R31, 04 R115): what the time base does, which orders the
beat leaves alone, and what it does to the one order of a table. -/

namespace Sys2Proof
namespace Machine

/-! ## The beat of the time base (02 R31) -/

/-- While the time base runs, TB_RUN counts the beat. -/
theorem tick_run_of_running {s : State} (h : s.tb.running = true) : (tick s).tb.run = s.tb.run + 1 := by
  unfold tick
  rw [if_pos h]
  extract_lets l s1
  split <;> rfl

/-- A stopped time base keeps every count. -/
theorem tick_of_stopped {s : State} (h : s.tb.running = false) : tick s = s := by
  simp [tick, h]

/-- A stair port that enters DOZE as the beat passes leaves the time base to the tick (10 R301). -/
@[simp] theorem beatPass_tb (s : State) : (beatPass s).tb = (tick s).tb := by simp [beatPass]
@[simp] theorem beatPass_adm (s : State) : (beatPass s).adm = s.adm := by simp [beatPass]
@[simp] theorem beatPass_mode (s : State) : (beatPass s).mode = s.mode := by simp [beatPass]

/-- With no command waiting, a step is the end of a beat. -/
theorem step_of_pending_nil {s : State} (h : s.pending = []) : step s = .next (beatEnds s) := by
  simp [step, h]

/-! ## Orders that nothing falls due for -/

@[simp] theorem noteBusy_adm (s : State) : (noteBusy s).adm = s.adm := by
  unfold noteBusy
  split <;> rfl

theorem stopOverdue_of_none_overdue {s : State} (h : ∀ p ∈ s.adm.orders, overdue s p.2 = false) :
    stopOverdue s = s := by
  have hnone : (s.adm.orders.filter fun p => overdue s p.2) = [] := by simpa using h
  rw [stopOverdue, hnone, List.foldl_nil]

theorem issueDue_of_none_due {s : State} (h : ∀ p ∈ s.adm.orders, completionDue s p.2 = false) : issueDue s = s := by
  have hnone : (s.adm.orders.filter fun p => completionDue s p.2) = [] := by simpa using h
  rw [issueDue, hnone, List.foldl_nil]

/-! ## A table of one order -/

section OneOrder
variable {s : State} {o : Nat} {v : Order} (ho : s.adm.orders = [(o, v)])
include ho

theorem order?_of_single : order? s o = some v := by
  simp [order?, ho, tfind]

/-- The fold looks the order up again, so it finds the same one overdue and stops it once (04 R115). -/
theorem stopOverdue_of_single (h : overdue s v = true) : stopOverdue s = watchdogStop s o v := by
  have hone : (s.adm.orders.filter fun p => overdue s p.2) = [(o, v)] := by simp [ho, h]
  have hend : watchdogEnd s o = watchdogStop s o v := by simp [watchdogEnd, order?_of_single ho, h]
  rw [stopOverdue, hone, List.foldl_cons, List.foldl_nil, hend]

theorem issueDue_of_single (h : completionDue s v = true) : issueDue s = completeOrder s o [] := by
  have hone : (s.adm.orders.filter fun p => completionDue s p.2) = [(o, v)] := by simp [ho, h]
  rw [issueDue, hone, List.foldl_cons, List.foldl_nil]

end OneOrder

/-! ## The statement -/

/-- Settles O2: `step` on an empty queue is `beatEnds`, whose last act, `beatPass`, moves TB_RUN and neither the orders nor
the mode; the two folds over the table of orders are over no order, or over its one order. -/
theorem emptyQueuePassesOneBeat : Obligations.EmptyQueuePassesOneBeat := by
  intro s hs
  refine ⟨⟨step_of_pending_nil hs, (beatEnds_pending s).trans hs, ?_, beatPass_mode _, ?_, ?_⟩, ?_, ?_, ?_⟩
  · rw [beatPass_adm]
  · intro hrun
    rw [beatPass_tb, tick_run_of_running hrun]
  · intro hstop
    rw [beatPass_tb, tick_of_stopped hstop]
  · intro hidle
    rw [stopOverdue_of_none_overdue fun p hp => (hidle p hp).1, issueDue_of_none_due fun p hp => (hidle p hp).2]
    exact ⟨rfl, congrArg Adm.orders (noteBusy_adm s)⟩
  · exact fun o v ho hlate => stopOverdue_of_single ho hlate
  · exact fun o v ho hdue => issueDue_of_single ho hdue

end Machine
end Sys2Proof
end

section
/-! PROOF. The length of a beat and the limit of the rate trim (02 R35): the accumulator passes on at most one cycle to a
beat, the slew at most one more, and whatever writes the rate trim clamps it. -/

namespace Sys2Proof
namespace Machine

/-! ## The two shares of a beat (02 R35) -/

theorem unitOf_bounds (x : Int) : -1 ≤ unitOf x ∧ unitOf x ≤ 1 := by
  unfold unitOf
  split
  · omega
  · split <;> omega

/-- 1,000 nominal cycles at the limit of the rate trim are less than one cycle, so the accumulator carries at most one
cycle either way. -/
theorem carry_bounds {rate frac : Int} (hrate : -rateLimit ≤ rate ∧ rate ≤ rateLimit)
    (hfrac : 0 ≤ frac ∧ frac < 4294967296) :
    -1 ≤ (frac + 1000 * rate) / 4294967296 ∧ (frac + 1000 * rate) / 4294967296 ≤ 1 := by
  unfold rateLimit at hrate
  omega

/-- The fraction that a beat leaves is a remainder, whatever the rate trim is. -/
theorem beatLength_frac (t : Tb) : (beatLength t).2 = (t.frac + 1000 * t.rate) % 4294967296 := by
  simp only [beatLength]
  omega

theorem beatLength_cycles (t : Tb) :
    (beatLength t).1 = 1000 + (t.frac + 1000 * t.rate) / 4294967296 + unitOf t.phase := rfl

theorem beatLength_cycles_bounds {t : Tb} (hrate : -rateLimit ≤ t.rate ∧ t.rate ≤ rateLimit)
    (hfrac : 0 ≤ t.frac ∧ t.frac < 4294967296) : 998 ≤ (beatLength t).1 ∧ (beatLength t).1 ≤ 1002 := by
  have hcarry := carry_bounds hrate hfrac
  have hslew := unitOf_bounds t.phase
  rw [beatLength_cycles]
  omega

/-! ## What writes the rate trim (02 R35, R40, R50) -/

theorem clampInt_bounds {lim : Int} (h : 0 ≤ lim) (x : Int) : -lim ≤ clampInt lim x ∧ clampInt lim x ≤ lim := by
  unfold clampInt
  omega

theorem clampInt_rateLimit_bounds (x : Int) : -rateLimit ≤ clampInt rateLimit x ∧ clampInt rateLimit x ≤ rateLimit :=
  clampInt_bounds (by decide) x

@[simp] theorem acceptCount_tb (s : State) (n : Nat) : (acceptCount s n).tb = s.tb := by simp [acceptCount]
@[simp] theorem writeFloor_tb (s : State) (sec : Nat) : (writeFloor s sec).tb = s.tb := rfl

theorem acquire_rate (s : State) (sec c gap : Nat) :
    (acquire s sec c gap).tb.rate = clampInt rateLimit (measuredRate gap) := by
  simp [acquire]

/-- With an accepted edge before it, an accepted edge moves the rate trim a sixteenth of the way to the measured rate,
clamped (02 R40). -/
theorem edgeAccept_rate_of_lastEdge {s : State} {l : Nat × Nat} (h : s.tb.lastEdge = some l) (c off : Nat) :
    (edgeAccept s c off).tb.rate
      = clampInt rateLimit (s.tb.rate + (measuredRate (c - l.1) - s.tb.rate) / 16) := by
  simp only [edgeAccept, h]
  split <;> simp

theorem edgeAccept_rate_of_no_lastEdge {s : State} (h : s.tb.lastEdge = none) (c off : Nat) :
    (edgeAccept s c off).tb.rate = s.tb.rate := by
  simp only [edgeAccept, h]
  split <;> simp

theorem edgeAccept_rate_bounds {s : State} (hrate : -rateLimit ≤ s.tb.rate ∧ s.tb.rate ≤ rateLimit) (c off : Nat) :
    -rateLimit ≤ (edgeAccept s c off).tb.rate ∧ (edgeAccept s c off).tb.rate ≤ rateLimit := by
  cases h : s.tb.lastEdge with
  | none => rwa [edgeAccept_rate_of_no_lastEdge h]
  | some l => rw [edgeAccept_rate_of_lastEdge h]; exact clampInt_rateLimit_bounds _

theorem acquire_rate_bounds (s : State) (sec c gap : Nat) :
    -rateLimit ≤ (acquire s sec c gap).tb.rate ∧ (acquire s sec c gap).tb.rate ≤ rateLimit := by
  rw [acquire_rate]
  exact clampInt_rateLimit_bounds _

/-! ## The statement -/

/-- Settles O15: carry and slew are at most one cycle each, the fraction left is a remainder, and the two updates of the
rate trim are clamped. -/
theorem beatLengthStaysWithinTwoCycles : Obligations.BeatLengthStaysWithinTwoCycles := by
  refine ⟨fun t hlo hhi hpos hlt => ?_, fun s c off hlo hhi => edgeAccept_rate_bounds ⟨hlo, hhi⟩ c off, acquire_rate_bounds⟩
  obtain ⟨hmin, hmax⟩ := beatLength_cycles_bounds ⟨hlo, hhi⟩ ⟨hpos, hlt⟩
  obtain ⟨hdown, hup⟩ := unitOf_bounds t.phase
  refine ⟨hmin, hmax, ?_, ?_, unitOf t.phase, hdown, hup, beatLength_cycles t⟩
  · rw [beatLength_frac]
    exact Int.emod_nonneg _ (by decide)
  · rw [beatLength_frac]
    exact Int.emod_lt_of_pos _ (by decide)

end Machine
end Sys2Proof
end

section
/-! PROOF. What the manager does to a slice's ENABLE (03 R70) and to a queue command while one is in progress (03 R78). -/

namespace Sys2Proof
namespace Machine

/-! ## Where manager writes are taken (18 R485, 19 R494) -/

theorem managerWrite_of_managerOpen {s : State} (h : managerOpen s) (off : Nat) (f : State → State) :
    managerWrite s off f = .next (f s) := by
  obtain ⟨hstart, hreset⟩ := h
  simp [managerWrite, hstart, hreset]

/-- An aligned 8-byte write inside BAR0, off the doorbell page of slice 0, reaches the register file. -/
theorem execRegisterWrite_of_managerOpen {s : State} (h : managerOpen s) {off : Nat} (hbar : off < 0x1000000)
    (hpage : ¬ (0x21000 ≤ off ∧ off < 0x21028)) (halign : off % 8 = 0) (v : Word) :
    execRegisterWrite off 8 v s = .next (writeReg s off v) := by
  obtain ⟨hstart, hreset⟩ := h
  have hin : ¬ 0x1000000 ≤ off := by omega
  simp [execRegisterWrite, hstart, hreset, hin, hpage, halign]

/-! ## Enabling a slice (03 R70) -/

theorem exec_sliceEnable_of_managerOpen {s : State} (h : managerOpen s) (sl : Slice) :
    exec (.sliceEnable sl) s = .next (enableSlice s sl.val) :=
  managerWrite_of_managerOpen h (sltBase sl.val) fun s => enableSlice s sl.val

theorem pasidTaken_iff (s : State) (sl pasid : Nat) :
    pasidTaken s sl pasid = true
      ↔ ∃ t, t < 1024 ∧ t ≠ sl ∧ t ≠ 0 ∧ enabled s t = true ∧ pasidOf s t = pasid := by
  simp [pasidTaken, and_assoc]

theorem enableSlice_of_pasidTaken {s : State} {sl : Nat} (hsl : sl ≠ 0) (h : pasidTaken s sl (pasidOf s sl) = true) :
    enableSlice s sl = evt s 2 7 := by
  simp [enableSlice, hsl, h]

theorem enableSlice_of_pasid_free {s : State} {sl : Nat} (h : pasidTaken s sl (pasidOf s sl) = false) :
    enableSlice s sl = wrF s (sltBase sl) 63 63 1 := by
  simp [enableSlice, h, bindAddr]

/-- Slice 0 is enabled whatever PASIDs are bound. -/
theorem enableSlice_zero (s : State) : enableSlice s 0 = wrF s (sltBase 0) 63 63 1 := by
  simp [enableSlice, bindAddr]

/-- Settles O19: the search of `pasidTaken` is over the enabled slices other than slice 0 and the slice itself, and its
answer alone decides between ENABLE and BIND_REFUSED. -/
theorem sliceEnableAndPasidRule : Obligations.SliceEnableAndPasidRule := by
  intro sl s hopen
  rw [exec_sliceEnable_of_managerOpen hopen]
  refine ⟨fun _ hfree => ?_, fun hsl htaken => ?_, fun hsl => ?_⟩
  · have hnot : pasidTaken s sl.val (pasidOf s sl.val) = false := by
      rw [Bool.eq_false_iff, ne_eq, pasidTaken_iff]
      rintro ⟨t, hlt, hother, hzero, hen, hpasid⟩
      exact hfree t hlt hother hzero hen hpasid
    rw [enableSlice_of_pasid_free hnot]
  · have hval : sl.val ≠ 0 := Fin.val_ne_zero_iff.mpr hsl
    rw [enableSlice_of_pasidTaken hval ((pasidTaken_iff s _ _).mpr htaken)]
  · subst hsl
    exact congrArg _ (enableSlice_zero s)

/-! ## Queue commands while one is in progress (03 R78) -/

theorem exec_queueCreate_of_managerOpen {s : State} (h : managerOpen s) (sl : Slice) (q : PairIx) :
    exec (.queueCreate sl q) s = .next (qcmd s fun s => createPair s sl.val q.val) :=
  managerWrite_of_managerOpen h 0x20010 fun s => qcmd s fun s => createPair s sl.val q.val

theorem exec_queueDelete_of_managerOpen {s : State} (h : managerOpen s) (sl : Slice) (q : PairIx) :
    exec (.queueDelete sl q) s = .next (qcmd s fun s => deletePair s sl.val q.val) :=
  managerWrite_of_managerOpen h 0x20010 fun s => qcmd s fun s => deletePair s sl.val q.val

theorem exec_sliceAbort_of_managerOpen {s : State} (h : managerOpen s) (sl : Slice) :
    exec (.sliceAbort sl) s = .next (qcmd s fun s => abortSlice s sl.val) :=
  managerWrite_of_managerOpen h 0x20010 fun s => qcmd s fun s => abortSlice s sl.val

/-- PCH_QCMD is an assigned register of block 2. -/
theorem writeReg_qcmd (s : State) (v : Word) : writeReg s 0x20010 v = pchWrite s 0x20010 v := by
  have hdesc : (regDesc 0x20010).isNone = false := by decide
  simp [writeReg, hdesc, blockWrite]

theorem exec_registerWrite_qcmd_of_managerOpen {s : State} (h : managerOpen s) (v : Word) :
    exec (.registerWrite 0x20010 8 v) s = .next (pchWrite s 0x20010 v) := by
  rw [← writeReg_qcmd]
  exact execRegisterWrite_of_managerOpen h (by decide) (by decide) (by decide) v

section Busy
variable {s : State} (hbusy : rdF s 0x20018 16 16 = 1)
include hbusy

theorem qcmd_of_busy (f : State → State) : qcmd s f = evt s 2 8 := by
  simp [qcmd, qcmdBusy, hbusy]

/-- Every operation code of PCH_QCMD goes through `qcmd`, also one that names no command. -/
theorem pchWrite_qcmd_of_busy (v : Word) : pchWrite s 0x20010 v = evt s 2 8 := by
  rw [pchWrite, if_pos rfl]
  split <;> exact qcmd_of_busy hbusy _

end Busy

/-- Settles O20: the three commands and a write of PCH_QCMD all run their meaning under `qcmd`, which ignores it while BUSY
is 1. -/
theorem queueCommandsWhileBusyAreIgnored : Obligations.QueueCommandsWhileBusyAreIgnored := by
  intro sl q s hopen hbusy
  refine ⟨?_, ?_, ?_, fun v => ?_⟩
  · rw [exec_queueCreate_of_managerOpen hopen, qcmd_of_busy hbusy]
  · rw [exec_queueDelete_of_managerOpen hopen, qcmd_of_busy hbusy]
  · rw [exec_sliceAbort_of_managerOpen hopen, qcmd_of_busy hbusy]
  · rw [exec_registerWrite_qcmd_of_managerOpen hopen, pchWrite_qcmd_of_busy hbusy]

end Machine
end Sys2Proof
end

section
/-! PROOF. How a command can end (05 R137, 06 R188, 09 R253): with a next state, or, for a form that the loader refuses, with
that one refusal. -/

namespace Sys2Proof
namespace Machine

theorem Keeps.ne_fault {s : State} {r : Result} (h : Keeps s r) (f : Fault) : r ≠ .fault f := by
  rintro rfl
  exact h

theorem Keeps.eq_refusedByLoader {s : State} {r : Refusal} (h : Keeps s (.refused r)) : r = .refusedByLoader := h

/-- Each arm of `exec` is the meaning of one command, which has its own law under Laws/Kept*. -/
theorem exec_keeps (c : Instr) (s : State) : Keeps s (exec c s) := by
  unfold exec
  split <;> simp

/-- Settles O6: the law of every command, `Keeps`, admits a next state and the loader's refusal only. -/
theorem runningFormsNeverStop : Obligations.RunningFormsNeverStop := by
  intro c s
  have hkeeps := exec_keeps c s
  refine ⟨hkeeps.ne_fault, fun r hr => ?_⟩
  rw [hr] at hkeeps
  exact hkeeps.eq_refusedByLoader

end Machine
end Sys2Proof
end

section
/-! PROOF. What a doorframe decides (05 R153 to R155): an address above the map is granted by nothing, and any other access
is decided by its page alone. -/

namespace Sys2Proof
namespace Machine

theorem doorGrants_of_above {addr : Nat} (h : 2 ^ 36 ≤ addr) (regs : Tab Word) (supv write dma : Bool) :
    doorGrants regs supv addr write dma = false := by
  rw [doorGrants, if_pos h]

section Below
variable {addr : Nat} (haddr : addr < 2 ^ 36)
include haddr

theorem doorGrants_routine_iff (regs : Tab Word) (write dma : Bool) :
    doorGrants regs false addr write dma = true ↔ ∃ p ∈ regs, regCovers p.2 (addr / 4096) = true
      ∧ (if write then bit p.2 60 else bit p.2 61) = true ∧ bit p.2 62 = false := by
  rw [doorGrants, if_neg (Nat.not_le.mpr haddr)]
  simp [and_assoc]

/-- The first region that covers the page decides a supervisor access alone (R154). -/
theorem doorGrants_supv_of_first {regs : Tab Word} {p : Nat × Word}
    (hfirst : (regs.find? fun q => regCovers q.2 (addr / 4096)) = some p) (write dma : Bool) :
    doorGrants regs true addr write dma = if write then bit p.2 60 else bit p.2 61 := by
  rw [doorGrants, if_neg (Nat.not_le.mpr haddr)]
  simp [hfirst]

theorem doorGrants_supv_of_uncovered {regs : Tab Word} (hnone : ∀ p ∈ regs, regCovers p.2 (addr / 4096) = false)
    (write dma : Bool) : doorGrants regs true addr write dma = defaultGrants (addr / 4096) write dma := by
  have hfind : (regs.find? fun q => regCovers q.2 (addr / 4096)) = none := by simpa using hnone
  rw [doorGrants, if_neg (Nat.not_le.mpr haddr)]
  simp [hfind]

/-- A page lies below the limit of the map or above it as a whole. -/
theorem doorGrants_of_same_page {other : Nat} (hpage : other / 4096 = addr / 4096) (regs : Tab Word) (supv write dma : Bool) :
    doorGrants regs supv other write dma = doorGrants regs supv addr write dma := by
  have hother : other < 2 ^ 36 := by omega
  rw [doorGrants, doorGrants, if_neg (Nat.not_le.mpr haddr), if_neg (Nat.not_le.mpr hother), hpage]

end Below

theorem defaultGrants_iff (page : Nat) (write dma : Bool) : defaultGrants page write dma = true
    ↔ (0x200000 ≤ page ∧ page ≤ 0x200003 ∧ dma = false) ∨ (0x300000 ≤ page ∧ page ≤ 0x300BFF)
      ∨ (0x400000 ≤ page ∧ page ≤ 0x4003FF ∧ write = false) := by
  simp [defaultGrants, and_assoc, or_assoc]

/-- Settles O29: below 2³⁶ a routine access asks every region, a supervisor access the first covering one, else the default
map, and all three are asked for the page. -/
theorem doorframesDecideAccesses : Obligations.DoorframesDecideAccesses := by
  intro regs addr write dma
  refine ⟨fun supv habove => doorGrants_of_above habove regs supv write dma,
    fun haddr => doorGrants_routine_iff haddr regs write dma, fun haddr hnone => ?_, fun d haddr hcovers ix rest hregs => ?_,
    fun other supv haddr hpage => doorGrants_of_same_page haddr hpage regs supv write dma⟩
  · rw [doorGrants_supv_of_uncovered haddr hnone, defaultGrants_iff]
  · have hfirst : (regs.find? fun q => regCovers q.2 (addr / 4096)) = some (ix, d) := by
      rw [hregs]
      exact List.find?_cons_of_pos hcovers
    exact doorGrants_supv_of_first haddr hfirst write dma

end Machine
end Sys2Proof
end

section
/-! PROOF. What an instruction of a running order does on its engine's registers (05): the rule of the register
instructions, division by zero and x0 (R124, R133). -/

namespace Sys2Proof
namespace Machine

/-! ## Running an instruction -/

section Runs
variable {s : State} {e : EngIx} {o : Nat} {v : Order} (hruns : engineRuns s e o v)
include hruns

/-- On an engine that runs an order, an instruction acts on that order and on the engine's present state. -/
theorem onEngine_of_engineRuns (f : Nat → Order → Engine → Result) : onEngine e s f = f o v (eng s e.val) := by
  obtain ⟨horder, hrecord, hbundle⟩ := hruns
  simp [onEngine, horder, hrecord, hbundle]

theorem aluX_of_engineRuns (rd : XReg) (f : Core → Word) :
    aluX e s rd f = .next (setCore s e (advance (xset (eng s e.val).core rd (f (eng s e.val).core)) 1)) :=
  onEngine_of_engineRuns hruns fun _ _ g => go (setCore s e (advance (xset g.core rd (f g.core)) 1))

theorem exec_divu_of_engineRuns (rd rs1 rs2 : XReg) : exec (.divu e rd rs1 rs2) s
    = .next (setCore s e (advance (xset (eng s e.val).core rd
        (divU (xget (eng s e.val).core rs1) (xget (eng s e.val).core rs2))) 1)) :=
  aluX_of_engineRuns hruns rd fun c => divU (xget c rs1) (xget c rs2)

theorem exec_remu_of_engineRuns (rd rs1 rs2 : XReg) : exec (.remu e rd rs1 rs2) s
    = .next (setCore s e (advance (xset (eng s e.val).core rd
        (remU (xget (eng s e.val).core rs1) (xget (eng s e.val).core rs2))) 1)) :=
  aluX_of_engineRuns hruns rd fun c => remU (xget c rs1) (xget c rs2)

theorem exec_add_of_engineRuns (rd rs1 rs2 : XReg) : exec (.add e rd rs1 rs2) s
    = .next (setCore s e (advance (xset (eng s e.val).core rd
        (xget (eng s e.val).core rs1 + xget (eng s e.val).core rs2)) 1)) :=
  aluX_of_engineRuns hruns rd fun c => xget c rs1 + xget c rs2

end Runs

/-! ## Division by zero (R133) and x0 (R124) -/

theorem divU_zero (a : Word) : divU a 0 = 0xFFFFFFFFFFFFFFFF := if_pos rfl
theorem remU_zero (a : Word) : remU a 0 = a := if_pos rfl
@[simp] theorem xget_x0 (c : Core) : xget c 0 = 0 := if_pos rfl
@[simp] theorem xset_x0 (c : Core) (w : Word) : xset c 0 w = c := if_pos rfl

/-- Settles O31: DIVU and REMU put the value of their rule into rd, and x0 takes none. -/
theorem divisionByZeroAndX0 : Obligations.DivisionByZeroAndX0 := by
  intro e o v s rd rs1 rs2 hruns
  refine ⟨fun hzero => ⟨?_, ?_⟩, xget_x0, xset_x0, ?_⟩
  · rw [exec_divu_of_engineRuns hruns, hzero, divU_zero]
  · rw [exec_remu_of_engineRuns hruns, hzero, remU_zero]
  · rw [exec_add_of_engineRuns hruns, xset_x0]

end Machine
end Sys2Proof
end

section
/-! PROOF. Loads from the frame (05 R128, R148, R150, 16 R435): where the bytes lie, and what LD, LDQ and LDL write. -/

namespace Sys2Proof
namespace Machine

/-! ## The address of a frame instruction (R128) -/

theorem frameAddr_dvd (c : Core) (r : XReg) (imm : BitVec 16) (n : Nat) : n ∣ frameAddr c r imm n :=
  Nat.dvd_sub_mod _

/-- For an access size that divides the frame, the aligned bytes lie inside the frame. -/
theorem frameAddr_add_le {n : Nat} (hn : n ∣ 1024) (c : Core) (r : XReg) (imm : BitVec 16) : frameAddr c r imm n + n ≤ 1024 := by
  have hlt : frameAddr c r imm n < 1024 :=
    Nat.lt_of_le_of_lt (Nat.sub_le _ _) (Nat.mod_lt _ (by decide))
  have haligned : frameAddr c r imm n ≡ 1024 [MOD n] :=
    (Nat.modEq_zero_iff_dvd.mpr (frameAddr_dvd c r imm n)).trans (Nat.modEq_zero_iff_dvd.mpr hn).symm
  exact haligned.add_le_of_lt hlt

/-! ## Reading the frame -/

theorem frameRead_of_clean {s : State} {v : Order} {a n : Nat} (h : poisoned s 0 (wordsOf (frameOf v) a n) = false) (o : Nat) :
    frameRead s o v a n .ok = (s, some (tbytes s.mem.win (winBase (frameOf v) + a) n)) := by
  simp [frameRead, h]

theorem frameRead_of_poisoned {s : State} {v : Order} {a n : Nat} (h : poisoned s 0 (wordsOf (frameOf v) a n) = true) (o : Nat)
    (ecc : Ecc) : frameRead s o v a n ecc = (endOrder s o .poison 0, none) := by
  simp [frameRead, h]

/-! ## The three loads -/

/-- A load of n bytes whose value `put` writes to the engine's registers: what LD, LDQ and LDL have in common. -/
def frameLoad (e : EngIx) (n : Nat) (rs1 : XReg) (imm : BitVec 16) (ecc : Ecc) (put : Core → Nat → Core) (s : State) : Result :=
  onEngine e s fun o v g =>
    let a := frameAddr g.core rs1 imm n
    match frameRead s o v a n ecc with
    | (s1, some x) =>
      let r := loadSees s1 v a n x
      go (setCore r.2 e (advance (put g.core r.1) 1))
    | (s1, none) => go s1

theorem exec_ld_eq_frameLoad (e : EngIx) (sz : Size) (rd rs1 : XReg) (imm : BitVec 16) (ecc : Ecc) (s : State) :
    exec (.ld e sz rd rs1 imm ecc) s
      = frameLoad e (sizeBytes sz) rs1 imm ecc (fun c x => xset c rd (BitVec.ofNat 64 x)) s := rfl

theorem exec_ldq_eq_frameLoad (e : EngIx) (bq : BReg) (rs1 : XReg) (imm : BitVec 16) (ecc : Ecc) (s : State) :
    exec (.ldq e bq rs1 imm ecc) s
      = frameLoad e 16 rs1 imm ecc (fun c x => bset c bq (BitVec.ofNat 128 x) false) s := rfl

theorem exec_ldl_eq_frameLoad (e : EngIx) (m : Fin 4) (rs1 : XReg) (imm : BitVec 16) (ecc : Ecc) (s : State) :
    exec (.ldl e m rs1 imm ecc) s = frameLoad e 64 rs1 imm ecc (fun c x => loadQuad c m x) s := rfl

section Load
variable {s : State} {e : EngIx} {o : Nat} {v : Order} (hruns : engineRuns s e o v)
variable {n a : Nat} {rs1 : XReg} {imm : BitVec 16} (ha : frameAddr (eng s e.val).core rs1 imm n = a)
include hruns ha

theorem frameLoad_of_poisoned (hbad : poisoned s 0 (wordsOf (frameOf v) a n) = true) (ecc : Ecc) (put : Core → Nat → Core) :
    frameLoad e n rs1 imm ecc put s = .next (endOrder s o .poison 0) := by
  simp only [frameLoad, onEngine_of_engineRuns hruns, ha, frameRead_of_poisoned hbad]

section Clean
variable (hclean : poisoned s 0 (wordsOf (frameOf v) a n) = false)
include hclean

theorem frameLoad_of_clean {r : Nat × State}
    (hsees : loadSees s v a n (tbytes s.mem.win (winBase (frameOf v) + a) n) = r) (put : Core → Nat → Core) :
    frameLoad e n rs1 imm .ok put s = .next (setCore r.2 e (advance (put (eng s e.val).core r.1) 1)) := by
  simp only [frameLoad, onEngine_of_engineRuns hruns, ha, frameRead_of_clean hclean, hsees]

/-- With no transfer outstanding into its bytes, a load writes the frame's bytes (R148). -/
theorem frameLoad_of_quiet
    (hquiet : ∀ t ∈ tget [] s.rooms.dma (frameOf v), t.toFrame = true → t.off + t.len ≤ a ∨ a + n ≤ t.off)
    (put : Core → Nat → Core) : frameLoad e n rs1 imm .ok put s
      = .next (setCore s e (advance (put (eng s e.val).core (tbytes s.mem.win (winBase (frameOf v) + a) n)) 1)) :=
  frameLoad_of_clean hruns ha hclean (loadSees_quiet _ _ _ _ _ hquiet) put

/-- Whatever transfers are outstanding, a load completes, and a byte that none of them writes is the frame's (R150). -/
theorem frameLoad_sees (put : Core → Nat → Core) :
    ∃ x k, frameLoad e n rs1 imm .ok put s = .next (setCore { s with fresh := k } e (advance (put (eng s e.val).core x) 1))
      ∧ ∀ i, i < n →
          (∀ t : Dma, ¬ (t ∈ tget [] s.rooms.dma (frameOf v) ∧ t.toFrame = true ∧ t.off ≤ a + i ∧ a + i < t.off + t.len)) →
          x / 256 ^ i % 256 = tbytes s.mem.win (winBase (frameOf v) + a) n / 256 ^ i % 256 := by
  obtain ⟨k, hk⟩ := loadSees_state s v a n (tbytes s.mem.win (winBase (frameOf v) + a) n)
  refine ⟨_, k, by rw [frameLoad_of_clean hruns ha hclean rfl put, hk], fun i hi hfree => ?_⟩
  exact loadSees_byte s v a n _ i hi fun t ht hto hin => hfree t ⟨ht, hto, hin⟩

end Clean
end Load

/-- Settles O34: the three loads are `frameLoad` at their sizes. -/
theorem frameLoadsReadTheFrame : Obligations.FrameLoadsReadTheFrame := by
  refine ⟨fun _ _ _ _ => rfl, fun c r imm n hn => ?_, fun e o v s sz rd rs1 bq m imm hruns => ?_⟩
  · have hdvd : n ∣ 1024 := by
      rcases hn with rfl | rfl | rfl | rfl | rfl | rfl <;> decide
    exact ⟨frameAddr_add_le hdvd c r imm, Nat.mod_eq_zero_of_dvd (frameAddr_dvd c r imm n)⟩
  · simp only [exec_ld_eq_frameLoad, exec_ldq_eq_frameLoad, exec_ldl_eq_frameLoad]
    exact ⟨fun hclean hquiet => frameLoad_of_quiet hruns rfl hclean hquiet _,
      fun hclean hquiet => frameLoad_of_quiet hruns rfl hclean hquiet _,
      fun hclean hquiet => frameLoad_of_quiet hruns rfl hclean hquiet _,
      fun hclean => frameLoad_sees hruns rfl hclean _,
      fun hclean => frameLoad_sees hruns rfl hclean _,
      fun hclean => frameLoad_sees hruns rfl hclean _,
      fun ecc hbad => frameLoad_of_poisoned hruns rfl (Bool.eq_true_of_not_eq_false hbad) ecc _⟩

end Machine
end Sys2Proof
end

section
/-! PROOF. Hearth bits and sealed block registers (06 R173, R184): what HEARTH takes from the engine's share, and which
instructions may carry a sealed register's value out of the block registers. -/

namespace Sys2Proof
namespace Machine

/-! ## The bits of a share (R184) -/

@[simp] theorem bitsNum_cons (b : Bool) (r : List Bool) : bitsNum (b :: r) = (if b then 1 else 0) + 2 * bitsNum r := rfl

section Hearth
variable {s : State} {e : EngIx} {o : Nat} {v : Order} (hruns : engineRuns s e o v)
include hruns

theorem exec_hearth_of_source_out (hout : sourceIn s (roomOf e.val) = false) (rd rc : XReg) :
    exec (.hearth e rd rc) s
      = .next (setCore s e (advance (xset (xset (eng s e.val).core rd 0) rc 0xFFFFFFFFFFFFFFFF) 1)) := by
  change execHearth e rd rc s = _
  simp [execHearth, onEngine_of_engineRuns hruns, hout]

section InService
variable (hin : sourceIn s (roomOf e.val) = true)
include hin

theorem exec_hearth_of_short (hshort : (hearthBits s (roomOf e.val) (e.val % 8)).length < 64) (rd rc : XReg) :
    exec (.hearth e rd rc) s = .next (setCore s e (advance (xset (xset (eng s e.val).core rd 0) rc 0) 1)) := by
  change execHearth e rd rc s = _
  simp [execHearth, onEngine_of_engineRuns hruns, hin, hshort]

theorem exec_hearth_of_full (hfull : 64 ≤ (hearthBits s (roomOf e.val) (e.val % 8)).length) (rd rc : XReg) :
    exec (.hearth e rd rc) s
      = .next (setCore (dropBits s (roomOf e.val) (e.val % 8) 64) e (advance (xset (xset (eng s e.val).core rd
          (BitVec.ofNat 64 (bitsNum ((hearthBits s (roomOf e.val) (e.val % 8)).take 64)))) rc 64) 1)) := by
  have hnot : ¬ (hearthBits s (roomOf e.val) (e.val % 8)).length < 64 := Nat.not_lt.mpr hfull
  change execHearth e rd rc s = _
  simp [execHearth, onEngine_of_engineRuns hruns, hin, hnot]

end InService
end Hearth

/-- Settles O41: the source's service and the length of the share decide among the three cases of HEARTH, and only a full
one removes the bits that it returns. -/
theorem hearthBitsAreReturnedOnce : Obligations.HearthBitsAreReturnedOnce := by
  intro e o v s rd rc hruns
  exact ⟨fun hin hfull => exec_hearth_of_full hruns hin hfull rd rc,
    fun hin hshort => exec_hearth_of_short hruns hin hshort rd rc,
    fun hout => exec_hearth_of_source_out hruns hout rd rc, bitsNum_cons⟩

/-! ## Sealed registers (R173) -/

/-- A comparison's result is 1 where its operands are equal and 0 where they are not. -/
theorem truth_beq {α : Type} [DecidableEq α] (a b : α) : truth (a == b) = if a = b then 1 else 0 := by
  simp [truth]

section Sealed
variable {s : State} {e : EngIx} {o : Nat} {v : Order} (hruns : engineRuns s e o v)
include hruns

theorem exec_bget_of_sealed {ba : BReg} (hsealed : sealedB (eng s e.val).core ba = true) (x : XReg) (h : Bool) :
    exec (.bget e x ba h) s = .next (endOrder s o .policy 0) := by
  change execBget e x ba h s = _
  simp [execBget, onEngine_of_engineRuns hruns, hsealed]

theorem exec_stq_of_sealed {bq : BReg} (hsealed : sealedB (eng s e.val).core bq = true) (rs1 : XReg) (imm : BitVec 16) :
    exec (.stq e bq rs1 imm) s = .next (endOrder s o .policy 0) := by
  change execStq e bq rs1 imm s = _
  simp [execStq, onEngine_of_engineRuns hruns, hsealed]

/-- One sealed register among the four is enough. -/
theorem exec_stl_of_sealed {m : Fin 4} {i : Nat} (hi : i < 4) (hsealed : sealedB (eng s e.val).core (quadOf m i) = true)
    (rs1 : XReg) (imm : BitVec 16) : exec (.stl e m rs1 imm) s = .next (endOrder s o .policy 0) := by
  have hany : ((List.range 4).any fun j => sealedB (eng s e.val).core (quadOf m j)) = true :=
    List.any_eq_true.mpr ⟨i, List.mem_range.mpr hi, hsealed⟩
  change execStl e m rs1 imm s = _
  rw [execStl, onEngine_of_engineRuns hruns, if_pos hany]

theorem exec_bceq_of_engineRuns (x : XReg) (ba bb : BReg) : exec (.bceq e x ba bb) s
    = .next (setCore s e (advance (xset (eng s e.val).core x
        (truth (bget (eng s e.val).core ba == bget (eng s e.val).core bb))) 1)) :=
  aluX_of_engineRuns hruns x fun c => truth (bget c ba == bget c bb)

theorem exec_bceqh_of_engineRuns (x : XReg) (ba bb : BReg) (h : Bool) : exec (.bceqh e x ba bb h) s
    = .next (setCore s e (advance (xset (eng s e.val).core x
        (truth (halfOf (bget (eng s e.val).core ba) h == halfOf (bget (eng s e.val).core bb) h))) 1)) :=
  aluX_of_engineRuns hruns x fun c => truth (halfOf (bget c ba) h == halfOf (bget c bb) h)

end Sealed

/-- Settles O42: BGET, STQ and STL ask for the seal before they read a value, and the two comparisons never ask for it. -/
theorem sealedRegistersStayInside : Obligations.SealedRegistersStayInside := by
  intro e o v s x rs1 ba bb m h imm hruns
  refine ⟨fun hsealed => exec_bget_of_sealed hruns hsealed x h, fun hsealed => exec_stq_of_sealed hruns hsealed rs1 imm,
    fun i hi hsealed => exec_stl_of_sealed hruns hi hsealed rs1 imm, ?_, ?_⟩
  · rw [exec_bceq_of_engineRuns hruns, truth_beq]
  · rw [exec_bceqh_of_engineRuns hruns, truth_beq]

end Machine
end Sys2Proof
end

section
/-! PROOF. What a start does (18 R482): the state and the time base of step 2, E1's decision of step 3, the tests of the
noise sources (15 R423, R428), and the root that step 7 finds or draws (08 R230). -/

namespace Sys2Proof
namespace Machine

/-! ## Where the start sequence begins -/

theorem exec_start_of_not_begun {s : State} (hstart : s.starting = true) (hbegun : s.begun = false) (i : StartIn) :
    exec (.start i) s = .next (startNow s i) := by
  change execStart i s = _
  rw [execStart, if_pos (by rw [hstart, hbegun]; rfl)]

/-! ## Step 2: life-cycle state, BBRAM and time base -/

theorem afterRetention_of_kept {s : State} (hkept : s.bbram.retentionLost = false) : afterRetention s = s := by
  rw [afterRetention, if_neg (Bool.eq_false_iff.mp hkept)]

section Step2
variable (s : State) (psel : Fin 4)

theorem startStep2_mode : (startStep2 s psel).mode =
    { (afterRetention s).mode with
      lc := lcDecode (afterRetention s).lc.otp.marks
      lock := (afterRetention s).bbram.lockFlag
      zeroized := (afterRetention s).bbram.zeroized
      tmode := (afterRetention s).tp.policy.compat
      valid := true } := by
  simp [startStep2]

theorem startStep2_tb_running : (startStep2 s psel).tb.running = true := by simp [startStep2]
theorem startStep2_tb_run : (startStep2 s psel).tb.run = 0 := by simp [startStep2]
theorem startStep2_lc_psel : (startStep2 s psel).lc.psel = psel := by simp [startStep2]

/-- Only the loss of retention changes BBRAM in step 2 (R481). -/
theorem startStep2_bbram : (startStep2 s psel).bbram = (afterRetention s).bbram := by simp [startStep2]

end Step2

/-! ## Step 3: E1's grant of key use, for E2 to decide -/

/-- Without a lock and without a response left, step 3 only withdraws key use and queues E1's grant of it. -/
theorem startStep3_tp_of_unlocked {s : State} (hunlocked : s.bbram.lockFlag = false) (hnone : s.tp.left = []) :
    (startStep3 s).tp = { s.tp with
      left := [], keyUse := false, e2 := s.tp.e2 ++ [(Decision.keyUse, s.bbram.lockCount.toNat)] } := by
  simp [startStep3, followAlarm, hnone, hunlocked]

/-! ## The noise sources (15 R423, R428) -/

theorem tget_tput_same_of_ne {α : Type} [DecidableEq α] {d v : α} (hv : v ≠ d) (t : Tab α) (k : Nat) :
    tget d (tput d t k v) k = v := by
  rw [tput, if_neg hv, tget, tfind_tins_same, Option.getD_some]

theorem inService_ne_default (h : Hsrc) : { h with inService := true } ≠ ({} : Hsrc) := fun heq => by
  cases congrArg Hsrc.inService heq

/-- A served source is never the reset value, so its entry is listed whatever the table was. -/
theorem hsrc_serve_same (s : State) (r : Nat) (h : Hsrc) : hsrc (serve s r h) r = { h with inService := true } :=
  tget_tput_same_of_ne (inService_ne_default h) s.ns.srcs r

theorem startTest_of_passed {i : StartIn} {r : Nat} (hpass : i.hearth.getD r 0 = 0) (s : State) :
    startTest i s r = serve s r (hsrc s r) := by
  simp only [startTest, hpass]
  exact if_neg (by decide)

theorem exec_sourceRetestTimer_of_waiting {s : State} (hstart : s.starting = true) (hin : s.startIn.isSome = true)
    (hstage : rdF s 0x30 15 8 = 6) (hdue : s.ns.retestRun + beatsPerSec ≤ runNow s) :
    exec .sourceRetestTimer s
      = .next ((List.range 64).foldl sourceReturn { s with ns := { s.ns with retestRun := runNow s } }) := by
  change execSourceRetestTimer s = _
  rw [execSourceRetestTimer, if_pos (by simp [hstart, hin, hstage, hdue])]

/-! ## Step 7: the root is found or drawn (08 R230) -/

theorem nextStart_bbram (s : State) : (nextStart s).bbram = { s.bbram with startCount := s.bbram.startCount + 1 } := by
  rw [nextStart]
  split <;> simp

section FirstStart
variable (s : State) (readable : Bool × Bool)

theorem firstStart_bbram_rootValid : (firstStart s readable).bbram.rootValid = true := by simp [firstStart]
theorem firstStart_bbram_startCount : (firstStart s readable).bbram.startCount = 1 := by simp [firstStart]
theorem firstStart_bbram_check :
    (firstStart s readable).bbram.check = rootCheck (firstStart s readable).bbram.root := by simp [firstStart]
theorem firstStart_ks : (firstStart s readable).ks = { fresh := true } := by simp [firstStart]
theorem firstStart_cu : (firstStart s readable).cu = {} := by simp [firstStart]
theorem firstStart_ld_keys : (firstStart s readable).ld.keys = [] := by simp [firstStart]

end FirstStart

/-! ## The statement -/

/-- Settles O10: a start of a kept state reads BBRAM as it stands, a served source is listed as in service, and both ways
to a root are read off field by field. -/
theorem startRunsItsStages : Obligations.StartRunsItsStages := by
  intro s
  refine ⟨fun i hstart hbegun => exec_start_of_not_begun hstart hbegun i, fun psel hkept => ?_, fun i r hpass => ?_,
    nextStart_bbram s, fun hd => ?_, fun hunlocked hnone => ?_, fun r fail => rfl,
    fun hstart hin hstage hdue => exec_sourceRetestTimer_of_waiting hstart hin hstage hdue⟩
  · refine ⟨?_, startStep2_tb_running s psel, startStep2_tb_run s psel, startStep2_lc_psel s psel, ?_⟩
    · rw [startStep2_mode, afterRetention_of_kept hkept]
    · rw [startStep2_bbram, afterRetention_of_kept hkept]
  · rw [startTest_of_passed hpass, hsrc_serve_same]
    exact ⟨rfl, rfl⟩
  · rw [firstStart_ks]
    exact ⟨firstStart_bbram_rootValid s hd, firstStart_bbram_startCount s hd, firstStart_bbram_check s hd, rfl, rfl,
      firstStart_cu s hd, firstStart_ld_keys s hd⟩
  · rw [startStep3_tp_of_unlocked hunlocked hnone]
    exact ⟨rfl, rfl⟩

end Machine
end Sys2Proof
end

section
/-! PROOF. What every step keeps (the queue of commands, the memories' canonical form), and how a step takes its command
from the queue. -/

namespace Sys2Proof
namespace Machine

/-! ## The queue and the memories -/

theorem exec_keeps_pending {c : Instr} {s t : State} (h : exec c s = .next t) : t.pending = s.pending := by
  have hkeeps := exec_keeps c s
  rw [h, keeps_next] at hkeeps
  exact hkeeps.2

theorem exec_keeps_memoryWf {c : Instr} {s t : State} (hwf : memoryWf s = true) (h : exec c s = .next t) :
    memoryWf t = true := by
  have hkeeps := exec_keeps c s
  rw [h, keeps_next] at hkeeps
  exact hkeeps.1 hwf

/-- Settles O3: the law of every command, `Keeps`, has the queue in it. -/
theorem commandsKeepQueue : Obligations.CommandsKeepQueue :=
  fun _ _ _ h => exec_keeps_pending h

/-- With a command waiting, a step runs it on the state whose queue is the rest. -/
theorem step_of_pending_cons {s : State} {c : Instr} {rest : List Instr} (h : s.pending = c :: rest) :
    step s = exec c { s with pending := rest } := by
  simp [step, h]

/-- Settles O1: the queue's front is the command that `step` runs. -/
theorem stepRunsFrontCommand : Obligations.StepRunsFrontCommand :=
  fun _ _ _ => step_of_pending_cons rfl

/-- Settles O4: a step is a beat or the front command, and neither writes a memory out of its canonical form; the queue is
no memory. -/
theorem everyStepKeepsMemoryForm : Obligations.EveryStepKeepsMemoryForm := by
  intro s t hwf hstep
  cases hq : s.pending with
  | nil =>
    rw [step_of_pending_nil hq] at hstep
    cases hstep
    exact beatEnds_wf s hwf
  | cons c rest =>
    rw [step_of_pending_cons hq] at hstep
    exact exec_keeps_memoryWf (s := { s with pending := rest }) hwf hstep

/-! ## Reset and the table of commands -/

/-- Settles O5: State.reset lists no byte, no word and no register, and nothing waits. -/
theorem resetMemoriesAreCanonical : Obligations.ResetMemoriesAreCanonical := ⟨rfl, rfl, rfl⟩

/-- Settles O7: no row of the table has bits to match a word against. -/
theorem tableSpellsNoCommandBits : Obligations.TableSpellsNoCommandBits := by
  intro nbits w s
  have hnone : decodeTableWord nbits w = none := rfl
  exact ⟨hnone, by rw [State.withFetchWord, hnone]⟩

end Machine
end Sys2Proof
end

section
/-! PROOF. Registers of an engine read back what was written (05 R124, 06 R172), and a store into the frame changes its
bytes and nothing else (05 R128, 06 R173, 16 R438). -/

namespace Sys2Proof
namespace Machine

/-! ## General and block registers -/

theorem val_ne_of_ne {n : Nat} {a b : Fin n} (h : a ≠ b) : a.val ≠ b.val := fun heq => h (Fin.ext heq)

section General
variable {c : Core} (hx : twf 0 c.x = true) (r : XReg) (w : Word)

@[simp] theorem xset_b : (xset c r w).b = c.b := by
  unfold xset; split <;> rfl
@[simp] theorem xset_k : (xset c r w).k = c.k := by
  unfold xset; split <;> rfl

include hx

theorem xset_twf : twf 0 (xset c r w).x = true := by
  unfold xset
  split
  · exact hx
  · exact twf_tput _ _ hx

theorem xget_xset_same (hr : r ≠ 0) : xget (xset c r w) r = w := by
  rw [xget, if_neg hr, xset, if_neg hr]
  exact tget_tput_same _ _ hx

theorem xget_xset_other {q : XReg} (hq : q ≠ r) : xget (xset c r w) q = xget c q := by
  by_cases hr : r = 0
  · rw [hr, xset_x0]
  · rw [xset, if_neg hr]
    unfold xget
    split
    · rfl
    · exact tget_tput_other _ hx (val_ne_of_ne hq)

end General

section BlockRegisters
variable {c : Core} (r : BReg) (w : Block) (sl : Bool)

section Value
variable (hb : twf 0 c.b = true)
include hb

theorem bget_bset_same : bget (bset c r w sl) r = w := tget_tput_same _ _ hb
theorem bget_bset_other {q : BReg} (hq : q ≠ r) : bget (bset c r w sl) q = bget c q :=
  tget_tput_other _ hb (val_ne_of_ne hq)

end Value

section Seal
variable (hs : twf false c.seals = true)
include hs

theorem sealedB_bset_same : sealedB (bset c r w sl) r = sl := tget_tput_same _ _ hs
theorem sealedB_bset_other {q : BReg} (hq : q ≠ r) : sealedB (bset c r w sl) q = sealedB c q :=
  tget_tput_other _ hs (val_ne_of_ne hq)

end Seal
end BlockRegisters

/-- Settles O32: both register files are tables, and a table in canonical form reads back. -/
theorem registersReadBack : Obligations.RegistersReadBack := by
  refine ⟨⟨rfl, rfl, rfl⟩, fun c hx hb hs => ⟨fun r w => ?_, fun r w sl => ?_⟩⟩
  · exact ⟨xset_twf hx r w, xget_xset_same hx r w, fun q hq => xget_xset_other hx r w hq, xset_b r w, xset_k r w⟩
  · exact ⟨twf_tput _ _ hb, twf_tput _ _ hs, bget_bset_same r w sl hb, sealedB_bset_same r w sl hs,
      fun q hq => ⟨bget_bset_other r w sl hb hq, sealedB_bset_other r w sl hs hq⟩, rfl⟩

/-! ## Writing the frame -/

@[simp] theorem clearPoison_adm (s : State) (m : Nat) (ws : List Nat) : (clearPoison s m ws).adm = s.adm := by
  unfold clearPoison
  dsimp only
  split <;> simp
@[simp] theorem clearPoison_bn (s : State) (m : Nat) (ws : List Nat) : (clearPoison s m ws).bn = s.bn := by
  unfold clearPoison
  dsimp only
  split <;> simp
@[simp] theorem clearPoison_mode (s : State) (m : Nat) (ws : List Nat) : (clearPoison s m ws).mode = s.mode := by
  unfold clearPoison
  dsimp only
  split <;> simp
@[simp] theorem clearPoison_rooms (s : State) (m : Nat) (ws : List Nat) : (clearPoison s m ws).rooms = s.rooms := by
  unfold clearPoison
  dsimp only
  split <;> simp

/-- State t is state s with n bytes stored at offset a of the order's frame, up to poison that the store clears. -/
structure StoredInFrame (s t : State) (v : Order) (a n val : Nat) : Prop where
  mem : t.mem = { s.mem with win := tstore s.mem.win (winBase (frameOf v) + a) n val }
  adm : t.adm = s.adm
  bn : t.bn = s.bn
  mode : t.mode = s.mode
  rooms : t.rooms = s.rooms

theorem frameWriteFull_stores (s : State) (v : Order) (a n val : Nat) :
    StoredInFrame s (frameWriteFull s v a n val) v a n val where
  mem := by simp [frameWriteFull]
  adm := by simp [frameWriteFull]
  bn := by simp [frameWriteFull]
  mode := by simp [frameWriteFull]
  rooms := by simp [frameWriteFull]

/-- A partial write of a clean word whose read reports no error is carried out (16 R436). -/
theorem frameWritePart_of_clean {s : State} {v : Order} {a : Nat}
    (hclean : poisoned s 0 [128 * frameOf v + a / 8] = false) (o e n val : Nat) :
    ∃ t, frameWritePart s o v e a n val .ok = (t, true) ∧ StoredInFrame s t v a n val := by
  refine ⟨{ s with mem := { s.mem with win := tstore s.mem.win (winBase (frameOf v) + a) n val } }, ?_, ⟨rfl, rfl, rfl, rfl, rfl⟩⟩
  simp [frameWritePart, hclean]

/-! ## The engine after a store -/

theorem eng_setEng_same_of_ne {s : State} {g : Engine} (hg : g ≠ {}) (e : Nat) : eng (setEng s e g) e = g :=
  tget_tput_same_of_ne hg _ _

theorem ne_default_of_order {g : Engine} {o : Nat} (h : g.order = some o) : g ≠ {} := by
  rintro rfl
  cases h

/-- The registers of an engine that runs an order read back. -/
theorem core_setCore_same {s : State} {e : EngIx} {o : Nat} (h : (eng s e.val).order = some o) (c : Core) :
    (eng (setCore s e c) e.val).core = c := by
  have hne : { eng s e.val with core := c } ≠ ({} : Engine) := ne_default_of_order h
  exact congrArg Engine.core (eng_setEng_same_of_ne hne e.val)

section Store
variable {s t : State} {v : Order} {a n val : Nat} (hwf : memoryWf s = true) (hstored : StoredInFrame s t v a n val)
variable {e : EngIx} {o : Nat} (horder : (eng s e.val).order = some o)
include hwf hstored horder

/-- What a store leaves for a reader, once its engine has gone on. -/
theorem StoredInFrame.observed {c : Core} : ∃ u, go (setCore t e (advance c 1)) = .next u
    ∧ tbytes u.mem.win (winBase (frameOf v) + a) n = val % 256 ^ n
    ∧ (∀ b, (b < winBase (frameOf v) + a ∨ winBase (frameOf v) + a + n ≤ b) → tget 0 u.mem.win b = tget 0 s.mem.win b)
    ∧ u.mem.pantry = s.mem.pantry ∧ u.mem.words = s.mem.words ∧ u.mem.descs = s.mem.descs
    ∧ u.adm = s.adm ∧ u.bn = s.bn ∧ u.mode = s.mode ∧ (eng u e.val).core = advance c 1 := by
  have hwin : twf 0 s.mem.win = true := twf_win hwf
  have heng : (eng t e.val).order = some o := by rw [eng, hstored.rooms]; exact horder
  refine ⟨_, rfl, ?_, fun b hb => ?_, ?_, ?_, ?_, ?_, ?_, ?_, core_setCore_same heng _⟩
  all_goals simp only [setCore_mem, setCore_adm, setCore_bn, setCore_mode, hstored.mem, hstored.adm, hstored.bn, hstored.mode]
  · exact tbytes_tstore hwin
  · exact tget_tstore_outside hwin hb

end Store

/-! ## The three stores -/

section Runs
variable {s : State} {e : EngIx} {o : Nat} {v : Order} (hruns : engineRuns s e o v)
include hruns

theorem exec_st_full (rs rs1 : XReg) (imm : BitVec 16) (ecc : Ecc) : exec (.st e .d rs rs1 imm ecc) s
    = go (setCore (frameWriteFull s v (frameAddr (eng s e.val).core rs1 imm 8) 8 (xget (eng s e.val).core rs).toNat) e
        (advance (eng s e.val).core 1)) := by
  change execSt e .d rs rs1 imm ecc s = _
  rw [execSt, onEngine_of_engineRuns hruns]
  rfl

/-- A store of less than a word goes on where the partial write does. -/
theorem exec_st_part {sz : Size} (hsz : sz ≠ .d) {rs rs1 : XReg} {imm : BitVec 16} {ecc : Ecc} {t : State}
    (hpart : frameWritePart s o v e.val (frameAddr (eng s e.val).core rs1 imm (sizeBytes sz)) (sizeBytes sz)
      (xget (eng s e.val).core rs).toNat ecc = (t, true)) :
    exec (.st e sz rs rs1 imm ecc) s = go (setCore t e (advance (eng s e.val).core 1)) := by
  change execSt e sz rs rs1 imm ecc s = _
  rw [execSt, onEngine_of_engineRuns hruns]
  cases sz with
  | d => exact absurd rfl hsz
  | b => simp only [hpart]
  | h => simp only [hpart]
  | w => simp only [hpart]

theorem exec_stq_of_unsealed {bq : BReg} (h : sealedB (eng s e.val).core bq = false) (rs1 : XReg) (imm : BitVec 16) :
    exec (.stq e bq rs1 imm) s
      = go (setCore (frameWriteFull s v (frameAddr (eng s e.val).core rs1 imm 16) 16 (bget (eng s e.val).core bq).toNat) e
          (advance (eng s e.val).core 1)) := by
  change execStq e bq rs1 imm s = _
  rw [execStq, onEngine_of_engineRuns hruns, if_neg (Bool.eq_false_iff.mp h)]

theorem exec_stl_of_unsealed {m : Fin 4} (h : ∀ i, i < 4 → sealedB (eng s e.val).core (quadOf m i) = false) (rs1 : XReg)
    (imm : BitVec 16) : exec (.stl e m rs1 imm) s
      = go (setCore (frameWriteFull s v (frameAddr (eng s e.val).core rs1 imm 64) 64 (quadVal (eng s e.val).core m)) e
          (advance (eng s e.val).core 1)) := by
  have hnone : ((List.range 4).any fun i => sealedB (eng s e.val).core (quadOf m i)) = false := by
    simpa using h
  change execStl e m rs1 imm s = _
  rw [execStl, onEngine_of_engineRuns hruns, if_neg (Bool.eq_false_iff.mp hnone)]

/-- ST stores the low bytes of its source: a word by a full write, fewer bytes by a partial one. -/
theorem exec_st_stores {sz : Size} {rs rs1 : XReg} {imm : BitVec 16}
    (hclean : poisoned s 0 (wordsOf (frameOf v) (frameAddr (eng s e.val).core rs1 imm (sizeBytes sz)) (sizeBytes sz)) = false) :
    ∃ t, StoredInFrame s t v (frameAddr (eng s e.val).core rs1 imm (sizeBytes sz)) (sizeBytes sz) (xget (eng s e.val).core rs).toNat
      ∧ exec (.st e sz rs rs1 imm .ok) s = go (setCore t e (advance (eng s e.val).core 1)) := by
  by_cases hsz : sz = .d
  · subst hsz
    exact ⟨_, frameWriteFull_stores s v _ _ _, exec_st_full hruns rs rs1 imm .ok⟩
  · have hone : wordsOf (frameOf v) (frameAddr (eng s e.val).core rs1 imm (sizeBytes sz)) (sizeBytes sz)
        = [128 * frameOf v + frameAddr (eng s e.val).core rs1 imm (sizeBytes sz) / 8] := by
      cases sz with
      | d => exact absurd rfl hsz
      | b => rfl
      | h => rfl
      | w => rfl
    rw [hone] at hclean
    obtain ⟨t, hpart, hstored⟩ := frameWritePart_of_clean hclean o e.val (sizeBytes sz) (xget (eng s e.val).core rs).toNat
    exact ⟨t, hstored, exec_st_part hruns hsz hpart⟩

end Runs

/-- Settles O35: each store is a write of its bytes into the order's frame, after which only the engine moves on. -/
theorem frameStoresChangeOnlyTheirBytes : Obligations.FrameStoresChangeOnlyTheirBytes := by
  intro e o v s sz rs rs1 bq m imm hwf hruns
  refine ⟨fun hclean => ?_, fun hplain => ?_, fun hplain => ?_, fun hsealed => exec_stq_of_sealed hruns hsealed rs1 imm,
    fun i hi hsealed => exec_stl_of_sealed hruns hi hsealed rs1 imm⟩
  · obtain ⟨t, hstored, hexec⟩ := exec_st_stores hruns (rs := rs) hclean
    rw [hexec]
    exact hstored.observed hwf hruns.1
  · rw [exec_stq_of_unsealed hruns hplain]
    exact (frameWriteFull_stores s v _ _ _).observed hwf hruns.1
  · rw [exec_stl_of_unsealed hruns hplain]
    exact (frameWriteFull_stores s v _ _ _).observed hwf hruns.1

end Machine
end Sys2Proof
end

section
/-! PROOF. The pins and SYS_RESET (18 R478, R479, R486): which of them begins a start, and which holds the main domain in
reset. -/

namespace Sys2Proof
namespace Machine

section Pins
variable {s : State}

theorem exec_pwrOkRise_of_low (h : s.pwrOk = false) :
    exec .pwrOkRise s = go (if s.perstN then beginStart { s with pwrOk := true } 1 else { s with pwrOk := true }) :=
  if_neg (Bool.eq_false_iff.mp h)

theorem exec_perstRise_of_low (h : s.perstN = false) :
    exec .perstRise s = go (if s.pwrOk then beginStart { s with perstN := true } s.cause else { s with perstN := true }) :=
  if_neg (Bool.eq_false_iff.mp h)

theorem exec_pwrOkFall_of_high (h : s.pwrOk = true) (now : Nat) : exec (.pwrOkFall now) s
    = go { mainReset s false with pwrOk := false, cause := 1, tp := { (mainReset s false).tp with fell := now } } :=
  if_pos h

theorem exec_perstFall_of_high (h : s.perstN = true) : exec .perstFall s
    = if (s.pwrOk && !s.inReset) = true then go { mainReset (prepareReset s false) true with perstN := false, cause := 2 }
      else go { s with perstN := false } :=
  if_neg (by simp [h])

theorem resetWrite_confirm_of_out (h : s.inReset = false) : resetWrite s 0x5A5A = warmReset s 3 :=
  if_pos ⟨by decide, h⟩

theorem resetWrite_of_inReset (h : s.inReset = true) (v : Word) : resetWrite s v = s :=
  if_neg fun hand => by rw [h] at hand; cases hand.2

end Pins

/-- Settles O9: each pin acts on its own edge only, and a start begins where the other pin is high too. -/
theorem pinsBeginStartsAndHoldReset : Obligations.PinsBeginStartsAndHoldReset := by
  intro s
  refine ⟨fun hlow hperst => ?_, fun hlow hperst => ?_, fun hlow hpwr => ?_, fun hlow hpwr => ?_,
    fun now hhigh => exec_pwrOkFall_of_high hhigh now, fun hhigh hpwr hout => ?_, fun hhigh hheld => ?_, fun hout => ?_,
    fun hin => congrArg go (resetWrite_of_inReset hin 0x5A5A)⟩
  · rw [exec_pwrOkRise_of_low hlow, if_pos hperst]
    rfl
  · rw [exec_pwrOkRise_of_low hlow, if_neg (Bool.eq_false_iff.mp hperst)]
  · rw [exec_perstRise_of_low hlow, if_pos hpwr]
    rfl
  · rw [exec_perstRise_of_low hlow, if_neg (Bool.eq_false_iff.mp hpwr)]
  · rw [exec_perstFall_of_high hhigh, if_pos (by simp [hpwr, hout])]
  · rw [exec_perstFall_of_high hhigh, if_neg (by rcases hheld with h | h <;> simp [h])]
  · exact congrArg go (resetWrite_confirm_of_out hout)

end Machine
end Sys2Proof
end

section
/-! PROOF. Scans of the sideband (18 R488 to R492): how one is asked for, when it is carried out, and what it records of a
device. -/

namespace Sys2Proof
namespace Machine

/-- Setting a bit is writing 1 to the field that it is. -/
theorem setBit_eq_wrF (s : State) (a n : Nat) : setBit s a n = wrF s a n n 1 := rfl

theorem scanDue_iff (s : State) : scanDue s = true
    ↔ (s.inReset = false ∧ s.starting = false) ∧ (rdF s 0xE0000 9 9 = 1 ∨ s.sb.lastRun + scanPeriod s ≤ runNow s) := by
  simp [scanDue]

theorem exec_discoveryScan_of_due {s : State} (h : scanDue s = true) (i : ScanIn) :
    exec (.discoveryScan i) s = go (scanDone s i false) := if_pos h

theorem scanDev_of_nak {i : ScanIn} {d : Nat} (h : i.devs.getD d .nak = .nak) (s : State) :
    scanDev i s d = devAbsent (cntUp s 0xE0020 31 16) d 1 := by
  rw [scanDev, h]

theorem scanDev_of_good_record {i : ScanIn} {d : Nat} {r1 r2 : BitVec 512} (h : i.devs.getD d .nak = .record r1 r2)
    (hgood : recordErr d r1 = 0) (s : State) : scanDev i s d = devFound s d r1 := by
  rw [scanDev, h]
  exact if_pos hgood

/-- The magic number is the first check of a record. -/
theorem recordErr_of_bad_magic {r : BitVec 512} (h : bits r 31 0 ≠ 0x4D4C4843) (d : Nat) : recordErr d r = 2 :=
  if_pos (Or.inl h)

/-- Settles O11: BUSY is the only trace of the command, and the scan event is due on it or on the period. -/
theorem scansOfTheSideband : Obligations.ScansOfTheSideband := by
  intro s
  refine ⟨fun hopen => ?_, fun i hout hrun hdue => ?_, fun i d hnak => scanDev_of_nak hnak s,
    fun i d r1 r2 hrec hgood => scanDev_of_good_record hrec hgood s, fun d r hmagic => recordErr_of_bad_magic hmagic d⟩
  · rw [← setBit_eq_wrF]
    exact managerWrite_of_managerOpen hopen 0xE0018 scanCmd
  · exact exec_discoveryScan_of_due ((scanDue_iff s).mpr ⟨⟨hout, hrun⟩, hdue⟩) i

end Machine
end Sys2Proof
end

section
/-! PROOF. The life cycle (14 R398, R399, R405, 13 R373 to R375): the pairs of states, LC_CMD's TRANSITION and DEBUG, and the
decisions that E2 takes. -/

namespace Sys2Proof
namespace Machine

theorem allowed_iff (a b : LifeCycle) : allowed a b = true ↔
    (a, b) ∈ [(.blank, .test), (.test, .production), (.production, .analysis), (.analysis, .retired), (.blank, .retired),
      (.test, .retired), (.production, .retired)] := by
  cases a <;> cases b <;> decide

section Command
variable {s : State} (hopen : managerOpen s) (hidle : rdF s 0xA0018 24 24 ≠ 1)

include hopen hidle

/-- A manager write to LC_CMD, with LC_CMD not busy, acts. -/
theorem managerWrite_lcGate (f : State → State) :
    managerWrite s 0xA0010 (fun s => lcGate s f) = go (f s) := by
  rw [managerWrite_of_managerOpen hopen, lcGate, if_neg hidle]

theorem exec_transition_of_idle (target : Fin 8) : exec (.transition target) s = go (transitionCmd s target.val) :=
  managerWrite_lcGate hopen hidle fun s => transitionCmd s target.val

theorem exec_lcDebug_of_idle : exec .lcDebug s = go (debugCmd s) :=
  managerWrite_lcGate hopen hidle debugCmd

theorem exec_profileWrite_of_idle (slot : Fin 4) (block : HostRead (List Byte)) :
    exec (.profileWrite slot block) s = go (profileCmd s slot.val block) :=
  managerWrite_lcGate hopen hidle fun s => profileCmd s slot.val block

theorem exec_fixProfileSel_of_idle (slot : Fin 4) : exec (.fixProfileSel slot) s = go (fixCmd s slot) :=
  managerWrite_lcGate hopen hidle fun s => fixCmd s slot

theorem exec_switch_of_idle (slot : Fin 4) : exec (.switch slot) s = go (switchCmd s slot) :=
  managerWrite_lcGate hopen hidle fun s => switchCmd s slot

end Command

section Transition
variable {s : State} {target : Fin 8}

theorem transitionCmd_of_refused
    (h : ∀ b, lcOfCode target.val = some b → allowed (lcDecode s.lc.otp.marks) b = false) :
    transitionCmd s target.val = lcRefused s .policy 0x70 := by
  unfold transitionCmd
  cases hb : lcOfCode target.val with
  | none => rfl
  | some b => simp [h b hb]

theorem needsTickets_iff (a : LifeCycle) : needsTickets a = true ↔ a = .production := by
  simp [needsTickets]

theorem transitionCmd_of_passed {b : LifeCycle} (hb : lcOfCode target.val = some b)
    (hallowed : allowed (lcDecode s.lc.otp.marks) b = true) (hresume : resuming s = false)
    (htoken : tokenCheck s (markOf b) = none)
    (hpair : lcDecode s.lc.otp.marks = .production → (ticketPair s 0x0C target.val).isSome = true) :
    transitionCmd s target.val = lcAsk s (.transition b) := by
  have hno : ¬ (needsTickets (lcDecode s.lc.otp.marks) && (ticketPair s 0x0C target.val).isNone) = true := by
    intro h
    obtain ⟨hneed, hnone⟩ := (Bool.and_eq_true _ _).mp h
    have hsome := hpair ((needsTickets_iff _).mp hneed)
    rw [Option.isNone_iff_eq_none.mp hnone] at hsome
    cases hsome
  simp only [transitionCmd, hb, hallowed, hresume, htoken, if_neg hno]
  rfl

end Transition

section Debug
variable {s : State}

theorem debugCmd_of_asked (hlc : s.mode.lc = .test ∨ s.mode.lc = .analysis) (htoken : tokenCheck s 4 = none) :
    debugCmd s = lcAsk s .jtag := by
  rcases hlc with h | h <;> simp only [debugCmd, h, htoken]

theorem debugCmd_of_closed (hlc : s.mode.lc = .production ∨ s.mode.lc = .retired) : debugCmd s = lcDone s .policy 0x70 := by
  rcases hlc with h | h <;> simp only [debugCmd, h]

theorem debugCmd_of_blank (hlc : s.mode.lc = .blank) : debugCmd s = lcDone s .done 0xFF := by
  simp only [debugCmd, hlc]

end Debug

section Evaluation
variable {s : State} {d : Decision} {n : Nat} {rest : List (Decision × Nat)} (hfront : s.tp.e2 = (d, n) :: rest)
include hfront

theorem exec_e2Evaluation_front (agrees : Bool) (now : Nat) : exec (.e2Evaluation agrees now) s
    = (let s1 := { s with tp := { s.tp with e2 := rest } }
       if isAlarm d then go (if agrees then s1 else splitEvent s1 31 0 now)
       else if s.bbram.lockCount.toNat ≠ n ∨ s.tp.lockPend = true then go (grantDenied s1 d)
       else if agrees then go (grantGiven s1 d) else go (splitEvent (grantDenied s1 d) 63 32 now)) := by
  change execE2Evaluation agrees now s = _
  simp only [execE2Evaluation, hfront]
  rfl

theorem exec_e2Evaluation_agreed_alarm (halarm : isAlarm d = true) (now : Nat) :
    exec (.e2Evaluation true now) s = go { s with tp := { s.tp with e2 := rest } } := by
  rw [exec_e2Evaluation_front hfront]
  simp [halarm]

section Grant
variable (hgrant : isAlarm d = false)
include hgrant

theorem exec_e2Evaluation_moved (hmoved : s.bbram.lockCount.toNat ≠ n) (agrees : Bool) (now : Nat) :
    exec (.e2Evaluation agrees now) s = go (grantDenied { s with tp := { s.tp with e2 := rest } } d) := by
  rw [exec_e2Evaluation_front hfront]
  simp [hgrant, hmoved]

theorem exec_e2Evaluation_unmoved (hsame : s.bbram.lockCount.toNat = n) (hpend : s.tp.lockPend = false) (agrees : Bool)
    (now : Nat) : exec (.e2Evaluation agrees now) s
      = go (if agrees then grantGiven { s with tp := { s.tp with e2 := rest } } d
          else splitEvent (grantDenied { s with tp := { s.tp with e2 := rest } } d) 63 32 now) := by
  rw [exec_e2Evaluation_front hfront]
  cases agrees <;> simp [hgrant, hsame, hpend]

end Grant
end Evaluation

/-- Settles O12: both commands reach their checks through LC_CMD's gate, and what E2 then answers depends on the kind of the
oldest decision and on the lock count that it was asked at. -/
theorem lifeCycleTransitionsAndDebug : Obligations.LifeCycleTransitionsAndDebug := by
  refine ⟨allowed_iff, fun s => ⟨?_, ?_, ?_, ?_, ?_, ?_⟩⟩
  · intro target b hopen hidle hb hallowed hresume htoken hpair
    rw [exec_transition_of_idle hopen hidle, transitionCmd_of_passed hb hallowed hresume htoken hpair]
    rfl
  · intro target hopen hidle hno
    rw [exec_transition_of_idle hopen hidle, transitionCmd_of_refused hno]
  · intro hopen hidle hlc
    rw [exec_lcDebug_of_idle hopen hidle, debugCmd_of_blank hlc]
  · intro hopen hidle hlc htoken
    rw [exec_lcDebug_of_idle hopen hidle, debugCmd_of_asked hlc htoken]
    rfl
  · intro hopen hidle hlc
    rw [exec_lcDebug_of_idle hopen hidle, debugCmd_of_closed hlc]
  · intro d n now rest hfront
    refine ⟨fun halarm => exec_e2Evaluation_agreed_alarm hfront halarm now, fun hgrant hsame hpend => ⟨?_, ?_⟩,
      fun agrees hgrant hmoved => exec_e2Evaluation_moved hfront hgrant hmoved agrees now⟩
    · exact exec_e2Evaluation_unmoved hfront hgrant hsame hpend true now
    · exact exec_e2Evaluation_unmoved hfront hgrant hsame hpend false now

end Machine
end Sys2Proof
end

section
/-! PROOF. Profiles and their schedule (14 R411 to R417, 02 R58, R59): what each command of LC_CMD stores, and which schedule
entry fires. -/

namespace Sys2Proof
namespace Machine

section Profile
variable {s : State} {slot : Fin 4} (hunlocked : isLocked s = false)
include hunlocked

theorem profileCmd_of_working (hlc : s.mode.lc = .blank ∨ s.mode.lc = .test) {l : List Byte}
    (hok : profileOk slot.val (l.take 266240) = true) :
    profileCmd s slot.val (.ok l)
      = lcDone (withLc (noteWrite s slot.val) fun c =>
          { c with working := tins c.working slot.val (profileOf (l.take 266240)) }) .done 0xFF := by
  rcases hlc with h | h <;> simp [profileCmd, hunlocked, h, hok]

theorem profileCmd_of_stored (hlc : s.mode.lc = .production) {l : List Byte}
    (hok : profileOk slot.val (l.take 266240) = true) (hcount : profWrites s slot.val < 15) {p : Held × Held}
    (hpair : ticketPair s 0x0A (profArgs slot.val (digestBytes (l.take 266240))) = some p) :
    profileCmd s slot.val (.ok l)
      = lcDone (withLc (noteWrite (consumePair s p) slot.val) fun c => { c with
          otp := { c.otp with writes := tput 0 c.otp.writes slot.val (tget 0 c.otp.writes slot.val + 1) },
          stored := tins c.stored slot.val (profileOf (l.take 266240)) }) .done 0xFF := by
  simp [profileCmd, hunlocked, hlc, hpair, hok, hcount]

theorem fixCmd_of_free (hlc : s.mode.lc = .production) (hfree : s.lc.otp.fix = none) {p : Held × Held}
    (hpair : ticketPair s 0x0A (profArgs slot.val 0) = some p) :
    fixCmd s slot
      = lcDone (consumePair { s with lc := { s.lc with otp := { s.lc.otp with fix := some slot } } } p) .done 0xFF := by
  simp [fixCmd, hunlocked, hlc, hpair, hfree, withLc]

end Profile

section Switch
variable {s : State} {target : Word} (htime : (tbNow s).toNat + 64 ≤ target.toNat) (hroom : s.tb.sched.length < 16)
variable (hnone : s.mode.switch = false) (hentry : (s.tb.sched.any fun e => e.2.kind == 1) = false)
include htime hroom hnone hentry

theorem schedRefusal_profile_of_free : schedRefusal s 1 target = 0 := by
  have hlate : ¬ target.toNat < (tbNow s).toNat + 64 := Nat.not_lt.mpr htime
  have hfull : ¬ 16 ≤ s.tb.sched.length := Nat.not_le.mpr hroom
  simp [schedRefusal, hlate, hfull, hnone, hentry]

end Switch

theorem switchCmd_of_free {s : State} (hunlocked : isLocked s = false) (hlc : s.mode.lc = .test ∨ s.mode.lc = .production)
    (hwhy : schedRefusal s 1 (rd s 0xA0038) = 0) (slot : Fin 4) :
    switchCmd s slot = (let e : Sched := ⟨1, false, rd s 0xA0038, BitVec.ofNat 16 (rdF s 0x10060 15 0 + 1), slot⟩
       lcDone { s with tb := { s.tb with sched := tins s.tb.sched (schedFree s.tb.sched) e } } .done 0xFF) := by
  have hstate : ¬ (s.mode.lc ≠ .test ∧ s.mode.lc ≠ .production) := by
    rcases hlc with h | h <;> simp [h]
  simp only [switchCmd, if_neg hstate, hunlocked, schedPlace, hwhy]
  rfl

section Fire
variable {s : State} {n : Fin 16} {e : Sched} (hentry : tfind s.tb.sched n.val = some e)
include hentry

section Due
variable (hdue : entryDue s e = true) (hfirst : (s.tb.sched.any fun q => entryDue s q.2 && firesBefore q (n.val, e)) = false)
include hdue hfirst

theorem exec_schedEntryFire_fires (h : s.mode.time ≠ .free ∨ e.kind = 1) :
    exec (.schedEntryFire n) s = go (fireEntry s n.val e) := by
  have hgo : ¬ (s.mode.time = .free ∧ e.kind ≠ 1) := by
    rintro ⟨hfree, hkind⟩
    rcases h with h | h
    · exact h hfree
    · exact hkind h
  change execSchedEntryFire n s = _
  simp only [execSchedEntryFire, hentry, hdue, hfirst, if_neg hgo]
  rfl

theorem exec_schedEntryFire_held (hfree : s.mode.time = .free) (hkind : e.kind ≠ 1) : exec (.schedEntryFire n) s
    = go { s with tb := { s.tb with sched := tins s.tb.sched n.val { e with held := true } } } := by
  change execSchedEntryFire n s = _
  simp only [execSchedEntryFire, hentry, hdue, hfirst, if_pos (And.intro hfree hkind)]
  rfl

end Due

theorem exec_schedHeldEntryFire_fires (htime : s.mode.time ≠ .free) (hheld : e.held = true)
    (hfirst : (s.tb.sched.any fun q => q.2.held && firesBefore q (n.val, e)) = false) :
    exec (.schedHeldEntryFire n) s = go (fireEntry s n.val e) := by
  change execSchedHeldEntryFire n s = _
  simp [execSchedHeldEntryFire, hentry, htime, hheld, hfirst]

end Fire

/-- Settles O13: each command of LC_CMD passes its checks to its one effect, and of the due entries the first fires. -/
theorem profilesAndTheirSchedule : Obligations.ProfilesAndTheirSchedule := by
  intro s
  refine ⟨?_, ?_, ?_, ?_, ?_, fun n e hentry htime hheld hfirst => exec_schedHeldEntryFire_fires hentry htime hheld hfirst⟩
  · intro slot l hopen hidle hunlocked hlc hok
    rw [exec_profileWrite_of_idle hopen hidle, profileCmd_of_working hunlocked hlc hok]
  · intro slot l p hopen hidle hunlocked hlc hok hcount hpair
    rw [exec_profileWrite_of_idle hopen hidle, profileCmd_of_stored hunlocked hlc hok hcount hpair]
  · intro slot p hopen hidle hunlocked hlc hfree hpair
    rw [exec_fixProfileSel_of_idle hopen hidle, fixCmd_of_free hunlocked hlc hfree hpair]
  · intro slot hopen hidle hunlocked hlc htime hroom hnone hentry
    rw [exec_switch_of_idle hopen hidle, switchCmd_of_free hunlocked hlc (schedRefusal_profile_of_free htime hroom hnone hentry)]
  · intro n e hentry hdue hfirst
    exact ⟨exec_schedEntryFire_fires hentry hdue hfirst, exec_schedEntryFire_held hentry hdue hfirst⟩

end Machine
end Sys2Proof
end

section
/-! PROOF. A manager write (18 R485, 19 R494, R495): which of its checks it meets first, and where it goes when it meets
none. -/

namespace Sys2Proof
namespace Machine

section Write
variable {s : State} {off size : Nat} (v : Word)

theorem exec_registerWrite_of_inReset (h : s.inReset = true) : exec (.registerWrite off size v) s = go s :=
  if_pos (by simp [h])

theorem exec_registerWrite_beyond (h : 0x1000000 ≤ off) : exec (.registerWrite off size v) s = go s :=
  if_pos (by simp [h])

section Inside
variable (hbar : off < 0x1000000)
include hbar

theorem exec_registerWrite_of_starting (hout : s.inReset = false) (hstart : s.starting = true) :
    exec (.registerWrite off size v) s = go (earlyWrite s off size v) := by
  have hin : ¬ 0x1000000 ≤ off := Nat.not_le.mpr hbar
  change execRegisterWrite off size v s = _
  simp [execRegisterWrite, hout, hin, hstart]

section Open
variable (hopen : managerOpen s)
include hopen

theorem exec_registerWrite_of_doorbell (hlo : 0x21000 ≤ off) (hhi : off < 0x21028) :
    exec (.registerWrite off size v) s = go (doorbell s 0 none (off - 0x21000) size v) := by
  obtain ⟨hstart, hout⟩ := hopen
  have hin : ¬ 0x1000000 ≤ off := Nat.not_le.mpr hbar
  change execRegisterWrite off size v s = _
  simp [execRegisterWrite, hout, hin, hstart, hlo, hhi]

theorem exec_registerWrite_of_misaligned (hpage : off < 0x21000 ∨ 0x21028 ≤ off) (h : size ≠ 8 ∨ off % 8 ≠ 0) :
    exec (.registerWrite off size v) s = go (accRefused s off 1 true) := by
  obtain ⟨hstart, hout⟩ := hopen
  have hin : ¬ 0x1000000 ≤ off := Nat.not_le.mpr hbar
  have hnot : ¬ (0x21000 ≤ off ∧ off < 0x21028) := by omega
  change execRegisterWrite off size v s = _
  simp only [execRegisterWrite, hout, hstart, hin, if_neg hnot, if_pos h]
  rfl

theorem exec_registerWrite_of_managerOpen (hpage : off < 0x21000 ∨ 0x21028 ≤ off) (halign : off % 8 = 0) :
    exec (.registerWrite off 8 v) s = go (writeReg s off v) :=
  execRegisterWrite_of_managerOpen hopen hbar (by omega) halign v

end Open
end Inside

theorem writeReg_of_unassigned (hlarder : off < 0x400000 ∨ 0x800000 ≤ off) (h : regDesc off = none) :
    writeReg s off v = accRefused s off 2 true := by
  have hnot : ¬ (0x400000 ≤ off ∧ off < 0x800000) := by omega
  rw [writeReg, if_neg hnot, if_pos (by simp [h])]

/-- No register of the EC block has a behaviour of its own. -/
theorem writeReg_ec {d : RegDesc} (hblock : off / 0x10000 = 12) (h : regDesc off = some d) : writeReg s off v = plainWrite s off v := by
  have hlarder : ¬ (0x400000 ≤ off ∧ off < 0x800000) := by omega
  have hlow : off < 0x100000 := by omega
  rw [writeReg, if_neg hlarder, if_neg (by simp [h]), if_pos hlow]
  simp only [blockWrite, hblock]

theorem plainWrite_of_assigned {d : RegDesc} (h : regDesc off = some d) : plainWrite s off v
    = wr s off (((rd s off &&& ~~~(BitVec.ofNat 64 d.rw)) ||| (v &&& BitVec.ofNat 64 d.rw)) &&& ~~~(v &&& BitVec.ofNat 64 d.w1c)) := by
  simp only [plainWrite, h]

theorem writeReg_slotArea (hlo : 0x400000 ≤ off) (hhi : off < 0x800000) (harea : (off - 0x400000) % 0x40000 < 0x20000) :
    writeReg s off v = windowWrite s (bnIx ((off - 0x400000) / 0x40000)) ((off - 0x400000) % 0x40000 / 8) v := by
  rw [writeReg, if_pos ⟨hlo, hhi⟩, larderWrite, if_pos harea]

end Write

/-- Settles O14: the checks of REGISTER_WRITE are met in their order, and a register without a behaviour of its own is
written by its RW and W1C bits. -/
theorem registerWritesReachTheirBlock : Obligations.RegisterWritesReachTheirBlock := by
  intro s off size v
  refine ⟨exec_registerWrite_of_inReset v, exec_registerWrite_beyond v, ?_, ?_, ?_, ?_, ?_, ?_, fun kind w => rfl⟩
  · intro hout hstart hbar
    exact exec_registerWrite_of_starting v hbar hout hstart
  · intro hopen hlo hhi
    exact exec_registerWrite_of_doorbell v (by omega) hopen hlo hhi
  · intro hopen hbar hpage hbad
    exact exec_registerWrite_of_misaligned v hbar hopen hpage hbad
  · intro hopen hbar hpage halign hlarder hnone
    rw [exec_registerWrite_of_managerOpen v hbar hopen hpage halign, writeReg_of_unassigned v hlarder hnone]
  · intro d hopen hblock halign hdesc
    rw [exec_registerWrite_of_managerOpen v (by omega) hopen (by omega) halign, writeReg_ec v hblock hdesc,
      plainWrite_of_assigned v hdesc]
  · intro hopen hlo hhi halign harea
    rw [exec_registerWrite_of_managerOpen v (by omega) hopen (by omega) halign, writeReg_slotArea v hlo hhi harea]

end Machine
end Sys2Proof
end

section
/-! PROOF. The time base (02): the status changes of R46 and R48, labels and steps (R41 to R44), edges (R37 to R39, R52), the
time floor (R53), cancellations (R63) and the end of a switch (R61). -/

namespace Sys2Proof
namespace Machine

@[simp] theorem evt_setMode_mode (s : State) (f : Mode → Mode) (blk n : Nat) : (evt (setMode s f) blk n).mode = f s.mode := by
  simp

/-- Settles O16: each event has its one condition, and a mode change writes the one field. -/
theorem timeStatusChanges : Obligations.TimeStatusChanges := by
  intro s
  refine ⟨fun hlocked hlate => ⟨if_pos ⟨hlocked, hlate⟩, evt_setMode_mode s _ 1 1⟩,
    fun hhold hlimit => ⟨if_pos ⟨hhold, hlimit⟩, ?_⟩⟩
  exact evt_setMode_mode _ _ 1 2

/-! ## Labels and steps -/

@[simp] theorem discardStep_mode (s : State) (cause : Nat) : (discardStep s cause).mode = s.mode := by
  unfold discardStep
  split <;> simp

/-- A discarded step is all that the time base loses. -/
theorem discardStep_tb (s : State) (cause : Nat) : (discardStep s cause).tb = { s.tb with step := none } := by
  unfold discardStep
  split
  · next h => rw [← h]
  · simp

theorem armLabel_tb (s : State) (sec : Nat) : (armLabel s sec).tb = { s.tb with step := none, label := some sec } := by
  simp [armLabel, discardStep_tb]

theorem armLabel_mode (s : State) (sec : Nat) : (armLabel s sec).mode = s.mode := by simp [armLabel]

theorem exec_tbLabelWrite_of_managerOpen {s : State} (h : managerOpen s) (sec : BitVec 44) :
    exec (.tbLabelWrite sec) s = go (armLabel s sec.toNat) :=
  managerWrite_of_managerOpen h 0x10020 fun s => armLabel s sec.toNat

theorem exec_stepApprovalTimeout_of_late {s : State} {p : Step} (hstep : s.tb.step = some p) (hwait : p.approved = false)
    (hlate : p.run + 300 * 1048576 ≤ runNow s) : exec .stepApprovalTimeout s = go (discardStep s 1) := by
  change execStepApprovalTimeout s = _
  simp [execStepApprovalTimeout, hstep, hwait, beatsPerSec, hlate]

theorem exec_acqWindowClose_of_past {s : State} {c0 gap0 : Nat} {counted : Bool}
    (hedge : s.tb.acqEdge = some (c0, counted, gap0)) (hpast : c0 + 1048785715 < s.tb.cycle) : exec .acqWindowClose s
      = go (if counted then { s with tb := { s.tb with acqEdge := none } }
          else rejectEdge { s with tb := { s.tb with acqEdge := none } } gap0) := by
  change execAcqWindowClose s = _
  simp only [execAcqWindowClose, hedge]
  exact if_pos hpast

/-! ## Edges -/

theorem rejectEdge_tb (s : State) (gap : Nat) : (rejectEdge s gap).tb = s.tb := by simp [rejectEdge]
theorem rejectEdge_mode (s : State) (gap : Nat) : (rejectEdge s gap).mode = s.mode := by simp [rejectEdge]

theorem timepulse_of_locked {s : State} (hrun : s.tb.running = true) (hlocked : s.mode.time = .locked) {l : Nat × Nat}
    (hlast : s.tb.lastEdge = some l) (off : Nat) : timepulse s off
      = if 1048366285 ≤ s.tb.cycle + off - l.1 ∧ s.tb.cycle + off - l.1 ≤ 1048785715 then edgeAccept s (s.tb.cycle + off) off
        else rejectEdge s (s.tb.cycle + off - l.1) := by
  simp only [timepulse, hrun, hlocked, hlast, edgeMin, edgeMax, Bool.and_eq_true, decide_eq_true_eq]
  rfl

/-! ## The time floor -/

section Floor
variable {s : State} {sec : Nat} (hdue : s.tb.floorDue = some sec)
include hdue

theorem exec_timeFloorWrite_of_due : exec .timeFloorWrite s
    = go (if s.mode.time = .free then { s with tb := { s.tb with floorDue := none } }
        else writeFloor { s with tb := { s.tb with floorDue := none } } sec) := by
  change execTimeFloorWrite s = _
  simp only [execTimeFloorWrite, hdue]

end Floor

/-- Counting makes a floor write due; what it writes does not move the clock, so TB_NOW after the beat is read off either
way. -/
theorem tick_floorDue {s : State} (hrun : s.tb.running = true) (htime : s.mode.time ≠ .free)
    (hwhole : bits (tbNow (tick s)) 19 0 = 0) (hmult : secNow (tick s) % 64 = 0) :
    (tick s).tb.floorDue = some (secNow (tick s)) := by
  simp only [tick, hrun, if_true] at hwhole hmult ⊢
  split
  · rfl
  · next hno => rw [if_neg hno] at hwhole hmult; exact absurd ⟨htime, hwhole, hmult⟩ hno

/-! ## Cancellations and the end of a switch -/

theorem exec_schedCancel_of_managerOpen {s : State} (h : managerOpen s) (n : Fin 16) :
    exec (.schedCancel n) s = go (cancelEntry s n.val) :=
  managerWrite_of_managerOpen h (0x10108 + 0x10 * n.val) fun s => cancelEntry s n.val

section Cancel
variable {s : State} {n : Nat} {e : Sched} (hentry : tfind s.tb.sched n = some e)
include hentry

theorem cancelEntry_of_profile (hkind : e.kind = 1) : cancelEntry s n
    = report { s with tb := { s.tb with sched := tdel s.tb.sched n } } cancelCode (srcWord 0 0) (schedData n e) := by
  simp only [cancelEntry, hentry, if_pos hkind]
  rfl

theorem cancelEntry_of_other (hkind : e.kind ≠ 1) : cancelEntry s n = report s cancelIdleCode (srcWord 0 0) 0 := by
  simp only [cancelEntry, hentry, if_neg hkind]

end Cancel

section Applied
variable {s : State} {r : Nat}

theorem roomApplied_of_waiting (h : rd (wrF s 0x10068 r r 1) 0x10068 ≠ 0xFFFFFFFFFFFFFFFF) :
    roomApplied s r = wrF s 0x10068 r r 1 := if_neg h

theorem roomApplied_of_last (h : rd (wrF s 0x10068 r r 1) 0x10068 = 0xFFFFFFFFFFFFFFFF) :
    (roomApplied s r).mode = { s.mode with switch := false } ∧ (roomApplied s r).tb = s.tb := by
  rw [roomApplied, setBit_eq_wrF, if_pos h]
  simp

end Applied

/-- Settles O17: each event of the time base has its condition and its one effect; a discarded step and a rejected edge
leave the clock. -/
theorem timeLabelsStepsAndEdges : Obligations.TimeLabelsStepsAndEdges := by
  intro s
  refine ⟨fun sec hopen => ?_, fun p hstep hwait hlate => ?_, fun c0 counted gap0 hedge hpast => exec_acqWindowClose_of_past hedge hpast,
    fun gap => ⟨rejectEdge_tb s gap, rejectEdge_mode s gap⟩, fun off => rfl,
    fun off l hrun hlocked hlast => timepulse_of_locked hrun hlocked hlast off,
    fun sec hdue => ⟨fun htime => ?_, fun htime => ?_⟩, tick_floorDue, fun n e hopen hentry => ⟨fun hkind => ?_, fun hkind => ?_⟩,
    fun r hswitch => ⟨fun hwait => ?_, fun hlast => ?_⟩⟩
  · refine ⟨_, exec_tbLabelWrite_of_managerOpen hopen sec, ?_⟩
    rw [armLabel_tb, armLabel_mode]
    exact ⟨rfl, rfl, rfl, rfl, rfl⟩
  · rw [exec_stepApprovalTimeout_of_late hstep hwait hlate]
    simp only [discardStep, hstep]
  · rw [exec_timeFloorWrite_of_due hdue, if_neg htime]
    rfl
  · rw [exec_timeFloorWrite_of_due hdue, if_pos htime]
  · rw [exec_schedCancel_of_managerOpen hopen, cancelEntry_of_profile hentry hkind]
  · rw [exec_schedCancel_of_managerOpen hopen, cancelEntry_of_other hentry hkind]
  · have happly : exec (.roomApplyGeneration r) s = go (roomApplied s r.val) := if_pos hswitch
    rw [happly, roomApplied_of_waiting hwait]
  · exact ⟨_, if_pos hswitch, roomApplied_of_last hlast⟩

end Machine
end Sys2Proof
end

section
/-! PROOF. The porch (03): link and power events, slices and queue pairs, doorbells. -/

namespace Sys2Proof
namespace Machine

/-! ## Link and functions (R66 to R69, R95, 01 R10) -/

theorem resumeFunction_of_cannot {s : State} {pf1 : Bool} (h : canIssue s pf1 = false) : resumeFunction s pf1 = s :=
  if_neg (Bool.eq_false_iff.mp h)

theorem resumeFunction_of_can {s : State} {pf1 : Bool} (h : canIssue s pf1 = true) :
    resumeFunction s pf1 = flushMsix (endOutage s fun sl => (sl == 0) == pf1) pf1 :=
  if_pos h

/-- The link may enter L1: it is up, every slice is idle, and none has been otherwise for PCH_L1_CFG.IDLE beats (R68). -/
abbrev l1Due (s : State) : Prop := s.pch.up = true ∧ allIdle s = true ∧ s.pch.busyRun + rdF s 0x20038 15 0 ≤ runNow s

theorem exec_l1Entry (s : State) :
    exec .l1Entry s = go (if l1Due s then { s with pch := { s.pch with l1 := true } } else s) := by
  change execL1Entry s = _
  by_cases h : l1Due s
  · obtain ⟨hup, hidle, hlate⟩ := h
    simp [execL1Entry, hup, hidle, hlate]
  · rw [if_neg h, execL1Entry, if_neg]
    simpa [and_assoc] using h

/-- Settles O18: the events record what they carry and then let the function resume, which it does where it can issue. -/
theorem linkAndPowerEvents : Obligations.LinkAndPowerEvents := by
  intro s
  refine ⟨fun w v => rfl, rfl, fun on => ⟨rfl, rfl⟩, fun d => rfl, fun pf1 h => resumeFunction_of_cannot h,
    fun pf1 h => resumeFunction_of_can h, fun v => ⟨rfl, rfl⟩, fun hup hidle hlate => ?_, fun hnot => ?_⟩
  · rw [exec_l1Entry, if_pos ⟨hup, hidle, hlate⟩]
  · rw [exec_l1Entry, if_neg]
    rintro ⟨hup, hidle, hlate⟩
    rcases hnot with h | h | h
    · rw [hup] at h; cases h
    · rw [hidle] at h; cases h
    · omega

/-! ## Slices (R70 to R72) -/

theorem exec_sliceDisable_of_managerOpen {s : State} (h : managerOpen s) (sl : Slice) :
    exec (.sliceDisable sl) s = go (disableSlice s sl.val) :=
  managerWrite_of_managerOpen h (sltBase sl.val) fun s => disableSlice s sl.val

theorem exec_sliceRebind_of_managerOpen {s : State} (h : managerOpen s) (sl : Slice) (pasid : BitVec 20) (tenant : BitVec 16)
    (gen : BitVec 6) : exec (.sliceRebind sl pasid tenant gen) s = go (rebindSlice s sl.val pasid.toNat tenant.toNat gen.toNat) :=
  managerWrite_of_managerOpen h (sltBase sl.val) fun s => rebindSlice s sl.val pasid.toNat tenant.toNat gen.toNat

section Rebind
variable {s : State} {sl pasid tenant gen : Nat} (hother : pasidOf s sl ≠ pasid ∨ tenantOf s sl ≠ tenant ∨ sliceGen s sl ≠ gen)
include hother

theorem rebindSlice_of_other : rebindSlice s sl pasid tenant gen
    = if (enabled s sl || sliceActive s sl) = true then evt s 2 7
      else wrF s (bindAddr sl) 41 0 (pasid + fld tenant 20 + fld gen 36) := by
  rw [rebindSlice, if_neg]
  simp only [Bool.and_eq_true, beq_iff_eq]
  rintro ⟨⟨hp, ht⟩, hg⟩
  exact hother.elim (· hp) fun h => h.elim (· ht) (· hg)

theorem rebindSlice_of_quiet (hoff : enabled s sl = false) (hquiet : sliceActive s sl = false) :
    rebindSlice s sl pasid tenant gen = wrF s (sltBase sl) 41 0 (pasid + fld tenant 20 + fld gen 36) := by
  rw [rebindSlice_of_other hother, if_neg (by simp [hoff, hquiet])]
  rfl

theorem rebindSlice_of_busy (hbusy : enabled s sl = true ∨ sliceActive s sl = true) :
    rebindSlice s sl pasid tenant gen = evt s 2 7 := by
  rw [rebindSlice_of_other hother, if_pos (by simpa using hbusy)]

end Rebind

/-! ## Queue pairs (R74 to R77) -/

section QueueCommand
variable {s : State} (hidle : rdF s 0x20018 16 16 ≠ 1)
include hidle

theorem qcmd_of_idle (f : State → State) : qcmd s f = f s :=
  if_neg (by simpa [qcmdBusy] using hidle)

end QueueCommand

section Pair
variable {s : State} {sl q : Nat}

theorem createPair_of_disabled (h : enabled s sl = false) : createPair s sl q = qcmdStatus s .policy :=
  if_pos (by simp [h])

theorem createPair_of_fits (hon : enabled s sl = true) (hnone : tfind s.pch.queues (4 * sl + q) = none)
    (hsize : rdF s (qCfgAddr sl q) 3 0 ≤ 10) (hsq : bits (rd s (sqBaseAddr sl q)) 11 0 = 0)
    (hcq : bits (rd s (cqBaseAddr sl q)) 11 0 = 0) (hroom : 2 * s.pch.queues.length + 2 ≤ 4096) :
    createPair s sl q = qcmdStatus (setQueue s (4 * sl + q)
      { sqBase := rd s (sqBaseAddr sl q), cqBase := rd s (cqBaseAddr sl q), size := 64 * 2 ^ rdF s (qCfgAddr sl q) 3 0 }) .done := by
  have hbig : ¬ 10 < rdF s (qCfgAddr sl q) 3 0 := Nat.not_lt.mpr hsize
  have hfull : ¬ 4096 < 2 * s.pch.queues.length + 2 := Nat.not_lt.mpr hroom
  simp [createPair, qnum, hon, hnone, hbig, hsq, hcq, hfull]

theorem deletePair_of_created {v : Queue} (h : tfind s.pch.queues (4 * sl + q) = some v) : deletePair s sl q
    = wrF (abortParked (abortFetched (setQueue s (4 * sl + q) { v with deleting := true }) fun g => g == 4 * sl + q)
        fun g => g == 4 * sl + q) 0x20018 16 16 1 := by
  simp only [deletePair, qnum, h, updQueue]

theorem exec_queueDeleteDone_of_empty {sl : Slice} {q : PairIx} {v : Queue} (h : tfind s.pch.queues (4 * sl.val + q.val) = some v)
    (hdel : v.deleting = true)
    (hnone : (s.adm.orders.any fun p => !p.2.intern && qnum p.2.slice.val p.2.pair.val == 4 * sl.val + q.val) = false) :
    exec (.queueDeleteDone sl q) s
      = go (qcmdStatus { s with pch := { s.pch with queues := tdel s.pch.queues (4 * sl.val + q.val) } } .done) := by
  have hgone : (v.deleting && !(s.adm.orders.any fun p => !p.2.intern && qnum p.2.slice.val p.2.pair.val == 4 * sl.val + q.val)) = true := by
    rw [hdel, hnone]
    rfl
  change execQueueDeleteDone sl q s = _
  unfold execQueueDeleteDone
  simp only [show qnum sl.val q.val = 4 * sl.val + q.val from rfl, h]
  exact if_pos hgone

end Pair

/-- Settles O21: each command has its checks before it, and past them one effect; a queue command acts under `qcmd`. -/
theorem slicesAndQueuePairs : Obligations.SlicesAndQueuePairs := by
  intro sl q s
  refine ⟨exec_sliceDisable_of_managerOpen (sl := sl), fun pasid tenant gen hopen hother => ?_, ?_, fun hopen hidle hoff => ?_,
    fun v hopen hidle hcreated => ?_, fun v hcreated hdel hnone => exec_queueDeleteDone_of_empty hcreated hdel hnone,
    fun hopen hidle => ?_⟩
  · rw [exec_sliceRebind_of_managerOpen hopen]
    exact ⟨fun hoff hquiet => congrArg go (rebindSlice_of_quiet hother hoff hquiet),
      fun hbusy => congrArg go (rebindSlice_of_busy hother hbusy)⟩
  · intro hopen hidle hon hnone hsize hsq hcq hroom
    refine ⟨?_, rfl, rfl, rfl, rfl⟩
    rw [exec_queueCreate_of_managerOpen hopen, qcmd_of_idle hidle, createPair_of_fits hon hnone hsize hsq hcq hroom]
  · rw [exec_queueCreate_of_managerOpen hopen, qcmd_of_idle hidle, createPair_of_disabled hoff]
  · rw [exec_queueDelete_of_managerOpen hopen, qcmd_of_idle hidle, deletePair_of_created hcreated]
  · rw [exec_sliceAbort_of_managerOpen hopen, qcmd_of_idle hidle]
    rfl

/-! ## Doorbells (R65, R72, R79) -/

/-- The index that a doorbell write of 8 or 4 bytes carries. -/
def doorbellIndex (size : Nat) (val : Word) : Nat := if size = 4 then val.toNat % 2 ^ 32 else val.toNat

section Doorbell
variable {s : State} {sl : Slice} {pasid : Option (BitVec 20)} {size : Nat} {val : Word}

section Passed
variable (hslice0 : sl = 0 → pasid = none) (hown : ∀ p, pasid = some p → p.toNat = pasidOf s sl.val)
variable (hon : enabled s sl.val = true) (hsize : size = 8 ∨ size = 4)
include hslice0 hown hon hsize

/-- A write that is no spoof and meets an enabled slice is an index for its queue register. -/
theorem doorbell_of_passed (off : Nat) (hoff : off = 0 ∨ off = 8) :
    doorbell s sl.val pasid off size val = ringDoorbell s sl.val (off == 8) (doorbellIndex size val) := by
  have huntagged : ¬ (sl.val = 0 ∧ pasid.isSome = true) := by
    rintro ⟨hzero, hsome⟩
    rw [hslice0 (Fin.ext hzero)] at hsome
    cases hsome
  have hnotForeign : ¬ (sl.val ≠ 0 ∧ (pasid.any fun p => p.toNat != pasidOf s sl.val) = true) := by
    rintro ⟨_, hforeign⟩
    cases pasid with
    | none => cases hforeign
    | some p => simp [hown p rfl] at hforeign
  have haligned : ¬¬ (size = 8 ∧ off % 8 = 0 ∨ size = 4 ∧ off % 8 = 0) := by
    omega
  rw [doorbell, if_neg huntagged, if_neg hnotForeign, if_neg (by simp [hon])]
  simp only [if_neg haligned]
  rcases hoff with rfl | rfl <;> rfl

end Passed

section Ring
variable {sl v : Nat} {head : Bool}

theorem ringDoorbell_of_created {q : Queue} (h : tfind s.pch.queues (4 * sl + v / 65536 % 4) = some q) (hkept : q.deleting = false)
    (hix : v % 65536 < q.size) : ringDoorbell s sl head v
      = (let s1 := setQueue s (4 * sl + v / 65536 % 4) (if head then releaseCq q (v % 65536) else { q with tail := v % 65536 })
         { s1 with pch := { s1.pch with l1 := false, busyRun := runNow s } }) := by
  have hbad : ¬ (q.deleting || decide (q.size ≤ v % 65536)) = true := by simp [hkept, hix]
  simp only [ringDoorbell, qnum, h]
  exact if_neg hbad

theorem ringDoorbell_of_discarded
    (h : ∀ q, tfind s.pch.queues (4 * sl + v / 65536 % 4) = some q → q.deleting = true ∨ q.size ≤ v % 65536) :
    ringDoorbell s sl head v = dbError s sl := by
  cases hq : tfind s.pch.queues (4 * sl + v / 65536 % 4) with
  | none => simp only [ringDoorbell, qnum, hq]
  | some q =>
    have hbad : (q.deleting || decide (q.size ≤ v % 65536)) = true := by simpa using h q hq
    simp only [ringDoorbell, qnum, hq]
    exact if_pos hbad

end Ring

theorem doorbell_of_foreign {p : BitVec 20} (hsl : sl ≠ 0) (hforeign : p.toNat ≠ pasidOf s sl.val) (off : Nat) :
    doorbell s sl.val (some p) off size val = dbSpoof s sl.val := by
  have hval : sl.val ≠ 0 := Fin.val_ne_zero_iff.mpr hsl
  rw [doorbell, if_neg (fun h => hval h.1), if_pos ⟨hval, by simpa using hforeign⟩]

theorem doorbell_of_disabled (h : enabled s sl.val = false) (off : Nat) : doorbell s sl.val none off size val = s := by
  simp [doorbell, h]

end Doorbell

/-- Settles O22: a doorbell write that is neither a spoof nor for a disabled slice is an index, and the pair it names decides
what becomes of it. -/
theorem doorbellWrites : Obligations.DoorbellWrites := by
  refine ⟨fun sl pasid size val s hslice0 hown hon hsize => ?_, fun sl p off size val s => ⟨fun hsl hforeign => ?_, fun hoff => ?_, rfl⟩⟩
  · have htail : exec (.sqTailWrite sl pasid 0 size val) s = go (ringDoorbell s sl.val false (doorbellIndex size val)) :=
      congrArg go (doorbell_of_passed hslice0 hown hon hsize 0 (Or.inl rfl))
    have hhead : exec (.cqHeadWrite sl pasid 8 size val) s = go (ringDoorbell s sl.val true (doorbellIndex size val)) :=
      congrArg go (doorbell_of_passed hslice0 hown hon hsize 8 (Or.inr rfl))
    rw [htail, hhead]
    exact ⟨fun q hq hkept hix => ⟨congrArg go (ringDoorbell_of_created hq hkept hix), congrArg go (ringDoorbell_of_created hq hkept hix)⟩,
      fun hbad => ⟨congrArg go (ringDoorbell_of_discarded hbad), congrArg go (ringDoorbell_of_discarded hbad)⟩⟩
  · exact ⟨congrArg go (doorbell_of_foreign hsl hforeign off), congrArg go (doorbell_of_foreign hsl hforeign off)⟩
  · exact ⟨congrArg go (doorbell_of_disabled hoff off), congrArg go (doorbell_of_disabled hoff off)⟩

end Machine
end Sys2Proof
end

section
/-! PROOF. Orders between the rings (03): batch fetches (R81, R84, R91), dispatch (R87 to R94), and completions (R82, R83,
R95). -/

namespace Sys2Proof
namespace Machine

/-! ## Batches -/

theorem fetchRoom_le_32 (q : Queue) : fetchRoom q ≤ 32 := Nat.min_le_left _ _

theorem fetchRoom_le_unconsumed (q : Queue) : fetchRoom q ≤ (q.tail + q.size - q.fetch) % q.size :=
  (Nat.min_le_right _ _).trans (Nat.min_le_left _ _)

theorem fetchRoom_add_credit_le {q : Queue} (h : q.credit ≤ q.size) : fetchRoom q + q.credit ≤ q.size := by
  have hroom : fetchRoom q ≤ q.size - q.credit := (Nat.min_le_right _ _).trans (Nat.min_le_right _ _)
  omega

/-- Entries that all read become as many bank slots, and none is fetched again. -/
theorem takeEntries_ok (q : Queue) (l : List OrderWord) (ix : Nat) :
    (takeEntries q ix (l.map HostRead.ok)).1.length = l.length ∧ (takeEntries q ix (l.map HostRead.ok)).2 = [] := by
  induction l generalizing ix with
  | nil => exact ⟨rfl, rfl⟩
  | cons d r ih =>
    obtain ⟨hlen, hnone⟩ := ih ((ix + 1) % q.size)
    exact ⟨congrArg (· + 1) hlen, hnone⟩

/-- Where a pair stands in the round robin of R84, lowest first. -/
def fetchRank (s : State) (g : Nat) : Nat :=
  8 * turnTo 1024 s.pch.rrSlice (sliceOfQ g) + turnTo 4 (tget 3 s.pch.rrPair (sliceOfQ g)) (g % 4)

/-- The turn is that of the least rank among the pairs that may be fetched. -/
theorem nextFetch_eq_argmin (s : State) :
    nextFetch s = ((s.pch.queues.filter fun p => fetchable s p.1 p.2).map Prod.fst).argmin (fetchRank s) := by
  rw [List.argmin, List.foldl_map]
  refine congrArg (fun f => List.foldl f none _) (funext fun b => funext fun p => ?_)
  cases b <;> rfl

theorem nextFetch_is_first {s : State} {g : Nat} (h : nextFetch s = some g) :
    (∃ qg, (g, qg) ∈ s.pch.queues ∧ fetchable s g qg = true)
      ∧ ∀ x ∈ s.pch.queues, fetchable s x.1 x.2 = true → fetchRank s g ≤ fetchRank s x.1 := by
  rw [nextFetch_eq_argmin] at h
  refine ⟨?_, fun x hx hfetch => ?_⟩
  · obtain ⟨⟨g', qg⟩, hmem, rfl⟩ := List.mem_map.mp (List.argmin_mem h)
    obtain ⟨hin, hfetch⟩ := List.mem_filter.mp hmem
    exact ⟨qg, hin, hfetch⟩
  · exact List.le_of_mem_argmin (List.mem_map.mpr ⟨x, List.mem_filter.mpr ⟨hx, hfetch⟩, rfl⟩) h

section Fetch
variable {s : State} {sl : Slice} {p : PairIx} {q : Queue} (hq : tfind s.pch.queues (4 * sl.val + p.val) = some q)
include hq

theorem exec_sqBatchFetch_out_of_turn (h : s.pch.fetching = false ∨ nextFetch s ≠ some (4 * sl.val + p.val))
    (es : List (HostRead OrderWord)) : exec (.sqBatchFetch sl p es) s = go s := by
  change execSqBatchFetch sl p es s = _
  simp only [execSqBatchFetch, qnum, hq]
  refine if_pos ?_
  rcases h with h | h <;> simp [h]

theorem exec_sqBatchFetch_ok {l : List OrderWord} (hrun : s.pch.fetching = true)
    (hturn : nextFetch s = some (4 * sl.val + p.val))
    (hbank : (tget {} s.pch.chans ((4 * sl.val + p.val) % 8)).banks.length < 2) (hne : l ≠ []) (hroom : l.length ≤ fetchRoom q) :
    exec (.sqBatchFetch sl p (l.map HostRead.ok)) s
      = (let t := takeEntries q q.fetch (l.map HostRead.ok)
         let chan := tget {} s.pch.chans ((4 * sl.val + p.val) % 8)
         let c1 : Channel := { chan with banks := chan.banks ++ [⟨4 * sl.val + p.val, t.1⟩], wcnt := chan.wcnt + 1 }
         let s0 := hostRead (tookTurn s sl.val p.val) sl (q.sqBase.toNat + 64 * q.fetch) (64 * l.length)
         let s1 := setQueue s0 (4 * sl.val + p.val) { q with fetch := (q.fetch + l.length) % q.size, credit := q.credit + l.length }
         go { s1 with pch := { s1.pch with chans := tput {} s1.pch.chans ((4 * sl.val + p.val) % 8) c1 } }) := by
  obtain ⟨hlen, hnone⟩ := takeEntries_ok q l q.fetch
  have htake : (l.map HostRead.ok).take (fetchRoom q) = l.map HostRead.ok := List.take_of_length_le (by simpa using hroom)
  have hsome : (takeEntries q q.fetch (l.map HostRead.ok)).1.isEmpty = false := by
    rw [List.isEmpty_eq_false_iff, ← List.length_pos_iff, hlen, List.length_pos_iff]
    exact hne
  have hfree : ¬ 2 ≤ (tget {} s.pch.chans ((4 * sl.val + p.val) % 8)).banks.length := Nat.not_le.mpr hbank
  change execSqBatchFetch sl p (l.map HostRead.ok) s = _
  have hgo : ¬ (!s.pch.fetching || nextFetch s != some (4 * sl.val + p.val)
      || decide (2 ≤ (tget {} s.pch.chans ((4 * sl.val + p.val) % 8)).banks.length) || (l.map HostRead.ok).isEmpty) = true := by
    simp only [hrun, hturn, hfree]
    simp [hne]
  have hread : ((l.map HostRead.ok).any (· == HostRead.failed)) = false := by
    simp
  simp only [execSqBatchFetch, qnum, hq, htake, hlen, hnone, hsome, hread, List.length_map, List.map_nil,
    List.append_nil]
  refine (if_neg hgo).trans ?_
  exact congrArg go (if_neg (Nat.lt_irrefl _))

end Fetch

/-- Settles O23: the room of a fetch is a minimum of its three limits, the turn is an argmin, and entries that all read fill
one bank. -/
theorem ordersAreFetchedInBatches : Obligations.OrdersAreFetchedInBatches := by
  intro sl p l s q hq
  refine ⟨fetchRoom_le_32 q, fetchRoom_add_credit_le, fetchRoom_le_unconsumed q, fun ix d r => rfl, fun g hturn => ?_,
    fun hrun hturn hbank hne hroom => ?_, fun es hout => exec_sqBatchFetch_out_of_turn hq hout es⟩
  · obtain ⟨⟨qg, hin, hfetch⟩, hfirst⟩ := nextFetch_is_first hturn
    exact ⟨qg, hin, hfetch, hfirst⟩
  · obtain ⟨hlen, hnone⟩ := takeEntries_ok q l q.fetch
    exact ⟨hlen, hnone, exec_sqBatchFetch_ok hq hrun hturn hbank hne hroom⟩

/-! ## Dispatch -/

section Dispatch
variable {ch : Fin 8} {s : State} {g : Nat} {x : BankSlot} {more : List BankSlot} {c : Channel}
variable (htake : takeSlot (tget {} s.pch.chans ch.val) = some (g, x, more, c))
include htake

/-- The order's slot is free and its entry consumed. -/
theorem exec_orderDispatch_of_bad (hbad : x.bad = true) : exec (.orderDispatch ch 0 0) s
    = go (refuse (consume { s with pch := { s.pch with chans := tput {} s.pch.chans ch.val c } } g x.ix)
        { slotOrder g x with noCookie := true } .poison (BitVec.ofNat 64 x.ix)) := by
  change execOrderDispatch ch 0 0 s = _
  simp only [execOrderDispatch, htake, hbad]
  rfl

theorem exec_orderDispatch_of_read (hgood : x.bad = false) : exec (.orderDispatch ch 0 0) s
    = (let s1 := consume { s with pch := { s.pch with chans := tput {} s.pch.chans ch.val c } } g x.ix
       match porchCheck s1 (slotOrder g x) with
       | .error .malformed =>
         go (dropRest (refuse s1 (slotOrder g x) .malformed 0) ch.val g (x.ix + 1) more.length (!more.isEmpty))
       | .error .spoof => go (refuse (countSpoof s1 (slotOrder g x).slice.val) (slotOrder g x) .spoof 0)
       | .error st => go (refuse s1 (slotOrder g x) st 0)
       | .ok im => go (admitChecked s1 (slotOrder g x) im)) := by
  change execOrderDispatch ch 0 0 s = _
  simp only [execOrderDispatch, htake, hgood]
  rfl

end Dispatch

theorem porchCheck_of_foreign_slice {s : State} {v : Order} (h : v.tag % 1024 ≠ v.slice.val) : porchCheck s v = .error .spoof :=
  if_pos (by simpa using h)

theorem orderCheck_of_retired {s : State} (hlc : s.mode.lc = .retired) (v : Order) (h : Hdr) : orderCheck s v h = some .locked := by
  simp only [orderCheck, hlc]

theorem orderCheck_of_locked {s : State} (hlc : s.mode.lc = .production) (hlock : s.mode.lock = true) (v : Order) (h : Hdr) :
    orderCheck s v h = some .locked := by
  simp only [orderCheck, hlc, hlock, if_true]

/-- Settles O24: with its entry consumed, the result of the porch checks alone decides what becomes of an order. -/
theorem dispatchFollowsThePorchChecks : Obligations.DispatchFollowsThePorchChecks := by
  intro ch s g x more c htake
  refine ⟨⟨exec_orderDispatch_of_bad htake, fun hgood => ?_⟩, fun v h => porchCheck_of_foreign_slice h,
    fun v h hlc => orderCheck_of_retired hlc v h, fun v h hlc hlock => orderCheck_of_locked hlc hlock v h⟩
  rw [exec_orderDispatch_of_read htake hgood]
  refine ⟨fun im hok => ?_, fun hspoof => ?_, fun hbad => ?_, fun hpolicy => ?_⟩
  · simp only [hok]
  · simp only [hspoof]
  · simp only [hbad]
  · simp only [hpolicy]

/-! ## Completions -/

section Completion
variable {s : State} {o : Nat} {v : Order} {st : Status} {inl : Word}

section Issue
variable (horder : order? s o = some v) (hout : v.outcome = some (st, inl)) (hhost : v.intern = false)
include horder hout hhost

/-- An order of the host ends with its completion. -/
theorem exec_completionWrite_of_host (bursts : List Nat) : exec (.completionWrite o bursts) s
    = go (if canIssue s (v.slice.val == 0) = false then forget (discardCompletion s v (4 * v.slice.val + v.pair.val)) o
        else match tfind s.pch.queues (4 * v.slice.val + v.pair.val) with
          | none => forget s o
          | some q =>
            match outputBytes v st with
            | some l =>
              if bursts.all (porchGrants v false) then
                let s1 := { s with out := .output v.slice (prefixOf s v.slice) (BitVec.ofNat 64 v.outIova) l :: s.out }
                forget (completionIrq (writeCompletion s1 v st inl (4 * v.slice.val + v.pair.val) q) v (4 * v.slice.val + v.pair.val)) o
              else porchDoor s o v false
            | none =>
              forget (completionIrq (writeCompletion s v st inl (4 * v.slice.val + v.pair.val) q) v (4 * v.slice.val + v.pair.val)) o) := by
  change go (completeOrder s o bursts) = _
  simp only [completeOrder, issueCompletion, horder, hout, hhost, Bool.not_eq_true', qnum]
  rfl

end Issue

section Position
variable {q : Queue} {g : Nat}

theorem writeCompletion_of_inside (h : q.cqPos + 1 ≠ q.size) : writeCompletion s v st inl g q
    = setQueue { s with out := .completion v.slice (prefixOf s v.slice) v.pair q.cqPos (completionWord s v st inl g q.phase) :: s.out } g
        { q with cqPos := q.cqPos + 1, unread := q.unread + 1 } := by
  simp [writeCompletion, h]

theorem writeCompletion_of_wrap (h : q.cqPos + 1 = q.size) : writeCompletion s v st inl g q
    = setQueue { s with out := .completion v.slice (prefixOf s v.slice) v.pair q.cqPos (completionWord s v st inl g q.phase) :: s.out } g
        { q with cqPos := 0, phase := !q.phase, unread := q.unread + 1 } := by
  simp [writeCompletion, h]

end Position
end Completion

theorem exec_irqCoalTimeout_of_due {s : State} {sl : Slice} {p : PairIx} {q : Queue} {cfg : Word}
    (hcfg : rd s (qCfgAddr sl.val p.val) = cfg) (hq : tfind s.pch.queues (4 * sl.val + p.val) = some q) (hon : bit cfg 40 = true)
    (hcount : q.coalCnt ≠ 0) (htime : bits cfg 39 24 ≠ 0) (hdue : q.coalRun + bits cfg 39 24 ≤ runNow s) :
    exec (.irqCoalTimeout sl p) s = go (sendMsix (setQueue s (4 * sl.val + p.val) { q with coalCnt := 0 }) (sl.val == 0)
      (if sl.val = 0 then 16 + p.val else bits cfg 14 4)) := by
  change execIrqCoalTimeout sl p s = _
  simp [execIrqCoalTimeout, qnum, hq, hcfg, hon, hcount, htime, hdue]

/-- Settles O25: what the function, the output window and the ring position allow decides the completion, and the order is
gone after each. -/
theorem completionsAreWrittenInOrderOfTheRing : Obligations.CompletionsAreWrittenInOrderOfTheRing := by
  intro o s v st inl horder hout hhost
  refine ⟨⟨fun bursts hno => ?_, fun q hcan hq => ⟨fun bursts hnone => ?_, fun l s1 bursts hsome hs1 => ?_, fun s1 hs1 => ?_⟩⟩,
    fun sl p q cfg hcfg hq hon hcount htime hdue => exec_irqCoalTimeout_of_due hcfg hq hon hcount htime hdue⟩
  · rw [exec_completionWrite_of_host horder hout hhost, if_pos hno]
  · rw [exec_completionWrite_of_host horder hout hhost]
    simp only [hcan, hq, hnone]
    rfl
  · rw [exec_completionWrite_of_host horder hout hhost, hs1]
    simp only [hcan, hq, hsome]
    exact ⟨fun hgrant => congrArg go (if_pos hgrant), fun hgrant => congrArg go (if_neg (Bool.eq_false_iff.mp hgrant))⟩
  · rw [hs1]
    exact ⟨writeCompletion_of_inside, writeCompletion_of_wrap⟩

end Machine
end Sys2Proof
end

section
/-! PROOF. The porter's commands (04 R101 to R109): grants, best-effort settings, the park, charges and hints. -/

namespace Sys2Proof
namespace Machine

/-! ## Grants and settings (R102 to R104) -/

section Manager
variable {s : State} (hopen : managerOpen s)
include hopen

theorem exec_grant_of_managerOpen (sl : Slice) (c : Sys2Proof.Class) : exec (.grant sl c) s = go (grantCmd s sl.val c.val) :=
  managerWrite_of_managerOpen hopen 0x30010 fun s => grantCmd s sl.val c.val

theorem exec_grantRelease_of_managerOpen (sl : Slice) (c : Sys2Proof.Class) :
    exec (.grantRelease sl c) s = go (releaseCmd s sl.val c.val) :=
  managerWrite_of_managerOpen hopen 0x30010 fun s => releaseCmd s sl.val c.val

theorem exec_beCfgWrite_of_managerOpen (v : Word) : exec (.beCfgWrite v) s = go (writeBeCfg s v) :=
  managerWrite_of_managerOpen hopen 0x30020 fun s => writeBeCfg s v

end Manager

section Grant
variable {s : State} {sl c : Nat}

theorem grantCmd_of_ok {us : List Unit}
    (h : grantCheck s s.adm.grants s.adm.units (8 * sl + c) (writtenGrant s sl c) = .ok us) : grantCmd s sl c
      = (let a := { s.adm with grants := tins s.adm.grants (8 * sl + c) (writtenGrant s sl c), units := us }
         admStatus (wrF { s with adm := a } (auxAddr sl c) 0 0 1) .done 0xFF) := by
  simp only [grantCmd, gkey, h]

theorem grantCmd_of_error {e : Status × Nat}
    (h : grantCheck s s.adm.grants s.adm.units (8 * sl + c) (writtenGrant s sl c) = .error e) : grantCmd s sl c
      = grantRefused (admStatus (writeGrantWords s sl c (tfind s.adm.grants (8 * sl + c))) e.1 e.2) sl c e.1 e.2 := by
  simp only [grantCmd, gkey, h]

end Grant

/-- Every room's granted density is within its capacity under a DMAX floor (R103, R104). -/
abbrev roomsHold (s : State) (d : Nat) : Prop :=
  ∀ r, r < 64 → capHolds (engIn s r) (dmaxWith s.adm.grants d r) (grantedIn s.adm.grants r) = true

theorem writeBeCfg_of_holds {s : State} {v : Word} (h : roomsHold s (dmaxRead (bits v 15 0))) : writeBeCfg s v
    = wr s 0x30020 (BitVec.ofNat 64 (dmaxRead (bits v 15 0) + fld (bits v 23 16) 16 + fld (bits v 39 32) 32)) :=
  if_neg (by simpa using h)

theorem writeBeCfg_of_beyond {s : State} {v : Word} (h : ∃ r, r < 64
    ∧ capHolds (engIn s r) (dmaxWith s.adm.grants (dmaxRead (bits v 15 0)) r) (grantedIn s.adm.grants r) = false) :
    writeBeCfg s v = evt s 3 1 :=
  if_pos (by simpa using h)

/-- The capacity of R103 in whole numbers, which a large DMAX makes negative. -/
theorem capHolds_iff (e dmax den : Nat) : capHolds e dmax den = true
    ↔ (den : Int) ≤ (if e = 0 then 0 else (e : Int) * 65536 - ((e : Int) - 1) * (dmax : Int)) := by
  unfold capHolds
  split
  · simp
  · next he =>
    have hcast : ((e : Int) - 1) * (dmax : Int) = (((e - 1) * dmax : Nat) : Int) := by
      rw [Nat.cast_mul, Nat.cast_sub (Nat.one_le_iff_ne_zero.mpr he), Nat.cast_one]
    rw [decide_eq_true_iff, hcast]
    omega

/-! ## The park, charges and hints (R101, R107, R109) -/

section Park
variable {s : State} {o : Nat} {v : Order} (horder : order? s o = some v) (hparked : v.phase = .parked)
variable (hdue : v.notBefore ≤ (tbNow s).toNat)
include horder hparked hdue

theorem exec_parkRelease_of_due : exec (.parkRelease o) s
    = (let s1 := { s with adm := { s.adm with orders := tdel s.adm.orders o, park := s.adm.park.filter (· != o) } }
       match tfind s.ld.dir v.routine with
       | some im => go (decideOrder s1 { v with hdr := im.hdr, slotProg := im.slotProg, image := im.serial })
       | none => go (refuse (clearHint s1 (8 * v.slice.val + v.cls)) v .malformed 0)) := by
  have hgo : (v.phase == .parked && decide (v.notBefore ≤ (tbNow s).toNat)) = true := by simp [hparked, hdue]
  change execParkRelease o s = _
  simp only [execParkRelease, horder, gkey]
  exact if_pos hgo

end Park

theorem exec_busyHintClear_of_due {s : State} {sl : Slice} {c : Sys2Proof.Class} {t : Word}
    (hhint : tfind s.adm.hints (8 * sl.val + c.val) = some t) (hdue : t.toNat ≤ (tbNow s).toNat) :
    exec (.busyHintClear sl c) s = go (clearHint s (8 * sl.val + c.val)) := by
  change execBusyHintClear sl c s = _
  simp only [execBusyHintClear, gkey, hhint]
  exact if_pos hdue

/-- Settles O26: the checks of R103 alone decide a grant, the 64 rooms a setting, and the directory what becomes of a parked
order. -/
theorem admissionCommands : Obligations.AdmissionCommands := by
  intro s
  refine ⟨fun sl c hopen => ⟨fun us hok => ?_, fun e herror => ?_, ?_⟩, fun v hopen => ⟨fun hholds => ?_, fun hbeyond => ?_⟩,
    capHolds_iff, rfl, fun n hn => if_neg hn, fun o v s1 horder hparked hdue hs1 => ⟨fun im him => ?_, fun hnone => ?_⟩,
    fun o => rfl, fun sl c t hhint hdue => exec_busyHintClear_of_due hhint hdue⟩
  · rw [exec_grant_of_managerOpen hopen, grantCmd_of_ok hok]
  · rw [exec_grant_of_managerOpen hopen, grantCmd_of_error herror]
  · rw [exec_grantRelease_of_managerOpen hopen]
    rfl
  · rw [exec_beCfgWrite_of_managerOpen hopen, writeBeCfg_of_holds hholds]
  · rw [exec_beCfgWrite_of_managerOpen hopen, writeBeCfg_of_beyond hbeyond]
  · rw [exec_parkRelease_of_due horder hparked hdue, hs1]
    simp only [him]
  · rw [exec_parkRelease_of_due horder hparked hdue, hs1]
    simp only [hnone]

end Machine
end Sys2Proof
end

section
/-! PROOF. The rooms (05, 04 R111 to R118): how a phase starts, is preempted, runs on and is stopped, and how an order's input
comes in. -/

namespace Sys2Proof
namespace Machine

/-! ## Starts, preemption, resumption (R111, R112, R141, R145) -/

/-- An engine that is given an order reads back. -/
theorem eng_setEng_of_order {s : State} {g : Engine} {o : Nat} (h : g.order = some o) (e : Nat) : eng (setEng s e g) e = g :=
  eng_setEng_same_of_ne (ne_default_of_order h) e

section Start
variable {s : State} {o : Nat} {v : Order} (horder : order? s o = some v) {e : EngIx} {second : Bool}
variable (hroom : v.room.val = e.val / 8) (hidle : idle s e.val = true) (hfirst : isFirst s v = true)
include horder hroom hidle hfirst

theorem exec_phaseStart_of_first (hphase : v.phase = .queued second) (hbeat : v.adm + 1 ≤ runNow s) {f : Nat}
    (hframe : freeFrameOf s v.room.val = some f) : exec (.phaseStart o e) s = go (startPhase s o v e second f) := by
  have hgo : (v.room.val == roomOf e.val && idle s e.val && isFirst s v && decide (v.adm + 1 ≤ runNow s)) = true := by
    simp [hroom, roomOf, hidle, hfirst, hbeat]
  change execPhaseStart o e s = _
  simp only [execPhaseStart, horder, hphase, if_pos hgo, hframe]

/-- The engine of an order that runs on. -/
def resumedEngine (s : State) (o : Nat) (v : Order) (e : EngIx) (second : Bool) : Engine :=
  let g := eng s e.val
  { g with
    core := tget {} s.rooms.saved (frameKey v.room.val v.frame), order := some o, second := second, frame := v.frame
    lsAct := orderMapLs v ++ roomRegions g.lsAct, lsStg := orderMapLs v ++ roomRegions g.lsStg
    dmaAct := orderMapDma v ++ roomRegions g.dmaAct, dmaStg := orderMapDma v ++ roomRegions g.dmaStg }

/-- The state in which it runs. -/
def resumedState (s : State) (o : Nat) (v : Order) (e : EngIx) (second : Bool) : State :=
  let s1 := setEng s e.val (resumedEngine s o v e second)
  let s2 := { s1 with rooms := { s1.rooms with saved := tdel s1.rooms.saved (frameKey v.room.val v.frame) } }
  setOrder s2 o { v with phase := .running e second }

theorem exec_orderResume_of_first (hphase : v.phase = .preempted second) :
    exec (.orderResume o e) s = go (resumedState s o v e second) := by
  have hgo : (v.room.val == roomOf e.val && idle s e.val && isFirst s v) = true := by
    simp [hroom, roomOf, hidle, hfirst]
  change execOrderResume o e s = _
  simp only [execOrderResume, horder, hphase]
  exact if_pos hgo

end Start

theorem eng_resumedState (s : State) (o : Nat) (v : Order) (e : EngIx) (second : Bool) :
    eng (resumedState s o v e second) e.val = resumedEngine s o v e second :=
  eng_setEng_of_order (s := s) (o := o) rfl e.val

theorem eng_startPhase_order (s : State) (o : Nat) (v : Order) (e : EngIx) (second : Bool) (f : Nat) :
    (eng (startPhase s o v e second f) e.val).order = some o :=
  congrArg Engine.order (eng_setEng_of_order (s := s) (o := o) rfl e.val)

theorem eng_startPhase_core (s : State) (o : Nat) (v : Order) (e : EngIx) (second : Bool) (f : Nat) :
    (eng (startPhase s o v e second f) e.val).core
      = { x := if second then carriedRegs v else startRegs v, supv := v.hdr.supv, pc := if second then v.yieldPc else 0 } :=
  congrArg Engine.core (eng_setEng_of_order (s := s) (o := o) rfl e.val)

section Preempt
variable {s : State} {o : Nat} {v : Order} {e : EngIx} {second : Bool} (hphase : v.phase = .running e second)

include hphase in
/-- Whether a running order may be stopped is its engine's place. -/
theorem atBoundary_of_running (s : State) : atBoundary s v = (eng s e.val).core.atBoundary := by
  simp only [atBoundary, hphase]

variable {r : Room} (hlast : lastRanked (runningIn s r.val) = some (o, v))
variable (hbusy : ∀ i, i < 8 → idle s (8 * r.val + i) = false)
variable (hbetter : ((waiting s r.val).any fun p => phaseEnd p.2 < phaseEnd v) = true)
variable (hplace : (eng s e.val).core.atBoundary = true)
include hphase hlast hbusy hbetter hplace

theorem exec_preempt_of_better : exec (.preempt r) s = go (preemptOrder s o v e second) := by
  have hall : ((List.range 8).all fun i => !idle s (8 * r.val + i)) = true := by simpa using hbusy
  have hgo : ((List.range 8).all (fun i => !idle s (8 * r.val + i)) && ((waiting s r.val).any fun p => phaseEnd p.2 < phaseEnd v)
      && atBoundary s v) = true := by
    rw [hall, hbetter, atBoundary_of_running hphase, hplace]
    rfl
  change execPreempt r s = _
  simp only [execPreempt, hlast, hphase]
  exact if_pos hgo

end Preempt

/-! ## Stops (R114, R115) -/

section Stop
variable {s : State} {o : Nat} {v : Order} (horder : order? s o = some v)
include horder

theorem exec_phaseOverrun_of_running {e : EngIx} {second : Bool} (hphase : v.phase = .running e second) :
    exec (.phaseOverrun o) s
      = if (eng s e.val).core.atBoundary = true then go (deadlineFault (cntUp s 0x30050 63 32) o v 1) else go s := by
  change execPhaseOverrun o s = _
  simp only [execPhaseOverrun, horder, hphase, atBoundary_of_running hphase]

theorem exec_deadlineWatchdog_of_overdue (haccepted : v.accepted = true) (hrunning : v.phase ≠ .ended)
    (hlate : v.deadline ≤ runNow s + 1 ∨ phaseEnd v ≤ runNow s) (hplace : atBoundary s v = true) :
    exec (.deadlineWatchdog o) s = go (deadlineFault (cntUp s 0x30050 31 0) o v 2) := by
  have hdue : overdue s v = true := by simp [overdue, haccepted, hrunning, hlate]
  change execDeadlineWatchdog o s = _
  simp only [execDeadlineWatchdog, horder, hdue, hplace]
  rfl

/-! ## Input (R97, R117, R162) -/

section Input
variable (haccepted : v.accepted = true) (hrunning : v.phase ≠ .ended) (hlen : v.inLen ≠ 0) (hwait : v.inputIn = false)
include haccepted hrunning hlen hwait

theorem exec_inputDmaComplete_of_waiting (data : HostRead (List Byte)) (b : List Nat) : exec (.inputDmaComplete o data b) s
    = (let s1 := hostRead s v.slice v.inIova v.inLen
       match data with
       | .failed => go (endOrder (dmaErr s1) o .aborted 0)
       | .ok l =>
         if b.all (porchGrants v true) then go (setOrder s1 o { v with input := l.take v.inLen, inputIn := true })
         else go (porchDoor s1 o v true)) := by
  have hgo : (v.accepted && v.phase != .ended && v.inLen != 0 && !v.inputIn) = true := by
    simp [haccepted, hrunning, hlen, hwait]
  change execInputDmaComplete o data b s = _
  simp only [execInputDmaComplete, horder]
  exact if_pos hgo

theorem exec_inputReadTimeout_of_late (hlate : v.deadline ≤ runNow s + 1 + (need v).w) :
    exec (.inputReadTimeout o) s = go (endOrder (dmaErr s) o .aborted 0) := by
  have hgo : (v.accepted && v.phase != .ended && v.inLen != 0 && !v.inputIn
      && decide (v.deadline ≤ runNow s + 1 + (need v).w)) = true := by
    simp [haccepted, hrunning, hlen, hwait, hlate]
  change execInputReadTimeout o s = _
  simp only [execInputReadTimeout, horder]
  exact if_pos hgo

end Input
end Stop

theorem atBoundary_of_slot_zero {c : Core} (h : c.slot = 0) : c.atBoundary = true := by simp [Core.atBoundary, h]

/-- Settles O27: the phase of an order and the place of its engine decide each event, and an engine given an order reads
back. -/
theorem phasesStartPreemptAndEnd : Obligations.PhasesStartPreemptAndEnd := by
  intro o s v horder
  refine ⟨fun e second f hphase hroom hidle hfirst hbeat hframe => ?_,
    fun r e second hlast hphase hbusy hbetter hplace => exec_preempt_of_better hphase hlast hbusy hbetter hplace,
    fun e second hphase hroom hidle hfirst => ?_, fun e second hphase => ?_, fun c h => atBoundary_of_slot_zero h,
    fun haccepted hrunning hlate hplace => exec_deadlineWatchdog_of_overdue horder haccepted hrunning hlate hplace,
    fun haccepted hrunning hlen hwait => ?_⟩
  · exact ⟨exec_phaseStart_of_first horder hroom hidle hfirst hphase hbeat hframe, eng_startPhase_order s o v e second f,
      eng_startPhase_core s o v e second f⟩
  · refine ⟨_, exec_orderResume_of_first horder hroom hidle hfirst hphase, order_setOrder _ _ _, ?_, ?_, rfl⟩
    · rw [eng_resumedState]
      rfl
    · rw [eng_resumedState]
      rfl
  · rw [exec_phaseOverrun_of_running horder hphase]
    exact ⟨fun hplace => if_pos hplace, fun hplace => if_neg (Bool.eq_false_iff.mp hplace)⟩
  · simp only [exec_inputDmaComplete_of_waiting horder haccepted hrunning hlen hwait]
    exact ⟨fun l b hgrant => if_pos hgrant, fun l b hgrant => if_neg (Bool.eq_false_iff.mp hgrant), fun _ => trivial,
      fun hlate => exec_inputReadTimeout_of_late horder haccepted hrunning hlen hwait hlate⟩

/-! ## Engines leave and return (R118, R147); room regions (R157, R161) -/

section Engines
variable {s : State} {r : Room} {i : LocIx}

section Manager
variable (hopen : managerOpen s)
include hopen

theorem exec_engineTakeOut_of_managerOpen : exec (.engineTakeOut r i) s = go (takeOut s (8 * r.val + i.val)) :=
  managerWrite_of_managerOpen hopen (rmBase r.val + 0x10) fun s => takeOut s (8 * r.val + i.val)

theorem exec_engineReturn_of_managerOpen : exec (.engineReturn r i) s = go (beginReturn s (8 * r.val + i.val)) :=
  managerWrite_of_managerOpen hopen (rmBase r.val + 0x10) fun s => beginReturn s (8 * r.val + i.val)

theorem exec_doorRegionWrite_of_managerOpen (n : Fin 4) (d : Word) :
    exec (.doorRegionWrite r n d) s = go (doorWrite s r.val n.val d) :=
  managerWrite_of_managerOpen hopen (rmBase r.val + 0x40 + 8 * n.val) fun s => doorWrite s r.val n.val d

theorem exec_doorSync_of_managerOpen : exec (.doorSync r) s = go (doorSyncStart s r.val) :=
  managerWrite_of_managerOpen hopen (rmBase r.val + 0x18) fun s => doorSyncStart s r.val

end Manager

theorem takeOut_of_in {e : Nat} (h : (eng s e).out = false) : takeOut s e = engineLeaves s e := if_neg (Bool.eq_false_iff.mp h)
theorem takeOut_of_out {e : Nat} (h : (eng s e).out = true) : takeOut s e = s := if_pos h
theorem beginReturn_of_out {e : Nat} (h : (eng s e).out = true) :
    beginReturn s e = setEng s e { eng s e with testing := true } := if_pos h

theorem exec_engineSelftestDone_of_testing (h : (eng s (8 * r.val + i.val)).testing = true) : exec (.engineSelftestDone r i) s
    = go (engOutBit (setEng s (8 * r.val + i.val) { eng s (8 * r.val + i.val) with out := false, testing := false })
        (8 * r.val + i.val) false) :=
  if_pos h

end Engines

section Doors
variable {s : State} {r n : Nat} {w : Word}

theorem doorWrite_of_fits (h : doorReason s r n (w &&& descBits) = 0) : doorWrite s r n w
    = (locals r).foldl (fun s e => setEng s e (stageDoor (eng s e) n (w &&& descBits))) (wr s (rmBase r + 0x40 + 8 * n) (w &&& descBits)) :=
  if_pos h

theorem doorWrite_of_reason (h : doorReason s r n (w &&& descBits) ≠ 0) : doorWrite s r n w
    = doorRefused s r 0 (12 + n) (doorReason s r n (w &&& descBits)) true :=
  if_neg h

end Doors

section Apply
variable {s : State} {e : EngIx} (hplace : (eng s e.val).core.atBoundary = true ∨ (eng s e.val).order = none)
include hplace

theorem mayApply_of_place : ((eng s e.val).core.atBoundary || (eng s e.val).order.isNone) = true := by
  rcases hplace with h | h <;> simp [h]

theorem exec_doorSyncApply_ls (hmark : (eng s e.val).syncLs = true) : exec (.doorSyncApply e .ls) s
    = go (syncDone (setEng s e.val { applyRoom (eng s e.val) .ls with syncLs := false }) (e.val / 8)) :=
  if_pos (by rw [mayApply_of_place hplace, hmark]; rfl)

theorem exec_doorSyncApply_dma (hmark : (eng s e.val).syncDma = true) : exec (.doorSyncApply e .dma) s
    = go (syncDone (setEng s e.val { applyRoom (eng s e.val) .dma with syncDma := false }) (e.val / 8)) :=
  if_pos (by rw [mayApply_of_place hplace, hmark]; rfl)

end Apply

/-- Settles O28: each act asks for the engine's OUT, its self-test or its mark, and a region write for the reasons of R157. -/
theorem enginesLeaveAndReturn : Obligations.EnginesLeaveAndReturn := by
  intro s
  refine ⟨fun r i hopen => ⟨fun hin => ?_, fun hout => ⟨?_, ?_⟩⟩, fun r i htest => exec_engineSelftestDone_of_testing htest,
    fun r n d0 d hopen hd => ?_, fun r hopen => exec_doorSync_of_managerOpen hopen,
    fun e hplace => ⟨exec_doorSyncApply_ls hplace, exec_doorSyncApply_dma hplace⟩⟩
  · rw [exec_engineTakeOut_of_managerOpen hopen, takeOut_of_in hin]
  · rw [exec_engineTakeOut_of_managerOpen hopen, takeOut_of_out hout]
  · rw [exec_engineReturn_of_managerOpen hopen, beginReturn_of_out hout]
  · rw [exec_doorRegionWrite_of_managerOpen hopen, hd]
    exact ⟨fun hfits => congrArg go (doorWrite_of_fits hfits), fun hreason => congrArg go (doorWrite_of_reason hreason)⟩

end Machine
end Sys2Proof
end

section
/-! PROOF. The integer and immediate instructions: each is the shared shape aluX at its own value. -/

namespace Sys2Proof
namespace Machine

/-- An instruction on an engine that runs an order is its body there. -/
theorem onEngine_eq {e : EngIx} {o : Nat} {v : Order} {s : State} {f : Nat → Order → Engine → Result} {r : Result}
    (hruns : engineRuns s e o v) (h : f o v (eng s e.val) = r) : onEngine e s f = r :=
  (onEngine_of_engineRuns hruns f).trans h

/-! ## The comparisons and products as arithmetic -/

theorem truth_decide (p : Prop) [Decidable p] : truth (decide p) = if p then 1 else 0 := by
  simp [truth]

theorem truth_slt (a b : Word) : truth (a.slt b) = if a.toInt < b.toInt then 1 else 0 := truth_decide _
theorem truth_ult (a b : Word) : truth (a.ult b) = if a.toNat < b.toNat then 1 else 0 := truth_decide _

theorem mulHigh_eq (a b : Word) : mulHigh a b = BitVec.ofInt 64 (a.toInt * b.toInt / 2 ^ 64) := by
  norm_num [mulHigh]

theorem mulHighU_eq (a b : Word) : mulHighU a b = BitVec.ofNat 64 (a.toNat * b.toNat / 2 ^ 64) := by
  norm_num [mulHighU]

/-- Settles O30: each is aluX at its own value; the comparisons and the high products are rewritten by the lemmas above. -/
theorem integerInstructionsResults : Obligations.IntegerInstructionsResults := by
  intro e o v s rd rs1 rs2 hruns
  have put (f : Core → Word) := aluX_of_engineRuns hruns rd f
  refine ⟨⟨put fun c => xget c rs1 + xget c rs2, put fun c => xget c rs1 - xget c rs2, put fun c => xget c rs1 &&& xget c rs2,
    put fun c => xget c rs1 ||| xget c rs2, put fun c => xget c rs1 ^^^ xget c rs2, put fun c => xget c rs1 &&& ~~~xget c rs2,
    put fun c => xget c rs1 <<< amount (xget c rs2), put fun c => xget c rs1 >>> amount (xget c rs2),
    put fun c => (xget c rs1).sshiftRight (amount (xget c rs2)), put fun c => (xget c rs1).rotateLeft (amount (xget c rs2)),
    put fun c => (xget c rs1).rotateRight (amount (xget c rs2)), ?_, ?_, put fun c => xget c rs1 * xget c rs2, ?_, ?_,
    put fun c => divU (xget c rs1) (xget c rs2), put fun c => remU (xget c rs1) (xget c rs2),
    put fun c => if xget c rd ≠ 0 then xget c rs1 else xget c rs2, put fun c => popCount (xget c rs1),
    put fun c => leadZeros (xget c rs1), put fun c => byteSwap (xget c rs1),
    onEngine_of_engineRuns hruns fun _ _ g => go (setCore s e (advance g.core 1))⟩, fun c => rfl⟩
  · rw [← truth_slt]
    exact put fun c => truth ((xget c rs1).slt (xget c rs2))
  · rw [← truth_ult]
    exact put fun c => truth ((xget c rs1).ult (xget c rs2))
  · rw [← mulHigh_eq]
    exact put fun c => mulHigh (xget c rs1) (xget c rs2)
  · rw [← mulHighU_eq]
    exact put fun c => mulHighU (xget c rs1) (xget c rs2)

section Shifts
variable {imm : BitVec 16} (a : Word)

theorem shiftImm_slli (h : bits imm 7 6 = 0) : shiftImm a imm = a <<< bits imm 5 0 := by simp only [shiftImm, h]
theorem shiftImm_srli (h : bits imm 7 6 = 1) : shiftImm a imm = a >>> bits imm 5 0 := by simp only [shiftImm, h]
theorem shiftImm_srai (h : bits imm 7 6 = 2) : shiftImm a imm = a.sshiftRight (bits imm 5 0) := by simp only [shiftImm, h]
theorem shiftImm_rori (h : bits imm 7 6 = 3) : shiftImm a imm = a.rotateRight (bits imm 5 0) := by simp only [shiftImm, h]

end Shifts

section Runs
variable {e : EngIx} {o : Nat} {v : Order} {s : State} (hruns : engineRuns s e o v)
include hruns

theorem exec_shi_of_reserved_zero {imm : BitVec 16} (rd rs1 : XReg) (h : bits imm 15 8 = 0) : exec (.shi e rd rs1 imm) s
    = .next (setCore s e (advance (xset (eng s e.val).core rd (shiftImm (xget (eng s e.val).core rs1) imm)) 1)) :=
  (if_pos h).trans (aluX_of_engineRuns hruns rd fun c => shiftImm (xget c rs1) imm)

end Runs

/-- Settles O33: aluX at each value; SHI splits on its reserved field and then on the kind in bits 7 and 6. -/
theorem immediateInstructionsResults : Obligations.ImmediateInstructionsResults := by
  intro e o v s rd rs1 hw imm w hruns
  have put (f : Core → Word) := aluX_of_engineRuns hruns rd f
  refine ⟨put fun c => xget c rs1 + sext imm, put fun c => xget c rs1 &&& zext imm, put fun c => xget c rs1 ||| zext imm,
    put fun c => xget c rs1 ^^^ zext imm, fun hres => ?_, fun hres => if_neg hres, put fun _ => placeHalf hw imm,
    put fun c => keepHalf (xget c rd) hw imm,
    onEngine_of_engineRuns hruns fun _ _ g => go (setCore s e (advance (xset g.core rd (w.signExtend 64)) 2))⟩
  rw [exec_shi_of_reserved_zero hruns rd rs1 hres]
  exact ⟨fun h => by rw [shiftImm_slli _ h], fun h => by rw [shiftImm_srli _ h], fun h => by rw [shiftImm_srai _ h],
    fun h => by rw [shiftImm_rori _ h]⟩

end Machine
end Sys2Proof
end

section
/-! PROOF. The clocks and the doorframe instructions of supervisor code. -/

namespace Sys2Proof
namespace Machine

theorem dfwReason_of_invalid (g : Engine) (k : DoorKind) (ix : Nat) {d : Word} (h : bit d 63 = false) : dfwReason g k ix d = 0 := by
  simp [dfwReason, h]

theorem dfwReason_of_outside (g : Engine) (k : DoorKind) {ix : Nat} {d : Word} (hix : ix < 4 ∨ 11 < ix) (h : bit d 63 = true) :
    dfwReason g k ix d = 4 := by
  simp [dfwReason, h, hix]

section Runs
variable {e : EngIx} {o : Nat} {v : Order} {s : State} (hruns : engineRuns s e o v)
include hruns

theorem exec_dfr_of_supv (rd rs1 : XReg) (h : v.hdr.supv = true) : exec (.dfr e rd rs1) s
    = .next (setCore s e (advance (xset (eng s e.val).core rd
        (tget 0 (stagedOf (eng s e.val) (doorOf (bit (xget (eng s e.val).core rs1) 4))) (bits (xget (eng s e.val).core rs1) 3 0))) 1)) := by
  change execDfr e rd rs1 s = _
  exact onEngine_eq hruns (if_pos h)

theorem exec_dfr_of_not_supv (rd rs1 : XReg) (h : v.hdr.supv = false) : exec (.dfr e rd rs1) s = .refused .refusedByLoader := by
  change execDfr e rd rs1 s = _
  exact onEngine_eq hruns (if_neg (Bool.eq_false_iff.mp h))

theorem exec_dfw_of_supv (rd rs1 : XReg) (k : DoorKind) (ix : Fin 16) (h : v.hdr.supv = true) : exec (.dfw e rd rs1 k ix) s
    = .next (setCore (if dfwReason (eng s e.val) k ix.val (xget (eng s e.val).core rs1) = 0
          then setEng s e.val (stageSupv (eng s e.val) k ix.val (xget (eng s e.val).core rs1))
          else doorRefused s (roomOf e.val) (e.val % 8) ix.val (dfwReason (eng s e.val) k ix.val (xget (eng s e.val).core rs1)) false) e
        (advance (xset (eng s e.val).core rd
          (BitVec.ofNat 64 (dfwReason (eng s e.val) k ix.val (xget (eng s e.val).core rs1)))) 1)) := by
  change execDfw e rd rs1 k ix s = _
  exact onEngine_eq hruns (if_pos h)

theorem exec_dfw_of_not_supv (rd rs1 : XReg) (k : DoorKind) (ix : Fin 16) (h : v.hdr.supv = false) :
    exec (.dfw e rd rs1 k ix) s = .refused .refusedByLoader := by
  change execDfw e rd rs1 k ix s = _
  exact onEngine_eq hruns (if_neg (Bool.eq_false_iff.mp h))

end Runs

/-- Settles O38: the clock reads are one equation each; DFR and DFW split on HDR.SUPV, and DFW on its reason. -/
theorem timeAndDoorframeInstructions : Obligations.TimeAndDoorframeInstructions := by
  intro e o v s rd rs1 k ix hruns
  refine ⟨aluX_of_engineRuns hruns rd fun _ => tbNow s, aluX_of_engineRuns hruns rd fun _ => s.tb.run,
    onEngine_of_engineRuns hruns fun _ v g => go (setCore s e (advance (xset g.core rd (BitVec.ofNat 64 v.deadline)) 1)),
    onEngine_of_engineRuns hruns fun _ v g =>
      go (setCore s e (advance (xset g.core rd (BitVec.ofNat 64 (phaseEnd v - runNow s))) 1)),
    fun hsupv => ⟨exec_dfr_of_supv hruns rd rs1 hsupv, fun hwhy => ?_, fun hwhy => ?_⟩,
    fun huser => ⟨exec_dfr_of_not_supv hruns rd rs1 huser, exec_dfw_of_not_supv hruns rd rs1 k ix huser⟩,
    dfwReason_of_invalid _ k ix.val, dfwReason_of_outside _ k⟩
  · rw [exec_dfw_of_supv hruns rd rs1 k ix hsupv, if_pos hwhy, hwhy]
    rfl
  · rw [exec_dfw_of_supv hruns rd rs1 k ix hsupv, if_neg hwhy]
    rfl

end Machine
end Sys2Proof
end

section
/-! PROOF. Control flow: branches, jumps, calls and loops. -/

namespace Sys2Proof
namespace Machine

section Runs
variable {e : EngIx} {o : Nat} {v : Order} {s : State} (hruns : engineRuns s e o v)
include hruns

theorem branchIf_of_taken {off : BitVec 16} {p : Core → Bool} (hoff : off ≠ 0) (h : p (eng s e.val).core = true) : branchIf e s off p
    = .next (setCore s e (jumpTo (eng s e.val).core ((eng s e.val).core.pc + off.toNat))) := by
  simp only [branchIf, if_neg hoff, onEngine_of_engineRuns hruns, h, if_true, go]

theorem branchIf_of_not_taken {off : BitVec 16} {p : Core → Bool} (hoff : off ≠ 0) (h : p (eng s e.val).core = false) :
    branchIf e s off p = .next (setCore s e (advance (eng s e.val).core 1)) := by
  simp only [branchIf, if_neg hoff, onEngine_of_engineRuns hruns, h, Bool.false_eq_true, if_false, go]

/-- A branch whose test decides a proposition is taken exactly when it holds. -/
theorem branchIf_of_test {off : BitVec 16} {p : Core → Bool} {q : Prop} (hoff : off ≠ 0) (hp : p (eng s e.val).core = true ↔ q) :
    (q → branchIf e s off p = .next (setCore s e (jumpTo (eng s e.val).core ((eng s e.val).core.pc + off.toNat))))
    ∧ (¬ q → branchIf e s off p = .next (setCore s e (advance (eng s e.val).core 1))) :=
  ⟨fun h => branchIf_of_taken hruns hoff (hp.mpr h), fun h => branchIf_of_not_taken hruns hoff (Bool.eq_false_iff.mpr (mt hp.mp h))⟩

theorem exec_j_of_later {t : BitVec 26} (h : (eng s e.val).core.pc < t.toNat) (ht : t.toNat < 1024) :
    exec (.j e t) s = .next (setCore s e (jumpTo (eng s e.val).core t.toNat)) := by
  change execJ e t s = _
  exact onEngine_eq hruns (if_pos ⟨h, ht⟩)

theorem exec_call_of_room {t : BitVec 26} (h : (eng s e.val).core.rets.length < 8) (ht : t.toNat < 1024) : exec (.call e t) s
    = .next (setCore s e (jumpTo { (eng s e.val).core with rets := ((eng s e.val).core.pc + 1) :: (eng s e.val).core.rets } t.toNat)) := by
  change execCall e t s = _
  exact onEngine_eq hruns (if_pos ⟨h, ht⟩)

theorem exec_ret_of_pushed {t : Nat} {rest : List Nat} (h : (eng s e.val).core.rets = t :: rest) :
    exec (.ret e) s = .next (setCore s e (jumpTo { (eng s e.val).core with rets := rest } t)) := by
  change execRet e s = _
  simp only [execRet, onEngine_of_engineRuns hruns, h, go]

theorem exec_loop_of_fits {rs : XReg} {body : BitVec 12} {count : BitVec 16} (hdepth : (eng s e.val).core.loops.length < 4)
    (hlast : (eng s e.val).core.pc + body.toNat + 1 < 1024) : exec (.loop e rs body count) s
    = (let c := (eng s e.val).core
       let n := if rs = 0 then count.toNat else min (xget c rs).toNat count.toNat
       let last := c.pc + body.toNat + 1
       if n = 0 then go (setCore s e (afterBundle c last))
       else go (setCore s e (jumpTo { c with loops := ⟨c.pc + 1, last, n⟩ :: c.loops } (c.pc + 1)))) := by
  change execLoop e rs body count s = _
  exact onEngine_eq hruns (if_neg (not_or.mpr ⟨not_le.mpr hdepth, not_le.mpr hlast⟩))

end Runs

theorem exec_beq_zero (e : EngIx) (s : State) (rs1 rs2 : XReg) : exec (.beq e rs1 rs2 0) s = .refused .refusedByLoader := by
  change branchIf e s 0 (fun c => xget c rs1 == xget c rs2) = _
  exact if_pos rfl

theorem loopNext_last (f : LoopFrame) (r : List LoopFrame) :
    loopNext (f :: r) f.last = if 1 < f.left then ({ f with left := f.left - 1 } :: r, f.start) else loopNext r f.last := by
  simp [loopNext]

theorem loopNext_inside {f : LoopFrame} (r : List LoopFrame) {pc : Nat} (h : f.last ≠ pc) : loopNext (f :: r) pc = (f :: r, pc + 1) := by
  simp [loopNext, h]

/-- Settles O39: a branch is decided by its comparison, read as a proposition; the other forms by their room. -/
theorem controlFlow : Obligations.ControlFlow := by
  intro e o v s rs1 rs2 hruns
  refine ⟨fun off hoff => ?_, exec_beq_zero e s rs1 rs2, fun t => exec_j_of_later hruns, fun t => exec_call_of_room hruns,
    fun t rest => exec_ret_of_pushed hruns, fun body count n hdepth hlast hn => ?_, loopNext_last, fun f r pc => loopNext_inside r⟩
  · have test {p : Core → Bool} {q : Prop} (hp : p (eng s e.val).core = true ↔ q) := branchIf_of_test hruns hoff hp
    have hbeq := test (p := fun c => xget c rs1 == xget c rs2) beq_iff_eq
    have hbne := test (p := fun c => xget c rs1 != xget c rs2) bne_iff_ne
    have hblt := test (p := fun c => (xget c rs1).slt (xget c rs2)) decide_eq_true_iff
    have hbge := test (p := fun c => !(xget c rs1).slt (xget c rs2)) (by simp only [BitVec.slt, Bool.not_eq_true', decide_eq_false_iff_not]; exact not_lt)
    have hbltu := test (p := fun c => (xget c rs1).ult (xget c rs2)) decide_eq_true_iff
    have hbgeu := test (p := fun c => !(xget c rs1).ult (xget c rs2)) (by simp only [BitVec.ult, Bool.not_eq_true', decide_eq_false_iff_not]; exact not_lt)
    exact ⟨hbeq.1, hbeq.2, hbne.1, hbne.2, hblt.1, hblt.2, hbge.1, hbge.2, hbltu.1, hbltu.2, hbgeu.1, hbgeu.2⟩
  · subst hn
    rw [exec_loop_of_fits hruns hdepth hlast]
    exact ⟨fun h => if_neg h, fun h => if_pos h⟩

end Machine
end Sys2Proof
end

section
/-! PROOF. Global instructions, posted stores, transfers and fences. -/

namespace Sys2Proof
namespace Machine

section Global
variable {e : EngIx} {o : Nat} {v : Order} {s : State} (hruns : engineRuns s e o v)
include hruns

theorem exec_ldg_of_denied {rd rs1 : XReg} {imm : BitVec 16}
    (h : lsGrants (eng s e.val) v (globalAddr (eng s e.val).core rs1 imm 8) false = false) : exec (.ldg e rd rs1 imm) s
    = .next (doorFault s e.val o v (globalAddr (eng s e.val).core rs1 imm 8) 1 false) := by
  change execLdg e rd rs1 imm s = _
  exact onEngine_eq hruns (if_neg (Bool.eq_false_iff.mp h))

theorem exec_ldg_of_posted {rd rs1 : XReg} {imm : BitVec 16} {p : Nat × Word × Option BnIx}
    (h : lsGrants (eng s e.val) v (globalAddr (eng s e.val).core rs1 imm 8) false = true)
    (hp : ((eng s e.val).stg.reverse.find? fun q => q.1 == globalAddr (eng s e.val).core rs1 imm 8) = some p) :
    exec (.ldg e rd rs1 imm) s = .next (setCore s e (advance (xset (eng s e.val).core rd p.2.1) 1)) := by
  change execLdg e rd rs1 imm s = _
  refine onEngine_eq hruns ((if_pos h).trans ?_)
  simp only [hp, go]

theorem exec_ldg_of_not_posted {rd rs1 : XReg} {imm : BitVec 16}
    (h : lsGrants (eng s e.val) v (globalAddr (eng s e.val).core rs1 imm 8) false = true)
    (hp : ((eng s e.val).stg.reverse.find? fun q => q.1 == globalAddr (eng s e.val).core rs1 imm 8) = none) :
    exec (.ldg e rd rs1 imm) s
    = (let r := globalRead s v (globalAddr (eng s e.val).core rs1 imm 8)
       .next (setCore r.2 e (advance (xset (eng s e.val).core rd (BitVec.ofNat 64 r.1)) 1))) := by
  change execLdg e rd rs1 imm s = _
  refine onEngine_eq hruns ((if_pos h).trans ?_)
  simp only [hp, go]

theorem exec_stg_of_denied {rs rs1 : XReg} {imm : BitVec 16}
    (h : lsGrants (eng s e.val) v (globalAddr (eng s e.val).core rs1 imm 8) true = false) : exec (.stg e rs rs1 imm) s
    = .next (doorFault s e.val o v (globalAddr (eng s e.val).core rs1 imm 8) 1 true) := by
  change execStg e rs rs1 imm s = _
  exact onEngine_eq hruns (if_neg (Bool.eq_false_iff.mp h))

theorem exec_stg_of_room {rs rs1 : XReg} {imm : BitVec 16}
    (h : lsGrants (eng s e.val) v (globalAddr (eng s e.val).core rs1 imm 8) true = true) (hroom : (eng s e.val).stg.length < 8) :
    exec (.stg e rs rs1 imm) s
    = (let g := eng s e.val
       .next (setEng s e.val { g with core := advance g.core 1, stg := g.stg ++ [(globalAddr g.core rs1 imm 8, xget g.core rs, areaOf v)] })) := by
  change execStg e rs rs1 imm s = _
  exact onEngine_eq hruns ((if_pos h).trans (if_neg (not_le.mpr hroom)))

theorem exec_stg_of_full {rs rs1 : XReg} {imm : BitVec 16}
    (h : lsGrants (eng s e.val) v (globalAddr (eng s e.val).core rs1 imm 8) true = true) (hfull : 8 ≤ (eng s e.val).stg.length) :
    exec (.stg e rs rs1 imm) s = .next s := by
  change execStg e rs rs1 imm s = _
  exact onEngine_eq hruns ((if_pos h).trans (if_pos hfull))

theorem exec_ldgl_of_granted {m : Fin 4} {rs1 : XReg} {imm : BitVec 16}
    (h : lsGrants (eng s e.val) v (globalAddr (eng s e.val).core rs1 imm 64) false = true) : exec (.ldgl e m rs1 imm) s
    = (let r := globalRead64 (drainStg s e) v (globalAddr (eng s e.val).core rs1 imm 64) 8
       .next (setCore r.2 e (advance (loadQuad (eng s e.val).core m r.1) 1))) := by
  change execLdgl e m rs1 imm s = _
  exact onEngine_eq hruns (if_pos h)

theorem exec_ldgl_of_denied {m : Fin 4} {rs1 : XReg} {imm : BitVec 16}
    (h : lsGrants (eng s e.val) v (globalAddr (eng s e.val).core rs1 imm 64) false = false) : exec (.ldgl e m rs1 imm) s
    = .next (doorFault s e.val o v (globalAddr (eng s e.val).core rs1 imm 64) 1 false) := by
  change execLdgl e m rs1 imm s = _
  exact onEngine_eq hruns (if_neg (Bool.eq_false_iff.mp h))

theorem exec_stgl_of_granted {m : Fin 4} {rs1 : XReg} {imm : BitVec 16}
    (h : lsGrants (eng s e.val) v (globalAddr (eng s e.val).core rs1 imm 64) true = true) : exec (.stgl e m rs1 imm) s
    = (let a := globalAddr (eng s e.val).core rs1 imm 64
       let x := (List.range 4).foldl (storedBlock (eng s e.val).core m) (0, drainStg s e)
       .next (setCore ((List.range 8).foldl (fun s i => globalWrite s (e.val / 8) (areaOf v) (a + 8 * i)
         (BitVec.ofNat 64 (bytesOf x.1 (8 * i) 8))) x.2) e (advance (eng s e.val).core 1))) := by
  change execStgl e m rs1 imm s = _
  exact onEngine_eq hruns (if_pos h)

theorem exec_stgl_of_denied {m : Fin 4} {rs1 : XReg} {imm : BitVec 16}
    (h : lsGrants (eng s e.val) v (globalAddr (eng s e.val).core rs1 imm 64) true = false) : exec (.stgl e m rs1 imm) s
    = .next (doorFault s e.val o v (globalAddr (eng s e.val).core rs1 imm 64) 1 true) := by
  change execStgl e m rs1 imm s = _
  exact onEngine_eq hruns (if_neg (Bool.eq_false_iff.mp h))

end Global

section Acknowledged
variable {e : EngIx} {s : State}

theorem exec_stgAcknowledged_of_posted {a : Nat} {w : Word} {area : Option BnIx} {rest : List (Nat × Word × Option BnIx)}
    (h : (eng s e.val).stg = (a, w, area) :: rest) : exec (.stgAcknowledged e) s
    = .next (globalWrite (setEng s e.val { eng s e.val with stg := rest }) (e.val / 8) area a w) := by
  change execStgAcknowledged e s = _
  simp only [execStgAcknowledged, h, go, roomOf]

theorem exec_stgAcknowledged_of_none (h : (eng s e.val).stg = []) : exec (.stgAcknowledged e) s = .next s := by
  change execStgAcknowledged e s = _
  simp only [execStgAcknowledged, h, go]

end Acknowledged

/-- Settles O36: each global instruction splits on the doorframe's grant, LDG on the posted writes and STG on their number. -/
theorem globalLoadsAndPostedStores : Obligations.GlobalLoadsAndPostedStores := by
  refine ⟨fun c r imm n => rfl, fun e o v s rd rs rs1 m imm hruns => ?_⟩
  exact ⟨fun h => ⟨fun p hp => exec_ldg_of_posted hruns h hp, fun hp => exec_ldg_of_not_posted hruns h hp⟩,
    fun h => ⟨exec_stg_of_room hruns h, exec_stg_of_full hruns h⟩,
    exec_ldgl_of_granted hruns, exec_stgl_of_granted hruns, exec_ldg_of_denied hruns, exec_stg_of_denied hruns,
    exec_ldgl_of_denied hruns, exec_stgl_of_denied hruns, fun a w area rest => exec_stgAcknowledged_of_posted,
    exec_stgAcknowledged_of_none⟩

/-! ## Transfers -/

/-- The transfer that a DMA issue names. -/
def issued (c : Core) (rf ra rl : XReg) (lmaxM1 : BitVec 10) (toFrame : Bool) : Dma :=
  { toFrame := toFrame
    off := (xget c rf).toNat / 8 * 8
    addr := (xget c ra).toNat / 8 * 8
    len := ceilDiv (min (xget c rl).toNat (lmaxM1.toNat + 1)) 8 * 8 }

/-- The state with a transfer at the end of its frame's list; one of no bytes is none. -/
def withTransfer (s : State) (k : Nat) (t : Dma) : State :=
  if t.len = 0 then s else { s with rooms := { s.rooms with dma := tput [] s.rooms.dma k (tget [] s.rooms.dma k ++ [t]) } }

section Transfers
variable {e : EngIx} {o : Nat} {v : Order} {s : State} {rf ra rl : XReg} {lmaxM1 : BitVec 10} {toFrame : Bool} {t : Dma}
  (hruns : engineRuns s e o v) (ht : t = issued (eng s e.val).core rf ra rl lmaxM1 toFrame)
include hruns

theorem dmaIssue_of_full (h : 4 ≤ (tget [] s.rooms.dma (frameOf v)).length) : dmaIssue e rf ra rl lmaxM1 toFrame s = .next s :=
  onEngine_eq hruns (if_pos h)

include ht

theorem dmaIssue_of_past_end (h : (tget [] s.rooms.dma (frameOf v)).length < 4) (hlen : t.len ≠ 0) (hend : 1024 < t.off + t.len) :
    dmaIssue e rf ra rl lmaxM1 toFrame s = .next (doorFault s e.val o v t.addr 2 (!toFrame)) := by
  subst ht
  exact onEngine_eq hruns ((if_neg (not_le.mpr h)).trans (if_pos ⟨hlen, hend⟩))

theorem dmaIssue_of_granted (h : (tget [] s.rooms.dma (frameOf v)).length < 4) (hend : t.len = 0 ∨ t.off + t.len ≤ 1024)
    (hgrant : ∀ p ∈ pieces t.addr t.len, doorGrants (eng s e.val).dmaAct v.hdr.supv p (!toFrame) true = true) :
    dmaIssue e rf ra rl lmaxM1 toFrame s = .next (setCore (withTransfer s (frameOf v) t) e (advance (eng s e.val).core 1)) := by
  have hnone : ((pieces t.addr t.len).find? fun p => !doorGrants (eng s e.val).dmaAct (inSupv v) p (!toFrame) true) = none :=
    List.find?_eq_none.mpr fun p hp => by simp [inSupv, hgrant p hp]
  subst ht
  refine onEngine_eq hruns ((if_neg (not_le.mpr h)).trans ((if_neg fun hpast => ?_).trans ?_))
  · exact hend.elim hpast.1 (not_le.mpr hpast.2)
  · simp only [issued] at hnone
    simp only [hnone, go, withTransfer, issued]
    rfl

end Transfers

section Fences
variable {e : EngIx} {o : Nat} {v : Order} {s : State} (hruns : engineRuns s e o v)
include hruns

theorem exec_dmawait_of_engineRuns : exec (.dmawait e) s = waitFor s e (eng s e.val).core (dmaIdle s v) := by
  change execDmawait e s = _
  exact onEngine_eq hruns rfl

theorem exec_fenceM_of_engineRuns :
    exec (.fenceM e) s = waitFor s e (eng s e.val).core (dmaIdle s v && (eng s e.val).stg.isEmpty) := by
  change execFenceM e s = _
  exact onEngine_eq hruns rfl

theorem exec_fenceD_of_engineRuns : exec (.fenceD e) s
    = (let g := eng s e.val
       .next (setEng s e.val { g with
         core := advance g.core 1, lsAct := applySupv g.lsAct g.lsStg, dmaAct := applySupv g.dmaAct g.dmaStg })) := by
  change execFenceD e s = _
  exact onEngine_eq hruns rfl

end Fences

theorem waitFor_true (s : State) (e : EngIx) (c : Core) : waitFor s e c true = .next (setCore s e (advance c 1)) := rfl
theorem waitFor_false (s : State) (e : EngIx) (c : Core) : waitFor s e c false = .next (setCore s e { c with waits := true }) := rfl

section Done
variable {o : Nat} {v : Order} {s : State} {r : Room} {fr : Fin 128} {t : Dma} {rest : List Dma}

theorem exec_dmaTransferDone_of_oldest (ecc : Ecc) (hdma : tget [] s.rooms.dma (frameKey r.val fr.val) = t :: rest)
    (hframe : tfind s.rooms.frames (frameKey r.val fr.val) = some o) (horder : order? s o = some v) : exec (.dmaTransferDone r fr ecc) s
    = .next (if inputMissing v t then s else dmaRun s (frameKey r.val fr.val) o v t rest ecc) := by
  change execDmaTransferDone r fr ecc s = _
  simp only [execDmaTransferDone, hdma, hframe, horder]
  cases inputMissing v t <;> rfl

end Done

/-- Settles O37: an issue splits on the frame's list, the range and the pieces; the waits on what is still outstanding. -/
theorem dmaTransfersAndFences : Obligations.DmaTransfersAndFences := by
  intro e o v s rf ra rl lmaxM1 hruns
  have past (toFrame : Bool) := dmaIssue_of_past_end (lmaxM1 := lmaxM1) (rf := rf) (ra := ra) (rl := rl) (toFrame := toFrame) hruns rfl
  have granted (toFrame : Bool) := dmaIssue_of_granted (lmaxM1 := lmaxM1) (rf := rf) (ra := ra) (rl := rl) (toFrame := toFrame) hruns rfl
  refine ⟨⟨fun h => ⟨dmaIssue_of_full hruns h, dmaIssue_of_full hruns h⟩,
    fun h hlen hend => ⟨past true h hlen hend, past false h hlen hend⟩,
    fun h hend => ⟨granted true h hend, granted false h hend⟩,
    fun h => ?_, fun h => ?_, fun h => ?_, fun h hstg => ?_, exec_fenceD_of_engineRuns hruns⟩,
    fun r fr ecc t rest hdma hframe => exec_dmaTransferDone_of_oldest ecc hdma hframe hruns.2.1⟩
  · rw [exec_dmawait_of_engineRuns hruns, dmaIdle, h]
    exact waitFor_true s e _
  · rw [exec_dmawait_of_engineRuns hruns, dmaIdle, List.isEmpty_eq_false_iff.mpr h, waitFor_false]
  · have hbusy : (dmaIdle s v && (eng s e.val).stg.isEmpty) = false := by
      rcases h with h | h <;> simp [dmaIdle, h]
    rw [exec_fenceM_of_engineRuns hruns, hbusy, waitFor_false]
  · rw [exec_fenceM_of_engineRuns hruns, dmaIdle, h, hstg]
    exact waitFor_true s e _

end Machine
end Sys2Proof
end

section
/-! PROOF. The ends of a routine: EXIT, YIELD, and what a fixed outcome leaves. -/

namespace Sys2Proof
namespace Machine

/-! ## EXIT -/

/-- The ten codes of R144 name their statuses, and EXIT takes each of them. -/
theorem stOfCode_of_exit_code {n : Nat} {st : Status}
    (h : (n, st) ∈ [(0x00, Status.done), (0x01, .authFail), (0x05, .policy), (0x06, .noKey), (0x0A, .malformed), (0x0C, .quorum),
      (0x0D, .timeUntrusted), (0x0E, .rejectLimit), (0x0F, .guardOverflow), (0x11, .quota)]) :
    stOfCode n = some st ∧ exitOk st = true :=
  (by decide : ∀ p ∈ [(0x00, Status.done), (0x01, .authFail), (0x05, .policy), (0x06, .noKey), (0x0A, .malformed), (0x0C, .quorum),
      (0x0D, .timeUntrusted), (0x0E, .rejectLimit), (0x0F, .guardOverflow), (0x11, .quota)],
    stOfCode p.1 = some p.2 ∧ exitOk p.2 = true) (n, st) h

theorem withArgs_goes_on (s : State) (o : Nat) (v : Order) (second : Bool) {f : Result} (h : ∃ t, f = .next t) :
    ∃ t, withArgs s o v second f = .next t := by
  unfold withArgs
  split_ifs
  · exact h
  · exact ⟨s, rfl⟩
  · exact h
  · exact ⟨_, rfl⟩

section ExitWith
variable (o : Nat) {s : State} {v : Order} {g : Engine} (st : Status) (w : Word)

theorem exitWith_goes_on (s : State) (v : Order) (g : Engine) : ∃ t, exitWith s o v g st w = .next t := by
  unfold exitWith
  split_ifs
  · exact ⟨_, rfl⟩
  · exact ⟨_, rfl⟩
  · exact withArgs_goes_on s o v g.second ⟨_, rfl⟩
  · exact withArgs_goes_on s o v g.second ⟨s, rfl⟩

theorem exitWith_of_image (h : shipped s v = false) : exitWith s o v g st w = go (endOrder s o st (exitInline st w)) := by
  simp only [exitWith, h, Bool.not_false, if_true]

theorem exitWith_of_handed_over (h : shipped s v = true) (hsecond : g.second = true) (hoff : libHandsOff v.routine = true) :
    exitWith s o v g st w = go (exitOutcome s o (tget 0 g.core.x 16)) := by
  simp only [exitWith, h, hsecond, hoff, Bool.not_true, Bool.false_eq_true, if_false, Bool.and_true, if_true]

theorem exitWith_of_table (h : shipped s v = true) (hoff : libHandsOff v.routine = false) (hpast : pastArgs s v g.second)
    (hst : (libExits v.routine).contains st = true) : exitWith s o v g st w = go (endOrder s o st (libInline v.routine st w)) := by
  simp only [exitWith, h, hoff, hst, withArgs_past hpast, Bool.not_true, Bool.false_eq_true, if_false, Bool.and_false, if_true]

end ExitWith

theorem exec_exit_of_engineRuns {e : EngIx} {o : Nat} {v : Order} {s : State} {code : BitVec 16} {st : Status} (rs : XReg)
    (hruns : engineRuns s e o v) (hcode : stOfCode code.toNat = some st) (hok : exitOk st = true) : exec (.exit e code rs) s
    = exitWith s o v (eng s e.val) st (xget (eng s e.val).core rs) := by
  change execExit e code rs s = _
  refine onEngine_eq hruns ?_
  simp only [hcode, hok, if_true]

/-! ## YIELD -/

section Yield
variable {e : EngIx} {o : Nat} {v : Order} {s : State} (target : BitVec 26) (hruns : engineRuns s e o v)
  (hfirst : (eng s e.val).second = false) (hlen : v.hdr.bnLen ≠ 0) (hhand : handOk s v = true) (hpast : pastArgs s v false)
include hruns hfirst hlen hhand hpast

theorem exec_yield_of_past : exec (.yield e target) s
    = (if v.hand.ins.any (fun i => !i.window && frameRangeOk i && poisoned s 0 (ioWords (frameOf v) i)) then
         go (endOrder s o .poison 0)
       else
         let v1 := { v with hand := { copyFrame s (frameOf v) v.hand with eng := e.val }, carry := carried (eng s e.val).core,
                            yieldPc := target.toNat % 1024, phase := .bnQueued }
         go (queueBn (setOrder (leaveRoom s v) o v1) o v.bnEng)) := by
  have hgo : ((eng s e.val).second || v.hdr.bnLen == 0 || !handOk s v) = false := by simp [hfirst, hlen, hhand]
  change execYield e target s = _
  exact onEngine_eq hruns ((if_neg (Bool.eq_false_iff.mp hgo)).trans (withArgs_past hpast))

end Yield

theorem leaveRoom_of_running {v : Order} {e : EngIx} {second : Bool} (s : State) (h : v.phase = .running e second) :
    leaveRoom s v = freeFrame (idleEngine s e.val) (frameOf v) := by
  simp only [leaveRoom, h, frameOf]

/-- A fixed outcome ends the order's record; staged output stays for DONE alone. -/
theorem order_endOrder_same {s : State} {o : Nat} {v : Order} (h : order? s o = some v) (st : Status) (inl : Word) :
    order? (endOrder s o st inl) o
    = some { v with phase := .ended, outcome := some (st, inl), ctx := v.ctx && st == .done, staged := if st = .done then v.staged else [] } := by
  simp only [endOrder, h]
  exact tfind_tins_same _ _ _

/-- Settles O40: EXIT splits as R144 and R247 do; YIELD past its checks on the operands' words; the end is endOrder's record. -/
theorem routineEndsAndHandOffs : Obligations.RoutineEndsAndHandOffs := by
  intro e o v s hruns
  refine ⟨fun code rs st hcode => ?_, fun target hfirst hlen hhand hpast => ?_, fun second => leaveRoom_of_running s, rfl,
    order_endOrder_same hruns.2.1⟩
  · obtain ⟨hst, hok⟩ := stOfCode_of_exit_code hcode
    rw [exec_exit_of_engineRuns rs hruns hst hok]
    exact ⟨exitWith_goes_on o st _ s v _, exitWith_of_image o st _, exitWith_of_handed_over o st _,
      fun hship hoff hargs hrsa => exitWith_of_table o st _ hship hoff (.inr (.inr ⟨hargs, fun h => hrsa h.1⟩))⟩
  · rw [exec_yield_of_past target hruns hfirst hlen hhand hpast]
    exact ⟨fun hclean => if_neg (Bool.eq_false_iff.mp hclean), fun hpoison => if_pos hpoison⟩

end Machine
end Sys2Proof
end

section
/-! PROOF. Key registers: KEYLOAD, KEYCLR, KEYINFO and KEYPUT. -/

namespace Sys2Proof
namespace Machine

section KeyLoad
variable {e : EngIx} {o : Nat} {v : Order} {s : State} (k : KReg) {rs : XReg} {use : Fin 8} {part : PartSel} {rd0 rdP : CellarRead}
  (hruns : engineRuns s e o v) (hpast : pastArgs s v (eng s e.val).second)
include hruns hpast

theorem exec_keyload_of_foreign (h : mayNameKey v (xget (eng s e.val).core rs) = false) : exec (.keyload e k rs use part rd0 rdP) s
    = .next (endOrder (countSpoof s v.slice.val) o .spoof 0) := by
  change execKeyload e k rs use part rd0 rdP s = _
  exact onEngine_eq hruns ((withArgs_past hpast).trans (if_pos (by simp only [h, Bool.not_false])))

variable (h : mayNameKey v (xget (eng s e.val).core rs) = true)
include h

theorem exec_keyload_of_no_keyUse (huse : s.tp.keyUse = false) :
    exec (.keyload e k rs use part rd0 rdP) s = .next (endOrder s o .locked 0) := by
  change execKeyload e k rs use part rd0 rdP s = _
  refine onEngine_eq hruns ((withArgs_past hpast).trans ((if_neg (by simp [h])).trans ?_))
  exact if_pos (by simp only [huse, Bool.not_false])

variable (huse : s.tp.keyUse = true) {s1 : State}
include huse

/-- Past the slice check and the permission, the key's checks decide. -/
theorem exec_keyload_of_checks : exec (.keyload e k rs use part rd0 rdP) s
    = (match keyChecks s (xget (eng s e.val).core rs) use.val (partOf (eng s e.val).core part) rd0 rdP with
       | (s1, .error st) => go (endOrder s1 o st 0)
       | (s1, .ok r) =>
         let t : KeyReg := ⟨r.mat, true, use.val, r.typ, partOf (eng s e.val).core part, r.matLen⟩
         let m := BitVec.ofNat 512 (portMask s1 v.slice (r.index + partOf (eng s e.val).core part))
         go (setEng s1 e.val { eng s1 e.val with core := advance (kset (eng s e.val).core k t) 1, portMask := m })) := by
  change execKeyload e k rs use part rd0 rdP s = _
  refine onEngine_eq hruns ((withArgs_past hpast).trans ((if_neg (by simp [h])).trans ((if_neg (by simp [huse])).trans ?_)))
  rfl

theorem exec_keyload_of_ok {r : Rec}
    (hok : keyChecks s (xget (eng s e.val).core rs) use.val (partOf (eng s e.val).core part) rd0 rdP = (s1, .ok r)) :
    exec (.keyload e k rs use part rd0 rdP) s
    = (let t : KeyReg := ⟨r.mat, true, use.val, r.typ, partOf (eng s e.val).core part, r.matLen⟩
       let m := BitVec.ofNat 512 (portMask s1 v.slice (r.index + partOf (eng s e.val).core part))
       .next (setEng s1 e.val { eng s1 e.val with core := advance (kset (eng s e.val).core k t) 1, portMask := m })) := by
  rw [exec_keyload_of_checks k hruns hpast h huse, hok]

theorem exec_keyload_of_error {st : Status}
    (herr : keyChecks s (xget (eng s e.val).core rs) use.val (partOf (eng s e.val).core part) rd0 rdP = (s1, .error st)) :
    exec (.keyload e k rs use part rd0 rdP) s = .next (endOrder s1 o st 0) := by
  rw [exec_keyload_of_checks k hruns hpast h huse, herr]

end KeyLoad

section KeyPut
variable {e : EngIx} {o : Nat} {v : Order} {s : State} (rd rs : XReg) (k : KReg) (rd0 : CellarRead) (pick : Nat)
  (hruns : engineRuns s e o v) (hsupv : v.hdr.supv = true)
include hruns hsupv

theorem exec_keyput_of_unsealed (h : pairSealed (eng s e.val).core k = false) :
    exec (.keyput e rd rs k rd0 pick) s = .next (endOrder s o .policy 0) := by
  change execKeyput e rd rs k rd0 pick s = _
  refine onEngine_eq hruns ((if_neg (by simp [hsupv])).trans ?_)
  exact if_pos (by simp only [h, Bool.not_false])

/-- With a sealed pair and a template that reads, the key store decides. -/
theorem exec_keyput_of_sealed {s1 : State} {x : Nat} (h : pairSealed (eng s e.val).core k = true)
    (hread : frameRead s o v (frameAddr (eng s e.val).core rs 0 64) 64 .ok = (s1, some x)) : exec (.keyput e rd rs k rd0 pick) s
    = (match keyStorePut s1 (originOf v) v.slice (tmplOf x) (pairKey (eng s e.val).core k) rd0 pick with
       | (s2, .error st) => go (endOrder s2 o st 0)
       | (s2, .ok hd) => go (setCore s2 e (advance (xset (eng s e.val).core rd hd) 1))) := by
  change execKeyput e rd rs k rd0 pick s = _
  refine onEngine_eq hruns ((if_neg (by simp [hsupv])).trans ((if_neg (by simp [h])).trans ?_))
  exact hread ▸ rfl

end KeyPut

/-- Settles O43: KEYLOAD splits on the slice, the permission and the key's checks, KEYPUT on the seal and the key store. -/
theorem keyRegisterInstructions : Obligations.KeyRegisterInstructions := by
  intro e o v s rd rs k hruns
  refine ⟨fun use part rd0 rdP hpast => ⟨exec_keyload_of_foreign k hruns hpast, exec_keyload_of_no_keyUse k hruns hpast,
      fun h huse => ⟨fun s1 r hok => exec_keyload_of_ok k hruns hpast h huse hok,
        fun s1 st herr => exec_keyload_of_error k hruns hpast h huse herr⟩⟩,
    onEngine_of_engineRuns hruns fun _ _ g => go (setCore s e (advance (kset g.core k {}) 1)),
    aluX_of_engineRuns hruns rd fun c => keyTag (kget c k),
    fun rd0 pick hsupv => ⟨exec_keyput_of_unsealed rd rs k rd0 pick hruns hsupv, fun s1 x h hread => ⟨fun s2 hd hput => ?_, fun s2 st hput => ?_⟩⟩⟩
  · rw [exec_keyput_of_sealed rd rs k rd0 pick hruns hsupv h hread, hput]
  · rw [exec_keyput_of_sealed rd rs k rd0 pick hruns hsupv h hread, hput]

end Machine
end Sys2Proof
end

section
/-! PROOF. Block registers: the shared shapes of the cipher unit, the multiplier and the block operations. -/

namespace Sys2Proof
namespace Machine

theorem quadOk_iff (q : Bool) (r : BReg) : quadOk q r = true ↔ (q = false ∨ r.val % 4 = 0) := by
  simp [quadOk]

theorem quadOk_false (r : BReg) : quadOk false r = true := rfl

theorem sealed_of_one (c : Core) (r : BReg) : [r].any (sealedB c) = sealedB c r := by simp
theorem sealed_of_two (c : Core) (r q : BReg) : [r, q].any (sealedB c) = (sealedB c r || sealedB c q) := by simp
theorem sealed_of_three (c : Core) (r q p : BReg) : [r, q, p].any (sealedB c) = (sealedB c r || (sealedB c q || sealedB c p)) := by simp
theorem anySealed_one (r : BReg) : anySealed [r] = fun c i => sealedB c (bplus r i) := by
  funext c i
  simp [anySealed]
theorem anySealed_two (r q : BReg) : anySealed [r, q] = fun c i => sealedB c (bplus r i) || sealedB c (bplus q i) := by
  funext c i
  simp [anySealed]

section Runs
variable {e : EngIx} {o : Nat} {v : Order} {s : State} (hruns : engineRuns s e o v)
include hruns

theorem alu_of_engineRuns (f : Core → Core) : alu e s f = .next (setCore s e (advance (f (eng s e.val).core) 1)) :=
  onEngine_eq hruns rfl

theorem blockOp_of_engineRuns (bd : BReg) (reads : List BReg) (f : Core → Block) : blockOp e bd reads s f
    = .next (setCore s e (advance (bset (eng s e.val).core bd (f (eng s e.val).core) (reads.any (sealedB (eng s e.val).core))) 1)) :=
  alu_of_engineRuns hruns fun c => bset c bd (f c) (reads.any (sealedB c))

theorem blockOp_one (bd r : BReg) (f : Core → Block) : blockOp e bd [r] s f
    = .next (setCore s e (advance (bset (eng s e.val).core bd (f (eng s e.val).core) (sealedB (eng s e.val).core r)) 1)) := by
  rw [blockOp_of_engineRuns hruns, sealed_of_one]

theorem blockOp_two (bd r q : BReg) (f : Core → Block) : blockOp e bd [r, q] s f
    = .next (setCore s e (advance (bset (eng s e.val).core bd (f (eng s e.val).core)
        (sealedB (eng s e.val).core r || sealedB (eng s e.val).core q)) 1)) := by
  rw [blockOp_of_engineRuns hruns, sealed_of_two]

theorem quadOp_of_aligned {bd : BReg} {reads : List BReg} {q : Bool} (f : Core → Nat → Block) (sl : Core → Nat → Bool)
    (hbd : q = false ∨ bd.val % 4 = 0) (hreads : ∀ r ∈ reads, q = false ∨ r.val % 4 = 0) : quadOp e bd reads q s f sl
    = .next (setCore s e (advance ((quadIx q).foldl (fun d i => bset d (bplus bd i) (f (eng s e.val).core i) (sl (eng s e.val).core i))
        (eng s e.val).core) 1)) := by
  have hok : (quadOk q bd && reads.all (quadOk q)) = true := by
    rw [Bool.and_eq_true, List.all_eq_true]
    exact ⟨(quadOk_iff q bd).mpr hbd, fun r hr => (quadOk_iff q r).mpr (hreads r hr)⟩
  refine (if_neg (by simp only [hok]; decide)).trans ?_
  exact alu_of_engineRuns hruns fun c => (quadIx q).foldl (fun d i => bset d (bplus bd i) (f c i) (sl c i)) c

theorem quadOp_one {bd r : BReg} {q : Bool} (f : Core → Nat → Block) (hbd : q = false ∨ bd.val % 4 = 0)
    (hr : q = false ∨ r.val % 4 = 0) : quadOp e bd [r] q s f (anySealed [r])
    = .next (setCore s e (advance ((quadIx q).foldl (fun d i => bset d (bplus bd i) (f (eng s e.val).core i)
        (sealedB (eng s e.val).core (bplus r i))) (eng s e.val).core) 1)) := by
  rw [quadOp_of_aligned hruns f _ hbd (by simpa using hr), anySealed_one]

theorem quadOp_two {bd r p : BReg} {q : Bool} (f : Core → Nat → Block) (hbd : q = false ∨ bd.val % 4 = 0)
    (hr : q = false ∨ r.val % 4 = 0) (hp : q = false ∨ p.val % 4 = 0) : quadOp e bd [r, p] q s f (anySealed [r, p])
    = .next (setCore s e (advance ((quadIx q).foldl (fun d i => bset d (bplus bd i) (f (eng s e.val).core i)
        (sealedB (eng s e.val).core (bplus r i) || sealedB (eng s e.val).core (bplus p i))) (eng s e.val).core) 1)) := by
  rw [quadOp_of_aligned hruns f _ hbd (by simpa using ⟨hr, hp⟩), anySealed_two]

end Runs

/-! ## AES -/

section Cipher
variable {e : EngIx} {o : Nat} {v : Order} {s : State} {bd bs : BReg} {k : KReg} {s0 q inv : Bool} {src : AesKey}

theorem quads_ok (hquads : q = false ∨ (bd.val % 4 = 0 ∧ bs.val % 4 = 0)) : (quadOk q bd && quadOk q bs) = true := by
  rw [Bool.and_eq_true, quadOk_iff, quadOk_iff]
  exact ⟨hquads.imp_right And.left, hquads.imp_right And.right⟩

theorem aesOp_of_unaligned (hquads : ¬ (q = false ∨ (bd.val % 4 = 0 ∧ bs.val % 4 = 0))) :
    aesOp e bd bs src s0 q inv s = .refused .refusedByLoader := by
  have hbad : (quadOk q bd && quadOk q bs) = false := by
    rw [Bool.eq_false_iff, ne_eq, Bool.and_eq_true, quadOk_iff, quadOk_iff]
    exact fun h => hquads (h.1.elim .inl fun hbd => h.2.imp_right fun hbs => ⟨hbd, hbs⟩)
  exact if_pos (by simp only [hbad, Bool.not_false])

variable (hruns : engineRuns s e o v) (hquads : q = false ∨ (bd.val % 4 = 0 ∧ bs.val % 4 = 0))
include hruns hquads

theorem aesOp_of_usable (h : aesCheck (kget (eng s e.val).core k) (if inv then .dec else .enc) = none) :
    aesOp e bd bs (.reg k) s0 q inv s
    = (let kr := kget (eng s e.val).core k
       let key := kr.mat.toNat % 2 ^ (8 * kr.len)
       .next (aesCount (setCore s e (advance (aesBlocks (eng s e.val).core bd bs (.reg k) s0 q inv (kr.len / 4) key) 1)) e.val
         (quadIx q).length key)) := by
  refine (if_neg (by simp only [quads_ok hquads]; decide)).trans (onEngine_eq hruns ?_)
  simp only [h, go]

theorem aesOp_of_unusable {st : Status} (h : aesCheck (kget (eng s e.val).core k) (if inv then .dec else .enc) = some st) :
    aesOp e bd bs (.reg k) s0 q inv s = .next (endOrder s o st 0) := by
  refine (if_neg (by simp only [quads_ok hquads]; decide)).trans (onEngine_eq hruns ?_)
  simp only [h, go]

theorem aesOp_of_pair : aesOp e bd bs (.pair k) s0 q inv s
    = (let key := (pairKey (eng s e.val).core k).toNat
       .next (aesCount (setCore s e (advance (aesBlocks (eng s e.val).core bd bs (.pair k) s0 q inv 8 key) 1)) e.val
         (quadIx q).length key)) :=
  (if_neg (by simp only [quads_ok hquads]; decide)).trans (onEngine_eq hruns rfl)

end Cipher

theorem exec_aesKd_of_usable {e : EngIx} {o : Nat} {v : Order} {s : State} (bd bs : BReg) {k ks : KReg} (w : Fin 4) (s0 : Bool)
    (hruns : engineRuns s e o v) (h : aesCheck (kget (eng s e.val).core k) .kd = none)
    (hloaded : (kget (eng s e.val).core ks).loaded = true) (huse : (kget (eng s e.val).core ks).use = 7) :
    exec (.aesKd e bd bs k w ks s0) s
    = (let c := (eng s e.val).core
       let kr := kget c k
       let key := kr.mat.toNat % 2 ^ (8 * kr.len)
       .next (aesCount (setCore s e (advance (bset c bd (aesRun (kr.len / 4) key false (kdBlock (bget c bs) (kget c ks).mat w.val)) false) 1))
         e.val 1 key)) := by
  change execAesKd e bd bs k w ks s0 s = _
  refine onEngine_eq hruns ?_
  simp only [h, hloaded, huse, go, Bool.not_true, Bool.false_eq_true, ne_eq, not_true_eq_false, if_false]

section Seals
variable {k : KReg} {c : Core} (s0 d : Bool)

theorem aesSeals_of_unwrap (h : (kget c k).use = 2) : aesSeals (.reg k) c s0 d = true := by simp [aesSeals, h]
theorem aesSeals_of_wrap (h : (kget c k).use = 1) : aesSeals (.reg k) c s0 d = s0 := by simp [aesSeals, h]
theorem aesSeals_of_other (h1 : (kget c k).use ≠ 1) (h2 : (kget c k).use ≠ 2) : aesSeals (.reg k) c s0 d = (s0 || d) := by
  simp only [aesSeals]

end Seals

/-- Settles O44: AES splits on the registers' alignment and the key's check; the multiplier is one block operation each. -/
theorem cipherUnitResults : Obligations.CipherUnitResults := by
  intro e o v s bd bs bs2 k ks w s0 q hruns
  have hn : (if q then 4 else 1) = (quadIx q).length := by cases q <;> rfl
  refine ⟨fun hquads => ?_, fun hbad src => ⟨aesOp_of_unaligned hbad, aesOp_of_unaligned hbad⟩,
    aesSeals_of_unwrap s0 _, aesSeals_of_wrap s0 _, aesSeals_of_other s0 _,
    exec_aesKd_of_usable bd bs w s0 hruns,
    blockOp_two hruns bd bs bs2 fun c => BitVec.ofNat 128 (ghMul (bget c bs).toNat (bget c bs2).toNat), ?_,
    blockOp_two hruns bd bs bs2 fun c => BitVec.ofNat 128 (pvMul (bget c bs).toNat (bget c bs2).toNat),
    blockOp_one hruns bd bs fun c => BitVec.ofNat 128 (xtsDbl (bget c bs).toNat)⟩
  · simp only [hn]
    exact ⟨aesOp_of_usable (inv := false) hruns hquads, aesOp_of_usable (inv := true) hruns hquads,
      aesOp_of_pair (inv := false) hruns hquads, aesOp_of_pair (inv := true) hruns hquads,
      fun st => aesOp_of_unusable (inv := false) hruns hquads⟩
  · rw [← sealed_of_three]
    exact blockOp_of_engineRuns hruns bd [bd, bs, bs2] fun c => BitVec.ofNat 128 (ghMul (bget c bd ^^^ bget c bs).toNat (bget c bs2).toNat)

theorem exec_bzero_of_unaligned (e : EngIx) (s : State) {bd : BReg} {q : Bool} (hq : q = true) (hbd : bd.val % 4 ≠ 0) :
    exec (.bzero e bd q) s = .refused .refusedByLoader := by
  have hbad : quadOk q bd = false := by simp [quadOk, hq, hbd]
  change execBzero e bd q s = _
  exact if_pos (by simp only [hbad, Bool.false_and, Bool.not_false])

theorem exec_bctr4_of_aligned {e : EngIx} {o : Nat} {v : Order} {s : State} (hruns : engineRuns s e o v) {bd : BReg} (bs1 : BReg)
    (hbd : bd.val % 4 = 0) : exec (.bctr4 e bd bs1) s
    = .next (setCore s e (advance ((List.range 4).foldl (fun d i => bset d (bplus bd i) (incBytes (bget (eng s e.val).core bs1) 12 4 (i + 1))
        (sealedB (eng s e.val).core bs1)) (eng s e.val).core) 1)) := by
  change execBctr4 e bd bs1 s = _
  exact (if_neg (not_not.mpr hbd)).trans (alu_of_engineRuns hruns fun c =>
    (List.range 4).foldl (fun d i => bset d (bplus bd i) (incBytes (bget c bs1) 12 4 (i + 1)) (sealedB c bs1)) c)

theorem exec_bget_of_unsealed {e : EngIx} {o : Nat} {v : Order} {s : State} (hruns : engineRuns s e o v) (x : XReg) {ba : BReg} (h : Bool)
    (hopen : sealedB (eng s e.val).core ba = false) : exec (.bget e x ba h) s
    = .next (setCore s e (advance (xset (eng s e.val).core x (halfOf (bget (eng s e.val).core ba) h)) 1)) := by
  change execBget e x ba h s = _
  exact onEngine_eq hruns (if_neg (Bool.eq_false_iff.mp hopen))

/-- Settles O45: each operation is quadOp or blockOp at its own value and seal. -/
theorem blockRegisterOperations : Obligations.BlockRegisterOperations := by
  intro e o v s bd bs1 bs2 x q h imm hruns
  refine ⟨fun hquads => ?_, fun hq hbd => ?_, blockOp_one hruns bd bs1 fun c => incBytes (bget c bs1) 12 4 imm.toNat,
    blockOp_one hruns bd bs1 fun c => incBytes (bget c bs1) 0 16 imm.toNat,
    blockOp_one hruns bd bs1 fun c => BitVec.ofNat 128 ((bget c bs1).toNat - (bget c bs1).toNat % 2 ^ 32 + ((bget c bs1).toNat + imm.toNat) % 2 ^ 32),
    fun hbd => ?_, blockOp_two hruns bd bs1 bs2 fun c =>
      BitVec.ofNat 128 ((bget c bs1).toNat % 2 ^ 64 + fld ((bget c bs2).toNat >>> 64) 64), fun hopen => ?_,
    alu_of_engineRuns hruns fun c => bset c bd (withHalf (bget c bd) h (xget c x)) (sealedB c bd)⟩
  · have hbd : q = false ∨ bd.val % 4 = 0 := hquads.imp_right And.left
    have h1 : q = false ∨ bs1.val % 4 = 0 := hquads.imp_right fun hq => hq.2.1
    have h2 : q = false ∨ bs2.val % 4 = 0 := hquads.imp_right fun hq => hq.2.2
    have one (f : Core → Nat → Block) := quadOp_one (s := s) hruns f hbd h1
    have two (f : Core → Nat → Block) := quadOp_two (s := s) hruns f hbd h1 h2
    exact ⟨two fun c i => bget c (bplus bs1 i) ^^^ bget c (bplus bs2 i), two fun c i => bget c (bplus bs1 i) &&& bget c (bplus bs2 i),
      one fun c i => bget c (bplus bs1 i), one fun c i => BitVec.ofNat 128 (revBytes 16 (bget c (bplus bs1 i)).toNat),
      quadOp_of_aligned hruns (fun c i => bget c (bplus bs1 i)) (fun _ _ => true) hbd (by simpa using h1),
      quadOp_of_aligned hruns (fun _ _ => 0) (fun _ _ => false) hbd (by simp)⟩
  · exact exec_bzero_of_unaligned e s hq hbd
  · exact exec_bctr4_of_aligned hruns bs1 hbd
  · exact exec_bget_of_unsealed hruns x h hopen

end Machine
end Sys2Proof
end

section
/-! PROOF. The shared hash unit. -/

namespace Sys2Proof
namespace Machine

/-- A hash step whose block and state read writes the new state back. -/
theorem hashStep_of_read {s : State} {v : Order} {g : Engine} {rs : XReg} {alg : HashAlg} {b st : Nat} {blk : Option Nat} (e : EngIx) (o : Nat)
    (f : Nat → Nat → Nat) (hblk : blk = some b) (hst : ringRead s v (ringOff g.core rs) (stateBytes alg) = some st) :
    hashStep e rs alg .ok s o v g blk f
    = .next (setCore (ringWrite s v (ringOff g.core rs) (stateBytes alg) (f st b)) e (advance g.core 1)) := by
  subst hblk
  simp only [hashStep, reduceCtorEq, if_false, hst, go]

section Runs
variable {e : EngIx} {o : Nat} {v : Order} {s : State} {alg : HashAlg} {rs rb : XReg} {k : KReg} {pad : Bool} (hruns : engineRuns s e o v)
include hruns

theorem exec_hkey_of_no_key (ecc : Ecc) (h : (kget (eng s e.val).core k).loaded = false) :
    exec (.hkey e rs alg k pad ecc) s = .next (endOrder s o .noKey 0) := by
  change execHkey e rs alg k pad ecc s = _
  exact onEngine_eq hruns (if_pos (by simp only [h, Bool.not_false]))

theorem exec_hkey_of_other_use (ecc : Ecc) (h : (kget (eng s e.val).core k).loaded = true)
    (huse : (kget (eng s e.val).core k).use = 7) : exec (.hkey e rs alg k pad ecc) s = .next (endOrder s o .policy 0) := by
  change execHkey e rs alg k pad ecc s = _
  exact onEngine_eq hruns ((if_neg (by simp [h])).trans (if_pos (by simp [huse])))

theorem exec_hkey_of_hash_use (ecc : Ecc) (h : (kget (eng s e.val).core k).loaded = true)
    (huse : (kget (eng s e.val).core k).use = 0 ∨ (kget (eng s e.val).core k).use = 5 ∨ (kget (eng s e.val).core k).use = 6) :
    exec (.hkey e rs alg k pad ecc) s
    = hashStep e rs alg ecc s o v (eng s e.val) (some (keyBlock alg (kget (eng s e.val).core k) pad)) (absorb alg) := by
  have hallow : ((kget (eng s e.val).core k).use == 0 || (kget (eng s e.val).core k).use == 5 || (kget (eng s e.val).core k).use == 6) = true := by
    simpa [or_assoc] using huse
  change execHkey e rs alg k pad ecc s = _
  exact onEngine_eq hruns ((if_neg (by simp [h])).trans (if_neg (by simp only [hallow]; decide)))

theorem exec_habs_of_engineRuns (ecc : Ecc) : exec (.habs e rs rb alg ecc) s
    = hashStep e rs alg ecc s o v (eng s e.val) (ringRead s v (ringOff (eng s e.val).core rb) (blockBytes alg)) (absorb alg) := by
  change execHabs e rs rb alg ecc s = _
  exact onEngine_eq hruns rfl

theorem exec_hperm_of_sponge (ecc : Ecc) (h : hashWord alg = 0) : exec (.hperm e rs alg ecc) s
    = hashStep e rs alg ecc s o v (eng s e.val) (some 0) fun st _ => keccakF st := by
  change execHperm e rs alg ecc s = _
  exact (if_neg (not_not.mpr h)).trans (onEngine_eq hruns rfl)

end Runs

/-- Settles O46: HABS, HKEY and HPERM are one hash step each; HKEY splits on its key register first. -/
theorem hashUnitResults : Obligations.HashUnitResults := by
  intro e o v s rs rb alg k pad hruns
  refine ⟨onEngine_of_engineRuns hruns fun _ v g =>
      go (setCore (ringWrite s v (ringOff g.core rs) (stateBytes alg) (initState alg)) e (advance g.core 1)),
    fun st hst => ⟨fun b hb => ?_, fun h huse => ?_, fun h => ?_⟩, exec_habs_of_engineRuns hruns .uncorrectable,
    fun h ecc => exec_hkey_of_no_key hruns ecc h, fun h huse ecc => exec_hkey_of_other_use hruns ecc h huse, fun h ecc => if_pos h⟩
  · rw [exec_habs_of_engineRuns hruns]
    exact hashStep_of_read e o (absorb alg) hb hst
  · rw [exec_hkey_of_hash_use hruns .ok h huse]
    exact hashStep_of_read e o (absorb alg) rfl hst
  · rw [exec_hperm_of_sponge hruns .ok h]
    exact hashStep_of_read e o (fun st _ => keccakF st) rfl hst

end Machine
end Sys2Proof
end

section
/-! PROOF. The hand-off of an operation, and its start and end on a big-number engine. -/

namespace Sys2Proof
namespace Machine

/-! ## The hand-off -/

section HandOff
variable {e : EngIx} {o : Nat} {v : Order} {s : State} (hruns : engineRuns s e o v) (hfirst : (eng s e.val).second = false)
  (hlen : v.hdr.bnLen ≠ 0)
include hruns hfirst hlen

theorem handInstr_of_some {f : HandOff → Core → Option HandOff} {h : HandOff} (hf : f v.hand (eng s e.val).core = some h) :
    handInstr e s f = .next (setCore (setOrder s o { v with hand := h }) e (advance (eng s e.val).core 1)) := by
  have hgo : ((eng s e.val).second || v.hdr.bnLen == 0) = false := by simp [hfirst, hlen]
  refine onEngine_eq hruns ((if_neg (Bool.eq_false_iff.mp hgo)).trans ?_)
  simp only [hf, go]

theorem handInstr_of_none {f : HandOff → Core → Option HandOff} (hf : f v.hand (eng s e.val).core = none) :
    handInstr e s f = .refused .refusedByLoader := by
  have hgo : ((eng s e.val).second || v.hdr.bnLen == 0) = false := by simp [hfirst, hlen]
  refine onEngine_eq hruns ((if_neg (Bool.eq_false_iff.mp hgo)).trans ?_)
  simp only [hf]

theorem exec_bnset_of_none (op : BnSet) (h : v.hand.op = none) : exec (.bnset e op) s
    = .next (setCore (setOrder s o { v with hand := { v.hand with op := some op } }) e (advance (eng s e.val).core 1)) := by
  change execBnset e op s = _
  exact handInstr_of_some hruns hfirst hlen (if_neg (by simp [h]))

theorem exec_bnset_of_some (op : BnSet) (h : v.hand.op ≠ none) : exec (.bnset e op) s = .refused .refusedByLoader := by
  change execBnset e op s = _
  exact handInstr_of_none hruns hfirst hlen (if_pos (Option.isSome_iff_ne_none.mpr h))

theorem exec_bnarg_of_first (rs : XReg) (n : Fin 4) (use : Fin 8) : exec (.bnarg e rs n use) s
    = .next (setCore (setOrder s o { v with hand :=
        { v.hand with args := tins v.hand.args n.val (xget (eng s e.val).core rs, use.val) } }) e (advance (eng s e.val).core 1)) := by
  change execBnarg e rs n use s = _
  exact handInstr_of_some hruns hfirst hlen rfl

theorem exec_bnin_of_fits (ra : XReg) (slot : Fin 1024) {window : Bool} (big : Bool) {len : BitVec 9} (h : v.hand.ins.length < 8)
    (hfits : window = true ∨ ioLen len ≤ 1024) : exec (.bnin e ra slot window big len) s
    = .next (setCore (setOrder s o { v with hand :=
        { v.hand with ins := v.hand.ins ++ [⟨slot.val, window, big, ioLen len, xget (eng s e.val).core ra, []⟩] } }) e
        (advance (eng s e.val).core 1)) := by
  have hgo : (8 ≤ v.hand.ins.length || (!window && 1024 < ioLen len)) = false := by
    rcases hfits with hw | hl <;> simp [*]
  change execBnin e ra slot window big len s = _
  exact handInstr_of_some hruns hfirst hlen (if_neg (Bool.eq_false_iff.mp hgo))

theorem exec_bnin_of_not_fits (ra : XReg) (slot : Fin 1024) {window : Bool} (big : Bool) {len : BitVec 9}
    (h : ¬ (v.hand.ins.length < 8 ∧ (window = true ∨ ioLen len ≤ 1024))) :
    exec (.bnin e ra slot window big len) s = .refused .refusedByLoader := by
  have hstop : (8 ≤ v.hand.ins.length || (!window && 1024 < ioLen len)) = true := by
    simpa [imp_iff_not_or] using h
  change execBnin e ra slot window big len s = _
  exact handInstr_of_none hruns hfirst hlen (if_pos hstop)

theorem exec_bnout_of_fits (ra : XReg) (slot : Fin 1024) (big : Bool) (len : BitVec 9) (h : v.hand.outs.length < 8) :
    exec (.bnout e ra slot big len) s
    = .next (setCore (setOrder s o { v with hand :=
        { v.hand with outs := v.hand.outs ++ [⟨slot.val, true, big, ioLen len, xget (eng s e.val).core ra, []⟩] } }) e
        (advance (eng s e.val).core 1)) := by
  change execBnout e ra slot big len s = _
  exact handInstr_of_some hruns hfirst hlen (if_neg (not_le.mpr h))

theorem exec_bnout_of_full (ra : XReg) (slot : Fin 1024) (big : Bool) (len : BitVec 9) (h : 8 ≤ v.hand.outs.length) :
    exec (.bnout e ra slot big len) s = .refused .refusedByLoader := by
  change execBnout e ra slot big len s = _
  exact handInstr_of_none hruns hfirst hlen (if_pos h)

end HandOff

/-! ## The start of an operation -/

section Start
variable {b : BnIx} {o : Nat} {v : Order} {s s1 : State} {reads : List CellarRead} {ecc : Ecc} {w : Fin 32768} {st : Status} {keys : Tab Nat}
  (hin : (bnEng s b).out = false) (hidle : (bnEng s b).running = none) (hnext : nextBn s b = some (o, v)) (hinput : inputWaits v = false)
include hin hidle hnext hinput

theorem exec_bnOperationStart_of_fault {f : Nat × Bool} (h : ioFault v = some f) :
    exec (.bnOperationStart b reads ecc w) s = .next (bnDoorFault s o v f.1 f.2) := by
  have hgo : ((bnEng s b).out || (bnEng s b).running.isSome) = false := by simp [hin, hidle]
  change execBnOperationStart b reads ecc w s = _
  refine (if_neg (Bool.eq_false_iff.mp hgo)).trans ?_
  simp only [hnext, hinput, h, Bool.false_eq_true, if_false, go]

variable (hrange : ioFault v = none)
include hrange

theorem exec_bnOperationStart_of_refused_argument (h : pullArgs v v.hand.args s reads [] = (s1, .error st)) :
    exec (.bnOperationStart b reads ecc w) s = .next (endOrder s1 o st 0) := by
  have hgo : ((bnEng s b).out || (bnEng s b).running.isSome) = false := by simp [hin, hidle]
  change execBnOperationStart b reads ecc w s = _
  refine (if_neg (Bool.eq_false_iff.mp hgo)).trans ?_
  simp only [hnext, hinput, hrange, h, Bool.false_eq_true, if_false, go, bnStop]

variable (h : pullArgs v v.hand.args s reads [] = (s1, .ok keys))
include h

theorem exec_bnOperationStart_of_ok : exec (.bnOperationStart b reads .ok w) s = .next (beginBn s1 b o v keys) := by
  have hgo : ((bnEng s b).out || (bnEng s b).running.isSome) = false := by simp [hin, hidle]
  change execBnOperationStart b reads .ok w s = _
  refine (if_neg (Bool.eq_false_iff.mp hgo)).trans ?_
  simp only [hnext, hinput, hrange, h, Bool.false_eq_true, if_false, go]

theorem exec_bnOperationStart_of_corrected :
    exec (.bnOperationStart b reads .corrected w) s = .next (beginBn (larderCE s1) b o v keys) := by
  have hgo : ((bnEng s b).out || (bnEng s b).running.isSome) = false := by simp [hin, hidle]
  change execBnOperationStart b reads .corrected w s = _
  refine (if_neg (Bool.eq_false_iff.mp hgo)).trans ?_
  simp only [hnext, hinput, hrange, h, Bool.false_eq_true, if_false, go]

theorem exec_bnOperationStart_of_uncorrectable :
    exec (.bnOperationStart b reads .uncorrectable w) s = .next (larderFails s1 b o w.val) := by
  have hgo : ((bnEng s b).out || (bnEng s b).running.isSome) = false := by simp [hin, hidle]
  change execBnOperationStart b reads .uncorrectable w s = _
  refine (if_neg (Bool.eq_false_iff.mp hgo)).trans ?_
  simp only [hnext, hinput, hrange, h, Bool.false_eq_true, if_false, go]

end Start

/-! ## The end of an operation -/

section Running
variable {b : BnIx} {o : Nat} {v : Order} {s : State} (hrun : (bnEng s b).running = some o) (horder : order? s o = some v)
include hrun horder

theorem exec_slotProgramStart_of_program {f : Fin 8192} {n : Fin 4096} (hop : v.hand.op = some (.slots f n)) (hres : (bnEng s b).result = none)
    (hprog : (bnEng s b).inProg = false) : exec (.slotProgramStart b) s
    = .next (setBn s b { bnEng s b with inProg := true, pc := 0, loops := [] }) := by
  change execSlotProgramStart b s = _
  simp only [execSlotProgramStart, hrun, hres, horder, hop, hprog, Bool.false_eq_true, if_false, go]

theorem exec_bnOperationEnd_of_poisoned {val : Word} {att : Nat} (hres : (bnEng s b).result = some (.done, val, att))
    (h : outsPoisoned s b v = true) : exec (.bnOperationEnd b) s = .next (endOrder s o .poison 0) := by
  change execBnOperationEnd b s = _
  simp only [execBnOperationEnd, hrun, hres, horder, h, and_self, if_true, go, bnStop]

theorem exec_bnOperationEnd_of_result {st : Status} {val : Word} {att : Nat} (hres : (bnEng s b).result = some (st, val, att))
    (h : st ≠ .done ∨ outsPoisoned s b v = false) : exec (.bnOperationEnd b) s
    = (let staged := if st = .done then stageOuts s b v else v.staged
       let v1 := { v with phase := .queued true, x16 := outcomeWord st val att, staged := staged }
       .next (setOrder (cntUp (setBn s b (clearBn (bnEng s b))) (0x50100 + 8 * b.val) 31 0) o v1)) := by
  have hclean : ¬ (st = .done ∧ outsPoisoned s b v = true) := fun hbad => h.elim (fun hst => hst hbad.1) (by simp [hbad.2])
  change execBnOperationEnd b s = _
  simp only [execBnOperationEnd, hrun, hres, horder, if_neg hclean, go]

theorem exec_bnOverrun_of_late (hres : (bnEng s b).result = none) (h : 998 * v.hdr.bnLen < 1000 * (runNow s + 1 - (bnEng s b).started)) :
    exec (.bnOverrun b) s = .next (endOrder (evt (cntUp s 0x50028 31 0) 5 3) o .deadlineFault 0) := by
  have hlate : ((bnEng s b).result.isNone && decide (998 * v.hdr.bnLen < 1000 * (runNow s + 1 - (bnEng s b).started))) = true := by
    simp [hres, h]
  change execBnOverrun b s = _
  simp only [execBnOverrun, hrun, horder, hlate, if_true, go]

theorem exec_bnOverrun_of_early (h : 1000 * (runNow s + 1 - (bnEng s b).started) ≤ 998 * v.hdr.bnLen) : exec (.bnOverrun b) s = .next s := by
  have hearly : ((bnEng s b).result.isNone && decide (998 * v.hdr.bnLen < 1000 * (runNow s + 1 - (bnEng s b).started))) = false := by
    simp [not_lt.mpr h]
  change execBnOverrun b s = _
  simp only [execBnOverrun, hrun, horder, hearly, Bool.false_eq_true, if_false, go]

end Running

theorem outcomeWord_done (val : Word) (att : Nat) : outcomeWord .done val att = val := rfl
theorem outcomeWord_of_ne_done {st : Status} (h : st ≠ .done) (val : Word) (att : Nat) :
    outcomeWord st val att = BitVec.ofNat 64 (0xFFFF * 2 ^ 48 + att % 65536 * 2 ^ 16 + stCode st) :=
  if_neg h

/-- Settles O47: the hand-off instructions split on their room, the start on its checks in order, the end on the result. -/
theorem handOffAndOperationLifetime : Obligations.HandOffAndOperationLifetime := by
  refine ⟨fun e o v s hruns hfirst hlen => ⟨fun op => ⟨exec_bnset_of_none hruns hfirst hlen op, exec_bnset_of_some hruns hfirst hlen op⟩,
      exec_bnarg_of_first hruns hfirst hlen, fun ra slot window big len =>
        ⟨exec_bnin_of_fits hruns hfirst hlen ra slot big, exec_bnin_of_not_fits hruns hfirst hlen ra slot big,
          exec_bnout_of_fits hruns hfirst hlen ra slot big len, exec_bnout_of_full hruns hfirst hlen ra slot big len⟩⟩,
    fun b o v s reads ecc w hin hidle hnext hinput => ⟨fun f => exec_bnOperationStart_of_fault hin hidle hnext hinput, fun hrange =>
      ⟨fun s1 st => exec_bnOperationStart_of_refused_argument hin hidle hnext hinput hrange, fun s1 keys h =>
        ⟨exec_bnOperationStart_of_ok hin hidle hnext hinput hrange h, exec_bnOperationStart_of_corrected hin hidle hnext hinput hrange h,
          exec_bnOperationStart_of_uncorrectable hin hidle hnext hinput hrange h⟩⟩⟩,
    fun b o v s hrun horder => ⟨fun f n => exec_slotProgramStart_of_program hrun horder, fun st val att hres hst => ?_,
      fun st val att => exec_bnOperationEnd_of_result hrun horder, exec_bnOverrun_of_late hrun horder,
      fun _ => exec_bnOverrun_of_early hrun horder⟩,
    outcomeWord_done, fun st val att h => outcomeWord_of_ne_done h val att⟩
  subst hst
  exact exec_bnOperationEnd_of_poisoned hrun horder hres

end Machine
end Sys2Proof
end

section
/-! PROOF. The service operations of the big-number engines. -/

namespace Sys2Proof
namespace Machine

section Service
variable {b : BnIx} {o : Nat} {v : Order} {s s1 : State} {op : Fin 256} {set : Fin 64} (hserves : serviceRuns s b o v op set)
include hserves

/-- A service instruction of a running operation that it names acts on the state. -/
theorem onService_of_serviceRuns {ops : List Nat} (f : Nat → Nat → Order → State) (hop : ops.contains op.val = true) :
    onService b ops s f = .next (f op.val set.val v) := by
  obtain ⟨hrun, hres, horder, hhand⟩ := hserves
  simp only [onService, hrun, hres, horder, hhand, hop, if_true, go]

/-- One that draws random values while its DRBG is not ready ends with REJECT_LIMIT. -/
theorem onService_of_drbg_held {ops : List Nat} (hop : ops.contains op.val = true) (hready : drbgReady s b = (false, s1))
    (n : Nat → Nat) (f : Nat → Nat → Order → State → State) :
    onService b ops s (fun op set v => withDrbg s b (n op) (f op set v)) = .next (setResult s1 b .rejectLimit 0 0) := by
  rw [onService_of_serviceRuns hserves _ hop, withDrbg, hready]

/-- One whose DRBG is ready acts on the state in which its requests are counted. -/
theorem onService_of_drbg_ready {ops : List Nat} (hop : ops.contains op.val = true) (hready : drbgReady s b = (true, s1))
    (n : Nat → Nat) (f : Nat → Nat → Order → State → State) :
    onService b ops s (fun op set v => withDrbg s b (n op) (f op set v)) = .next (f op.val set.val v (drbgCount s1 b (n op.val))) := by
  rw [onService_of_serviceRuns hserves _ hop, withDrbg, hready]

/-! ## Signatures and key generations -/

section EcdsaSign
variable (hop : op = 1)
include hop

theorem exec_ecdsaSign_of_drbg_held (hready : drbgReady s b = (false, s1)) (n : Fin 3) :
    exec (.ecdsaSign b n) s = .next (setResult s1 b .rejectLimit 0 0) := by
  subst hop
  change execEcdsaSign b n s = _
  exact onService_of_drbg_held hserves rfl hready _ _

variable (hready : drbgReady s b = (true, s1))
include hready

theorem exec_ecdsaSign_of_no_attempt : exec (.ecdsaSign b 0) s = .next (setResult (drbgCount s1 b 2) b .rejectLimit 0 2) := by
  subst hop
  change execEcdsaSign b 0 s = _
  exact onService_of_drbg_ready hserves rfl hready _ _

theorem exec_ecdsaSign_of_attempt {n : Fin 3} (hn : n ≠ 0) : exec (.ecdsaSign b n) s
    = (let q := drbgCount s1 b n.val
       let p := svcSet q b set.val
       let d := drawScalar q p
       let c := setCurve p
       let sig := c.sign (svcKey q b) d.1 (svcDigest q b v c)
       .next (svcDone d.2 b (sig.1 * 2 ^ (8 * fieldBytes p) + sig.2) (BitVec.ofNat 64 n.val) n.val)) := by
  subst hop
  change execEcdsaSign b n s = _
  refine (onService_of_drbg_ready hserves rfl hready _ _).trans ?_
  simp only [if_neg hn]

end EcdsaSign

section EcKeygen
variable (hop : op = 3) (pick : Nat)
include hop

theorem exec_ecKeygen_of_drbg_held (hready : drbgReady s b = (false, s1)) (n : Fin 3) :
    exec (.ecKeygen b n pick) s = .next (setResult s1 b .rejectLimit 0 0) := by
  subst hop
  change execEcKeygen b n pick s = _
  exact onService_of_drbg_held hserves rfl hready _ _

variable (hready : drbgReady s b = (true, s1))
include hready

theorem exec_ecKeygen_of_user (huser : v.hdr.supv = false) {n : Fin 3} (hn : n ≠ 0) :
    exec (.ecKeygen b n pick) s = .next (setResult (drbgCount s1 b n.val) b .policy 0 0) := by
  subst hop
  change execEcKeygen b n pick s = _
  refine (onService_of_drbg_ready hserves rfl hready _ _).trans ?_
  simp only [if_neg hn, huser, Bool.not_false, if_true]

theorem exec_ecKeygen_of_no_attempt (hsupv : v.hdr.supv = true) :
    exec (.ecKeygen b 0 pick) s = .next (setResult (drbgCount s1 b 2) b .rejectLimit 0 2) := by
  subst hop
  change execEcKeygen b 0 pick s = _
  refine (onService_of_drbg_ready hserves rfl hready _ _).trans ?_
  simp only [hsupv, Bool.not_true, Bool.false_eq_true, if_false, if_true]

theorem exec_ecKeygen_of_attempt (hsupv : v.hdr.supv = true) {n : Fin 3} (hn : n ≠ 0) : exec (.ecKeygen b n pick) s
    = (let q := drbgCount s1 b n.val
       let d := drawScalar q (svcSet q b set.val)
       .next (makeRecord d.2 b v (if (svcSet q b set.val).bitLen ≤ 256 then 0x10 else 0x11) d.1 pick n.val)) := by
  subst hop
  change execEcKeygen b n pick s = _
  refine (onService_of_drbg_ready hserves rfl hready _ _).trans ?_
  simp only [if_neg hn, hsupv, Bool.not_true, Bool.false_eq_true, if_false]

end EcKeygen

section RsaKeygen
variable (hop : op = 10) (pick : Nat) {n : Nat}
include hop

theorem exec_rsaKeygen_of_drbg_held (hready : drbgReady s b = (false, s1)) (n : Nat) :
    exec (.rsaKeygen b n pick) s = .next (setResult s1 b .rejectLimit 0 0) := by
  subst hop
  change execRsaKeygen b n pick s = _
  exact onService_of_drbg_held hserves rfl hready _ _

variable (hready : drbgReady s b = (true, s1))
include hready

theorem exec_rsaKeygen_of_user (huser : v.hdr.supv = false) (hn : 0 < n) (hmax : n ≤ 8192) :
    exec (.rsaKeygen b n pick) s = .next (setResult (drbgCount s1 b n) b .policy 0 0) := by
  have hcount : min 8192 (max 1 n) = n := by omega
  subst hop
  change execRsaKeygen b n pick s = _
  refine (onService_of_drbg_ready hserves rfl hready _ _).trans ?_
  simp only [hcount, huser, Bool.not_false, if_true]

theorem exec_rsaKeygen_of_attempts (hsupv : v.hdr.supv = true) (hn : 0 < n) (hmax : n ≤ 8192) : exec (.rsaKeygen b n pick) s
    = (let k := rsaKey (if set = 8 then 128 else if set = 9 then 192 else 256) (drbgCount s1 b n)
       .next (makeRecord k.2 b v (if set = 8 then 0x20 else if set = 9 then 0x21 else 0x22) k.1 pick n)) := by
  have hcount : min 8192 (max 1 n) = n := by omega
  have hfound : ¬ (n = 0 ∨ 8192 < n) := by omega
  have h8 : (set = 8) = (set.val = 8) := propext Fin.ext_iff
  have h9 : (set = 9) = (set.val = 9) := propext Fin.ext_iff
  subst hop
  change execRsaKeygen b n pick s = _
  refine (onService_of_drbg_ready hserves rfl hready _ _).trans ?_
  simp only [hcount, hsupv, Bool.not_true, Bool.false_eq_true, if_false, if_neg hfound, h8, h9]

theorem exec_rsaKeygen_of_too_many (hsupv : v.hdr.supv = true) (hmax : 8192 < n) :
    exec (.rsaKeygen b n pick) s = .next (setResult (drbgCount s1 b 8192) b .rejectLimit 0 8192) := by
  have hcount : min 8192 (max 1 n) = 8192 := by omega
  subst hop
  change execRsaKeygen b n pick s = _
  refine (onService_of_drbg_ready hserves rfl hready _ _).trans ?_
  simp only [hcount, hsupv, Bool.not_true, Bool.false_eq_true, if_false, if_pos (Or.inr hmax : n = 0 ∨ 8192 < n)]

end RsaKeygen

section MldsaSign
variable (hop : op = 20 ∨ op = 21) {n limit : Nat} (hlimit : limit = if op = 20 then 24 else 100)
include hop

theorem mldsa_named : [0x14, 0x15].contains op.val = true := by
  rcases hop with rfl | rfl <;> rfl

theorem exec_mldsaSign_of_drbg_held (hready : drbgReady s b = (false, s1)) (n : Nat) :
    exec (.mldsaSign b n) s = .next (setResult s1 b .rejectLimit 0 0) := by
  change execMldsaSign b n s = _
  exact onService_of_drbg_held hserves (mldsa_named hserves hop) hready _ _

variable (hready : drbgReady s b = (true, s1))
include hready hlimit

theorem exec_mldsaSign_of_drbg_ready : exec (.mldsaSign b n) s
    = (let q := drbgCount s1 b (min limit (max 1 n))
       .next (if n = 0 ∨ limit < n then setResult q b .rejectLimit 0 limit
         else
           let d := draw 256 q
           svcDone d.2 b (Config.external 13 [svcKey q b, svcIn q b 0, d.1.toNat] % 2 ^ (8 * 3309)) (BitVec.ofNat 64 n) n)) := by
  have hval : (if op.val = 0x14 then 24 else 100) = limit := by
    rw [hlimit]
    rcases hop with rfl | rfl <;> rfl
  change execMldsaSign b n s = _
  refine (onService_of_drbg_ready hserves (mldsa_named hserves hop) hready
    (fun op => min (if op = 0x14 then 24 else 100) (max 1 n)) _).trans ?_
  simp only [hval]

end MldsaSign

/-! ## HYBRID_OPEN -/

section HybridOpen
variable (hop : op = 24) (pick : Nat)
include hop

theorem exec_hybridOpen_of_user (huser : v.hdr.supv = false) : exec (.hybridOpen b pick) s = .next (setResult s b .policy 0 0) := by
  subst hop
  change execHybridOpen b pick s = _
  refine (onService_of_serviceRuns hserves _ rfl).trans ?_
  simp only [huser, Bool.not_false, if_true]

variable (hsupv : v.hdr.supv = true)
include hsupv

theorem exec_hybridOpen_of_no_identity (hident : s.keys.ident = false) :
    exec (.hybridOpen b pick) s = .next (setResult s b .noKey 0 0) := by
  subst hop
  change execHybridOpen b pick s = _
  refine (onService_of_serviceRuns hserves _ rfl).trans ?_
  simp only [hsupv, hident, Bool.not_true, Bool.not_false, Bool.false_eq_true, if_false, if_true]

variable (hident : s.keys.ident = true)
include hident

theorem exec_hybridOpen_of_no_transport_key (hkey : transportKey s (svcIn s b 1) (svcIn s b 0) v.tag = none) :
    exec (.hybridOpen b pick) s = .next (setResult s b .malformed 0 0) := by
  subst hop
  change execHybridOpen b pick s = _
  refine (onService_of_serviceRuns hserves _ rfl).trans ?_
  simp only [hsupv, hident, hkey, Bool.not_true, Bool.false_eq_true, if_false]

variable {k : Key256} (hkey : transportKey s (svcIn s b 1) (svcIn s b 0) v.tag = some k)
include hkey

theorem exec_hybridOpen_of_refused_record {st : Status}
    (hput : keyStorePut s (originOf v) v.slice transportTmpl k .clean pick = (s1, .error st)) :
    exec (.hybridOpen b pick) s = .next (setResult s1 b st 0 0) := by
  subst hop
  change execHybridOpen b pick s = _
  refine (onService_of_serviceRuns hserves _ rfl).trans ?_
  simp only [hsupv, hident, hkey, hput, Bool.not_true, Bool.false_eq_true, if_false]

theorem exec_hybridOpen_of_record {h : Word} (hput : keyStorePut s (originOf v) v.slice transportTmpl k .clean pick = (s1, .ok h)) :
    exec (.hybridOpen b pick) s = .next (setResult s1 b .done h 0) := by
  subst hop
  change execHybridOpen b pick s = _
  refine (onService_of_serviceRuns hserves _ rfl).trans ?_
  simp only [hsupv, hident, hkey, hput, Bool.not_true, Bool.false_eq_true, if_false]

end HybridOpen

/-! ## Operations that draw nothing -/

theorem exec_ecdsaVerify_of_serviceRuns (hop : op = 2) : exec (.ecdsaVerify b) s
    = .next (setResult s b (if svcVerifies s b set.val v then .done else .authFail) 0 0) := by
  subst hop
  change execEcdsaVerify b s = _
  exact onService_of_serviceRuns hserves _ rfl

theorem exec_rsaCrtPriv_of_serviceRuns (hop : op = 8) : exec (.rsaCrtPriv b) s
    = .next (svcDone s b (rsaCrt (ceilDiv (svcSet s b set.val).bitLen 16) (svcKey s b) (svcIn s b 0)) 0 0) := by
  subst hop
  change execRsaCrtPriv b s = _
  exact onService_of_serviceRuns hserves _ rfl

theorem exec_mlkemDecaps_of_serviceRuns (hop : op = 16) : exec (.mlkemDecaps b) s
    = .next (svcDone s b (Config.external 12 [svcKey s b, svcIn s b 0] % 2 ^ 256) 0 0) := by
  subst hop
  change execMlkemDecaps b s = _
  exact onService_of_serviceRuns hserves _ rfl

end Service

/-- Settles O48: each operation by its number, those that draw split on the DRBG and then on the attempts. -/
theorem bigNumberServices : Obligations.BigNumberServices := by
  intro b o v s op set hserves
  refine ⟨exec_ecdsaVerify_of_serviceRuns hserves, exec_rsaCrtPriv_of_serviceRuns hserves, exec_mlkemDecaps_of_serviceRuns hserves,
    fun s1 hready => ⟨fun hop => exec_ecdsaSign_of_drbg_held hserves hop hready,
      fun hop n pick => exec_ecKeygen_of_drbg_held hserves hop pick hready n,
      fun hop n pick => exec_rsaKeygen_of_drbg_held hserves hop pick hready n,
      fun hop => exec_mldsaSign_of_drbg_held hserves hop hready⟩,
    fun s1 hready => ⟨fun hop => ⟨exec_ecdsaSign_of_no_attempt hserves hop hready, fun n => exec_ecdsaSign_of_attempt hserves hop hready⟩,
      fun hop pick => ⟨fun huser n => exec_ecKeygen_of_user hserves hop pick hready huser,
        exec_ecKeygen_of_no_attempt hserves hop pick hready, fun hsupv n => exec_ecKeygen_of_attempt hserves hop pick hready hsupv⟩,
      fun hop pick n hn hmax => ⟨fun huser => exec_rsaKeygen_of_user hserves hop pick hready huser hn hmax,
        fun hsupv => exec_rsaKeygen_of_attempts hserves hop pick hready hsupv hn hmax⟩,
      fun hop hsupv pick n => exec_rsaKeygen_of_too_many hserves hop pick hready hsupv,
      fun hop => ⟨fun n hn hmax => ?_, fun n hmax => ?_⟩⟩,
    fun hop pick => ⟨exec_hybridOpen_of_user hserves hop pick, exec_hybridOpen_of_no_identity hserves hop pick,
      fun hsupv hident => ⟨exec_hybridOpen_of_no_transport_key hserves hop pick hsupv hident,
        fun k hkey => ⟨fun s1 st => exec_hybridOpen_of_refused_record hserves hop pick hsupv hident hkey,
          fun s1 h => exec_hybridOpen_of_record hserves hop pick hsupv hident hkey⟩⟩⟩⟩
  · rw [exec_mldsaSign_of_drbg_ready hserves hop rfl hready, min_eq_right (max_le (hn.trans_le hmax) hmax), max_eq_right hn]
    exact congrArg Host.Outcome.next (if_neg (not_or.mpr ⟨hn.ne', not_lt.mpr hmax⟩))
  · rw [exec_mldsaSign_of_drbg_ready hserves hop rfl hready, min_eq_left (hmax.le.trans (le_max_right 1 n))]
    exact congrArg Host.Outcome.next (if_pos (Or.inr hmax))

end Machine
end Sys2Proof
end

section
/-! PROOF. Slot programs: the shape of an instruction, then control, set-up and moves. -/

namespace Sys2Proof
namespace Machine

/-- A checked set passes anywhere, an unchecked one in BLANK and TEST. -/
theorem psel_gate_open (s : State) (p : PSet) (hgate : p.checked = true ∨ s.mode.lc = .blank ∨ s.mode.lc = .test) :
    (!p.checked && !(s.mode.lc == .blank || s.mode.lc == .test)) = false := by
  rcases hgate with h | h | h <;> simp [h]

section Program
variable {b : BnIx} {o : Nat} {v : Order} {s s1 : State} (hruns : programRuns s b o v)

section Shape
include hruns

/-- An instruction of a running slot program is its body there. -/
theorem onProg_eq {f : Nat → Order → BnEng → Result} {r : Result} (h : f o v (bnEng s b) = r) : onProg b s f = r := by
  obtain ⟨hrun, hres, horder, hprog⟩ := hruns
  simp only [onProg, hrun, hres, horder, hprog, if_true, h]

variable {reads writes : BnEng → List (Fin 1024 × Nat)} {f : Nat → Order → BnEng → State}
  (hslots : ∀ p ∈ reads (bnEng s b) ++ writes (bnEng s b), slotHolds s b p.2 p.1 = true)
include hslots

/-- An instruction whose slots hold their words, none that it reads poisoned, acts on the state. -/
theorem slotInstr_of_clean (hclean : ∀ p ∈ reads (bnEng s b), poisoned s 6 (slotWords s b.val p.1.val p.2) = false) :
    slotInstr b s reads writes f = .next (f o v (bnEng s b)) := by
  have hall : ((reads (bnEng s b) ++ writes (bnEng s b)).all fun p => slotHolds s b p.2 p.1) = true := List.all_eq_true.mpr hslots
  have hread : poisoned s 6 ((reads (bnEng s b)).flatMap fun p => slotWords s b.val p.1.val p.2) = false := by
    rw [poisoned, List.any_flatMap, List.any_eq_false]
    exact fun p hp => Bool.eq_false_iff.mp (hclean p hp)
  exact onProg_eq hruns ((if_neg (by simp [hall])).trans (if_neg (Bool.eq_false_iff.mp hread)))

/-- One that reads a poisoned word ends the order with POISON. -/
theorem slotInstr_of_poisoned {p : Fin 1024 × Nat} (hp : p ∈ reads (bnEng s b))
    (hpoison : poisoned s 6 (slotWords s b.val p.1.val p.2) = true) : slotInstr b s reads writes f = .next (endOrder s o .poison 0) := by
  have hall : ((reads (bnEng s b) ++ writes (bnEng s b)).all fun p => slotHolds s b p.2 p.1) = true := List.all_eq_true.mpr hslots
  have hread : poisoned s 6 ((reads (bnEng s b)).flatMap fun p => slotWords s b.val p.1.val p.2) = true := by
    rw [poisoned, List.any_flatMap, List.any_eq_true]
    exact ⟨p, hp, hpoison⟩
  exact onProg_eq hruns ((if_neg (by simp [hall])).trans (if_pos hread))

end Shape

theorem slotHolds_iff {n : Nat} {x : Fin 1024} :
    slotHolds s b n x = true ↔ slotValid (slotDesc s b.val x.val) = true ∧ n ≤ slotLen (slotDesc s b.val x.val) := by
  simp [slotHolds]

/-- A defined slot holds its own words. -/
theorem slotHolds_self {x : Fin 1024} (h : slotValid (slotDesc s b.val x.val) = true) :
    slotHolds s b (slotLen (slotDesc s b.val x.val)) x = true := slotHolds_iff.mpr ⟨h, le_rfl⟩

/-! ## Set-up -/

section Psel
variable {set : Fin 64} {lm : Fin 1024} {p : PSet}
include hruns

theorem exec_psel_of_undefined (hset : setOf (bnEng s b).sets set.val = none) : exec (.psel b set lm) s = .next (setResult s b .malformed 0 0) := by
  change execPsel b set lm s = _
  refine onProg_eq hruns ?_
  simp only [hset, go]

variable (hset : setOf (bnEng s b).sets set.val = some p)
include hset

theorem exec_psel_of_unchecked (hchecked : p.checked = false) (hblank : s.mode.lc ≠ .blank) (htest : s.mode.lc ≠ .test) :
    exec (.psel b set lm) s = .next (setResult s b .policy 0 0) := by
  have hgate : (!p.checked && !(s.mode.lc == .blank || s.mode.lc == .test)) = true := by simp [hchecked, hblank, htest]
  change execPsel b set lm s = _
  refine onProg_eq hruns ?_
  simp only [hset, hgate, if_true, go]

variable (hgate : p.checked = true ∨ s.mode.lc = .blank ∨ s.mode.lc = .test)
include hgate

theorem exec_psel_of_no_modulus (hmod : p.modulus = 0) : exec (.psel b set lm) s = .next (setResult s b .malformed 0 0) := by
  change execPsel b set lm s = _
  refine onProg_eq hruns ?_
  simp only [hset, psel_gate_open s p hgate, Bool.false_eq_true, if_false, if_pos hmod, go]

variable (hmod : p.modulus ≠ 0)
include hmod

theorem exec_psel_of_builtin (hnum : set.val < 32) : exec (.psel b set lm) s
    = .next (bnStep (setBn s b { bnEng s b with modulus := p.modulus, lm := ceilDiv p.bitLen 64, set := set.val }) b) := by
  change execPsel b set lm s = _
  refine onProg_eq hruns ?_
  simp only [hset, psel_gate_open s p hgate, Bool.false_eq_true, if_false, if_neg hmod, if_pos hnum, go]

theorem exec_psel_of_loaded (hnum : 32 ≤ set.val) (hlm : 0 < lm.val) (hmax : lm.val ≤ 256) (hfits : ceilDiv p.bitLen 64 ≤ lm.val) :
    exec (.psel b set lm) s
    = .next (bnStep (setBn s b { bnEng s b with modulus := p.modulus, lm := lm.val, set := set.val }) b) := by
  have hform : ¬ (lm.val = 0 ∨ 256 < lm.val) := by omega
  change execPsel b set lm s = _
  refine onProg_eq hruns ?_
  simp only [hset, psel_gate_open s p hgate, Bool.false_eq_true, if_false, if_neg hmod, if_neg (not_lt.mpr hnum), if_neg hform,
    if_neg (not_lt.mpr hfits), go]

end Psel

section Psetm
variable {a : Fin 1024} (hslot : slotValid (slotDesc s b.val a.val) = true)
  (hclean : poisoned s 6 (slotWords s b.val a.val (slotLen (slotDesc s b.val a.val))) = false)
  (hlen : slotLen (slotDesc s b.val a.val) ≤ 256)
include hruns hslot hclean hlen

theorem exec_psetm_of_read : exec (.psetm b a) s
    = (let n := slotLen (slotDesc s b.val a.val)
       let m := slotLow s b a n
       .next (if s.mode.lc = .production ∧ v.hdr.maint = false then setResult s b .policy 0 0
         else if m % 2 = 0 then setResult s b .malformed 0 0
         else bnStep (setBn s b { bnEng s b with modulus := m, lm := n, set := 64 }) b)) := by
  change execPsetm b a s = _
  exact (if_neg (not_lt.mpr hlen)).trans
    (slotInstr_of_clean hruns (by simpa using slotHolds_self hslot) (by simpa using hclean))

end Psetm

theorem exec_pull_of_fits {d part : Fin 1024} {arg : Fin 4} {n : Fin 64} {h : Word × Nat} (hruns : programRuns s b o v)
    (hslot : slotValid (slotDesc s b.val d.val) = true) (hlen : 4 * (n.val + 1) ≤ slotLen (slotDesc s b.val d.val))
    (harg : tfind v.hand.args arg.val = some h) (hparts : part.val + (n.val + 1) ≤ execPull.hLen s h.1) :
    exec (.pull b d arg part n) s
    = (let s1 := setDesc s b.val d.val (setBits (slotDesc s b.val d.val) 62 62 1)
       .next (slotStore s1 b d (4 * (n.val + 1)) (bytesOf (tget 0 (bnEng s b).keyIn arg.val) (32 * part.val) (32 * (n.val + 1))))) := by
  change execPull b d arg part n s = _
  refine (slotInstr_of_clean hruns (by simpa using slotHolds_iff.mpr ⟨hslot, hlen⟩) (by simp)).trans ?_
  simp only [harg, if_neg (not_lt.mpr hparts)]

section Sdef
variable {d : Fin 1024} {desc : BitVec 46} {w : Word} (hw : w = BitVec.ofNat 64 (desc.toNat + 2 ^ 63))
include hruns hw

theorem exec_sdef_of_refused (h : slotRefused s b.val d.val w = true) : exec (.sdef b d desc) s = .next (bnStep (slotDefine s b.val d.val w) b) := by
  subst hw
  change execSdef b d desc s = _
  exact onProg_eq hruns (if_pos h)

theorem exec_sdef_of_no_input (h : tfind (bnEng s b).inputs d.val = none) :
    exec (.sdef b d desc) s = .next (bnStep (slotDefine s b.val d.val w) b) := by
  subst hw
  change execSdef b d desc s = _
  refine onProg_eq hruns ?_
  simp only [h, go, ite_self]

theorem exec_sdef_of_input {x : Nat} (h : tfind (bnEng s b).inputs d.val = some x) (hok : slotRefused s b.val d.val w = false) :
    exec (.sdef b d desc) s
    = (let s1 := slotDefine s b.val d.val w
       let g1 := { bnEng s1 b with inputs := tdel (bnEng s b).inputs d.val }
       .next (bnStep (slotPut (setBn s1 b g1) b.val d.val x) b)) := by
  subst hw
  change execSdef b d desc s = _
  refine onProg_eq hruns ((if_neg (Bool.eq_false_iff.mp hok)).trans ?_)
  simp only [h, go]

end Sdef

/-! ## Moves, comparison and random values -/

section Moves
variable {a d x : Fin 1024}
include hruns

theorem exec_zero_of_defined (hd : slotValid (slotDesc s b.val d.val) = true) : exec (.zero b d) s
    = .next (slotStore s b d (slotLen (slotDesc s b.val d.val)) 0) := by
  change execZero b d s = _
  exact slotInstr_of_clean hruns (by simpa using slotHolds_self hd) (by simp)

theorem exec_mov_of_clean (hd : slotValid (slotDesc s b.val d.val) = true) (ha : slotHolds s b (slotLen (slotDesc s b.val d.val)) a = true)
    (hclean : poisoned s 6 (slotWords s b.val a.val (slotLen (slotDesc s b.val d.val))) = false) : exec (.mov b d a) s
    = .next (slotStore s b d (slotLen (slotDesc s b.val d.val)) (slotLow s b a (slotLen (slotDesc s b.val d.val)))) := by
  change execMov b d a s = _
  exact slotInstr_of_clean hruns (by simpa using ⟨ha, slotHolds_self hd⟩) (by simpa using hclean)

theorem exec_mov_of_poisoned (hd : slotValid (slotDesc s b.val d.val) = true)
    (ha : slotHolds s b (slotLen (slotDesc s b.val d.val)) a = true)
    (hpoison : poisoned s 6 (slotWords s b.val a.val (slotLen (slotDesc s b.val d.val))) = true) :
    exec (.mov b d a) s = .next (endOrder s o .poison 0) := by
  change execMov b d a s = _
  exact slotInstr_of_poisoned hruns (by simpa using ⟨ha, slotHolds_self hd⟩) (List.mem_singleton.mpr rfl) hpoison

theorem exec_keccak_of_clean (hd : slotHolds s b 25 d = true) (hclean : poisoned s 6 (slotWords s b.val d.val 25) = false) :
    exec (.keccak b d) s = .next (slotStore s b d 25 (keccakF (slotLow s b d 25))) := by
  change execKeccak b d s = _
  exact slotInstr_of_clean hruns (by simpa using hd) (by simpa using hclean)

theorem exec_cmp_of_clean (ha : slotValid (slotDesc s b.val a.val) = true) (hx : slotValid (slotDesc s b.val x.val) = true)
    (hca : poisoned s 6 (slotWords s b.val a.val (slotLen (slotDesc s b.val a.val))) = false)
    (hcx : poisoned s 6 (slotWords s b.val x.val (slotLen (slotDesc s b.val x.val))) = false) : exec (.cmp b a x) s
    = (let u := slotLow s b a (slotLen (slotDesc s b.val a.val))
       let w := slotLow s b x (slotLen (slotDesc s b.val x.val))
       .next (bnStep (setBn s b { bnEng s b with eq := decide (u = w), lt := decide (u < w) }) b)) := by
  change execCmp b a x s = _
  exact slotInstr_of_clean hruns (by simpa using ⟨slotHolds_self ha, slotHolds_self hx⟩) (by simpa using ⟨hca, hcx⟩)

variable (hd : slotHolds s b (bnEng s b).lm d = true) (hmod : (bnEng s b).modulus ≠ 0)
include hd hmod

theorem exec_rndm_of_drbg_held (hready : drbgReady s b = (false, s1)) : exec (.rndm b d) s = .next (setResult s1 b .rejectLimit 0 0) := by
  change execRndm b d s = _
  refine (slotInstr_of_clean hruns (by simpa using hd) (by simp)).trans ?_
  simp only [if_neg hmod, withDrbg, hready]

theorem exec_rndm_of_drbg_ready (hready : drbgReady s b = (true, s1)) : exec (.rndm b d) s
    = (let r := draw 16384 (drbgCount s1 b 1)
       let x := r.1.toNat % 2 ^ bitLength (bnEng s b).modulus
       let g1 := { bnEng r.2 b with rej := decide ((bnEng s b).modulus ≤ x) }
       .next (slotStore (setBn r.2 b g1) b d (bnEng s b).lm x)) := by
  change execRndm b d s = _
  refine (slotInstr_of_clean hruns (by simpa using hd) (by simp)).trans ?_
  simp only [if_neg hmod, withDrbg, hready]

end Moves

/-! ## Control -/

section Skip
variable {cond : SkipFlag} {neg flag : Bool} {n : BitVec 16} (hflag : bnFlag (bnEng s b) cond.val = some flag)
include hruns hflag

theorem exec_skip_of_inside (h : ∀ f r, (bnEng s b).loops = f :: r → (bnEng s b).pc + n.toNat ≤ f.last) : exec (.skip b cond neg n) s
    = .next (bnNext s b (if flag = neg then (bnEng s b).pc else (bnEng s b).pc + n.toNat)) := by
  have htaken : (if (flag != neg) = true then (bnEng s b).pc + n.toNat else (bnEng s b).pc)
      = if flag = neg then (bnEng s b).pc else (bnEng s b).pc + n.toNat := by cases flag <;> cases neg <;> rfl
  change execSkip b cond neg n s = _
  refine onProg_eq hruns ?_
  cases hloops : (bnEng s b).loops with
  | nil => simp only [hflag, htaken, Bool.not_true, Bool.false_eq_true, if_false, go]
  | cons f r => simp only [hflag, htaken, h f r hloops, decide_true, Bool.not_true, Bool.false_eq_true, if_false, go]

theorem exec_skip_of_outside {f : LoopFrame} {r : List LoopFrame} (hloops : (bnEng s b).loops = f :: r)
    (h : f.last < (bnEng s b).pc + n.toNat) : exec (.skip b cond neg n) s = .refused .refusedByLoader := by
  change execSkip b cond neg n s = _
  refine onProg_eq hruns ?_
  simp only [hflag, hloops, decide_eq_false (not_le.mpr h), Bool.not_false, if_true]

end Skip

section Loop
variable {body : Fin 1024} {times : BitVec 16}
include hruns

theorem exec_bnLoop_of_fits
    (h : (bnEng s b).loops = [] ∨ ∃ f, (bnEng s b).loops = [f] ∧ (bnEng s b).pc + 1 + body.val ≤ f.last) : exec (.bnLoop b body times) s
    = (let g := bnEng s b
       .next (setBn s b { g with loops := ⟨g.pc + 1, g.pc + 1 + body.val, times.toNat + 1⟩ :: g.loops, pc := g.pc + 1 })) := by
  change execBnLoop b body times s = _
  refine onProg_eq hruns ?_
  rcases h with hnil | ⟨f, hone, hlast⟩
  · simp only [hnil, if_true, go]
  · simp only [hone, hlast, decide_true, if_true, go]

theorem exec_bnLoop_of_deep (h : 1 < (bnEng s b).loops.length) : exec (.bnLoop b body times) s = .refused .refusedByLoader := by
  change execBnLoop b body times s = _
  refine onProg_eq hruns ?_
  match hloops : (bnEng s b).loops with
  | [] => simp [hloops] at h
  | [f] => simp [hloops] at h
  | f :: f' :: r => simp only [Bool.false_eq_true, if_false]

end Loop

section End
variable {status : BitVec 16} {st : Status} (hst : stOfCode status.toNat = some st)
include hruns hst

theorem exec_bnEnd_of_ok (hok : exitOk st = true) : exec (.bnEnd b status) s = .next (setResult s b st 0 0) := by
  change execBnEnd b status s = _
  refine onProg_eq hruns ?_
  simp only [hst, hok, if_true, go]

theorem exec_bnEnd_of_not_ok (hbad : exitOk st = false) : exec (.bnEnd b status) s = .refused .refusedByLoader := by
  change execBnEnd b status s = _
  refine onProg_eq hruns ?_
  simp only [hst, hbad, Bool.false_eq_true, if_false]

end End

end Program

/-- Settles O49: each instruction is the shared shape at its slots, then its own conditions. -/
theorem slotProgramControlAndData : Obligations.SlotProgramControlAndData := by
  intro b o v s hruns
  refine ⟨fun set lm p hset => ⟨fun hgate => ⟨exec_psel_of_no_modulus hruns hset hgate, exec_psel_of_builtin hruns hset hgate,
      exec_psel_of_loaded hruns hset hgate⟩, exec_psel_of_unchecked hruns hset⟩, fun set lm => exec_psel_of_undefined hruns,
    fun a hslot hclean hlen => ⟨fun hlc hmaint => ?_, fun hgate => ⟨fun heven => ?_, fun hodd => ?_⟩⟩,
    fun d part arg n h => exec_pull_of_fits hruns,
    fun d desc w hw => ⟨fun h => h.elim (exec_sdef_of_no_input hruns hw) (exec_sdef_of_refused hruns hw),
      fun x => exec_sdef_of_input hruns hw⟩,
    fun d hd => ⟨exec_zero_of_defined hruns hd, fun a ha hlen => ⟨exec_mov_of_clean hruns hd (slotHolds_iff.mpr ⟨ha, hlen⟩),
      exec_mov_of_poisoned hruns hd (slotHolds_iff.mpr ⟨ha, hlen⟩)⟩,
      fun hlen => exec_keccak_of_clean hruns (slotHolds_iff.mpr ⟨hd, hlen⟩)⟩,
    fun a x => exec_cmp_of_clean hruns,
    fun d hd hlen hmod => ⟨fun s1 => exec_rndm_of_drbg_ready hruns (slotHolds_iff.mpr ⟨hd, hlen⟩) hmod,
      fun s1 => exec_rndm_of_drbg_held hruns (slotHolds_iff.mpr ⟨hd, hlen⟩) hmod⟩,
    fun cond neg n flag hflag => ⟨exec_skip_of_inside hruns hflag, fun f r => exec_skip_of_outside hruns hflag⟩,
    fun body times => ⟨exec_bnLoop_of_fits hruns, exec_bnLoop_of_deep hruns⟩,
    fun status st hst => ⟨exec_bnEnd_of_ok hruns hst, exec_bnEnd_of_not_ok hruns hst⟩⟩
  · rw [exec_psetm_of_read hruns hslot hclean hlen]
    exact congrArg Host.Outcome.next (if_pos ⟨hlc, hmaint⟩)
  · rw [exec_psetm_of_read hruns hslot hclean hlen]
    exact congrArg Host.Outcome.next ((if_neg hgate).trans (if_pos heven))
  · rw [exec_psetm_of_read hruns hslot hclean hlen]
    exact congrArg Host.Outcome.next ((if_neg hgate).trans (if_neg hodd))

end Machine
end Sys2Proof
end

section
/-! PROOF. Slot programs: modular, product and polynomial instructions. -/

namespace Sys2Proof
namespace Machine

/-- A result of operands below the modulus is exact. -/
theorem congruent_of_inside (s : State) (m lm r : Nat) {inside : Bool} (h : inside = true) : congruent s m lm r inside = (r, s) := by
  simp [congruent, h]

section Program
variable {b : BnIx} {o : Nat} {v : Order} {s : State} {d a x : Fin 1024} (hruns : programRuns s b o v)

/-- A slot holds n words, none poisoned. -/
abbrev holdsClean (s : State) (b : BnIx) (y : Fin 1024) (n : Nat) : Prop :=
  slotHolds s b n y = true ∧ poisoned s 6 (slotWords s b.val y.val n) = false

/-! ## Modular instructions -/

section Modular
variable (hd : slotHolds s b (bnEng s b).lm d = true)
include hruns hd

section Operands
variable {ops : List (Fin 1024)} (hops : ∀ y ∈ ops, holdsClean s b y (bnEng s b).lm)
include hops

theorem modInstr_of_no_modulus (f : Nat → Nat → List Nat → Nat) (hmod : (bnEng s b).modulus = 0) :
    modInstr b d ops s f = .next (setResult s b .malformed 0 0) := by
  refine (slotInstr_of_clean hruns ?_ ?_).trans (congrArg Host.Outcome.next (if_pos hmod))
  · simpa [or_imp, forall_and, hd] using fun y hy => (hops y hy).1
  · simpa using fun y hy => (hops y hy).2

/-- A modular instruction on operands below the modulus stores its formula's residue. -/
theorem modInstr_of_inside (f : Nat → Nat → List Nat → Nat) (hmod : (bnEng s b).modulus ≠ 0)
    (hbelow : ∀ y ∈ ops, slotLow s b y (bnEng s b).lm < (bnEng s b).modulus) : modInstr b d ops s f
    = (let g := bnEng s b
       .next (slotStore s b d g.lm (f g.modulus g.lm (ops.map fun y => slotLow s b y g.lm) % g.modulus))) := by
  have hinside : ((ops.map fun y => slotLow s b y (bnEng s b).lm).all fun w => w < (bnEng s b).modulus) = true := by
    simpa using hbelow
  refine (slotInstr_of_clean hruns ?_ ?_).trans (congrArg Host.Outcome.next ((if_neg hmod).trans ?_))
  · simpa [or_imp, forall_and, hd] using fun y hy => (hops y hy).1
  · simpa using fun y hy => (hops y hy).2
  · simp only [congruent_of_inside s _ _ _ hinside]

end Operands

variable (hmod : (bnEng s b).modulus ≠ 0)
include hmod

theorem modInstr_one (f : Nat → Nat → List Nat → Nat) (ha : holdsClean s b a (bnEng s b).lm)
    (hbelow : slotLow s b a (bnEng s b).lm < (bnEng s b).modulus) : modInstr b d [a] s f
    = (let g := bnEng s b
       .next (slotStore s b d g.lm (f g.modulus g.lm [slotLow s b a g.lm] % g.modulus))) :=
  modInstr_of_inside hruns hd (by simpa using ha) f hmod (by simpa using hbelow)

theorem modInstr_two (f : Nat → Nat → List Nat → Nat) (ha : holdsClean s b a (bnEng s b).lm) (hx : holdsClean s b x (bnEng s b).lm)
    (hbelowa : slotLow s b a (bnEng s b).lm < (bnEng s b).modulus) (hbelowx : slotLow s b x (bnEng s b).lm < (bnEng s b).modulus) :
    modInstr b d [a, x] s f
    = (let g := bnEng s b
       .next (slotStore s b d g.lm (f g.modulus g.lm [slotLow s b a g.lm, slotLow s b x g.lm] % g.modulus))) :=
  modInstr_of_inside hruns hd (by simpa using ⟨ha, hx⟩) f hmod (by simpa using ⟨hbelowa, hbelowx⟩)

theorem exec_minv_of_inside (ha : holdsClean s b a (bnEng s b).lm) (hbelow : slotLow s b a (bnEng s b).lm < (bnEng s b).modulus) :
    exec (.minv b d a) s
    = (let g := bnEng s b
       .next (slotStore s b d g.lm (powMod g.modulus (slotLow s b a g.lm) (g.modulus - 2) (64 * g.lm) % g.modulus))) := by
  change execMinv b d a s = _
  refine (modInstr_one hruns hd hmod _ ha hbelow).trans ?_
  simp only [List.headD_cons, Nat.mod_eq_of_lt hbelow]

theorem exec_msub_of_inside (ha : holdsClean s b a (bnEng s b).lm) (hx : holdsClean s b x (bnEng s b).lm)
    (hbelowa : slotLow s b a (bnEng s b).lm < (bnEng s b).modulus) (hbelowx : slotLow s b x (bnEng s b).lm < (bnEng s b).modulus) :
    exec (.msub b d a x) s
    = (let g := bnEng s b
       .next (slotStore s b d g.lm ((slotLow s b a g.lm + (g.modulus - slotLow s b x g.lm)) % g.modulus))) := by
  change execMsub b d a x s = _
  refine (modInstr_two hruns hd hmod _ ha hx hbelowa hbelowx).trans ?_
  simp only [List.headD_cons, List.drop_succ_cons, List.drop_zero, Nat.mod_eq_of_lt hbelowx]

theorem exec_mexp_of_inside (ha : holdsClean s b a (bnEng s b).lm) (hbelow : slotLow s b a (bnEng s b).lm < (bnEng s b).modulus)
    (hx : holdsClean s b x (slotLen (slotDesc s b.val x.val))) : exec (.mexp b d a x) s
    = (let g := bnEng s b
       let lb := slotLen (slotDesc s b.val x.val)
       .next (slotStore s b d g.lm (powMod g.modulus (slotLow s b a g.lm) (slotLow s b x lb) (64 * lb)))) := by
  change execMexp b d a x s = _
  refine (slotInstr_of_clean hruns (by simpa using ⟨ha.1, hx.1, hd⟩) (by simpa using ⟨ha.2, hx.2⟩)).trans ?_
  simp only [if_neg hmod, Nat.mod_eq_of_lt hbelow, congruent_of_inside s _ _ _ (decide_eq_true hbelow)]

theorem exec_mred_of_clean (ha : holdsClean s b a (2 * (bnEng s b).lm)) : exec (.mred b d a) s
    = (let g := bnEng s b
       .next (slotStore s b d g.lm (slotLow s b a (2 * g.lm) % g.modulus))) := by
  change execMred b d a s = _
  exact (slotInstr_of_clean hruns (by simpa using ⟨ha.1, hd⟩) (by simpa using ha.2)).trans (congrArg Host.Outcome.next (if_neg hmod))

end Modular

theorem exec_bnMul_of_clean (hruns : programRuns s b o v) (hd : slotHolds s b (2 * (bnEng s b).lm) d = true)
    (ha : holdsClean s b a (bnEng s b).lm) (hx : holdsClean s b x (bnEng s b).lm) : exec (.bnMul b d a x) s
    = (let g := bnEng s b
       .next (slotStore s b d (2 * g.lm) (slotLow s b a g.lm * slotLow s b x g.lm))) := by
  change execBnMul b d a x s = _
  exact slotInstr_of_clean hruns (by simpa using ⟨ha.1, hx.1, hd⟩) (by simpa using ⟨ha.2, hx.2⟩)

/-! ## Sums of products and reduction in place -/

section Sump
variable {le : Fin 1024} {terms : BitVec 16} (hd : slotHolds s b (bnEng s b).lm d = true)
  (hform : ¬ ((bnEng s b).modulus = 0 ∨ le.val = 0 ∨ 6 < le.val ∨ 6 < (bnEng s b).lm ∨ 2 ^ 376 ≤ (bnEng s b).modulus))
  (ha : holdsClean s b a ((terms.toNat + 1) * le.val)) (hx : holdsClean s b x ((terms.toNat + 1) * le.val))
include hruns hd hform ha hx

theorem exec_sump_of_overflow (h : (sumProducts (slotLow s b a ((terms.toNat + 1) * le.val)) (slotLow s b x ((terms.toNat + 1) * le.val))
      le.val (terms.toNat + 1)).2 = true) : exec (.sump b d a x le terms) s
    = .next (bnStep (setBn (evt (cntUp s 0x50028 63 32) 5 7) b { bnEng s b with guard := true }) b) := by
  change execSump b d a x le terms s = _
  refine (slotInstr_of_clean hruns (by simpa using ⟨ha.1, hx.1, hd⟩) (by simpa using ⟨ha.2, hx.2⟩)).trans ?_
  simp only [if_neg hform, h, if_true]

theorem exec_sump_of_sum {t : Nat × Bool} (ht : sumProducts (slotLow s b a ((terms.toNat + 1) * le.val))
      (slotLow s b x ((terms.toNat + 1) * le.val)) le.val (terms.toNat + 1) = t) (hfits : t.2 = false)
    (hbelow : ∀ i, i < terms.toNat + 1 → elem (slotLow s b a ((terms.toNat + 1) * le.val)) le.val i < (bnEng s b).modulus
      ∧ elem (slotLow s b x ((terms.toNat + 1) * le.val)) le.val i < (bnEng s b).modulus) : exec (.sump b d a x le terms) s
    = .next (slotStore (setBn s b { bnEng s b with guard := false }) b d (bnEng s b).lm (t.1 % (bnEng s b).modulus)) := by
  have hinside : ((List.range (terms.toNat + 1)).all fun i =>
      elem (slotLow s b a ((terms.toNat + 1) * le.val)) le.val i < (bnEng s b).modulus
        && elem (slotLow s b x ((terms.toNat + 1) * le.val)) le.val i < (bnEng s b).modulus) = true := by
    simpa using hbelow
  change execSump b d a x le terms s = _
  refine (slotInstr_of_clean hruns (by simpa using ⟨ha.1, hx.1, hd⟩) (by simpa using ⟨ha.2, hx.2⟩)).trans ?_
  simp only [if_neg hform, ht, hfits, Bool.false_eq_true, if_false, congruent_of_inside _ _ _ _ hinside]

end Sump

theorem exec_vred_of_clean {le : Fin 1024} {elems : BitVec 16} (hruns : programRuns s b o v) (hmod : (bnEng s b).modulus ≠ 0)
    (hd : holdsClean s b d ((elems.toNat + 1) * le.val)) : exec (.vred b d le elems) s
    = (let n := elems.toNat + 1
       .next (slotStore s b d (n * le.val) (packWords (8 * le.val)
         ((List.range n).map fun i => elem (slotLow s b d (n * le.val)) le.val i % (bnEng s b).modulus)))) := by
  change execVred b d le elems s = _
  exact (slotInstr_of_clean hruns (by simpa using hd.1) (by simpa using hd.2)).trans (congrArg Host.Outcome.next (if_neg hmod))

/-! ## Polynomials -/

section Poly
variable (hd : slotHolds s b (polyWords (bnEng s b)) d = true)
include hruns hd

section Operands
variable {ops : List (Fin 1024)} (hops : ∀ y ∈ ops, holdsClean s b y (polyWords (bnEng s b)))
include hops

theorem polyInstr_of_no_set (f : Nat × Nat × Nat → List Nat → Nat → Nat) (hset : nttSet (bnEng s b) = none) :
    polyInstr b d ops s f = .next (setResult s b .malformed 0 0) := by
  refine (slotInstr_of_clean hruns ?_ ?_).trans ?_
  · simpa [or_imp, forall_and, hd] using fun y hy => (hops y hy).1
  · simpa using fun y hy => (hops y hy).2
  · simp only [hset]

theorem polyInstr_of_set {p : Nat × Nat × Nat} (f : Nat × Nat × Nat → List Nat → Nat → Nat) (hset : nttSet (bnEng s b) = some p) :
    polyInstr b d ops s f
    = (let w := polyWords (bnEng s b)
       .next (slotStore s b d w (packWords 4 ((List.range p.2.1).map fun i => f p (ops.map fun y => slotLow s b y w) i % p.1)))) := by
  refine (slotInstr_of_clean hruns ?_ ?_).trans ?_
  · simpa [or_imp, forall_and, hd] using fun y hy => (hops y hy).1
  · simpa using fun y hy => (hops y hy).2
  · simp only [hset]

end Operands

variable {q n z : Nat} (hset : nttSet (bnEng s b) = some (q, n, z))
include hset

theorem exec_sample_of_clean (ha : holdsClean s b a (slotLen (slotDesc s b.val a.val))) : exec (.sample b d a) s
    = (let la := slotLen (slotDesc s b.val a.val)
       let g1 := { bnEng s b with short := Config.external 24 [q, n, la, slotLow s b a la] % 2 == 1 }
       .next (slotStore (setBn s b g1) b d (polyWords (bnEng s b))
         (packWords 4 ((List.range n).map fun i => Config.external 23 [q, n, la, slotLow s b a la, i] % q)))) := by
  change execSample b d a s = _
  refine (slotInstr_of_clean hruns (by simpa using ⟨ha.1, hd⟩) (by simpa using ha.2)).trans ?_
  simp only [hset]

theorem polyInstr_one (f : Nat × Nat × Nat → List Nat → Nat → Nat) (ha : holdsClean s b a (polyWords (bnEng s b))) :
    polyInstr b d [a] s f
    = (let w := polyWords (bnEng s b)
       .next (slotStore s b d w (packWords 4 ((List.range n).map fun i => f (q, n, z) [slotLow s b a w] i % q)))) :=
  polyInstr_of_set hruns hd (by simpa using ha) f hset

theorem polyInstr_two (f : Nat × Nat × Nat → List Nat → Nat → Nat) (ha : holdsClean s b a (polyWords (bnEng s b)))
    (hx : holdsClean s b x (polyWords (bnEng s b))) : polyInstr b d [a, x] s f
    = (let w := polyWords (bnEng s b)
       .next (slotStore s b d w (packWords 4 ((List.range n).map fun i => f (q, n, z) [slotLow s b a w, slotLow s b x w] i % q)))) :=
  polyInstr_of_set hruns hd (by simpa using ⟨ha, hx⟩) f hset

end Poly

end Program

/-- Settles O50: the modular and polynomial shapes at each formula, with the operands below the modulus. -/
theorem slotProgramArithmetic : Obligations.SlotProgramArithmetic := by
  intro b o v s d a x hruns
  refine ⟨fun hd ha hmod hbelow => ⟨modInstr_one hruns hd hmod (fun m lm xs => xs.headD 0 * radix m lm) ha hbelow,
      modInstr_one hruns hd hmod (fun m lm xs => xs.headD 0 * radixInv m lm) ha hbelow, exec_minv_of_inside hruns hd hmod ha hbelow,
      fun hx hbelowx => ⟨modInstr_two hruns hd hmod (fun _ _ xs => xs.headD 0 + (xs.drop 1).headD 0) ha hx hbelow hbelowx,
        exec_msub_of_inside hruns hd hmod ha hx hbelow hbelowx,
        modInstr_two hruns hd hmod (fun m lm xs => xs.headD 0 * (xs.drop 1).headD 0 * radixInv m lm) ha hx hbelow hbelowx⟩,
      exec_mexp_of_inside hruns hd hmod ha hbelow⟩,
    fun hd ha hmod => exec_mred_of_clean hruns hd hmod ha, exec_bnMul_of_clean hruns,
    fun le terms hd hmod hmax hle hle6 hlm6 ha hx => ?_, fun le elems hmod => exec_vred_of_clean hruns hmod,
    fun q n z hset hd => ⟨fun ha => ⟨polyInstr_one hruns hd hset (fun p xs i => Config.external 21 [p.1, p.2.1, p.2.2, xs.headD 0, i]) ha,
        polyInstr_one hruns hd hset (fun p xs i => Config.external 22 [p.1, p.2.1, p.2.2, xs.headD 0, i]) ha,
        fun hx => ⟨polyInstr_two hruns hd hset (fun _ xs i => coeff (xs.headD 0) i * coeff ((xs.drop 1).headD 0) i) ha hx,
          polyInstr_two hruns hd hset (fun _ xs i => coeff (xs.headD 0) i + coeff ((xs.drop 1).headD 0) i) ha hx,
          polyInstr_two hruns hd hset (fun p xs i => coeff (xs.headD 0) i + (p.1 - coeff ((xs.drop 1).headD 0) i % p.1)) ha hx⟩⟩,
      exec_sample_of_clean hruns hd hset⟩,
    fun hmod hd ha hx => modInstr_of_no_modulus hruns hd (by simpa using ⟨ha, hx⟩) (fun _ _ xs => xs.headD 0 + (xs.drop 1).headD 0) hmod,
    fun hset hd ha => polyInstr_of_no_set hruns hd (by simpa using ha)
      (fun p xs i => Config.external 21 [p.1, p.2.1, p.2.2, xs.headD 0, i]) hset⟩
  have hform : ¬ ((bnEng s b).modulus = 0 ∨ le.val = 0 ∨ 6 < le.val ∨ 6 < (bnEng s b).lm ∨ 2 ^ 376 ≤ (bnEng s b).modulus) := by
    simp only [not_or, not_lt, not_le]
    exact ⟨hmod, hle.ne', hle6, hlm6, hmax⟩
  exact ⟨exec_sump_of_overflow hruns hd hform ha hx, exec_sump_of_sum hruns hd hform ha hx rfl⟩

end Machine
end Sys2Proof
end

section
/-! PROOF. Library routines that are commands of their own. -/

namespace Sys2Proof
namespace Machine

section Routines
variable {e : EngIx} {o rn : Nat} {v : Order} {s : State}

/-- A library routine whose input is in is its body there. -/
theorem onRoutine_eq (hruns : routineRuns s e o v rn) {f : Nat → Order → Engine → Result} {r : Result} (h : f o v (eng s e.val) = r) :
    onRoutine e rn s f = r := by
  obtain ⟨heng, hrn, hinput⟩ := hruns
  exact onEngine_eq heng ((if_pos ⟨hrn, hinput⟩).trans h)

theorem exec_echo_of_runs (hruns : routineRuns s e o v 0x00) : exec (.echo e) s = .next (endOrder s o .done (tbNow s)) := by
  change execEcho e s = _
  exact onRoutine_eq hruns rfl

theorem exec_rekeySlot_of_ok (hruns : routineRuns s e o v 0x34) (h : rekeySlotOk v = true) :
    exec (.rekeySlot e) s = .next (endOrder s o .done (rekeyTime v)) := by
  change execRekeySlot e s = _
  exact onRoutine_eq hruns (if_pos h)

theorem exec_rekeySlot_of_not_ok (hruns : routineRuns s e o v 0x34) (h : rekeySlotOk v = false) :
    exec (.rekeySlot e) s = .next (endOrder s o .malformed 0) := by
  change execRekeySlot e s = _
  exact onRoutine_eq hruns (if_neg (Bool.eq_false_iff.mp h))

section RekeyStep
variable {rdKey : CellarRead} {picks : List Nat} (hruns : routineRuns s e o v 0x35)
include hruns

theorem exec_rekeyStep_of_no_count (h : rekeyCount v = none) : exec (.rekeyStep e rdKey picks) s = .next (endOrder s o .malformed 0) := by
  change execRekeyStep e rdKey picks s = _
  refine onRoutine_eq hruns ?_
  simp only [h, go]

variable {n : Nat} {s1 s2 : State} {r : Rec} (hcount : rekeyCount v = some n) (htmpl : rekeyTmplOk (tmplOf (inputNum v % 2 ^ 512)) = true)
  (hname : mayNameKey v v.handle = true) (hkey : keyChecks s v.handle 0 0 rdKey .clean = (s1, .ok r))
  (haes : aesCheck ⟨r.mat, true, 0, r.typ, 0, r.matLen⟩ .enc = none)
include hcount htmpl hname hkey haes

theorem exec_rekeyStep_of_ok {hs : List Word}
    (h : rekeyAll s1 v (tmplOf (inputNum v % 2 ^ 512)) ⟨r.mat, true, 0, r.typ, 0, r.matLen⟩ picks n = (s2, .ok hs)) :
    exec (.rekeyStep e rdKey picks) s = .next (endOrder (updOrder s2 o fun v =>
      { v with staged := tstoreList [] 0 (hs.flatMap fun h => (unpackBytes 8 h.toNat).map (BitVec.ofNat 8)) }) o .done 0) := by
  change execRekeyStep e rdKey picks s = _
  refine onRoutine_eq hruns ?_
  simp only [hcount, htmpl, hname, hkey, haes, h, Bool.not_true, Bool.false_eq_true, if_false, go]

theorem exec_rekeyStep_of_refused {st : Status}
    (h : rekeyAll s1 v (tmplOf (inputNum v % 2 ^ 512)) ⟨r.mat, true, 0, r.typ, 0, r.matLen⟩ picks n = (s2, .error st)) :
    exec (.rekeyStep e rdKey picks) s = .next (endOrder s2 o st 0) := by
  change execRekeyStep e rdKey picks s = _
  refine onRoutine_eq hruns ?_
  simp only [hcount, htmpl, hname, hkey, haes, h, Bool.not_true, Bool.false_eq_true, if_false, go]

end RekeyStep

section TransportOpen
variable (hruns : routineRuns s e o v 0x50)
include hruns

theorem exec_transportOpen_of_second (h : (eng s e.val).second = true) :
    exec (.transportOpen e) s = .next (exitOutcome s o (tget 0 (eng s e.val).core.x 16)) := by
  change execTransportOpen e s = _
  exact onRoutine_eq hruns (if_pos h)

variable (hfirst : (eng s e.val).second = false)
include hfirst

theorem exec_transportOpen_of_length (h : v.inLen = 1120) : exec (.transportOpen e) s
    = .next (handOver s e o v { op := some (.service 0x18 2), ins := [windowIn 0 0 32, windowIn 1 32 1088] } v.staged) := by
  change execTransportOpen e s = _
  exact onRoutine_eq hruns ((if_neg (Bool.eq_false_iff.mp hfirst)).trans (if_neg (not_not.mpr h)))

theorem exec_transportOpen_of_other_length (h : v.inLen ≠ 1120) : exec (.transportOpen e) s = .next (endOrder s o .malformed 0) := by
  change execTransportOpen e s = _
  exact onRoutine_eq hruns ((if_neg (Bool.eq_false_iff.mp hfirst)).trans (if_pos h))

end TransportOpen

section Attest
variable {rd0 : CellarRead} (hruns : routineRuns s e o v 0x58)
include hruns

theorem exec_attest_of_second (h : (eng s e.val).second = true) :
    exec (.attest e rd0) s = .next (exitOutcome s o (tget 0 (eng s e.val).core.x 16)) := by
  change execAttest e rd0 s = _
  exact onRoutine_eq hruns (if_pos h)

variable (hfirst : (eng s e.val).second = false)
include hfirst

theorem exec_attest_of_not_ok (h : attestOk v = false) : exec (.attest e rd0) s = .next (endOrder s o .malformed 0) := by
  change execAttest e rd0 s = _
  exact onRoutine_eq hruns ((if_neg (Bool.eq_false_iff.mp hfirst)).trans (if_pos (by simp only [h, Bool.not_false])))

/-- A request that names no record of its slice hands over a response without one. -/
theorem exec_attest_of_no_record (h : attestOk v = true) (hslice : hSlice (BitVec.ofNat 64 (bytesOf (inputNum v) 0x28 8)) ≠ v.slice.val) :
    exec (.attest e rd0) s
    = (let dig := (unpackBytes 48 (sha384 224 (packBytes (attestBody s v none)))).map (BitVec.ofNat 8)
       let h : HandOff := { op := some (.service 1 1), args := [(0, 0, 5)], ins := [⟨0, false, true, 48, 0, dig⟩],
                            outs := [⟨0, true, true, 96, 0x1010000E0, []⟩] }
       .next (handOver s e o v h (tstoreList [] 0 ((attestBody s v none).map (BitVec.ofNat 8))))) := by
  change execAttest e rd0 s = _
  refine onRoutine_eq hruns ((if_neg (Bool.eq_false_iff.mp hfirst)).trans ((if_neg (by simp [h])).trans ?_))
  simp only [if_neg hslice, Bool.false_eq_true, if_false, go]

end Attest

section HearthRaw
variable (hruns : routineRuns s e o v 0xE0)
include hruns

theorem exec_hearthRaw_of_no_capture (h : s.ns.capValid = false) : exec (.hearthRaw e) s = .next (endOrder s o .malformed 0) := by
  change execHearthRaw e s = _
  exact onRoutine_eq hruns (if_pos (by simp only [h, true_or, or_true]))

variable (hform : ¬ (63 < inputNum v ∨ v.outLen = 0 ∨ 65536 < v.outLen ∨ v.outLen % 8 ≠ 0 ∨ s.ns.capValid = false ∨ s.ns.capRoom ≠ inputNum v))
include hform

theorem exec_hearthRaw_of_short (h : s.ns.cap.length < 8 * v.outLen) : exec (.hearthRaw e) s = .next (endOrder s o .rejectLimit 4) := by
  change execHearthRaw e s = _
  exact onRoutine_eq hruns ((if_neg hform).trans (if_pos h))

theorem exec_hearthRaw_of_enough (h : 8 * v.outLen ≤ s.ns.cap.length) : exec (.hearthRaw e) s
    = (let n1 := { s.ns with cap := s.ns.cap.drop (8 * v.outLen) }
       let v1 := { v with staged := tstoreList [] 0 (bitBytes s.ns.cap v.outLen) }
       .next (endOrder (setOrder { s with ns := n1 } o v1) o .done 0)) := by
  change execHearthRaw e s = _
  exact onRoutine_eq hruns ((if_neg hform).trans (if_neg (not_lt.mpr h)))

end HearthRaw

end Routines

end Machine
end Sys2Proof
end

section
/-! PROOF. The loader: what a command's outcome is, and what its end does. -/

namespace Sys2Proof
namespace Machine

section Gate
variable {s : State}

theorem ldBusy_of_cmd {c : LoadCmd} (h : s.ld.cmd = some c) : ldBusy s = true := by simp [ldBusy, h]
theorem ldBusy_of_none (h : s.ld.cmd = none) : ldBusy s = false := by simp [ldBusy, h]
theorem ldGate_of_locked (h : isLocked s = true) : ldGate s = some (1, .locked) := if_pos h

variable {op len rn : Nat} {image : HostRead (List Byte)} {sigOk : Bool}

theorem loadImage_of_busy {c : LoadCmd} (h : s.ld.cmd = some c) : loadImage s op len image sigOk = s := if_pos (ldBusy_of_cmd h)
theorem unloadCmd_of_busy {c : LoadCmd} (h : s.ld.cmd = some c) : unloadCmd s rn = s := if_pos (ldBusy_of_cmd h)

section Idle
variable (hidle : s.ld.cmd = none)
include hidle

theorem loadImage_of_locked (h : isLocked s = true) : loadImage s op len image sigOk = ldBegin s ⟨op, none, 1, .locked, 0, 0⟩ := by
  simp only [loadImage, ldBusy_of_none hidle, ldGate_of_locked h, Bool.false_eq_true, if_false]

theorem unloadCmd_of_locked (h : isLocked s = true) : unloadCmd s rn = ldBegin s ⟨2, none, 1, .locked, 0, rn⟩ := by
  simp only [unloadCmd, ldBusy_of_none hidle, ldGate_of_locked h, Bool.false_eq_true, if_false]

variable (hgate : ldGate s = none)
include hgate

theorem loadImage_of_unread : loadImage s op len .failed sigOk = ldBegin (dmaErr s) ⟨op, none, 3, .aborted, 0, 0⟩ := by
  simp only [loadImage, ldBusy_of_none hidle, hgate, Bool.false_eq_true, if_false]

theorem loadImage_of_malformed {l : List Byte} (h : imageFormOk len l = false) :
    loadImage s op len (.ok l) sigOk = ldBegin s ⟨op, none, 4, .malformed, 0, 0⟩ := by
  simp only [loadImage, ldBusy_of_none hidle, hgate, h, Bool.false_eq_true, if_false, Bool.not_false, if_true]

theorem loadImage_of_refused {l : List Byte} {reason k : Nat} {st : Status} (h : imageFormOk len l = true)
    (htests : imageTests s (imageOfBytes l) sigOk = (reason, st, k, none)) (hreason : reason ≠ 0) :
    loadImage s op len (.ok l) sigOk = ldBegin s ⟨op, some (imageOfBytes l), reason, st, k, (imageOfBytes l).hdr.routine⟩ := by
  simp only [loadImage, ldBusy_of_none hidle, hgate, h, htests, beq_false_of_ne hreason, Bool.false_and, Bool.not_true,
    Bool.false_eq_true, if_false]

theorem loadImage_of_passed {l : List Byte} {f : Figures} (h : imageFormOk len l = true)
    (htests : imageTests s (imageOfBytes l) sigOk = (0, .done, 0, some f)) : loadImage s op len (.ok l) sigOk
    = (let im := { imageOfBytes l with slotProg := f.slotProg }
       let full : Bool := granulesFree s < granules im.hdr
       ldBegin (ldFigures s f) ⟨op, some im, if full then 0x0B else 0, if full then .quota else .done, 0, im.hdr.routine⟩) := by
  simp only [loadImage, ldBusy_of_none hidle, hgate, h, htests, beq_self_eq_true, Bool.true_and, Bool.not_true,
    Bool.false_eq_true, if_false]

theorem unloadCmd_of_absent (h : tfind s.ld.dir rn = none) : unloadCmd s rn = ldBegin s ⟨2, none, 0x0C, .malformed, 0, rn⟩ := by
  simp only [unloadCmd, ldBusy_of_none hidle, hgate, h, Option.isNone_none, Bool.false_eq_true, if_false, if_true]

theorem unloadCmd_of_present (h : tfind s.ld.dir rn ≠ none) : unloadCmd s rn = ldBegin s ⟨2, none, 0, .done, 0, rn⟩ := by
  simp only [unloadCmd, ldBusy_of_none hidle, hgate, Option.isNone_eq_false_iff.mpr (Option.isSome_iff_ne_none.mpr h), Bool.false_eq_true, if_false]

end Idle

end Gate

/-- The state in which a loader command is reported done. -/
def ldReported (s : State) (c : LoadCmd) : State :=
  ldReport (ldSts { s with ld := { s.ld with cmd := none } } false c.routine c.reason c.bundle c.status) c

section Done
variable {s : State} {c : LoadCmd} (hcmd : s.ld.cmd = some c)
include hcmd

theorem exec_loaderCommandDone_of_not_done (h : c.status ≠ .done) : exec .loaderCommandDone s = .next (ldReported s c) := by
  change execLoaderCommandDone s = _
  simp only [execLoaderCommandDone, hcmd, ne_eq, h, not_false_eq_true, if_true, go, ldReported]

variable (h : c.status = .done)
include h

theorem exec_loaderCommandDone_of_load {im : Image} (hop : c.op = 1) (him : c.image = some im) :
    exec .loaderCommandDone s = .next (commitImage (ldReported s c) im) := by
  change execLoaderCommandDone s = _
  simp only [execLoaderCommandDone, hcmd, h, ne_eq, not_true_eq_false, if_false, hop, him, go, ldReported]

theorem exec_loaderCommandDone_of_unload (hop : c.op = 2) : exec .loaderCommandDone s = .next (unloadEntry (ldReported s c) c.routine) := by
  change execLoaderCommandDone s = _
  simp only [execLoaderCommandDone, hcmd, h, ne_eq, not_true_eq_false, if_false, hop, go, ldReported]

theorem exec_loaderCommandDone_of_check (hop : c.op = 3) : exec .loaderCommandDone s = .next (ldReported s c) := by
  change execLoaderCommandDone s = _
  simp only [execLoaderCommandDone, hcmd, h, ne_eq, not_true_eq_false, if_false, hop, go, ldReported]

end Done

section Commands
variable {s : State} (hopen : managerOpen s)
include hopen

theorem exec_routineLoad_of_managerOpen (len : BitVec 32) (image : HostRead (List Byte)) (sigOk : Bool) :
    exec (.routineLoad len image sigOk) s = .next (loadImage s 1 len.toNat image sigOk) :=
  managerWrite_of_managerOpen hopen 0x108 fun s => loadImage s 1 len.toNat image sigOk

theorem exec_routineCheck_of_managerOpen (len : BitVec 32) (image : HostRead (List Byte)) (sigOk : Bool) :
    exec (.routineCheck len image sigOk) s = .next (loadImage s 3 len.toNat image sigOk) :=
  managerWrite_of_managerOpen hopen 0x108 fun s => loadImage s 3 len.toNat image sigOk

theorem exec_routineUnload_of_managerOpen (rn : Fin 4096) : exec (.routineUnload rn) s = .next (unloadCmd s rn.val) :=
  managerWrite_of_managerOpen hopen 0x108 fun s => unloadCmd s rn.val

end Commands

/-- Settles O51: each routine on its arguments and phase; the loader on BUSY, its gate, the image's form and its tests. -/
theorem libraryRoutinesAndTheLoader : Obligations.LibraryRoutinesAndTheLoader := by
  refine ⟨fun e o v s => ⟨exec_echo_of_runs, fun hruns => ⟨exec_rekeySlot_of_ok hruns, exec_rekeySlot_of_not_ok hruns⟩,
      fun hruns rdKey picks => ⟨exec_rekeyStep_of_no_count hruns, fun n s1 r hcount htmpl hname hkey haes =>
        ⟨fun s2 hs => exec_rekeyStep_of_ok hruns hcount htmpl hname hkey haes,
          fun s2 st => exec_rekeyStep_of_refused hruns hcount htmpl hname hkey haes⟩⟩,
      fun hruns => ⟨exec_transportOpen_of_length hruns, exec_transportOpen_of_other_length hruns, exec_transportOpen_of_second hruns⟩,
      fun hruns rd0 => ⟨exec_attest_of_second hruns, exec_attest_of_not_ok hruns, exec_attest_of_no_record hruns⟩,
      fun hruns => ⟨fun hroom hout hmax halign hvalid hcap => ?_, exec_hearthRaw_of_no_capture hruns⟩⟩,
    fun s len image sigOk rn hopen => ⟨exec_routineLoad_of_managerOpen hopen len image sigOk,
      exec_routineCheck_of_managerOpen hopen len image sigOk, exec_routineUnload_of_managerOpen hopen rn,
      fun c hcmd => ⟨loadImage_of_busy hcmd, loadImage_of_busy hcmd, unloadCmd_of_busy hcmd⟩,
      fun hidle op => ⟨fun hlock => ⟨loadImage_of_locked hidle hlock, unloadCmd_of_locked hidle hlock⟩,
        fun hgate => ⟨loadImage_of_unread hidle hgate, fun l => loadImage_of_malformed hidle hgate,
          fun l reason st k => loadImage_of_refused hidle hgate, fun l f => loadImage_of_passed hidle hgate,
          unloadCmd_of_absent hidle hgate, unloadCmd_of_present hidle hgate⟩⟩,
      fun c hcmd => ⟨exec_loaderCommandDone_of_not_done hcmd, fun h hop im => exec_loaderCommandDone_of_load hcmd h hop,
        exec_loaderCommandDone_of_unload hcmd, exec_loaderCommandDone_of_check hcmd⟩⟩⟩
  have hform : ¬ (63 < inputNum v ∨ v.outLen = 0 ∨ 65536 < v.outLen ∨ v.outLen % 8 ≠ 0 ∨ s.ns.capValid = false
      ∨ s.ns.capRoom ≠ inputNum v) := by
    simp only [not_or, not_lt, not_not]
    exact ⟨hroom, hout.ne', hmax, halign, by simp [hvalid], hcap⟩
  exact ⟨exec_hearthRaw_of_enough hruns hform, exec_hearthRaw_of_short hruns hform⟩

end Machine
end Sys2Proof
end

section
/-! PROOF. The key store's commands, its journal and images, and the restore. -/

namespace Sys2Proof
namespace Machine

/-! ## Manager commands -/

section Commands
variable {s : State} (hopen : managerOpen s) {sl : Slice} {clear : Byte} {val : Word}
include hopen

theorem exec_ksDelete_of_managerOpen : exec .ksDelete s = .next (ksCommand s 1 0 0) :=
  managerWrite_of_managerOpen hopen 0x40018 fun s => ksCommand s 1 0 0
theorem exec_ksPurge_of_managerOpen (sl : Slice) : exec (.ksPurge sl) s = .next (ksCommand s 2 sl 0) :=
  managerWrite_of_managerOpen hopen 0x40018 fun s => ksCommand s 2 sl 0
theorem exec_ksRestrict_of_managerOpen (clear : Byte) : exec (.ksRestrict clear) s = .next (ksCommand s 3 0 clear) :=
  managerWrite_of_managerOpen hopen 0x40018 fun s => ksCommand s 3 0 clear
theorem exec_ksNewImage_of_managerOpen : exec .ksNewImage s = .next (ksCommand s 4 0 0) :=
  managerWrite_of_managerOpen hopen 0x40018 fun s => ksCommand s 4 0 0
theorem exec_ksRotateTransport_of_managerOpen : exec .ksRotateTransport s = .next (rotateTransport s) :=
  managerWrite_of_managerOpen hopen 0x40018 rotateTransport

theorem exec_genBaseWrite_of_raised (hfresh : s.ks.fresh = true) (hle : rdF s 0x40058 20 0 ≤ bits val 20 0) :
    exec (.genBaseWrite val) s = .next (wrF s 0x40058 20 0 (bits val 20 0)) := by
  have hgo : (s.ks.fresh && decide (rdF s 0x40058 20 0 ≤ bits val 20 0)) = true := by simp [hfresh, hle]
  exact (managerWrite_of_managerOpen hopen 0x40058 fun s => genBaseCmd s val).trans (congrArg Host.Outcome.next (if_pos hgo))

theorem exec_genBaseWrite_of_used (hfresh : s.ks.fresh = false) : exec (.genBaseWrite val) s = .next s := by
  have hstop : (s.ks.fresh && decide (rdF s 0x40058 20 0 ≤ bits val 20 0)) = false := by simp [hfresh]
  exact (managerWrite_of_managerOpen hopen 0x40058 fun s => genBaseCmd s val).trans
    (congrArg Host.Outcome.next (if_neg (Bool.eq_false_iff.mp hstop)))

theorem exec_waysWrite_of_fits (h : waysSum s - minWays s sl.val + min 14 (bits val 3 0) ≤ 14) :
    exec (.waysWrite sl val) s = .next (wrF s (sltBase sl.val + 0x410) 3 0 (bits val 3 0)) :=
  (managerWrite_of_managerOpen hopen (sltBase sl.val + 0x410) fun s => waysCmd s sl.val val).trans
    (congrArg Host.Outcome.next (if_neg (not_lt.mpr h)))

theorem exec_waysWrite_of_too_many (h : 14 < waysSum s - minWays s sl.val + min 14 (bits val 3 0)) :
    exec (.waysWrite sl val) s = .next (evt s 4 5) :=
  (managerWrite_of_managerOpen hopen (sltBase sl.val + 0x410) fun s => waysCmd s sl.val val).trans
    (congrArg Host.Outcome.next (if_pos h))

end Commands

section Decided
variable {s : State} {op : Nat} {sl : Slice} {clear : Byte}

theorem ksCommand_of_turned_away (h : (∃ c, s.ks.cmd = some c) ∨ ksRestored s = false) : ksCommand s op sl clear = evt s 4 10 := by
  have hstop : (ksBusy s || !ksRestored s) = true := by
    rcases h with ⟨c, hc⟩ | h <;> simp [ksBusy, *]
  exact if_pos hstop

variable (hidle : s.ks.cmd = none) (hrestored : ksRestored s = true)
include hidle hrestored

theorem ksCommand_of_idle : ksCommand s op sl clear
    = (if isLocked s then ksDone s .locked
       else if ksJournals op && journalFull s then
         journalRefused (wrF { s with ks := { s.ks with cmd := some ⟨op, sl, clear⟩ } } 0x40020 16 16 1)
       else ksAct s op sl.val clear) := by
  have hgo : (ksBusy s || !ksRestored s) = false := by simp [ksBusy, hidle, hrestored]
  exact if_neg (Bool.eq_false_iff.mp hgo)

theorem ksCommand_of_locked (h : isLocked s = true) : ksCommand s op sl clear = ksDone s .locked :=
  (ksCommand_of_idle hidle hrestored).trans (if_pos h)

variable (hfree : isLocked s = false)
include hfree

theorem ksCommand_of_journalFull (hop : op = 1 ∨ op = 2 ∨ op = 3) (hfull : journalFull s = true) : ksCommand s op sl clear
    = evt (wrF { s with ks := { s.ks with cmd := some ⟨op, sl, clear⟩ } } 0x40020 16 16 1) 12 8 := by
  have hwait : (ksJournals op && journalFull s) = true := by
    rcases hop with rfl | rfl | rfl <;> simp [ksJournals, hfull]
  exact (ksCommand_of_idle hidle hrestored).trans ((if_neg (Bool.eq_false_iff.mp hfree)).trans (if_pos hwait))

/-- A command that need not wait for the journal acts at once. -/
theorem ksCommand_acts (h : (ksJournals op && journalFull s) = false) : ksCommand s op sl clear = ksAct s op sl.val clear :=
  (ksCommand_of_idle hidle hrestored).trans ((if_neg (Bool.eq_false_iff.mp hfree)).trans (if_neg (Bool.eq_false_iff.mp h)))

end Decided

/-! ## What a command does -/

section Act
variable {s : State} {r : Rec} {f : Rec → State}

theorem chainCmd_of_none (h : chainOf s (rd s 0x40028) = none) : chainCmd s f = ksDone s .noKey := by
  simp only [chainCmd, ksArg, h]

theorem chainCmd_of_ring (h : chainOf s (rd s 0x40028) = some r) (htyp : r.typ = 0x40) : chainCmd s f = ksDone s .policy := by
  simp only [chainCmd, ksArg, h, if_pos htyp]

theorem chainCmd_of_chain (h : chainOf s (rd s 0x40028) = some r) (htyp : r.typ ≠ 0x40) : chainCmd s f = ksDone (f r) .done := by
  simp only [chainCmd, ksArg, h, if_neg htyp]

/-- Delete and restrict are the two commands that name a chain. -/
theorem ksAct_of_chain_op (s : State) {op : Nat} (sl : Nat) (clear : Byte) (hop : op = 1 ∨ op = 3) :
    ksAct s op sl clear = chainCmd s fun r => if op = 1 then deleteChain s r else restrictChain s r clear := by
  rcases hop with rfl | rfl <;> rfl

theorem ksAct_new_image (sl : Nat) (clear : Byte) (hbusy : imgBusy s = false) (hrefused : imageRefused s = false) :
    ksAct s 4 sl clear = ksDone (beginImage s) .done := by
  have hgo : (imgBusy s || imageRefused s) = false := by simp [hbusy, hrefused]
  exact if_neg (Bool.eq_false_iff.mp hgo)

end Act

/-! ## Expiry, journal, images and restores -/

section Durable
variable {s : State}

theorem exec_chainExpiry_of_due {ix : Nat} {r : Rec} (h : tfind s.ks.recs ix = some r) (hpart : r.part = 0) (hopen : r.complete = false)
    (hdue : r.bornRun + beatsPerSec ≤ runNow s) : exec (.chainExpiry ix) s
    = .next (evtRec (deleteChain s r) 4 6 (srcWord 0 0) (recHandle r).toNat) := by
  change execChainExpiry ix s = _
  simp only [execChainExpiry, h, if_pos (And.intro hpart (And.intro hopen hdue)), go]

theorem exec_chainExpiry_of_early {ix : Nat} {r : Rec} (h : tfind s.ks.recs ix = some r) (hearly : runNow s < r.bornRun + beatsPerSec) :
    exec (.chainExpiry ix) s = .next s := by
  have hstop : ¬ (r.part = 0 ∧ r.complete = false ∧ r.bornRun + beatsPerSec ≤ runNow s) :=
    fun hdue => not_lt.mpr hdue.2.2 hearly
  change execChainExpiry ix s = _
  simp only [execChainExpiry, h, if_neg hstop, go]

theorem exec_journalProgram_of_due (hdue : pageDue s = true) (hroom : s.ks.durable.length < journalPages s) :
    exec .journalProgram s = .next (ksResume (imageDue (programPage s))) := by
  have hgo : (pageDue s && decide (s.ks.durable.length < journalPages s)) = true := by simp [hdue, hroom]
  change execJournalProgram s = _
  exact if_pos hgo

theorem exec_imageComplete_of_building {im : CellarImage} {mark : Nat} (h : s.ks.building = some (im, mark)) : exec .imageComplete s
    = (let k1 := { s.ks with image := some im, older := s.ks.image, building := none, durable := s.ks.durable.drop mark }
       .next (ksResume (imageDue (evt { s with ks := k1 } 4 7)))) := by
  change execImageComplete s = _
  simp only [execImageComplete, h, go]

theorem exec_recordRestore_of_poisoned {block : Nat} (h : ∃ ix, ix ∈ s.ks.poisoned ∧ ix / 64 = block)
    (hturn : restoredLater s block = false) : exec (.recordRestore block) s
    = (let s1 := settleWide ((s.ks.poisoned.filter fun ix => ix / 64 == block).foldl restoreRec s)
       .next (if s1.ks.poisoned.isEmpty then evt s1 4 3 else s1)) := by
  obtain ⟨ix, hix, hblock⟩ := h
  have hmem : ix ∈ s.ks.poisoned.filter fun ix => ix / 64 == block := List.mem_filter.mpr ⟨hix, by simp [hblock]⟩
  have hgo : ((s.ks.poisoned.filter fun ix => ix / 64 == block).isEmpty || restoredLater s block) = false := by
    rw [List.isEmpty_eq_false_iff.mpr (List.ne_nil_of_mem hmem), hturn, Bool.or_self]
  change execRecordRestore block s = _
  exact if_neg (Bool.eq_false_iff.mp hgo)

theorem exec_cellarRestoreDone_of_erasing (i : RestoreIn) (h : s.ec.erasing.contains 3 = true) :
    exec (.cellarRestoreDone i) s = .next s := by
  change execCellarRestoreDone i s = _
  exact if_pos (by simp only [h, Bool.or_true])

theorem exec_cellarRestoreDone_of_ready (i : RestoreIn) (hopen : managerOpen s) (hkeys : s.keys.memory = true)
    (hrestored : ksRestored s = false) (herase : s.ec.erasing.contains 3 = false) :
    ∃ t, exec (.cellarRestoreDone i) s = .next t ∧ t.mode.ready = true ∧ t.mode.zeroized = false := by
  obtain ⟨hstart, hreset⟩ := hopen
  have hgo : (s.starting || s.inReset || !s.keys.memory || ksRestored s || s.ec.erasing.contains 3) = false := by
    simp only [hstart, hreset, hkeys, hrestored, herase, Bool.not_true, Bool.or_self]
  refine ⟨_, if_neg (Bool.eq_false_iff.mp hgo), ?_, ?_⟩ <;> rw [setMode_mode]

end Durable

/-- Settles O52: a command on its gate, its lock, the journal's room and then its own action; the rest on what is due. -/
theorem keyStoreCommands : Obligations.KeyStoreCommands := by
  intro s
  refine ⟨fun hopen sl clear val => ⟨exec_ksDelete_of_managerOpen hopen, exec_ksPurge_of_managerOpen hopen sl,
      exec_ksRestrict_of_managerOpen hopen clear, exec_ksNewImage_of_managerOpen hopen, exec_ksRotateTransport_of_managerOpen hopen,
      exec_genBaseWrite_of_raised hopen, exec_genBaseWrite_of_used hopen, exec_waysWrite_of_fits hopen, exec_waysWrite_of_too_many hopen⟩,
    fun op sl clear => ⟨ksCommand_of_turned_away, fun hidle hrestored => ⟨ksCommand_of_locked hidle hrestored,
      ksCommand_of_journalFull hidle hrestored, fun hfree hop hroom => ?_, fun hfree hroom => ?_, fun hfree hbusy hrefused => ?_,
      fun hfree => ksCommand_acts hidle hrestored hfree rfl⟩⟩,
    fun ix r h hpart hopen => ⟨exec_chainExpiry_of_due h hpart hopen, exec_chainExpiry_of_early h⟩,
    exec_journalProgram_of_due, fun im mark => exec_imageComplete_of_building, fun block => exec_recordRestore_of_poisoned,
    fun level node => rfl, fun hopen hkeys hrestored herase i => exec_cellarRestoreDone_of_ready i hopen hkeys hrestored herase,
    fun hopen herase i => exec_cellarRestoreDone_of_erasing i herase⟩
  · rw [ksCommand_acts hidle hrestored hfree (by simp [hroom]), ksAct_of_chain_op s sl.val clear hop]
    exact ⟨chainCmd_of_none, fun r => chainCmd_of_ring, fun r => chainCmd_of_chain⟩
  · exact ksCommand_acts hidle hrestored hfree (by simp [hroom])
  · exact (ksCommand_acts hidle hrestored hfree rfl).trans (ksAct_new_image sl.val clear hbusy hrefused)

end Machine
end Sys2Proof
end

section
/-! PROOF. The larder's slots, parameter sets, and big-number engines leaving and returning. -/

namespace Sys2Proof
namespace Machine

section Slots
variable {s : State} {b : BnIx} {n : Fin 1024} {desc val : Word} {w : Fin 16384}

theorem descWrite_of_taken (h : areaTaken s b = true) : descWrite s b n.val desc = evt s 5 1 := if_pos h
theorem windowWrite_of_taken (h : areaTaken s b = true) : windowWrite s b w.val val = evt s 5 1 := if_pos h

theorem descWrite_of_free (h : areaTaken s b = false) : descWrite s b n.val desc = slotDefine s b.val n.val desc :=
  if_neg (Bool.eq_false_iff.mp h)

theorem windowWrite_of_secret (h : areaTaken s b = false) (hsecret : secretWord s b.val w.val = true) : windowWrite s b w.val val = s :=
  (if_neg (Bool.eq_false_iff.mp h)).trans (if_pos hsecret)

theorem windowWrite_of_open (h : areaTaken s b = false) (hsecret : secretWord s b.val w.val = false) :
    windowWrite s b w.val val = putWords s b.val w.val 1 val.toNat :=
  (if_neg (Bool.eq_false_iff.mp h)).trans (if_neg (Bool.eq_false_iff.mp hsecret))

theorem slotDefine_of_refused (h : slotRefused s b.val n.val desc = true) : slotDefine s b.val n.val desc = evt s 5 0 := if_pos h

section Fits
variable (h : slotRefused s b.val n.val desc = false)
include h

theorem slotDefine_of_open (hsecret : bit (slotDesc s b.val n.val) 62 = false) :
    slotDefine s b.val n.val desc = setDesc s b.val n.val (slotStored desc) := by
  simp only [slotDefine, h, hsecret, Bool.false_eq_true, if_false]

theorem slotDefine_of_secret (hsecret : bit (slotDesc s b.val n.val) 62 = true) : slotDefine s b.val n.val desc
    = setDesc (zeroWords s b.val (inSlot (slotDesc s b.val n.val))) b.val n.val (slotStored desc) := by
  simp only [slotDefine, h, hsecret, Bool.false_eq_true, if_false, if_true]

end Fits

/-- A descriptor reads as it was stored, and every other as before. -/
theorem tget_setDesc (hwf : twf 0 s.mem.descs = true) (b n : Nat) (desc : Word) (m : Nat) :
    tget 0 (setDesc s b n desc).mem.descs m = if m = 1024 * b + n then desc else tget 0 s.mem.descs m := by
  by_cases h : m = 1024 * b + n
  · rw [if_pos h, h]
    exact tget_tput_same _ _ hwf
  · rw [if_neg h]
    exact tget_tput_other _ hwf h

section Open
variable (hopen : managerOpen s)
include hopen

theorem exec_slotDescriptorWrite_of_managerOpen : exec (.slotDescriptorWrite b n desc) s = .next (descWrite s b n.val desc) :=
  managerWrite_of_managerOpen hopen (larderBase b.val + 0x20000 + 8 * n.val) fun s => descWrite s b n.val desc

theorem exec_larderWindowWrite_of_managerOpen : exec (.larderWindowWrite b w val) s = .next (windowWrite s b w.val val) :=
  managerWrite_of_managerOpen hopen (larderBase b.val + 8 * w.val) fun s => windowWrite s b w.val val

end Open

end Slots

/-! ## Parameter sets -/

section Psets
variable {s : State} {set : Fin 64} {nocheck : Bool} {len : BitVec 32}

theorem psetBusy_of_none (h : s.bn.cmd = none) : psetBusy s = false := by simp [psetBusy, h]

theorem psetGate_of_locked (h : isLocked s = true) : psetGate s set.val nocheck = some (1, .locked) := if_pos h

theorem psetGate_of_builtin (h : isLocked s = false) (hset : set.val < 32) : psetGate s set.val nocheck = some (2, .policy) :=
  (if_neg (Bool.eq_false_iff.mp h)).trans (if_pos (.inr (.inr (.inl hset))))

section Commands
variable (hopen : managerOpen s) (hidle : s.bn.cmd = none)
include hopen hidle

theorem exec_psetLoad_of_gated {r : Nat × Status} {d : HostRead (List Byte)} (h : psetGate s set.val nocheck = some r) :
    exec (.psetLoad set nocheck len d) s = .next (psetDone s r.1 r.2) := by
  change execPsetLoad set nocheck len d s = _
  simp only [execPsetLoad, managerWrite_of_managerOpen hopen, psetBusy_of_none hidle, h, Bool.false_eq_true, if_false]

theorem exec_psetErase_of_gated {r : Nat × Status} (h : psetGate s set.val false = some r) :
    exec (.psetErase set) s = .next (psetDone s r.1 r.2) := by
  change execPsetErase set s = _
  simp only [execPsetErase, managerWrite_of_managerOpen hopen, psetErase, psetBusy_of_none hidle, h, Bool.false_eq_true, if_false]

theorem exec_psetErase_of_passed (h : psetGate s set.val false = none) : exec (.psetErase set) s
    = .next (psetDone { s with bn := { s.bn with psets := tdel s.bn.psets set.val } } 0 .done) := by
  change execPsetErase set s = _
  simp only [execPsetErase, managerWrite_of_managerOpen hopen, psetErase, psetBusy_of_none hidle, h, Bool.false_eq_true, if_false]

variable (hgate : psetGate s set.val nocheck = none)
include hgate

theorem exec_psetLoad_of_unread : exec (.psetLoad set nocheck len .failed) s = .next (psetDone (dmaErr s) 3 .aborted) := by
  change execPsetLoad set nocheck len .failed s = _
  simp only [execPsetLoad, managerWrite_of_managerOpen hopen, psetBusy_of_none hidle, hgate, Bool.false_eq_true, if_false]

theorem exec_psetLoad_of_malformed {l : List Byte} (h : psetFormOk s len.toNat l = false) :
    exec (.psetLoad set nocheck len (.ok l)) s = .next (psetDone s 4 .malformed) := by
  change execPsetLoad set nocheck len (.ok l) s = _
  simp only [execPsetLoad, managerWrite_of_managerOpen hopen, psetBusy_of_none hidle, hgate, h, Bool.false_eq_true, if_false,
    Bool.not_false, if_true]

theorem exec_psetLoad_of_formed {l : List Byte} (h : psetFormOk s len.toNat l = true) : exec (.psetLoad set nocheck len (.ok l)) s
    = .next (if nocheck then psetDone { s with bn := { s.bn with psets := tins s.bn.psets set.val (psetOf l) } } 0 .done
        else psetSts { s with bn := { s.bn with cmd := some (set.val, psetOf l) } } true 0 .done) := by
  change execPsetLoad set nocheck len (.ok l) s = _
  simp only [execPsetLoad, managerWrite_of_managerOpen hopen, psetBusy_of_none hidle, hgate, h, Bool.false_eq_true, if_false, Bool.not_true]

end Commands

section Check
variable {n : Nat} {p : PSet} (hcmd : s.bn.cmd = some (n, p))
include hcmd

theorem exec_psetCheckDone_of_passed (h : firstReason s p = 0) : exec .psetCheckDone s
    = (let s1 := { s with fresh := s.fresh + 192 }
       .next (psetDone { s1 with bn := { s1.bn with psets := tins s1.bn.psets n { p with checked := true } } } 0 .done)) := by
  change execPsetCheckDone s = _
  simp only [execPsetCheckDone, hcmd, if_pos h, go]

theorem exec_psetCheckDone_of_failed (h : firstReason s p ≠ 0) : exec .psetCheckDone s
    = .next (psetDone { s with fresh := s.fresh + 192 } (firstReason s p) .malformed) := by
  change execPsetCheckDone s = _
  simp only [execPsetCheckDone, hcmd, if_neg h, go]

end Check

end Psets

/-! ## Engines -/

section Engines
variable {s : State} {b : BnIx}

theorem bnLeave_of_out (h : (bnEng s b).out = true) : bnLeave s b = s := if_pos h

theorem bnLeave_of_in (h : (bnEng s b).out = false) : bnLeave s b
    = (let s1 := (placedOn s b).foldl (fun s p => deadlineFault s p.1 p.2 3) s
       let s2 := zeroWords s1 b.val fun _ => true
       let g := { clearBn (bnEng s2 b) with out := true, testing := false }
       evt (replaceUnits (unplace (bnInBits (setBn s2 b g) b false) b)) 5 4) :=
  if_neg (Bool.eq_false_iff.mp h)

theorem exec_bnEngineTakeOut_of_managerOpen (hopen : managerOpen s) : exec (.bnEngineTakeOut b) s = .next (bnLeave s b) :=
  managerWrite_of_managerOpen hopen 0x50038 fun s => bnLeave s b

theorem exec_bnEngineReturn_of_out (hopen : managerOpen s) (h : (bnEng s b).out = true) : exec (.bnEngineReturn b) s
    = .next (setBn s b { bnEng s b with testing := true }) :=
  (managerWrite_of_managerOpen hopen 0x50038 fun s => bnReturn s b).trans (congrArg Host.Outcome.next (if_pos h))

theorem exec_bnSelftestDone_of_testing (h : (bnEng s b).testing = true) : exec (.bnSelftestDone b) s
    = .next (replaceUnits (bnInBits (setBn s b { bnEng s b with out := false, testing := false }) b true)) := by
  change execBnSelftestDone b s = _
  exact if_pos h

theorem exec_bnSelftestDone_of_not_testing (h : (bnEng s b).testing = false) : exec (.bnSelftestDone b) s = .next s := by
  change execBnSelftestDone b s = _
  exact if_neg (Bool.eq_false_iff.mp h)

end Engines

/-- Settles O53: slot writes split on the area's holder and the slot, set commands on their gate and form. -/
theorem larderAndParameterSets : Obligations.LarderAndParameterSets := by
  intro s b
  refine ⟨fun hopen n desc val w => ?_, fun hopen hidle set nocheck len => ⟨fun r hgate d => exec_psetLoad_of_gated hopen hidle hgate,
      fun r => exec_psetErase_of_gated hopen hidle, psetGate_of_locked, psetGate_of_builtin,
      fun hgate => ⟨exec_psetLoad_of_unread hopen hidle hgate, fun l => exec_psetLoad_of_malformed hopen hidle hgate,
        fun l hform hnocheck => ?_, fun l hform hcheck => ?_⟩, exec_psetErase_of_passed hopen hidle⟩,
    fun n p hcmd => ⟨exec_psetCheckDone_of_passed hcmd, exec_psetCheckDone_of_failed hcmd⟩,
    fun hopen => ⟨⟨exec_bnEngineTakeOut_of_managerOpen hopen, bnLeave_of_out, bnLeave_of_in⟩, exec_bnEngineReturn_of_out hopen⟩,
    exec_bnSelftestDone_of_testing, exec_bnSelftestDone_of_not_testing⟩
  · rw [exec_slotDescriptorWrite_of_managerOpen hopen, exec_larderWindowWrite_of_managerOpen hopen]
    refine ⟨fun h => ⟨congrArg _ (descWrite_of_taken h), congrArg _ (windowWrite_of_taken h)⟩, fun h hrefused => ?_,
      fun h hfits hslot => ?_, fun h hfits hslot => ?_, fun h hsecret => congrArg _ (windowWrite_of_secret h hsecret),
      fun h hsecret => congrArg _ (windowWrite_of_open h hsecret), fun hwf m => ?_⟩
    · rw [descWrite_of_free h, slotDefine_of_refused hrefused]
    · rw [descWrite_of_free h, slotDefine_of_open hfits hslot]
    · rw [descWrite_of_free h, slotDefine_of_secret hfits hslot]
    · exact tget_setDesc hwf b.val n.val desc m
  · rw [exec_psetLoad_of_formed hopen hidle hgate hform, if_pos hnocheck]
  · rw [exec_psetLoad_of_formed hopen hidle hgate hform, if_neg (Bool.eq_false_iff.mp hcheck)]

end Machine
end Sys2Proof
end

section
/-! PROOF. The domain's commands: founding, joining, removing and challenging. -/

namespace Sys2Proof
namespace Machine

section Gate
variable {s : State}

theorem cuGate_of_ready (f : State → State) (hidle : rdF s 0x60028 24 24 ≠ 1) (hready : s.mode.ready = true) : cuGate s f = f s :=
  if_neg (not_or.mpr ⟨hidle, by simp [hready]⟩)

theorem cuGate_of_busy (f : State → State) (h : rdF s 0x60028 24 24 = 1 ∨ s.mode.ready = false) : cuGate s f = s := if_pos h

theorem enrolGate_of_locked (h : isLocked s = true) : enrolGate s = some (.locked, 0xFF) := if_pos h

section Commands
variable (hopen : managerOpen s)
include hopen

theorem exec_found_of_managerOpen (ok : Bool) : exec (.found ok) s = .next (cuGate s fun s => foundCmd s ok) :=
  managerWrite_of_managerOpen hopen 0x60020 fun s => cuGate s fun s => foundCmd s ok

theorem exec_join_of_managerOpen (c : HostRead (Option Cert)) (halves : Option (Key256 × Key256)) :
    exec (.join c halves) s = .next (cuGate s fun s => joinCmd s c halves) :=
  managerWrite_of_managerOpen hopen 0x60020 fun s => cuGate s fun s => joinCmd s c halves

theorem exec_remove_of_managerOpen : exec .remove s = .next (cuGate s removeCmd) :=
  managerWrite_of_managerOpen hopen 0x60020 fun s => cuGate s removeCmd

theorem exec_challenge_of_managerOpen (n : HostRead (BitVec 256)) : exec (.challenge n) s = .next (cuGate s fun s => challengeCmd s n) :=
  managerWrite_of_managerOpen hopen 0x60020 fun s => cuGate s fun s => challengeCmd s n

variable (hidle : rdF s 0x60028 24 24 ≠ 1) (hready : s.mode.ready = true)
include hidle hready

theorem exec_found_of_ready (ok : Bool) : exec (.found ok) s = .next (foundCmd s ok) := by
  rw [exec_found_of_managerOpen hopen, cuGate_of_ready _ hidle hready]
theorem exec_join_of_ready (c : HostRead (Option Cert)) (halves : Option (Key256 × Key256)) :
    exec (.join c halves) s = .next (joinCmd s c halves) := by
  rw [exec_join_of_managerOpen hopen, cuGate_of_ready _ hidle hready]
theorem exec_remove_of_ready : exec .remove s = .next (removeCmd s) := by
  rw [exec_remove_of_managerOpen hopen, cuGate_of_ready _ hidle hready]
theorem exec_challenge_of_ready (n : HostRead (BitVec 256)) : exec (.challenge n) s = .next (challengeCmd s n) := by
  rw [exec_challenge_of_managerOpen hopen, cuGate_of_ready _ hidle hready]

end Commands

end Gate

section Found
variable {s : State} {r : Status × Nat} {t : Held × Held} {ok : Bool}

theorem foundCmd_of_gated (h : enrolGate s = some r) : foundCmd s ok = cuDone s r.1 r.2 := by
  simp only [foundCmd, h]

theorem foundCmd_of_no_tickets (hgate : enrolGate s = none) (h : ticketPair s 1 (cuNumber s) = none) :
    foundCmd s ok = cuDone s .policy 0x11 := by
  simp only [foundCmd, hgate, h]

/-- With tickets and cards, a founding ends with whether both cards took their half. -/
theorem foundCmd_of_cards {a b : Fin 4} (hgate : enrolGate s = none) (h : ticketPair s 1 (cuNumber s) = some t)
    (hcards : foundSlots s t = some (a, b)) : foundCmd s ok
    = (let s1 := writeHalves (drawFounding s).2 (drawFounding s).1 a b
       if ok then cuDone (founded s1 (drawFounding s).1 t a b) .done 0xFF else cuDone s1 .aborted 0xFF) := by
  simp only [foundCmd, hgate, h, hcards]

end Found

section Join
variable {s : State} {r : Status × Nat} {t : Held × Held} {c : HostRead (Option Cert)} {halves : Option (Key256 × Key256)}

theorem joinCmd_of_gated (h : enrolGate s = some r) : joinCmd s c halves = cuDone s r.1 r.2 := by
  simp only [joinCmd, h]

variable (hgate : enrolGate s = none) (htickets : ticketPair s 2 (cuPeer s + fld (cuNumber s) 32) = some t)
include hgate htickets

theorem joinCmd_of_no_halves : joinCmd s c none = cuDone s .policy 0x11 := by
  cases hslots : joinSlots s t <;> simp only [joinCmd, hgate, htickets, hslots]

theorem joinCmd_of_no_cards (hslots : joinSlots s t = none) : joinCmd s c halves = cuDone s .policy 0x11 := by
  simp only [joinCmd, hgate, htickets, hslots]

variable {a b : Fin 4} {x y : Key256} (hslots : joinSlots s t = some (a, b))
include hslots

theorem joinCmd_of_unread : joinCmd s .failed (some (x, y)) = cuDone (dmaErr (readHalves s a b)) .aborted 0xFF := by
  simp only [joinCmd, hgate, htickets, hslots]

theorem joinCmd_of_sponsor {c : Cert} (hpeer : c.member.val = cuPeer s) : joinCmd s (.ok (some c)) (some (x, y))
    = (let j : Joining := { cert := c, number := memberOf (cuNumber s), sends := 0, lastRun := runNow s,
                            jk := joinKey (x ^^^ y) c.domain, req := joinTail t.1.raw t.2.raw }
       submitIntern (withCu (cuBusy (consumePair (readHalves s a b) t)) fun u => { u with joining := some j }) 0xF2 (some .joinSend)) := by
  simp only [joinCmd, hgate, htickets, hslots, if_pos hpeer]

end Join

section Remove
variable {s : State} {t : Held × Held}

theorem removeCmd_of_locked (h : isLocked s = true) : removeCmd s = cuDone s .locked 0xFF := if_pos h

theorem removeCmd_of_tickets (hfree : isLocked s = false) (hmember : s.cu.member.isNone = false) (hactive : rosterActive s (cuNumber s) = true)
    (h : ticketPair s 3 (cuNumber s + fld (roster s (cuNumber s)).serial.toNat 32) = some t) : removeCmd s
    = (let m := cuNumber s
       let serial := (roster s m).serial
       let s1 := sendAround (markSeen (consumePair s t) m (4294967296 + serial.toNat)) 0x0D
         (delBody m serial.toNat t.1.raw.toNat t.2.raw.toNat) (ownNum s)
       cuDone (removeNumber s1 m serial) .done 0xFF) := by
  simp only [removeCmd, hfree, hmember, hactive, h, Bool.not_true, Bool.or_self, Bool.false_eq_true, if_false]

end Remove

section Challenge
variable {s : State} {n : HostRead (BitVec 256)}

theorem challengeCmd_of_locked (h : isLocked s = true) : challengeCmd s n = cuDone s .locked 0xFF := if_pos h

variable (hfree : isLocked s = false) (hmember : s.cu.member.isNone = false)
include hfree hmember

theorem challengeCmd_of_unread : challengeCmd s .failed = cuDone (dmaErr s) .aborted 0xFF := by
  simp only [challengeCmd, hfree, hmember, Bool.false_eq_true, if_false]

theorem challengeCmd_of_nonce (n : BitVec 256) :
    challengeCmd s (.ok n) = cuDone (sendEnv s 0x14 (cuPeer s) (chalBody n.toNat (ownNum s))) .done 0xFF := by
  simp only [challengeCmd, hfree, hmember, Bool.false_eq_true, if_false]

end Challenge

end Machine
end Sys2Proof
end

section
/-! PROOF. The domain's timers: resends, the roster sync, waiting handshake steps, key ages, presence and isolation. -/

namespace Sys2Proof
namespace Machine

section Timers
variable {s : State}

section Resend
variable {j : Joining} (h : s.cu.joining = some j) (hsent : j.sends ≠ 0) (hwait : j.answered = false)
  (hdue : j.lastRun + 16 * beatsPerSec ≤ runNow s)
include h hsent hwait hdue

theorem exec_joinReqResend_of_due :
    exec .joinReqResend s = .next (if j.sends < 4 then sendJoinReq s j else joinFail s .rejectLimit 0xFF) := by
  change execJoinReqResend s = _
  simp only [execJoinReqResend, h, ne_eq, if_pos (And.intro hsent (And.intro hwait hdue)), go]

end Resend

theorem exec_rosterSyncSend_of_turn {m : Member} {next : Nat} {rest : List (Member × Nat)} (h : s.cu.syncing = (m, next) :: rest)
    (hrate : (if s.cu.syncSecond = runNow s / beatsPerSec then s.cu.syncSent else 0) < 256) : exec .rosterSyncSend s
    = (let sec := runNow s / beatsPerSec
       let sent := if s.cu.syncSecond = sec then s.cu.syncSent else 0
       let more := if 262144 ≤ next + 96 then rest else (m, next + 96) :: rest
       let s1 := withCu s fun c => { c with syncing := more, syncSecond := sec, syncSent := sent + 1 }
       let s2 := sendEnv s1 0x0E m (syncMsg next ((List.range 96).map fun i => roster s (next + i))).body
       .next (if 262144 ≤ next + 96 then sendRegister s2 m.val else s2)) := by
  change execRosterSyncSend s = _
  simp only [execRosterSyncSend, h, if_neg (not_le.mpr hrate), go]

theorem exec_handshakeStepRelease_of_turn {i : ShakeIn} {rest : List ShakeIn} (h : s.cu.shakeQ = i :: rest) (hrate : shakeRan s < 256) :
    exec .handshakeStepRelease s
    = (let s1 := withCu s fun c => { c with shakeQ := rest, shakeSecond := runNow s / beatsPerSec, shakeRun := shakeRan s + 1 }
       .next (shakeStep s1 i)) := by
  change execHandshakeStepRelease s = _
  simp only [execHandshakeStepRelease, h, if_neg (not_le.mpr hrate), go]

theorem exec_pairKeyAgeExpiry_of_due {m : Member} {q : Pair} (h : pairWith s m.val = some q)
    (hdue : q.made + 65536 * beatsPerSec ≤ runNow s) (hfree : isLocked s = false) :
    exec (.pairKeyAgeExpiry m) s = .next (startShake s m.val) := by
  change execPairKeyAgeExpiry m s = _
  simp only [execPairKeyAgeExpiry, h, if_pos (And.intro hdue hfree), go]

theorem exec_previousPairKeyExpiry_of_due {m : Member} {q : Pair} {id : BitVec 32} {run : Nat} {key : Key256} (h : pairWith s m.val = some q)
    (hprev : q.prev = some (id, run, key)) (hdue : run + beatsPerSec ≤ runNow s) : exec (.previousPairKeyExpiry m) s
    = .next (withCu s fun c => { c with pairs := tins c.pairs m.val { q with prev := none } }) := by
  change execPreviousPairKeyExpiry m s = _
  simp only [execPreviousPairKeyExpiry, h, hprev, if_pos hdue, go]

section Absence
variable {m : Member} {w : Watch} (h : tfind s.cu.watch m.val = some w)
include h

theorem exec_peerAbsenceTimeout_of_late (hlate : w.heard + missBeats s ≤ runNow s) :
    exec (.peerAbsenceTimeout m) s = .next (rewatch (markAbsent s m.val 1)) := by
  change execPeerAbsenceTimeout m s = _
  simp only [execPeerAbsenceTimeout, h, if_pos hlate, go]

theorem exec_peerAbsenceTimeout_of_heard (hheard : runNow s < w.heard + missBeats s) : exec (.peerAbsenceTimeout m) s = .next s := by
  change execPeerAbsenceTimeout m s = _
  simp only [execPeerAbsenceTimeout, h, if_neg (not_le.mpr hheard), go]

end Absence

theorem exec_beatSend_of_due (hmember : s.cu.member.isSome) (hdue : s.cu.lastBeat + watchInterval s * beatsPerSec ≤ runNow s) :
    exec .beatSend s
    = (let s1 := rewatch (withCu s fun c => { c with lastBeat := runNow s })
       .next (s1.cu.watch.foldl
         (fun t p => sendEnv t 0x10 p.1 (beatBody (modeWord t.mode) (tbNow t).toNat (ownSerial t).toNat)) s1)) := by
  change execBeatSend s = _
  exact if_pos ⟨hmember, hdue⟩

theorem exec_isolationTimeout_of_due (hmember : s.cu.member.isSome) (hmode : s.mode.domain ≠ .isolated)
    (hdue : s.cu.heard + isoBeats s ≤ runNow s) : exec .isolationTimeout s = .next (setMode s fun m => { m with domain := .isolated }) := by
  change execIsolationTimeout s = _
  exact if_pos ⟨hmember, hmode, hdue⟩

end Timers

/-- Settles O54: each command past its gate on its tickets, cards and operands; each timer on what is due. -/
theorem domainCommandsAndWatching : Obligations.DomainCommandsAndWatching := by
  refine ⟨fun s hopen hidle hready => ?_, fun s hopen hbusy => ?_, fun s j h hsent hwait hdue => ?_,
    fun s m next rest => exec_rosterSyncSend_of_turn, fun s i rest => exec_handshakeStepRelease_of_turn,
    fun s m q h => ⟨exec_pairKeyAgeExpiry_of_due h, fun id run key => exec_previousPairKeyExpiry_of_due h⟩,
    fun s => exec_beatSend_of_due, fun s m w h => ⟨exec_peerAbsenceTimeout_of_late h, exec_peerAbsenceTimeout_of_heard h⟩,
    fun s => exec_isolationTimeout_of_due, fun s => rfl⟩
  · have found (ok : Bool) := exec_found_of_ready hopen hidle hready ok
    have join (c : HostRead (Option Cert)) (halves : Option (Key256 × Key256)) := exec_join_of_ready hopen hidle hready c halves
    have challenge (n : HostRead (BitVec 256)) := exec_challenge_of_ready hopen hidle hready n
    simp only [found, join, challenge, exec_remove_of_ready hopen hidle hready]
    refine ⟨fun r h => ⟨fun ok => congrArg _ (foundCmd_of_gated h), fun c halves => congrArg _ (joinCmd_of_gated h)⟩,
      fun h => ⟨enrolGate_of_locked h, congrArg _ (removeCmd_of_locked h), fun n => congrArg _ (challengeCmd_of_locked h)⟩,
      fun hgate h ok => congrArg _ (foundCmd_of_no_tickets hgate h),
      fun t a b hgate h hcards => ⟨congrArg _ (foundCmd_of_cards (ok := false) hgate h hcards), congrArg _ (foundCmd_of_cards (ok := true) hgate h hcards)⟩,
      fun t hgate h => ⟨fun c => congrArg _ (joinCmd_of_no_halves hgate h), fun hslots c halves => congrArg _ (joinCmd_of_no_cards hgate h hslots),
        fun a b x y hslots => ⟨congrArg _ (joinCmd_of_unread hgate h hslots),
          fun c hpeer => congrArg _ (joinCmd_of_sponsor hgate h hslots hpeer)⟩⟩,
      fun t hfree hmember hactive h => congrArg _ (removeCmd_of_tickets hfree hmember hactive h),
      fun hfree hmember => ⟨congrArg _ (challengeCmd_of_unread hfree hmember), fun n => congrArg _ (challengeCmd_of_nonce hfree hmember n)⟩⟩
  · have found (ok : Bool) := exec_found_of_managerOpen hopen ok
    have join (c : HostRead (Option Cert)) (halves : Option (Key256 × Key256)) := exec_join_of_managerOpen hopen c halves
    have challenge (n : HostRead (BitVec 256)) := exec_challenge_of_managerOpen hopen n
    simp only [found, join, challenge, exec_remove_of_managerOpen hopen, cuGate_of_busy _ hbusy, implies_true, and_self]
  · rw [exec_joinReqResend_of_due h hsent hwait hdue]
    exact ⟨fun hfew => congrArg _ (if_pos hfew), fun hmany => congrArg _ (if_neg (not_lt.mpr hmany))⟩

end Machine
end Sys2Proof
end

section
/-! PROOF. The envelopes of the domain: each acts on the state in which its checks have passed. -/

namespace Sys2Proof
namespace Machine

section Envelope
variable {s : State} {h : EnvHdr} {kind : Nat} {m : Msg} {f : State → State}

theorem onEnv_of_failed (hfail : ¬ envelopePasses s h kind m) : onEnv s h kind m f = heard s h kind m := if_neg hfail
theorem onEnv_of_passes (hpass : envelopePasses s h kind m) : onEnv s h kind m f = f (heard s h kind m) := if_pos hpass

/-- An envelope that passes has its effect on the state in which it was heard. -/
theorem onEnv_eq {r : State} (hpass : envelopePasses s h kind m) (hf : f (heard s h kind m) = r) : onEnv s h kind m f = r :=
  (onEnv_of_passes hpass).trans hf

end Envelope

/-! ## Handshakes -/

section Hello
variable {s : State} {h : EnvHdr} {cert : Cert} {x : BitVec 256} {ct : BitVec 8704} {confirm : BitVec 256}

section First
variable (hpass : envelopePasses s h 0x01 (helloMsg cert x))
include hpass

theorem exec_hello_of_foreign (hcert : cert.member ≠ h.sender) :
    exec (.hello h cert x) s = .next (envFail (heard s h 0x01 (helloMsg cert x)) 63 48) := by
  change execHello h cert x s = _
  exact congrArg go (onEnv_eq hpass (if_pos (by simp [hcert])))

theorem exec_hello_of_fits (hcert : cert.member = h.sender) (hfits : certFits (heard s h 0x01 (helloMsg cert x)) cert = true)
    (hcross : ((shakeWith (heard s h 0x01 (helloMsg cert x)) h.sender.val true).isSome
      && decide (ownNum (heard s h 0x01 (helloMsg cert x)) < h.sender.val)) = false) : exec (.hello h cert x) s
    = .next (runShake (heard s h 0x01 (helloMsg cert x))
        { step := 1, peer := h.sender, ek := cert.ek, x := x, clear := layBytes (helloMsg cert x).body }) := by
  change execHello h cert x s = _
  exact congrArg go (onEnv_eq hpass ((if_neg (by simp [hcert, hfits])).trans (if_neg (Bool.eq_false_iff.mp hcross))))

end First

section Ack
variable {k : Shake} (hpass : envelopePasses s h 0x02 (helloAckMsg s h cert x ct confirm))
  (hshake : shakeWith (heard s h 0x02 (helloAckMsg s h cert x ct confirm)) h.sender.val true = some k)
include hpass hshake

theorem exec_helloAck_of_confirmed (hcert : cert.member = h.sender)
    (hfits : certFits (heard s h 0x02 (helloAckMsg s h cert x ct confirm)) cert = true)
    (hconfirm : confirm = confirmation (ackKeyIn (heard s h 0x02 (helloAckMsg s h cert x ct confirm)) k (ackIn h cert x ct))
      (ackClear k (ackIn h cert x ct))) : exec (.helloAck h cert x ct confirm) s
    = .next (runShake (heard s h 0x02 (helloAckMsg s h cert x ct confirm)) (ackIn h cert x ct)) := by
  change execHelloAck h cert x ct confirm s = _
  refine congrArg go (onEnv_eq hpass ?_)
  simp only [hshake]
  exact if_neg (by simp only [hcert, hfits, ← hconfirm, bne_self_eq_false, Bool.not_true, Bool.or_self, Bool.false_eq_true, not_false_eq_true])

theorem exec_helloAck_of_unconfirmed
    (hconfirm : confirm ≠ confirmation (ackKeyIn (heard s h 0x02 (helloAckMsg s h cert x ct confirm)) k (ackIn h cert x ct))
      (ackClear k (ackIn h cert x ct))) : exec (.helloAck h cert x ct confirm) s
    = .next (envFail (heard s h 0x02 (helloAckMsg s h cert x ct confirm)) 63 48) := by
  change execHelloAck h cert x ct confirm s = _
  refine congrArg go (onEnv_eq hpass ?_)
  simp only [hshake]
  exact if_pos (by simp only [bne_iff_ne.mpr hconfirm, Bool.or_true])

end Ack

section Fin
variable {k : Shake} (hpass : envelopePasses s h 0x03 (helloFinMsg s h ct confirm))
include hpass

theorem exec_helloFin_of_no_shake (hshake : shakeWith (heard s h 0x03 (helloFinMsg s h ct confirm)) h.sender.val false = none) :
    exec (.helloFin h ct confirm) s = .next (heard s h 0x03 (helloFinMsg s h ct confirm)) := by
  change execHelloFin h ct confirm s = _
  refine congrArg go (onEnv_eq hpass ?_)
  simp only [hshake]

variable (hshake : shakeWith (heard s h 0x03 (helloFinMsg s h ct confirm)) h.sender.val false = some k)
include hshake

theorem exec_helloFin_of_confirmed
    (hconfirm : confirm = confirmation (finKeyIn (heard s h 0x03 (helloFinMsg s h ct confirm)) k (finIn h ct)) (ackClear k (finIn h ct))) :
    exec (.helloFin h ct confirm) s = .next (runShake (heard s h 0x03 (helloFinMsg s h ct confirm)) (finIn h ct)) := by
  change execHelloFin h ct confirm s = _
  refine congrArg go (onEnv_eq hpass ?_)
  simp only [hshake]
  exact if_neg (by simp only [← hconfirm, bne_self_eq_false, Bool.false_eq_true, not_false_eq_true])

theorem exec_helloFin_of_unconfirmed
    (hconfirm : confirm ≠ confirmation (finKeyIn (heard s h 0x03 (helloFinMsg s h ct confirm)) k (finIn h ct)) (ackClear k (finIn h ct))) :
    exec (.helloFin h ct confirm) s = .next (envFail (heard s h 0x03 (helloFinMsg s h ct confirm)) 63 48) := by
  change execHelloFin h ct confirm s = _
  refine congrArg go (onEnv_eq hpass ?_)
  simp only [hshake]
  exact if_pos (bne_iff_ne.mpr hconfirm)

end Fin

end Hello

/-! ## Joining -/

section JoinReq
variable {s : State} {h : EnvHdr} {cert : Cert} {x : BitVec 256} {ct : BitVec 8704} {t1 t2 : Ticket}
  (hpass : envelopePasses s h 0x08 (joinReqMsg s cert x ct t1 t2))
include hpass

theorem exec_joinReq_of_answered {e : EnvOut} (hans : answeredJoin (heard s h 0x08 (joinReqMsg s cert x ct t1 t2)) cert.device x = some e) :
    exec (.joinReq h cert x ct t1 t2) s = .next (sendTo (heard s h 0x08 (joinReqMsg s cert x ct t1 t2)) e) := by
  change execJoinReq h cert x ct t1 t2 s = _
  refine congrArg go (onEnv_eq hpass ?_)
  simp only [hans]

theorem exec_joinReq_of_new (hans : answeredJoin (heard s h 0x08 (joinReqMsg s cert x ct t1 t2)) cert.device x = none) :
    exec (.joinReq h cert x ct t1 t2) s
    = .next (submitIntern (heard s h 0x08 (joinReqMsg s cert x ct t1 t2)) 0xF2
        (some (.joinIssue cert x ct (layBytes (joinReqMsg s cert x ct t1 t2).body) t1 t2))) := by
  change execJoinReq h cert x ct t1 t2 s = _
  refine congrArg go (onEnv_eq hpass ?_)
  simp only [hans]

end JoinReq

section JoinAck
variable {s : State} {h : EnvHdr} {body : JoinBody} {j : Joining} (hpass : envelopePasses s h 0x09 (joinAckMsg s body))
  (hjoin : (heard s h 0x09 (joinAckMsg s body)).cu.joining = some j)
include hpass hjoin

theorem exec_joinAck_of_other (hfits : joinFits j body = false) :
    exec (.joinAck h body) s = .next (envFail (heard s h 0x09 (joinAckMsg s body)) 63 48) := by
  change execJoinAck h body s = _
  refine congrArg go (onEnv_eq hpass ?_)
  simp only [hjoin, hfits, Bool.not_false, if_true]

variable (hfits : joinFits j body = true)
include hfits

theorem exec_joinAck_of_answered (hans : j.answered = true) :
    exec (.joinAck h body) s = .next (heard s h 0x09 (joinAckMsg s body)) := by
  change execJoinAck h body s = _
  refine congrArg go (onEnv_eq hpass ?_)
  simp only [hjoin, hfits, hans, Bool.not_true, Bool.false_eq_true, if_false, if_true]

theorem exec_joinAck_of_first (hans : j.answered = false) : exec (.joinAck h body) s
    = (let j1 := { j with answered := true }
       .next (submitIntern (withCu (heard s h 0x09 (joinAckMsg s body)) fun c => { c with joining := some j1 }) 0xF2
         (some (.joinInstall body)))) := by
  change execJoinAck h body s = _
  refine congrArg go (onEnv_eq hpass ?_)
  simp only [hjoin, hfits, hans, Bool.not_true, Bool.false_eq_true, if_false]

end JoinAck

theorem exec_joinNak_of_passes {s : State} {h : EnvHdr} {status : BitVec 16} {detail : Byte}
    (hpass : envelopePasses s h 0x0A (joinNakMsg s status detail)) : exec (.joinNak h status detail) s
    = (let t := withCu (heard s h 0x0A (joinNakMsg s status detail)) fun c => { c with joining := none }
       .next (evt (evt (wr t 0x60028 (BitVec.ofNat 64 (status.toNat + fld detail.toNat 16))) 6 0) 6 6)) := by
  change execJoinNak h status detail s = _
  exact congrArg go (onEnv_of_passes hpass)

/-! ## The roster -/

section TakeCert
variable {s : State} {c : Cert} {source : Nat}

theorem takeCert_of_known (hstate : (roster s c.member.val).state = 1) (hdev : (roster s c.member.val).device = c.device)
    (hserial : (roster s c.member.val).serial = c.serial) : takeCert s c source = passCert s c source :=
  if_pos ⟨hstate, hdev, hserial⟩

theorem takeCert_of_fits
    (hnew : ¬ ((roster s c.member.val).state = 1 ∧ (roster s c.member.val).device = c.device ∧ (roster s c.member.val).serial = c.serial))
    (hfits : certFits s c = true) : takeCert s c source = storeCert (passCert s c source) c :=
  (if_neg hnew).trans (if_pos hfits)

variable (hdev : (roster s c.member.val).device ≠ c.device) (hfits : certFits s c = false)
include hdev hfits

theorem takeCert_of_wins (hwins : certWins s c = true) : takeCert s c source
    = if c.member.val = ownNum s then voidOwn (passCert s c source) else storeCert (passCert s c source) c :=
  (if_neg fun hknown => hdev hknown.2.1).trans ((if_neg (Bool.eq_false_iff.mp hfits)).trans (if_pos ⟨hdev, hwins⟩))

theorem takeCert_of_loses (hloses : certWins s c = false) : takeCert s c source = passCert s c source :=
  (if_neg fun hknown => hdev hknown.2.1).trans
    ((if_neg (Bool.eq_false_iff.mp hfits)).trans (if_neg fun hwins => Bool.eq_false_iff.mp hloses hwins.2))

end TakeCert

theorem exec_rosterAdd_of_passes {s : State} {h : EnvHdr} {cert : Cert} (hpass : envelopePasses s h 0x0C (addMsg cert)) :
    exec (.rosterAdd h cert) s = .next (takeCert (heard s h 0x0C (addMsg cert)) cert h.sender.val) := by
  change execRosterAdd h cert s = _
  exact congrArg go (onEnv_of_passes hpass)

theorem exec_rosterDel_of_tickets {s : State} {h : EnvHdr} {number : Member} {serial : BitVec 32} {t1 t2 : Ticket}
    (hpass : envelopePasses s h 0x0D (delMsg number serial t1 t2))
    (hdev : memberDevice (heard s h 0x0D (delMsg number serial t1 t2)) (tkTarget t1.raw) = true)
    (hpair : bodyPair (heard s h 0x0D (delMsg number serial t1 t2)) t1 t2 (tkTarget t1.raw) 3 (number.val + fld serial.toNat 32) = true)
    (hnew : seenMark (heard s h 0x0D (delMsg number serial t1 t2)) number.val (4294967296 + serial.toNat) = false) :
    exec (.rosterDel h number serial t1 t2) s
    = .next (removeNumber (sendAround (markSeen (heard s h 0x0D (delMsg number serial t1 t2)) number.val (4294967296 + serial.toNat)) 0x0D
        (delMsg number serial t1 t2).body h.sender.val) number.val serial) := by
  change execRosterDel h number serial t1 t2 s = _
  exact congrArg go (onEnv_eq hpass ((if_neg (by simp [hdev, hpair])).trans (if_neg (Bool.eq_false_iff.mp hnew))))

theorem exec_rosterSync_of_passes {s : State} {h : EnvHdr} {first : Nat} {entries : List RosterEntry}
    (hpass : envelopePasses s (syncHdr h entries) 0x0E (syncMsg first entries)) : exec (.rosterSync h first entries) s
    = (let t := heard s (syncHdr h entries) 0x0E (syncMsg first entries)
       let es := (List.range entries.length).zip entries
       let t1 := es.foldl (fun u (p : Nat × RosterEntry) =>
         if first + p.1 < 262144 ∧ first + p.1 ≠ ownNum u ∧ (roster u (first + p.1)).serial ≤ p.2.serial
         then setRoster u (first + p.1) p.2 else u) t
       .next (rewatch (if 262144 ≤ first + 96 then wrF t1 0x60000 62 62 0 else t1))) := by
  change execRosterSync h first entries s = _
  exact congrArg go (onEnv_of_passes hpass)

/-! ## Presence, attestation and tickets -/

theorem exec_beat_of_passes {s : State} {h : EnvHdr} {mode now : Word} {serial : BitVec 32}
    (hpass : envelopePasses s h 0x10 (beatMsg mode now serial)) : exec (.beat h mode now serial) s
    = (let t := noteBeat (heard s h 0x10 (beatMsg mode now serial)) h.sender.val
       .next (if h.locked then markAbsent t h.sender.val 2 else t)) := by
  change execBeat h mode now serial s = _
  exact congrArg go (onEnv_of_passes hpass)

theorem exec_leave_of_passes {s : State} {h : EnvHdr} {serial : BitVec 32} (hpass : envelopePasses s h 0x11 (leaveMsg h serial)) :
    exec (.leave h serial) s = .next (memberLost (markAbsent (heard s h 0x11 (leaveMsg h serial)) h.sender.val 3) h.sender.val) := by
  change execLeave h serial s = _
  exact congrArg go (onEnv_of_passes hpass)

theorem exec_resp_of_passes {s : State} {h : EnvHdr} {nonce : BitVec 256} {ok : Bool} (hpass : envelopePasses s h 0x15 (respMsg nonce ok)) :
    exec (.resp h nonce ok) s = .next (heard s h 0x15 (respMsg nonce ok)) := by
  change execResp h nonce ok s = _
  exact congrArg go (onEnv_of_passes hpass)

section Chal
variable {s : State} {h : EnvHdr} {nonce : BitVec 256} {answerTo : Member} {ran : Nat} (hpass : envelopePasses s h 0x14 (chalMsg nonce answerTo))
  (hran : ran = if (heard s h 0x14 (chalMsg nonce answerTo)).cu.chalSecond = runNow (heard s h 0x14 (chalMsg nonce answerTo)) / beatsPerSec
    then (heard s h 0x14 (chalMsg nonce answerTo)).cu.chalRun else 0)
include hpass hran

theorem exec_chal_of_spent (h1 : rdF (heard s h 0x14 (chalMsg nonce answerTo)) 0x60010 47 32 ≤ ran) :
    exec (.chal h nonce answerTo) s = .next (cntUp (heard s h 0x14 (chalMsg nonce answerTo)) envErr 15 0) := by
  subst hran
  change execChal h nonce answerTo s = _
  exact congrArg go (onEnv_eq hpass (if_pos h1))

theorem exec_chal_of_rate (h1 : ran < rdF (heard s h 0x14 (chalMsg nonce answerTo)) 0x60010 47 32) : exec (.chal h nonce answerTo) s
    = (let t := heard s h 0x14 (chalMsg nonce answerTo)
       let b := respBody (withCu t fun c => { c with chalSecond := runNow t / beatsPerSec, chalRun := ran + 1 }) nonce.toNat
       .next (sendEnv b.2 0x15 answerTo.val b.1)) := by
  subst hran
  change execChal h nonce answerTo s = _
  exact congrArg go (onEnv_eq hpass (if_neg (not_le.mpr h1)))

end Chal

section TicketEnvelope
variable {s : State} {h : EnvHdr} {tickets : List Ticket}

/-- The state in which the tickets of an envelope have been offered to the hold test. -/
def ticketsHeld (s : State) (tickets : List Ticket) : State :=
  tickets.foldl (fun t (k : Ticket) => (holdTicket t k.raw k.sigOk false).1) s

theorem exec_ticket_of_no_entry (hpass : envelopePasses s (ticketHdr h tickets) 0x40 (ticketMsg tickets none)) :
    exec (.ticket h tickets none) s = .next (ticketsHeld (heard s (ticketHdr h tickets) 0x40 (ticketMsg tickets none)) tickets) := by
  change execTicket h tickets none s = _
  exact congrArg go (onEnv_of_passes hpass)

theorem takeReg_of_new {s : State} {e : RegEntry} {ts : List Ticket} {source : Nat}
    (h : seenMark s (entryMark e.ix.val) e.serial.toNat = false) : takeReg s e ts source
    = takeEntry (spreadEntry s e.ix.val (custodianIn e) (ts.map fun t => t.raw) source) e.ix.val (custodianIn e) :=
  if_neg (Bool.eq_false_iff.mp h)

theorem exec_ticket_of_entry {e : RegEntry} (hpass : envelopePasses s (ticketHdr h tickets) 0x40 (ticketMsg tickets (some e))) :
    exec (.ticket h tickets (some e)) s
    = .next (takeReg (ticketsHeld (heard s (ticketHdr h tickets) 0x40 (ticketMsg tickets (some e))) tickets) e tickets h.sender.val) := by
  change execTicket h tickets (some e) s = _
  exact congrArg go (onEnv_of_passes hpass)

end TicketEnvelope

section Rings
variable {s : State} (hopen : managerOpen s) (p : BitVec 12)
include hopen

theorem exec_outRingHeadWrite_of_managerOpen : exec (.outRingHeadWrite p) s = .next (drainOut (wrF s outPtr 43 32 p.toNat)) :=
  managerWrite_of_managerOpen hopen 0x60050 fun s => outHead s p.toNat
theorem exec_inRingTailWrite_of_managerOpen : exec (.inRingTailWrite p) s = .next (inTail s p.toNat) :=
  managerWrite_of_managerOpen hopen 0x60068 fun s => inTail s p.toNat

end Rings

/-- Settles O55: past its checks each envelope splits on its certificate, its confirmation, its tickets or its rate. -/
theorem domainEnvelopes : Obligations.DomainEnvelopes := by
  intro s h
  refine ⟨fun kind m f => ⟨onEnv_of_failed, onEnv_of_passes⟩,
    fun cert x hpass => ⟨exec_hello_of_fits hpass, exec_hello_of_foreign hpass⟩,
    fun cert x ct confirm hpass k hshake => ⟨exec_helloAck_of_confirmed hpass hshake, exec_helloAck_of_unconfirmed hpass hshake⟩,
    fun ct confirm hpass => ⟨fun k hshake => ⟨exec_helloFin_of_confirmed hpass hshake, exec_helloFin_of_unconfirmed hpass hshake⟩,
      exec_helloFin_of_no_shake hpass⟩,
    fun cert x ct t1 t2 hpass => ⟨fun e => exec_joinReq_of_answered hpass, exec_joinReq_of_new hpass⟩,
    fun body j hpass hjoin => ⟨exec_joinAck_of_first hpass hjoin, exec_joinAck_of_answered hpass hjoin, exec_joinAck_of_other hpass hjoin⟩,
    fun status detail => exec_joinNak_of_passes, fun cert hpass => ?_,
    fun number serial t1 t2 => exec_rosterDel_of_tickets, fun first e rest _ => exec_rosterSync_of_passes,
    fun mode now serial => exec_beat_of_passes, fun serial => exec_leave_of_passes,
    fun nonce answerTo hpass => ⟨exec_chal_of_spent hpass rfl, exec_chal_of_rate hpass rfl⟩,
    fun nonce ok => exec_resp_of_passes, fun tickets entry hpass => ⟨fun hentry => ?_, fun e hentry hnew => ?_⟩,
    fun p hopen => ⟨exec_outRingHeadWrite_of_managerOpen hopen p, exec_inRingTailWrite_of_managerOpen hopen p⟩⟩
  · rw [exec_rosterAdd_of_passes hpass]
    exact ⟨fun hstate hdev hserial => congrArg _ (takeCert_of_known hstate hdev hserial),
      fun hnew hfits => congrArg _ (takeCert_of_fits hnew hfits), fun hdev hfits hwins => congrArg _ (takeCert_of_wins hdev hfits hwins),
      fun hdev hfits hloses => congrArg _ (takeCert_of_loses hdev hfits hloses)⟩
  · subst hentry
    exact exec_ticket_of_no_entry hpass
  · subst hentry
    rw [exec_ticket_of_entry hpass]
    exact congrArg _ (takeReg_of_new hnew)

end Machine
end Sys2Proof
end

section
/-! PROOF. The stair: its frames, its training and scans, and its doze. -/

namespace Sys2Proof
namespace Machine

section Stair
variable {s : State} {p : Bool}

/-! ## Data frames and acknowledgements -/

section Data
variable {f : Frame}

theorem exec_stairData_of_closed (hclosed : (stPort s p).state ≠ .active ∨ (stPort s p).miswired = true) :
    exec (.stairData p f) s = .next s := by
  have hstop : ((stPort s p).state != .active || (stPort s p).miswired) = true := by
    simpa using hclosed
  change execStairData p f s = _
  exact if_pos hstop

section Open
variable (hactive : (stPort s p).state = .active) (hwired : (stPort s p).miswired = false)
include hactive hwired

theorem stairData_port_open : ¬ ((stPort s p).state != .active || (stPort s p).miswired) = true := by
  simp [hactive, hwired]

theorem exec_stairData_of_bad (hbad : crcHolds f = false ∨ f.seq ≠ (stPort s p).rxSeq) :
    exec (.stairData p f) s = .next (cntUp s (stErr p) 63 48) := by
  have hdrop : (!crcHolds f || f.seq != (stPort s p).rxSeq) = true := by
    simpa using hbad
  change execStairData p f s = _
  exact (if_neg (stairData_port_open hactive hwired)).trans (if_pos hdrop)

theorem exec_stairData_of_good (hcrc : crcHolds f = true) (hseq : f.seq = (stPort s p).rxSeq) : exec (.stairData p f) s
    = (let q1 := { stPort s p with rxSeq := (stPort s p).rxSeq + 1, reqSent := false }
       let s2 := sendCtl (cntUp (setPort s p q1) (stCnt p) 63 32) p 2 f.seq.toNat
       .next (if s.st.map.length ≠ 0 ∧ f.dst.val = s.st.self then reassemble s2 f else forwardFrame s2 p f)) := by
  have hkeep : ¬ (!crcHolds f || f.seq != (stPort s p).rxSeq) = true := by
    simp [hcrc, hseq]
  change execStairData p f s = _
  exact ((if_neg (stairData_port_open hactive hwired)).trans (if_neg hkeep)).trans (apply_ite go _ _ _).symm

end Open

end Data

theorem exec_stairAck_of_sent {seq : BitVec 32} (hactive : (stPort s p).state = .active)
    (hsent : ((stPort s p).unacked.any fun x => x.sent != 0 && x.frame.seq == seq) = true) : exec (.stairAck p seq) s
    = (let rest := dropThrough seq (stPort s p).unacked
       let q1 := { stPort s p with unacked := rest, idle := if rest.isEmpty then runNow s else (stPort s p).idle }
       .next (pumpPort (setPort s p q1) p)) := by
  change execStairAck p seq s = _
  exact if_pos (by rw [hactive, hsent]; decide)

theorem exec_stairRetransmitTimeout_of_due {x : TxFrame} {r : List TxFrame} (hactive : (stPort s p).state = .active)
    (hsent : (((stPort s p).unacked.take 32).filter fun x => x.sent != 0) = x :: r) (hdue : x.sent + 4 ≤ runNow s + 1) :
    exec (.stairRetransmitTimeout p) s
    = (let l := (stPort s p).unacked.map fun y => if y.sent = 0 then y else { y with sent := runNow s + 1, again := y.again + 1 }
       let q1 := { stPort s p with unacked := l }
       let s2 := (x :: r).foldl (fun s y =>
         cntUp (cntUp (emitFrame s p 1 (dataBytes y.frame)) (stCnt p) 31 0) (stErr p) 47 32) (setPort s p q1)
       .next (if (l.any fun y => decide (16 ≤ y.again)) = true then downPort s2 p .train else s2)) := by
  change execStairRetransmitTimeout p s = _
  simp only [execStairRetransmitTimeout, hsent, if_pos (And.intro hactive hdue), go]

/-! ## Link states -/

theorem exec_linkTrained_of_train (htrain : (stPort s p).state = .train) (ok : Bool) : exec (.linkTrained p ok) s
    = if ok then
        .next (pumpPort (sendScan (evt (setPort (cntUp s (stErr p) 31 16) p
          { stPort s p with state := .active, idle := runNow s, wake := false }) 7 0)) p)
      else .next (cntUp s (stErr p) 31 16) := by
  change execLinkTrained p ok s = _
  exact if_pos htrain

theorem exec_stairLinkDown_of_up (hon : (stPort s p).state ≠ .disabled) (hup : (stPort s p).state ≠ .down) :
    exec (.stairLinkDown p) s = .next (downPort s p .train) := by
  change execStairLinkDown p s = _
  exact if_neg (by simp [hon, hup])

theorem exec_stairLinkDown_of_off (hoff : (stPort s p).state = .disabled ∨ (stPort s p).state = .down) :
    exec (.stairLinkDown p) s = .next s := by
  change execStairLinkDown p s = _
  exact if_pos (by simpa using hoff)

/-! ## Scans -/

section Scan
variable {origin : ScanHop} {hops : List ScanHop} {last : Bool} (hactive : (stPort s p).state = .active)
include hactive

theorem exec_stairScan_of_same_letter : exec (.stairScan p origin hops last p) s
    = .next (if (stPort s p).miswired then s else evt (setPort s p { stPort s p with miswired := true }) 7 6) := by
  change execStairScan p origin hops last p s = _
  exact (if_neg (not_not_intro hactive)).trans (if_pos rfl)

/-- A scan from the other letter clears the mark of a port that bore it. -/
theorem exec_stairScan_of_other_letter : exec (.stairScan p origin hops last (!p)) s
    = (let s1 := if (stPort s p).miswired then setPort s p { stPort s p with miswired := false } else s
       if origin.device = deviceId then .next (ringMap s1 (ownHop s :: (if p then hops else hops.reverse)))
       else .next (passScan s1 p (origin :: hops) last)) := by
  change execStairScan p origin hops last (!p) s = _
  exact (if_neg (not_not_intro hactive)).trans (if_neg (Bool.not_ne_self p))

end Scan

theorem exec_scanPeriodic_of_due (hdue : s.st.lastScan + 64 * beatsPerSec ≤ runNow s) :
    exec .scanPeriodic s = .next (sendScan { s with st := { s.st with lastScan := runNow s } }) := by
  change execScanPeriodic s = _
  exact if_pos hdue

/-! ## Doze -/

theorem exec_dozeIdleTimeout_of_due (hactive : (stPort s p).state = .active) (hon : dozeOn s p = true)
    (hempty : (stPort s p).unacked.isEmpty = true) (hnew : (stPort s p).reqSent = false)
    (hdue : (stPort s p).idle + max 1 (rdF s 0x70010 47 32) ≤ runNow s) :
    exec (.dozeIdleTimeout p) s = .next (sendCtl (setPort s p { stPort s p with reqSent := true }) p 4 0) := by
  change execDozeIdleTimeout p s = _
  exact if_pos (by rw [hactive, hon, hempty, hnew, decide_eq_true hdue]; decide)

section Agree
variable (hactive : (stPort s p).state = .active)
include hactive

/-- A request is refused while a port has asked from the lower position, has frames to send, or may not doze. -/
theorem exec_dozeReq_of_refused (hno : ((stPort s p).reqSent = true ∧ s.st.self < peerPos s p)
    ∨ (stPort s p).unacked.isEmpty = false ∨ dozeOn s p = false) : exec (.dozeReq p) s = .next (sendCtl s p 6 0) := by
  have hrefuse : ((stPort s p).reqSent && decide (s.st.self < peerPos s p) || !(stPort s p).unacked.isEmpty || !dozeOn s p) = true := by
    rcases hno with ⟨hsent, hlower⟩ | hframes | hoff
    · rw [hsent, decide_eq_true hlower]; rfl
    · rw [hframes, Bool.not_false, Bool.or_true, Bool.true_or]
    · rw [hoff, Bool.not_false, Bool.or_true]
  change execDozeReq p s = _
  exact (if_neg (not_not_intro hactive)).trans (if_pos hrefuse)

theorem exec_dozeReq_of_agreed (hnew : (stPort s p).reqSent = false) (hempty : (stPort s p).unacked.isEmpty = true)
    (hon : dozeOn s p = true) : exec (.dozeReq p) s = .next (agreeDoze (sendCtl s p 5 0) p) := by
  change execDozeReq p s = _
  exact (if_neg (not_not_intro hactive)).trans (if_neg (by simp only [hnew, hempty, hon, Bool.false_and, Bool.not_true, Bool.or_self, Bool.false_eq_true, not_false_eq_true]))

theorem exec_dozeAck_of_sent (hsent : (stPort s p).reqSent = true) : exec (.dozeAck p) s
    = .next (if (stPort s p).unacked.isEmpty then agreeDoze s p else wakePort (agreeDoze s p) p) := by
  change execDozeAck p s = _
  exact if_pos ⟨hactive, hsent⟩

end Agree

theorem exec_dozeResidencyEnd_of_due (hdoze : (stPort s p).state = .doze) (hwake : (stPort s p).wake = true)
    (hdue : (stPort s p).dozeRun + 8 ≤ runNow s) : exec (.dozeResidencyEnd p) s
    = .next (sendScan (evt (setPort s p { stPort s p with state := .train, wake := false }) 7 3)) := by
  change execDozeResidencyEnd p s = _
  exact if_pos (by rw [hdoze, hwake, decide_eq_true hdue]; decide)

theorem exec_stCfgWrite_of_managerOpen (hopen : managerOpen s) (val : Word) : exec (.stCfgWrite val) s
    = .next (portEnable (portEnable (wr s 0x70010 (val &&& 0x0000FFFF0000000F)) false) true) :=
  managerWrite_of_managerOpen hopen 0x70010 fun s => stCfg s val

end Stair

/-- Settles O56: each command of the stair splits on the state of its port and on what waits there. -/
theorem stairLinkAndFrames : Obligations.StairLinkAndFrames := by
  intro s p
  refine ⟨⟨fun f => exec_stairData_of_good, fun f => exec_stairData_of_bad, fun f => exec_stairData_of_closed,
    fun seq => exec_stairAck_of_sent, fun x r => exec_stairRetransmitTimeout_of_due,
    fun htrain => ⟨exec_linkTrained_of_train htrain false, exec_linkTrained_of_train htrain true⟩, exec_stairLinkDown_of_up,
    exec_stairLinkDown_of_off, fun origin hops last hactive => ?scan, exec_dozeIdleTimeout_of_due, fun hactive =>
      ⟨fun hsent hlower => exec_dozeReq_of_refused hactive (.inl ⟨hsent, hlower⟩), fun hno => exec_dozeReq_of_refused hactive (.inr hno),
        exec_dozeReq_of_agreed hactive, exec_dozeAck_of_sent hactive⟩,
    rfl, rfl, exec_dozeResidencyEnd_of_due⟩, exec_scanPeriodic_of_due, fun _ _ => rfl, exec_stCfgWrite_of_managerOpen⟩
  case scan =>
    have hother := exec_stairScan_of_other_letter (origin := origin) (hops := hops) (last := last) hactive
    refine ⟨fun hwired => ?_, fun hmis => ?_, fun hwired hown => ?_, fun hwired hforeign => ?_, fun hmis hforeign => ?_⟩
    · rw [exec_stairScan_of_same_letter hactive, if_neg (Bool.eq_false_iff.mp hwired)]
    · rw [exec_stairScan_of_same_letter hactive, if_pos hmis]
    · rw [hother, if_neg (Bool.eq_false_iff.mp hwired), if_pos hown]
    · rw [hother, if_neg (Bool.eq_false_iff.mp hwired), if_neg hforeign]
    · rw [hother, if_pos hmis, if_neg hforeign]

end Machine
end Sys2Proof
end

section
/-! PROOF. Custody groups: the commands past their gate, the envelopes of a round, and what falls due. -/

namespace Sys2Proof
namespace Machine

/-! ## Group commands -/

section GroupCommand
variable {s : State} (hopen : groupGateOpen s)
include hopen

theorem gGate_of_open (f : State → State) : gGate s f = f s := by
  obtain ⟨-, hidle, hready, hfree, hlc, hmember, hdomain, htime⟩ := hopen
  have hgo : ¬ (rdF s 0x61018 24 24 = 1 ∨ s.mode.ready = false) := by simp [hidle, hready]
  have hjoined : ¬ (s.cu.member.isNone = true ∨ s.mode.domain = .isolated) := by simp [hmember, hdomain]
  exact (if_neg hgo).trans ((if_neg (Bool.eq_false_iff.mp hfree)).trans ((if_neg (not_not_intro hlc)).trans
    ((if_neg hjoined).trans (if_neg htime))))

/-- A group command past its gate has its effect on the state as it stands. -/
theorem groupCmd_eq {f : State → State} {r : State} (hf : f s = r) : managerWrite s 0x61010 (fun s => gGate s f) = .next r :=
  (managerWrite_of_managerOpen hopen.1 0x61010 fun s => gGate s f).trans (congrArg go ((gGate_of_open hopen f).trans hf))

theorem exec_groupCreate_of_open (d : HostRead (BitVec 2048)) : exec (.groupCreate d) s = .next (createCmd s d) := by
  change execGroupCreate d s = _
  exact groupCmd_eq hopen rfl

theorem exec_groupChange_of_open (n : Fin 4096) (d : HostRead (BitVec 2048)) : exec (.groupChange n d) s = .next (changeCmd s n.val d) := by
  change execGroupChange n d s = _
  exact groupCmd_eq hopen rfl

end GroupCommand

section CreateChange
variable {s : State} {raw : BitVec 2048}

theorem createCmd_of_no_tickets (h : ticketPair s 5 (descDigest raw) = none) : createCmd s (.ok raw) = gDone s .policy 0x22 := by
  simp only [createCmd, h]

theorem createCmd_of_valid {t : Held × Held} {k : Nat} (hpair : ticketPair s 5 (descDigest raw) = some t) (hform : descForm raw = true)
    (hvalid : descValid (descOf raw) = true) (hnew : (descOf raw).group = 0) (hnames : descNames s (descOf raw) = true)
    (hfirst : (descOf raw).holders.head? = s.cu.member) (hfree : freeGroup s = some k)
    (hwatch : watchFits s (descMembers (descOf raw)) = true) : createCmd s (.ok raw) = createGroup s k (descOf raw) t := by
  have hmade : ¬ (!descForm raw || !descValid (descOf raw) || (descOf raw).group != 0) = true := by simp [hform, hvalid, hnew]
  have hnamed : ¬ (!descNames s (descOf raw) || (descOf raw).holders.head? != s.cu.member) = true := by simp [hnames, hfirst]
  simp only [createCmd, hpair, if_neg hmade, if_neg hnamed, hfree, if_pos hwatch]

theorem changeCmd_of_valid {t : Held × Held} {g : Group} {n : Nat} (hpair : ticketPair s 6 (descDigest raw) = some t)
    (hgroup : groupOf s n = some g) (hcoord : amCoord s g = true) (hholds : holdsActive g = true) (hform : descForm raw = true)
    (hvalid : descValid (descOf raw) = true) (hsame : (descOf raw).group = g.desc.group) (hnames : descNames s (descOf raw) = true)
    (hwatch : watchFits s (descMembers (descOf raw)) = true) :
    changeCmd s n (.ok raw) = gDone (setGroup (consumePair s t) n { g with change := some (descOf raw) }) .done 0xFF := by
  have hmine : ¬ (!(amCoord s g && holdsActive g)) = true := by simp [hcoord, hholds]
  have hmade : ¬ (!descForm raw || !descValid (descOf raw) || (descOf raw).group != g.desc.group) = true := by simp [hform, hvalid, hsame]
  simp only [changeCmd, hpair, hgroup, if_neg hmine, if_neg hmade, hnames, hwatch, Bool.not_true, Bool.false_eq_true, if_false]

end CreateChange

section OnUnknownGroup
variable {s : State} {n : Fin 4096} (hopen : groupGateOpen s) (hnone : groupOf s n.val = none)
include hopen hnone

theorem exec_groupBind_of_unknown : exec (.groupBind n) s = .next (gDone s .policy 0x23) := by
  change execGroupBind n s = _
  refine groupCmd_eq hopen ?_
  simp only [hnone]

theorem exec_groupDelete_of_unknown : exec (.groupDelete n) s = .next (gDone s .policy 0x23) := by
  change execGroupDelete n s = _
  refine groupCmd_eq hopen ?_
  simp only [hnone]

theorem exec_groupSweep_of_unknown : exec (.groupSweep n) s = .next (gDone s .policy 0x23) := by
  change execGroupSweep n s = _
  refine groupCmd_eq hopen ?_
  simp only [hnone]

theorem exec_groupReplace_of_unknown (m : Member) (p : Byte) : exec (.groupReplace n m p) s = .next (gDone s .policy 0x23) := by
  change execGroupReplace n m p s = _
  refine groupCmd_eq hopen ?_
  simp only [hnone]

end OnUnknownGroup

section OnKnownGroup
variable {s : State} {n : Fin 4096} {g : Group} (hopen : groupGateOpen s) (hgroup : groupOf s n.val = some g)
include hopen hgroup

section Holder
variable (hholds : holdsActive g = true)
include hholds

theorem exec_groupBind_of_holder : exec (.groupBind n) s = .next (gDone (setGroup s n.val { g with
    bound := if bit (rd s 0x61020) 10 then some (sliceIx (bits (rd s 0x61020) 9 0)) else none }) .done 0xFF) := by
  change execGroupBind n s = _
  refine groupCmd_eq hopen ?_
  simp only [hgroup, hholds, Bool.not_true, Bool.false_eq_true, if_false]

/-- A sweep emits a backup of every chain of the group. -/
theorem exec_groupSweep_of_holder : exec (.groupSweep n) s
    = (let chains := s.ks.recs.filter fun p => p.2.part == 0 && p.2.complete && (match p.2.group with
         | some k => k.val == n.val
         | none => false)
       .next (gDone (wrF (chains.foldl (fun s p => emitBackup s p.1) s) 0x61000 45 45 0) .done 0xFF)) := by
  have hmine : ¬ (!holdsActive g) = true := by simp [hholds]
  change execGroupSweep n s = _
  refine groupCmd_eq hopen ?_
  simp only [hgroup]
  exact if_neg hmine

end Holder

section Coordinator
variable (hcoord : amCoord s g = true)
include hcoord

theorem exec_groupDelete_of_coordinator {t : Held × Held} (hpair : ticketPair s 7 g.desc.group.toNat = some t) :
    exec (.groupDelete n) s
    = .next (gDone (dropGroup (sendRoles (consumePair s t) g 0x2A g.gen (delTickets [t.1.raw, t.2.raw])) n.val) .done 0xFF) := by
  change execGroupDelete n s = _
  refine groupCmd_eq hopen ?_
  simp only [hgroup, hpair, if_pos hcoord]

theorem exec_groupReplace_of_lost {m : Member} {p : Byte} {i : Nat} (hplace : placeOf g.desc (posOfByte p.toNat) = some i)
    (hlost : stateAt g i = .lost) (hactive : rosterActive s m.val = true) (hnew : ((roleList g).eraseIdx i).contains m.val = false)
    (hwatch : watchFits s [m.val] = true) :
    exec (.groupReplace n m p) s = .next (gDone (planCustody (rewatch (replaceAt s n.val g i m))) .done 0xFF) := by
  have hstate : ¬ (stateAt g i != .lost) = true := by rw [hlost]; decide
  have hmember : ¬ (!rosterActive s m.val || ((roleList g).eraseIdx i).contains m.val) = true := by rw [hactive, hnew]; decide
  change execGroupReplace n m p s = _
  refine groupCmd_eq hopen ?_
  simp only [hgroup, hplace, hcoord, if_neg hstate, if_neg hmember, hwatch, Bool.not_true, Bool.false_eq_true, if_false]

end Coordinator

end OnKnownGroup

section Replace
variable {s : State} {g : Group} (k i : Nat) (m : Member)

theorem replaceAt_of_quiet (hround : g.round = none) (hrecon : g.recon = none) : replaceAt s k g i m
    = announce s k { withState (withMember g i m) i .rebuilding with
        recon := some { target := posAt g.desc i, rc := reconStart s g 0 } } := by
  simp only [replaceAt, hround, hrecon, Option.isSome_none, Bool.false_eq_true, if_false]

theorem replaceAt_of_round (hround : g.round.isSome = true) :
    replaceAt s k g i m = setGroup s k { g with waiting := g.waiting ++ [.replace (posAt g.desc i) m] } := if_pos hround

end Replace

/-! ## Envelopes of a group -/

/-- An envelope of a member that holds its place has its effect on the group as the state then holds it. -/
theorem onGroup_eq {s : State} {h : EnvHdr} {c : CuHdr} {kind : Nat} {body : List (Nat × Nat)} {k i : Nat} {g : Group}
    {f : State → Nat → Group → Nat → State} {r : State} (hheard : groupHeard s h c kind body k g i)
    (hf : f (heard s h kind (cuMsg c body)) k g i = r) : onGroup s h c kind body f = .next r := by
  obtain ⟨hpass, hix, hgroup, hplace, hmember⟩ := hheard
  refine congrArg go (onEnv_eq hpass ?_)
  simp only [hix, hgroup, hplace, if_pos hmember, hf]

section Envelopes
variable {s : State} {h : EnvHdr} {c : CuHdr} {k i : Nat} {g : Group}

section Deal
variable {v : ShareVal} {block : CommitBlock} (hheard : groupHeard s h c 0x21 (dealBody false v block) k g i)
include hheard

theorem exec_deal_of_bad (hbad : shareVerifies g.desc.k (c.dest.toNat % 64) v block = false ∨ zeroConstant g.desc.k block = false) :
    exec (.deal h c false v block) s = .next (heard s h 0x21 (cuMsg c (dealBody false v block))) := by
  change execDeal h c false v block s = _
  refine onGroup_eq hheard (if_pos ?_)
  rcases hbad with hbad | hbad <;> simp [hbad]

theorem exec_deal_of_good {r : Round} (hpart : canTakePart (heard s h 0x21 (cuMsg c (dealBody false v block))) = true)
    (hix : ownShareIx g = some (c.dest.toNat % 64)) (hverifies : shareVerifies g.desc.k (c.dest.toNat % 64) v block = true)
    (hzero : zeroConstant g.desc.k block = true) (hround : g.round = some r) (hrefresh : r.full = false) (hgen : c.gen.toNat = g.gen + 1)
    (hnew : (r.deals.any fun d => d.1 == i + 1 - g.desc.h) = false) (hprep : r.prepSent = false)
    (hcutoff : reached (heard s h 0x21 (cuMsg c (dealBody false v block))) (dealBeat g r) = false)
    (hbegun : reached (heard s h 0x21 (cuMsg c (dealBody false v block))) (secBeat r.x - secBeat g.desc.rb) = true) :
    exec (.deal h c false v block) s = .next (setGroup (heard s h 0x21 (cuMsg c (dealBody false v block))) k
      { g with round := some { r with deals := r.deals ++ [(i + 1 - g.desc.h, v, block)] } }) := by
  have hfor : roundFor g c false = r := by simp [roundFor, hround]
  change execDeal h c false v block s = _
  refine onGroup_eq hheard ((if_neg ?taken).trans ((if_neg ?first).trans ((if_neg ?kept).trans ?_)))
  case taken => simp [hpart, hix, hverifies, hzero]
  case first => simp
  case kept => simp only [hfor, hrefresh, hgen, hnew, hprep, hcutoff, hbegun]; simp
  simp only [hfor]

end Deal

section Prepared
variable {dealers : List (Fin 32 × BitVec 256)} {r : Round}

theorem exec_prepared_of_counted (hheard : groupHeard s h c 0x22 (preparedBody (dealers.map fun d => (d.1.val, d.2))) k g i)
    (hround : g.round = some r)
    (hcoord : amCoord (heard s h 0x22 (cuMsg c (preparedBody (dealers.map fun d => (d.1.val, d.2))))) g = true)
    (hpart : canTakePart (heard s h 0x22 (cuMsg c (preparedBody (dealers.map fun d => (d.1.val, d.2))))) = true)
    (hopen : r.decided = none) (hcutoff : r.cutoff = false)
    (hbeat : reached (heard s h 0x22 (cuMsg c (preparedBody (dealers.map fun d => (d.1.val, d.2))))) (decisionBeat g r + 1) = false)
    (hshare : c.pos.active = false) (hgen : c.gen.toNat = g.gen + 1) : exec (.prepared h c dealers) s
    = .next (setGroup (heard s h 0x22 (cuMsg c (preparedBody (dealers.map fun d => (d.1.val, d.2))))) k
        (notePrepared g r (i + 1 - (roundDesc g r).h) (dealers.map fun d => (dealerOf r.full d.1.val, d.2)))) := by
  change execPrepared h c dealers s = _
  refine onGroup_eq hheard ?_
  simp only [hround]
  exact if_pos (by simp [hcoord, hpart, hopen, hcutoff, hbeat, hshare, hgen])

end Prepared

section Decide
variable {commit : Bool} {p d : BitVec 32} {digest : BitVec 256} {r : Round}
  (hheard : groupHeard s h c 0x23 (decideBody commit p.toNat d.toNat digest.toNat) k g i) (hround : g.round = some r)
  (hcoord : coordinator g = some h.sender.val) (hgen : c.gen.toNat = g.gen + 1)
include hheard hround hcoord hgen

theorem exec_decide_of_abort (habort : commit = false) : exec (.decide h c commit p d digest) s
    = .next (afterRound (heard s h 0x23 (cuMsg c (decideBody commit p.toNat d.toNat digest.toNat))) k (takeAbort g)) := by
  change execDecide h c commit p d digest s = _
  refine onGroup_eq hheard ?_
  simp only [hround]
  exact (if_neg (by simp [hcoord, hgen])).trans (if_pos (by simp [habort]))

theorem exec_decide_of_commit {j : Nat} (hcommit : commit = true) (hix : myIx g r = some j)
    (hpart : canTakePart (heard s h 0x23 (cuMsg c (decideBody commit p.toNat d.toNat digest.toNat))) = true)
    (hin : ((bitSet p).map (· + 1)).contains j = true) : exec (.decide h c commit p d digest) s
    = .next (commitHere (heard s h 0x23 (cuMsg c (decideBody commit p.toNat d.toNat digest.toNat))) k g r i j ((bitSet p).map (· + 1))
        ((bitSet d).map (dealerOf r.full)) digest) := by
  change execDecide h c commit p d digest s = _
  refine onGroup_eq hheard ?_
  simp only [hround, hix]
  exact (if_neg (by simp [hcoord, hgen])).trans ((if_neg (by simp [hcommit])).trans ((if_neg (by simp [hpart])).trans (if_pos hin)))

end Decide

section Commit
variable {t : State} {r : Round} {j : Nat} {ps ds : List Nat} {digest : BitVec 256} {v : ShareRec} (hshare : newShare g r ds = some v)
include hshare

theorem commitHere_of_other (hother : blockDigest v.block ≠ digest) : commitHere t k g r i j ps ds digest = afterRound t k (takeAbort g) := by
  simp only [commitHere, hshare, if_neg hother]

theorem commitHere_of_same (hsame : blockDigest v.block = digest) : commitHere t k g r i j ps ds digest
    = sendPlace (setGroup t k (takeCommit g r v ps ds digest)) { g with own := some (sharePos j) } 0x24 (g.gen + 1) i [(1, 0x23)] := by
  simp only [commitHere, hshare, if_pos hsame]

end Commit

theorem exec_ack_of_counted {r : Round} (hheard : groupHeard s h c 0x24 [(1, 0x23)] k g i) (hround : g.round = some r)
    (hcoord : amCoord (heard s h 0x24 (cuMsg c [(1, 0x23)])) (applyWaiting (heard s h 0x24 (cuMsg c [(1, 0x23)])) g) = true)
    (hshare : c.pos.active = false) (hgen : c.gen.toNat = g.gen + 1) (hcounts : ackCounts r (i + 1 - (roundDesc g r).h) = true) :
    exec (.ack h c 0x23) s = .next (setGroup (heard s h 0x24 (cuMsg c [(1, 0x23)])) k
      { g with round := some { r with acks := r.acks ++ [i + 1 - (roundDesc g r).h] } }) := by
  change execAck h c 0x23 s = _
  refine onGroup_eq hheard ?_
  simp only [hround]
  refine if_pos ?_
  simp only [Bool.and_eq_true]
  exact ⟨⟨⟨⟨hcoord, rfl⟩, by simp [hshare]⟩, by simp [hgen]⟩, hcounts⟩

theorem exec_settle_of_coordinator {ok : Bool} (hheard : groupHeard s h c 0x25 [(1, if ok then 1 else 2)] k g i)
    (hcoord : coordinator g = some h.sender.val) : exec (.settle h c ok) s
    = .next (gevt (afterRound (heard s h 0x25 (cuMsg c [(1, if ok then 1 else 2)])) k
        (keepOnly g (if ok then c.gen.toNat else c.gen.toNat - 1))) 1) := by
  change execSettle h c ok s = _
  exact onGroup_eq hheard (if_neg (not_not_intro hcoord))

theorem exec_shareReq_of_named {r : Recon} {rc : Word} {target : Pos}
    (hpass : envelopePasses s h 0x26 (cuMsg c [(8, rc.toNat), (1, posByte target)]))
    (hix : groupIx (heard s h 0x26 (cuMsg c [(8, rc.toNat), (1, posByte target)])) c.group = some k)
    (hgroup : groupOf (heard s h 0x26 (cuMsg c [(8, rc.toNat), (1, posByte target)])) k = some g)
    (hplace : placeOf g.desc target = some i) (hrecon : g.recon = some r) (hmember : memberAt g i = h.sender.val)
    (htarget : r.target = target) (hown : (ownShareIx g).isNone = false)
    (hpart : canTakePart (heard s h 0x26 (cuMsg c [(8, rc.toNat), (1, posByte target)])) = true) (hheld : heldShares g ≠ []) :
    exec (.shareReq h c rc target) s
    = .next (sendEnv (heard s h 0x26 (cuMsg c [(8, rc.toNat), (1, posByte target)])) 0x27 h.sender.val (cuHead g g.gen (posByte target)
        ++ shareBody rc.toNat (heldShares g).length ((heldShares g).map fun x => shareGen x.gen x.val x.block))) := by
  change execShareReq h c rc target s = _
  refine congrArg go (onEnv_eq hpass ?_)
  simp only [hix, hgroup, hplace, hrecon, if_pos (And.intro hmember htarget)]
  exact if_neg (by simp [hown, hpart, hheld])

/-- What a SHARE must bring to be kept. -/
theorem share_taken {t : State} {r : Recon} {target : Pos} {rc : Word} (hasked : r.asked = true) (hstage : r.stage = false)
    (htarget : r.target = target) (hshare : c.pos.active = false) (hpart : canTakePart t = true)
    (hbeat : reached t (secBeat (r.rc + g.desc.rb) - 2 * beatsPerSec) = false) :
    ¬ (!r.asked || r.stage || r.target != target || rc != rc || c.pos.active || !canTakePart t
      || reached t (secBeat (r.rc + g.desc.rb) - 2 * beatsPerSec)) = true := by
  simp [hasked, hstage, htarget, hshare, hpart, hbeat]

section Share
variable {r : Recon} {target : Pos} {gens : List ShareGen}
  (hheard : groupHeard s h c 0x27 (shareBody (BitVec.ofNat 64 r.rc).toNat gens.length
    (gens.map fun x => shareGen x.gen.toNat x.val x.block)) k g i)
  (hrecon : g.recon = some r) (hasked : r.asked = true) (hstage : r.stage = false) (htarget : r.target = target)
  (hshare : c.pos.active = false)
  (hpart : canTakePart (heard s h 0x27 (cuMsg c (shareBody (BitVec.ofNat 64 r.rc).toNat gens.length
    (gens.map fun x => shareGen x.gen.toNat x.val x.block)))) = true)
  (hbeat : reached (heard s h 0x27 (cuMsg c (shareBody (BitVec.ofNat 64 r.rc).toNat gens.length
    (gens.map fun x => shareGen x.gen.toNat x.val x.block)))) (secBeat (r.rc + g.desc.rb) - 2 * beatsPerSec) = false)
include hheard hrecon hasked hstage htarget hshare hpart hbeat

theorem exec_share_of_fewer (hfew : wholeGen g { r with shares := r.shares ++ newShares g r (i + 1 - g.desc.h) gens }
      (newShares g r (i + 1 - g.desc.h) gens) = none) : exec (.share h c (BitVec.ofNat 64 r.rc) target gens) s
    = .next (setGroup (heard s h 0x27 (cuMsg c (shareBody (BitVec.ofNat 64 r.rc).toNat gens.length
        (gens.map fun x => shareGen x.gen.toNat x.val x.block)))) k
        { g with recon := some { r with shares := r.shares ++ newShares g r (i + 1 - g.desc.h) gens } }) := by
  change execShare h c (BitVec.ofNat 64 r.rc) target gens s = _
  refine onGroup_eq hheard ?_
  simp only [hrecon]
  refine (if_neg (share_taken hasked hstage htarget hshare hpart hbeat)).trans ?_
  simp only [hfew]

theorem exec_share_of_whole {z : ShareGen} (hwhole : wholeGen g { r with shares := r.shares ++ newShares g r (i + 1 - g.desc.h) gens }
      (newShares g r (i + 1 - g.desc.h) gens) = some z) : exec (.share h c (BitVec.ofNat 64 r.rc) target gens) s
    = .next (submitIntern (setGroup (heard s h 0x27 (cuMsg c (shareBody (BitVec.ofNat 64 r.rc).toNat gens.length
        (gens.map fun x => shareGen x.gen.toNat x.val x.block)))) k
        { g with recon := some { r with shares := r.shares ++ newShares g r (i + 1 - g.desc.h) gens, stage := true } }) 0xF1
        (some (.interpolate k r.rc z.gen.toNat z.block))) := by
  change execShare h c (BitVec.ofNat 64 r.rc) target gens s = _
  refine onGroup_eq hheard ?_
  simp only [hrecon]
  refine (if_neg (share_taken hasked hstage htarget hshare hpart hbeat)).trans ?_
  simp only [hwhole]

end Share

section ReconDone
variable {target : Pos} {done : Bool} {st : BitVec 16}
  (hheard : groupHeard s h c 0x28 [(1, posByte target), (1, if done then 1 else 2), (2, st.toNat)] k g i)
  (hmember : memberAt g i = h.sender.val) (hplace : placeOf g.desc target = some i)
include hheard hmember hplace

theorem exec_reconDone_of_target : exec (.reconDone h c target done st) s
    = .next (if amCoord (heard s h 0x28 (cuMsg c [(1, posByte target), (1, if done then 1 else 2), (2, st.toNat)])) g = true
        then reconOutcome (heard s h 0x28 (cuMsg c [(1, posByte target), (1, if done then 1 else 2), (2, st.toNat)])) k target done
        else setGroup (heard s h 0x28 (cuMsg c [(1, posByte target), (1, if done then 1 else 2), (2, st.toNat)])) k
          { g with recon := none }) := by
  change execReconDone h c target done st s = _
  exact onGroup_eq hheard (if_pos ⟨hmember, hplace⟩)

end ReconDone

theorem exec_accept_of_creating {yes : Bool} {st : BitVec 16} (hheard : groupHeard s h c 0x29 [(1, if yes then 1 else 2), (1, 0), (2, st.toNat)] k g i)
    (hcreating : g.creating.isSome = true) : exec (.accept h c yes st) s
    = .next (setGroup (heard s h 0x29 (cuMsg c [(1, if yes then 1 else 2), (1, 0), (2, st.toNat)])) k
        (if yes then { g with accepts := i :: g.accepts.erase i } else withState g i .lost)) := by
  change execAccept h c yes st s = _
  exact onGroup_eq hheard (if_pos hcreating)

theorem exec_groupDel_of_allowed {t1 t2 : Ticket} (hheard : groupHeard s h c 0x2A (delTickets [t1.raw, t2.raw]) k g i)
    (hallowed : delAllowed (heard s h 0x2A (cuMsg c (delTickets [t1.raw, t2.raw]))) g
      (roster (heard s h 0x2A (cuMsg c (delTickets [t1.raw, t2.raw]))) h.sender.val).device.toNat t1 t2 = true) :
    exec (.groupDel h c t1 t2) s = .next (dropGroup (heard s h 0x2A (cuMsg c (delTickets [t1.raw, t2.raw]))) k) := by
  change execGroupDel h c t1 t2 s = _
  exact onGroup_eq hheard (if_pos hallowed)

section GroupState
variable {body : GroupStateBody}
  (hpass : envelopePasses s { h with formOk := h.formOk && bodyOk body } 0x20 (cuMsg c (bodyFields body)))
include hpass

theorem exec_groupState_of_unknown
    (hix : groupIx (heard s { h with formOk := h.formOk && bodyOk body } 0x20 (cuMsg c (bodyFields body))) c.group = none) :
    exec (.groupState h c body) s
    = .next (namedInto (heard s { h with formOk := h.formOk && bodyOk body } 0x20 (cuMsg c (bodyFields body))) h c body) := by
  change execGroupState h c body s = _
  refine congrArg go (onEnv_eq hpass ?_)
  simp only [hix]

section Known
variable (hix : groupIx (heard s { h with formOk := h.formOk && bodyOk body } 0x20 (cuMsg c (bodyFields body))) c.group = some k)
  (hgroup : groupOf (heard s { h with formOk := h.formOk && bodyOk body } 0x20 (cuMsg c (bodyFields body))) k = some g)
  (hmay : mayChange g body h.sender.val = true)
include hix hgroup hmay

theorem exec_groupState_of_older (hold : body.version.toNat ≤ g.version) : exec (.groupState h c body) s
    = .next (heard s { h with formOk := h.formOk && bodyOk body } 0x20 (cuMsg c (bodyFields body))) := by
  change execGroupState h c body s = _
  refine congrArg go (onEnv_eq hpass ?_)
  simp only [hix, hgroup]
  exact (if_neg (by simp [hmay])).trans (if_pos hold)

theorem exec_groupState_of_later (hlater : g.version < body.version.toNat)
    (hwatch : watchFits (heard s { h with formOk := h.formOk && bodyOk body } 0x20 (cuMsg c (bodyFields body)))
      (descMembers (descOf body.desc)) = true) : exec (.groupState h c body) s
    = .next (planCustody (rewatch (takeState (heard s { h with formOk := h.formOk && bodyOk body } 0x20 (cuMsg c (bodyFields body)))
        k g body c.gen.toNat))) := by
  change execGroupState h c body s = _
  refine congrArg go (onEnv_eq hpass ?_)
  simp only [hix, hgroup]
  exact (if_neg (by simp [hmay])).trans ((if_neg (Nat.not_le.mpr hlater)).trans (if_pos hwatch))

end Known

end GroupState

end Envelopes

/-! ## What falls due in a round -/

section RoundDue
variable {s : State} {n : Fin 4096} {g : Group} {r : Round} (hgroup : groupOf s n.val = some g) (hround : g.round = some r)
include hgroup hround

section Cutoff
variable {j : Nat} (hix : myIx g r = some j) (hprep : r.prepSent = false) (hpart : canTakePart s = true)
  (hbeat : reached s (dealBeat g r) = true)
include hix hprep hpart hbeat

theorem exec_dealCutoff_of_coordinator (hcoord : amCoord s g = true) : exec (.dealCutoff n) s
    = .next (setGroup s n.val (notePrepared g { r with prepSent := true } j (verifiedDeals r))) := by
  change execDealCutoff n s = _
  simp only [execDealCutoff, hgroup, hround, hix, hprep, hpart, hbeat, if_pos hcoord, Bool.not_true, Bool.or_self, Bool.false_eq_true,
    if_false, go]

theorem exec_dealCutoff_of_holder {i : Nat} (hcoord : amCoord s g = false) (hplace : coordPlace g = some i) : exec (.dealCutoff n) s
    = .next (sendPlace (setGroup s n.val { g with round := some { r with prepSent := true } }) { g with own := some (sharePos j) } 0x22
        (g.gen + 1) i (preparedBody ((verifiedDeals r).map fun d => (dealerBit r.full d.1, d.2)))) := by
  change execDealCutoff n s = _
  simp only [execDealCutoff, hgroup, hround, hix, hprep, hpart, hbeat, hcoord, hplace, Bool.not_true, Bool.or_self, Bool.false_eq_true,
    if_false, go]

end Cutoff

section Decision
variable (hcoord : amCoord s g = true) (hpart : canTakePart s = true) (hopen : r.decided = none) (hcutoff : r.cutoff = false)
  (hbeat : reached s (decisionBeat g r) = true) (hrefresh : r.full = false)
include hcoord hpart hopen hcutoff hbeat hrefresh

/-- The coordinator of a refresh commits with a quorum of prepared holders and enough agreed deals, and aborts otherwise. -/
theorem exec_decisionCutoff_of_due : exec (.decisionCutoff n) s
    = (let d := roundDesc g r
       let sets := decideSets d r
       let ds := sets.1.map fun x => x.1
       let commit := decide (quorumOf d ≤ sets.2.length) && decide (d.k ≤ ds.length)
       let digest := decisionDigest g r sets.1
       let s1 := sendRound s g r 0x23 (g.gen + 1) (decideOf r commit sets.2 ds digest)
       if commit then .next (setGroup s1 n.val (ownCommit g { r with cutoff := true, sentRun := runNow s } sets.2 ds digest))
       else .next (planCustody (afterRound (gevtRec s1 5 (srcWord 0 0) 0) n.val (takeAbort g)))) := by
  change execDecisionCutoff n s = _
  simp only [execDecisionCutoff, hgroup, hround, hcoord, hpart, hopen, hcutoff, hbeat, hrefresh, Bool.not_true, Option.isSome_none,
    Bool.or_self, Bool.false_eq_true, if_false, go]
  rfl

theorem exec_decisionCutoff_of_few (hfew : (decideSets (roundDesc g r) r).2.length < quorumOf (roundDesc g r)) :
    exec (.decisionCutoff n) s
    = .next (planCustody (afterRound (gevtRec (sendRound s g r 0x23 (g.gen + 1) (decideOf r false (decideSets (roundDesc g r) r).2
        ((decideSets (roundDesc g r) r).1.map fun x => x.1) (decisionDigest g r (decideSets (roundDesc g r) r).1))) 5 (srcWord 0 0) 0)
        n.val (takeAbort g))) := by
  rw [exec_decisionCutoff_of_due hgroup hround hcoord hpart hopen hcutoff hbeat hrefresh]
  simp only [decide_eq_false (Nat.not_le.mpr hfew), Bool.false_and, Bool.false_eq_true, if_false]

theorem exec_decisionCutoff_of_quorum (hquorum : quorumOf (roundDesc g r) ≤ (decideSets (roundDesc g r) r).2.length)
    (hdeals : (roundDesc g r).k ≤ ((decideSets (roundDesc g r) r).1.map fun x => x.1).length) : exec (.decisionCutoff n) s
    = .next (setGroup (sendRound s g r 0x23 (g.gen + 1) (decideOf r true (decideSets (roundDesc g r) r).2
        ((decideSets (roundDesc g r) r).1.map fun x => x.1) (decisionDigest g r (decideSets (roundDesc g r) r).1))) n.val
        (ownCommit g { r with cutoff := true, sentRun := runNow s } (decideSets (roundDesc g r) r).2
          ((decideSets (roundDesc g r) r).1.map fun x => x.1) (decisionDigest g r (decideSets (roundDesc g r) r).1))) := by
  rw [exec_decisionCutoff_of_due hgroup hround hcoord hpart hopen hcutoff hbeat hrefresh]
  simp only [decide_eq_true hquorum, decide_eq_true hdeals, Bool.and_self, if_true]

end Decision

theorem exec_decideResend_of_due {ps ds : List Nat} {digest : BitVec 256} (hdecided : r.decided = some (true, ps, ds, digest))
    (hcoord : amCoord s g = true) (hpart : canTakePart s = true) (hswitched : r.switched = true)
    (hbeat : reached s (secBeat (r.x + graceSec g.desc)) = false) (hdue : r.sentRun + 16 * beatsPerSec ≤ runNow s) :
    exec (.decideResend n) s
    = .next (setGroup ((ps.filter fun j => !r.acks.contains j).foldl (fun s j =>
        sendPlace s (inRound g r) 0x23 (g.gen + 1) ((roundDesc g r).h + j - 1) (decideOf r true ps ds digest)) s) n.val
        { g with round := some { r with sentRun := runNow s } }) := by
  change execDecideResend n s = _
  simp only [execDecideResend, hgroup, hround, hdecided, hcoord, hpart, hswitched, hbeat, decide_eq_true hdue, Bool.not_false,
    Bool.and_self, if_true, go]

theorem exec_settlement_of_early (hearly : reached s (secBeat (r.x + graceSec g.desc)) = false) : exec (.settlement n) s = .next s := by
  change execSettlement n s = _
  simp only [execSettlement, hgroup, hround, hearly, Bool.not_false, if_true, go]

section Settle
variable (hbeat : reached s (secBeat (r.x + graceSec g.desc)) = true)
include hbeat

theorem exec_settlement_of_undecided (hopen : r.decided = none) :
    exec (.settlement n) s = .next (planCustody (afterRound s n.val (takeAbort g))) := by
  change execSettlement n s = _
  simp only [execSettlement, hgroup, hround, hbeat, hopen, Option.isNone_none, Bool.not_true, Bool.false_eq_true, if_false, if_true, go]

theorem exec_settlement_of_decided {x : Bool × List Nat × List Nat × BitVec 256} (hdecided : r.decided = some x)
    (hcoord : amCoord s g = true) (hpart : canTakePart s = true) :
    exec (.settlement n) s = .next (finishRound s n.val g r ((roundDesc g r).k ≤ ackedOf r)) := by
  change execSettlement n s = _
  simp only [execSettlement, hgroup, hround, hbeat, hdecided, hcoord, hpart, Option.isNone_some, Bool.not_true, Bool.false_eq_true,
    Bool.and_self, if_false, if_true, go]

end Settle

end RoundDue

section GroupDue
variable {s : State} {n : Fin 4096} {g : Group}

theorem exec_reconCutoff_of_due {r : Recon} (hgroup : groupOf s n.val = some g) (hrecon : g.recon = some r) (hasked : r.asked = true)
    (hstage : r.stage = false) (hbeat : reached s (secBeat (r.rc + g.desc.rb) - 2 * beatsPerSec) = true) :
    exec (.reconCutoff n) s = .next (reconFails s n.val g r .quorum) := by
  change execReconCutoff n s = _
  simp only [execReconCutoff, hgroup, hrecon, hasked, hstage, hbeat, Bool.not_false, Bool.and_self, if_true, go]

theorem exec_positionLossTimeout_of_due {p : Pos} {i : Nat} {w : Watch} (hgroup : groupOf s n.val = some g)
    (hplace : placeOf g.desc p = some i) (hwatch : tfind s.cu.watch (memberAt g i) = some w) (habsent : w.absent = true)
    (hdue : w.since + epochSec g.desc * beatsPerSec ≤ runNow s) :
    exec (.positionLossTimeout n p) s = .next (planCustody (markPosLost s n.val i)) := by
  change execPositionLossTimeout n p s = _
  simp only [execPositionLossTimeout, hgroup, hplace, hwatch, habsent, decide_eq_true hdue, Bool.and_self, if_true, go]

theorem createFails_of_creating {k : Nat} (hgroup : groupOf s k = some g) (hcreating : g.creating.isSome = true) :
    createFails s k = gDone (dropGroup (sendRoles s g 0x2A g.gen (delTickets g.tickets)) k) .quorum 0x28 := by
  simp only [createFails, hgroup, if_pos hcreating]

/-- A group whose creation has reached its deadline. -/
def creationDue (s : State) (p : Nat × Group) : Bool :=
  match p.2.creating with
  | some t => t ≤ runNow s
  | none => false

theorem creating_of_creationDue {k : Nat} (hdue : creationDue s (k, g) = true) : g.creating.isSome = true := by
  unfold creationDue at hdue
  split at hdue
  case h_1 t hcreating => exact Option.isSome_of_eq_some hcreating
  case h_2 => cases hdue

theorem exec_groupCreateDeadline_of_few {k : Nat} (hgroup : groupOf s k = some g)
    (hdue : s.cu.groups.find? (creationDue s) = some (k, g))
    (hfew : (g.accepts.filter fun i => g.desc.h ≤ i).length < quorumOf g.desc) : exec .groupCreateDeadline s
    = .next (gDone (dropGroup (sendRoles s g 0x2A g.gen (delTickets g.tickets)) k) .quorum 0x28) := by
  change execGroupCreateDeadline s = _
  unfold execGroupCreateDeadline
  split
  case h_1 hnone => cases hnone.symm.trans hdue
  case h_2 k' g' hsome =>
    cases hsome.symm.trans hdue
    exact (if_neg (Nat.not_le.mpr hfew)).trans
      (congrArg go (createFails_of_creating hgroup (creating_of_creationDue (List.find?_some hdue))))

theorem exec_custodySchedRetry_of_free {kind : Fin 3} {r : Nat × Word × BitVec 16}
    (hretry : (s.tb.retry.find? fun r => r.1 == kind.val + 2) = some r) (hfree : schedRefusal s r.1 (retryAim s r.2.1) = 0) :
    exec (.custodySchedRetry kind) s
    = .next (schedPlace { s with tb := { s.tb with retry := s.tb.retry.erase r } } r.1 (retryAim s r.2.1) r.2.2 0).1 := by
  change execCustodySchedRetry kind s = _
  simp only [execCustodySchedRetry, hretry, if_pos hfree, go]

end GroupDue

section Rings
variable {s : State} (hopen : managerOpen s)
include hopen

theorem exec_backupRingHeadWrite_of_managerOpen (p : BitVec 12) :
    exec (.backupRingHeadWrite p) s = .next (drainBackups (wrF s 0x61210 43 32 p.toNat)) :=
  managerWrite_of_managerOpen hopen 0x61210 fun s => backupHead s p.toNat

theorem exec_restoreRingTailWrite_of_managerOpen (p : BitVec 12) (backups : List Backup) (picks : List Nat) :
    exec (.restoreRingTailWrite p backups picks) s = .next (restoreTail s p.toNat backups picks) :=
  managerWrite_of_managerOpen hopen 0x61228 fun s => restoreTail s p.toNat backups picks

end Rings

/-- Settles O57: commands split on their checks past the gate, envelopes on the group and place of their sender, and what falls
due on the round. -/
theorem custodyGroupsAndTheirRounds : Obligations.CustodyGroupsAndTheirRounds := by
  refine ⟨fun s n hopen => ⟨?unreadCreate, ?unreadChange, ?noTickets, ?create, ?change, ?unknown, ?known⟩,
    fun s h c k i g => ⟨fun r v block hheard => exec_deal_of_good hheard, fun v block => exec_deal_of_bad, fun r dealers =>
      exec_prepared_of_counted, ?decide, fun r => exec_ack_of_counted, fun ok => exec_settle_of_coordinator,
      fun r rc target => exec_shareReq_of_named, ?share, ?reconDone, fun yes st => exec_accept_of_creating,
      fun t1 t2 => exec_groupDel_of_allowed, fun body hpass => ⟨exec_groupState_of_unknown hpass, fun hix hgroup hmay =>
        ⟨exec_groupState_of_older hpass hix hgroup hmay, exec_groupState_of_later hpass hix hgroup hmay⟩⟩⟩,
    fun s n g r hgroup hround => ⟨fun j => exec_dealCutoff_of_coordinator hgroup hround, fun j i hix hprep hpart hbeat =>
      exec_dealCutoff_of_holder hgroup hround hix hprep hpart hbeat, fun hcoord hpart hopen hcutoff hbeat hrefresh =>
        ⟨exec_decisionCutoff_of_few hgroup hround hcoord hpart hopen hcutoff hbeat hrefresh,
          exec_decisionCutoff_of_quorum hgroup hround hcoord hpart hopen hcutoff hbeat hrefresh⟩,
      fun ps ds digest => exec_decideResend_of_due hgroup hround, fun hbeat => ⟨exec_settlement_of_undecided hgroup hround hbeat,
        fun x => exec_settlement_of_decided hgroup hround hbeat⟩, exec_settlement_of_early hgroup hround⟩,
    fun s n g hgroup => ⟨fun r => exec_reconCutoff_of_due hgroup, fun p i w => exec_positionLossTimeout_of_due hgroup⟩,
    fun s k g hgroup => exec_groupCreateDeadline_of_few hgroup, fun s kind r => exec_custodySchedRetry_of_free,
    fun s hopen p backups picks => ⟨exec_backupRingHeadWrite_of_managerOpen hopen p,
      exec_restoreRingTailWrite_of_managerOpen hopen p backups picks⟩⟩
  case unreadCreate => exact exec_groupCreate_of_open hopen .failed
  case unreadChange => exact exec_groupChange_of_open hopen n .failed
  case noTickets => exact fun raw hnone => (exec_groupCreate_of_open hopen _).trans (congrArg _ (createCmd_of_no_tickets hnone))
  case create =>
    exact fun raw t k hpair hform hvalid hnew hnames hfirst hfree hwatch => (exec_groupCreate_of_open hopen _).trans
      (congrArg _ (createCmd_of_valid hpair hform hvalid hnew hnames hfirst hfree hwatch))
  case change =>
    exact fun raw t g hpair hgroup hcoord hholds hform hvalid hsame hnames hwatch => (exec_groupChange_of_open hopen n _).trans
      (congrArg _ (changeCmd_of_valid hpair hgroup hcoord hholds hform hvalid hsame hnames hwatch))
  case unknown =>
    exact fun hnone => ⟨exec_groupBind_of_unknown hopen hnone, exec_groupDelete_of_unknown hopen hnone,
      exec_groupSweep_of_unknown hopen hnone, exec_groupReplace_of_unknown hopen hnone⟩
  case known =>
    refine fun g hgroup => ⟨fun hholds => ⟨exec_groupBind_of_holder hopen hgroup hholds, exec_groupSweep_of_holder hopen hgroup hholds⟩,
      fun t hpair hcoord => exec_groupDelete_of_coordinator hopen hgroup hcoord hpair,
      fun m p i hcoord hplace hlost hactive hnew hwatch => ?_⟩
    have hreplace := exec_groupReplace_of_lost hopen hgroup hcoord hplace hlost hactive hnew hwatch
    refine ⟨fun hround hrecon => ?_, fun hround => ?_⟩
    · rw [hreplace, replaceAt_of_quiet n.val i m hround hrecon]
    · rw [hreplace, replaceAt_of_round n.val i m hround]
  case decide =>
    refine fun r p d digest commit hheard hround hcoord hgen => ⟨exec_decide_of_abort hheard hround hcoord hgen,
      fun j v hcommit hix hpart hin hshare => ?_⟩
    have htaken := exec_decide_of_commit hheard hround hcoord hgen hcommit hix hpart hin
    exact ⟨fun hother => htaken.trans (congrArg _ (commitHere_of_other hshare hother)),
      fun hsame => htaken.trans (congrArg _ (commitHere_of_same hshare hsame))⟩
  case share =>
    exact fun r target gens hheard hrecon hasked hstage htarget hshare hpart hbeat =>
      ⟨exec_share_of_fewer hheard hrecon hasked hstage htarget hshare hpart hbeat,
        fun z => exec_share_of_whole hheard hrecon hasked hstage htarget hshare hpart hbeat⟩
  case reconDone =>
    refine fun target done st hheard hmember hplace => ⟨fun hcoord => ?_, fun hcoord => ?_⟩
    · exact (exec_reconDone_of_target hheard hmember hplace).trans (congrArg _ (if_pos hcoord))
    · exact (exec_reconDone_of_target hheard hmember hplace).trans (congrArg _ (if_neg (Bool.eq_false_iff.mp hcoord)))

end Machine
end Sys2Proof
end

section
/-! PROOF. The foyer: card slots from insertion to removal, the slot commands past their gate, and tickets that lapse. -/

namespace Sys2Proof
namespace Machine

/-! ## Slots -/

section Slots
variable {s : State} {n : Fin 4}

theorem exec_cardInsert_of_empty (h : (cslot s n).det = false) : exec (.cardInsert n) s
    = (let c1 := { unpowered (cslot s n) .debounce with det := true, detRun := runNow s, err := 0, sealed := true, seatCls := 0 }
       .next (setSlot s n (if (cslot s n).found && slotOn s n then c1 else { c1 with state := .off }))) := by
  change execCardInsert n s = _
  exact if_neg (Bool.eq_false_iff.mp h)

theorem exec_cardInsert_of_seated (h : (cslot s n).det = true) : exec (.cardInsert n) s = .next s := by
  change execCardInsert n s = _
  exact if_pos h

theorem exec_slotDebounceDone_of_usable (hstate : (cslot s n).state = .debounce) (hmay : mayActivate s n = true) :
    exec (.slotDebounceDone n) s = .next (activate s n 1 false) := by
  change execSlotDebounceDone n s = _
  exact if_pos (by rw [hstate, hmay]; decide)

section Activating
variable (hstate : (cslot s n).state = .activating)
include hstate

section Answer
variable (hpps : (cslot s n).ppsWait = false) (hhigher : (cslot s n).higher = 0)
include hpps hhigher

theorem answer_expected : ¬ ((cslot s n).state != .activating || (cslot s n).ppsWait || (cslot s n).higher != 0) = true := by
  rw [hstate, hpps, hhigher]; decide

theorem exec_answerToReset_of_no_class {a : Atr} (hclass : a.classInd = none) :
    exec (.answerToReset n a) s = .next (atrParams s n a) := by
  change execAnswerToReset n a s = _
  simp only [execAnswerToReset, if_neg (answer_expected hstate hpps hhigher), hclass, go]

section Class
variable {a : Atr} {i : Bool × Bool × Bool} (hclass : a.classInd = some i)
include hclass

theorem exec_answerToReset_of_included (hincludes : includesCls i (cslot s n).cls = true) :
    exec (.answerToReset n a) s = .next (atrParams s n a) := by
  change execAnswerToReset n a s = _
  simp only [execAnswerToReset, if_neg (answer_expected hstate hpps hhigher), hclass, if_pos hincludes, go]

section Other
variable (hexcludes : includesCls i (cslot s n).cls = false)
include hexcludes

theorem exec_answerToReset_of_higher {k : Nat} (hfind : ([2, 3].find? fun k => decide ((cslot s n).cls < k) && includesCls i k) = some k) :
    exec (.answerToReset n a) s = .next (setSlot s n { unpowered (cslot s n) .activating with
      higher := k, detRun := (cslot s n).detRun, noPps := (cslot s n).noPps }) := by
  change execAnswerToReset n a s = _
  simp only [execAnswerToReset, if_neg (answer_expected hstate hpps hhigher), hclass, if_neg (Bool.eq_false_iff.mp hexcludes), hfind, go]

theorem exec_answerToReset_of_neither (hfind : ([2, 3].find? fun k => decide ((cslot s n).cls < k) && includesCls i k) = none) :
    exec (.answerToReset n a) s = .next (slotError s n 2 .refused) := by
  change execAnswerToReset n a s = _
  simp only [execAnswerToReset, if_neg (answer_expected hstate hpps hhigher), hclass, if_neg (Bool.eq_false_iff.mp hexcludes), hfind, go]

end Other

end Class

theorem exec_atrTimeout_of_waiting : exec (.atrTimeout n) s = .next (slotError s n 1 .refused) := by
  change execAtrTimeout n s = _
  exact if_pos (by rw [hstate, hpps, hhigher]; decide)

end Answer

theorem exec_classRetry_of_higher (hhigher : (cslot s n).higher ≠ 0) :
    exec (.classRetry n) s = .next (activate s n (cslot s n).higher (cslot s n).noPps) := by
  change execClassRetry n s = _
  exact if_pos (by rw [hstate, bne_iff_ne.mpr hhigher]; decide)

section Pps
variable (hpps : (cslot s n).ppsWait = true)
include hpps

theorem pps_expected : ((cslot s n).state == .activating && (cslot s n).ppsWait) = true := by
  rw [hstate, hpps]; decide

theorem exec_ppsResponse_of_waiting (confirmed : Bool) : exec (.ppsResponse n confirmed) s
    = .next (if confirmed then slotActive s n (cslot s n).fi (cslot s n).di (clkDivOf (cslot s n).fi)
        else activate s n (cslot s n).cls true) := by
  change execPpsResponse n confirmed s = _
  exact if_pos (pps_expected hstate hpps)

theorem exec_ppsTimeout_of_waiting : exec (.ppsTimeout n) s = .next (activate s n (cslot s n).cls true) := by
  change execPpsTimeout n s = _
  exact if_pos (pps_expected hstate hpps)

end Pps

end Activating

section Active
variable (hstate : (cslot s n).state = .active)
include hstate

theorem exec_cardBlockTimeout_of_active : exec (.cardBlockTimeout n) s = .next (blockFailed s n) := by
  change execCardBlockTimeout n s = _
  exact if_pos hstate

theorem exec_cardBlockReceive_of_badEdc : exec (.cardBlockReceive n .badEdc) s
    = .next (blockFailed (cntUp s (slCnt n) 31 16) n) := by
  change execCardBlockReceive n .badEdc s = _
  exact if_neg (not_not_intro hstate)

theorem exec_cardBlockReceive_of_unsupported : exec (.cardBlockReceive n .unsupported) s = .next (slotError s n 3 .refused) := by
  change execCardBlockReceive n .unsupported s = _
  exact if_neg (not_not_intro hstate)

theorem exec_cardBlockReceive_of_good {a : CardAnswer} (hedc : a ≠ .badEdc) (hsupported : a ≠ .unsupported) :
    exec (.cardBlockReceive n a) s = .next (cardAnswer (setSlot s n { cslot s n with tries := 0 }) n a) := by
  change execCardBlockReceive n a s = _
  refine (if_neg (not_not_intro hstate)).trans ?_
  split
  case h_1 => exact absurd rfl hedc
  case h_2 => exact absurd rfl hsupported
  case h_3 => exact rfl

end Active

theorem exec_cardRemove_of_seated (h : (cslot s n).det = true) : exec (.cardRemove n) s
    = .next (evt (cntUp (setSlot (deactivate s n .empty) n
        { cslot (deactivate s n .empty) n with det := false, blocked := false, sealed := false }) (slCnt n) 63 48) 8 1) := by
  change execCardRemove n s = _
  exact if_neg (by simp [h])

theorem exec_sealBreak_of_sealed (h : (cslot s n).sealed = true) : exec (.sealBreak n) s = .next (sealOpened s n) := by
  change execSealBreak n s = _
  exact if_pos h

theorem exec_slotOvercurrent_of_powered (h : (cslot s n).state = .active ∨ (cslot s n).state = .activating) :
    exec (.slotOvercurrent n) s
    = .next (setSlot (slotError s n 2 .refused) n { cslot (slotError s n 2 .refused) n with blocked := true }) := by
  change execSlotOvercurrent n s = _
  exact if_pos h

end Slots

/-! ## The gate of the slot commands -/

/-- The operations that go on while the module is locked. -/
def lockedOp (op : Nat) : Bool := op == 1 || op == 2 || op == 3 || op == 8

section Gate
variable {s : State} {op : Nat} (f : State → State)

theorem slGate_of_busy (hbusy : ∃ k, s.sl.cmd = some k) : slGate s op f = evt s 8 6 :=
  if_pos (Option.isSome_iff_exists.mpr hbusy)

theorem slGate_of_locked (hnone : s.sl.cmd = none) (hlocked : isLocked s = true) (hop : lockedOp op = false) :
    slGate s op f = slDone s .locked 0xFF := by
  have hstop : (isLocked s && !lockedOp op) = true := by rw [hlocked, hop]; decide
  exact (if_neg (by simp [hnone])).trans (if_pos hstop)

theorem slGate_of_open (hnone : s.sl.cmd = none) (hgo : isLocked s = false ∨ lockedOp op = true) : slGate s op f = f s := by
  have hpass : ¬ (isLocked s && !lockedOp op) = true := by
    rcases hgo with h | h <;> simp [h]
  exact (if_neg (by simp [hnone])).trans (if_neg hpass)

section Command
variable {f : State → State} (hopen : managerOpen s)
include hopen

theorem slotCmd_of_busy (hbusy : ∃ k, s.sl.cmd = some k) : managerWrite s 0x80010 (fun s => slGate s op f) = .next (evt s 8 6) :=
  (managerWrite_of_managerOpen hopen 0x80010 fun s => slGate s op f).trans (congrArg go (slGate_of_busy f hbusy))

theorem slotCmd_of_locked (hnone : s.sl.cmd = none) (hlocked : isLocked s = true) (hop : lockedOp op = false) :
    managerWrite s 0x80010 (fun s => slGate s op f) = .next (slDone s .locked 0xFF) :=
  (managerWrite_of_managerOpen hopen 0x80010 fun s => slGate s op f).trans (congrArg go (slGate_of_locked f hnone hlocked hop))

/-- A slot command past its gate has its effect on the state as it stands. -/
theorem slotCmd_eq {r : State} (hnone : s.sl.cmd = none) (hgo : isLocked s = false ∨ lockedOp op = true) (hf : f s = r) :
    managerWrite s 0x80010 (fun s => slGate s op f) = .next r :=
  (managerWrite_of_managerOpen hopen 0x80010 fun s => slGate s op f).trans (congrArg go ((slGate_of_open f hnone hgo).trans hf))

end Command

end Gate

section Busy
variable {s : State} {n : Fin 4} (hopen : managerOpen s) (hbusy : ∃ k, s.sl.cmd = some k)
include hopen hbusy

theorem exec_sign_of_busy (b : HostRead (BitVec 1408 × BitVec 128)) : exec (.sign n b) s = .next (evt s 8 6) := by
  change execSign n b s = _
  exact slotCmd_of_busy hopen hbusy

theorem exec_drop_of_busy : exec .drop s = .next (evt s 8 6) := by
  change execDrop s = _
  exact slotCmd_of_busy hopen hbusy

theorem exec_powerOn_of_busy : exec (.powerOn n) s = .next (evt s 8 6) := by
  change execPowerOn n s = _
  exact slotCmd_of_busy hopen hbusy

theorem exec_custDel_of_busy (b : HostRead (Fin 256 × Fin 256 × BitVec 128)) : exec (.custDel b) s = .next (evt s 8 6) := by
  change execCustDel b s = _
  exact slotCmd_of_busy hopen hbusy

end Busy

section Idle
variable {s : State} (hopen : managerOpen s) (hnone : s.sl.cmd = none)
include hopen hnone

section Locked
variable {n : Fin 4} (hlocked : isLocked s = true)
include hlocked

theorem exec_powerOff_of_locked : exec (.powerOff n) s = .next (slDone s .locked 0xFF) := by
  change execPowerOff n s = _
  exact slotCmd_of_locked hopen hnone hlocked rfl

theorem exec_powerOn_of_locked : exec (.powerOn n) s = .next (slDone s .locked 0xFF) := by
  change execPowerOn n s = _
  exact slotCmd_of_locked hopen hnone hlocked rfl

theorem exec_custAdd_of_locked {donor : Fin 4} (b : HostRead (Fin 256 × Fin 256 × BitVec 128 × BitVec 128 × BitVec 128)) :
    exec (.custAdd n donor b) s = .next (slDone s .locked 0xFF) := by
  change execCustAdd n donor b s = _
  exact slotCmd_of_locked hopen hnone hlocked rfl

theorem exec_custDel_of_locked (b : HostRead (Fin 256 × Fin 256 × BitVec 128)) :
    exec (.custDel b) s = .next (slDone s .locked 0xFF) := by
  change execCustDel b s = _
  exact slotCmd_of_locked hopen hnone hlocked rfl

theorem exec_signkeySet_of_locked (b : HostRead (BitVec 16512)) : exec (.signkeySet b) s = .next (slDone s .locked 0xFF) := by
  change execSignkeySet b s = _
  exact slotCmd_of_locked hopen hnone hlocked rfl

theorem exec_signkeyRevoke_of_locked (b : HostRead (Fin 256)) : exec (.signkeyRevoke b) s = .next (slDone s .locked 0xFF) := by
  change execSignkeyRevoke b s = _
  exact slotCmd_of_locked hopen hnone hlocked rfl

end Locked

/-! ## Tickets: SIGN, HOLD, RELAY and DROP, locked or not -/

section Tickets
variable {n : Fin 4} {m : Member}

theorem exec_sign_of_unread : exec (.sign n .failed) s = .next (slDone (dmaErr s) .aborted 0xFF) := by
  change execSign n .failed s = _
  exact slotCmd_eq hopen hnone (.inr rfl) rfl

theorem exec_sign_of_ready {raw : BitVec 1408} {pin : BitVec 128} (hready : slotReady s n = true) : exec (.sign n (.ok (raw, pin))) s
    = (let raw1 := setBits (setBits raw 575 320 (keyIdOf (cardPub s n))) 767 640 (draw 128 s).1.toNat
       .next (slBegin (draw 128 s).2 { op := 1, slot := n, donor := n, raw := raw1, stage := 0 } n pin)) := by
  change execSign n (.ok (raw, pin)) s = _
  exact slotCmd_eq hopen hnone (.inr rfl) (if_pos hready)

theorem exec_sign_of_unready {raw : BitVec 1408} {pin : BitVec 128} (hready : slotReady s n = false) :
    exec (.sign n (.ok (raw, pin))) s = .next (slDone s .aborted 0xFF) := by
  change execSign n (.ok (raw, pin)) s = _
  exact slotCmd_eq hopen hnone (.inr rfl) (if_neg (Bool.eq_false_iff.mp hready))

theorem exec_hold_of_unread : exec (.hold .failed) s = .next (slDone (dmaErr s) .aborted 0xFF) := by
  change execHold .failed s = _
  exact slotCmd_eq hopen hnone (.inr rfl) rfl

theorem exec_hold_of_refused {t : Ticket} {s1 : State} {order : Nat} {st : Status}
    (hhold : holdTicket s t.raw t.sigOk false = (s1, some (order, st))) : exec (.hold (.ok t)) s = .next (slDone s1 st order) := by
  change execHold (.ok t) s = _
  refine slotCmd_eq hopen hnone (.inr rfl) ?_
  simp only [hhold]

theorem exec_hold_of_held {t : Ticket} {s1 : State} (hhold : holdTicket s t.raw t.sigOk false = (s1, none)) :
    exec (.hold (.ok t)) s = .next (slDone s1 .done 0xFF) := by
  change execHold (.ok t) s = _
  refine slotCmd_eq hopen hnone (.inr rfl) ?_
  simp only [hhold]

theorem exec_relay_of_unenrolled {t : Ticket} (hmember : s.cu.member.isNone = true) :
    exec (.relay m (.ok t)) s = .next (slDone s .policy 0xFF) := by
  change execRelay m (.ok t) s = _
  exact slotCmd_eq hopen hnone (.inr rfl) (if_pos hmember)

theorem exec_relay_of_member {t : Ticket} (hmember : s.cu.member.isNone = false) :
    exec (.relay m (.ok t)) s = .next (slDone (sendEnv s 0x40 m.val (ticketBody [t.raw] none)) .done 0xFF) := by
  change execRelay m (.ok t) s = _
  exact slotCmd_eq hopen hnone (.inr rfl) (if_neg (Bool.eq_false_iff.mp hmember))

theorem exec_drop_of_idle : exec .drop s = .next (slDone (dropHeld s) .done 0xFF) := by
  change execDrop s = _
  exact slotCmd_eq hopen hnone (.inr rfl) rfl

end Tickets

/-! ## Slots, custodians and signing keys, of a module that is not locked -/

section Unlocked
variable (hfree : isLocked s = false)
include hfree

section Power
variable {n : Fin 4}

theorem exec_powerOff_of_unlocked : exec (.powerOff n) s
    = .next (if (cslot s n).state = .active then slDone (deactivate s n .off) .done 0xFF else slDone s .aborted 0xFF) := by
  change execPowerOff n s = _
  exact slotCmd_eq hopen hnone (.inl hfree) rfl

theorem exec_powerOn_of_active (h : (cslot s n).state = .active) : exec (.powerOn n) s = .next (slDone s .done 0xFF) := by
  change execPowerOn n s = _
  exact slotCmd_eq hopen hnone (.inl hfree) (if_pos h)

theorem exec_powerOn_of_usable (h : (cslot s n).state ≠ .active) (hmay : mayActivate s n = true) :
    exec (.powerOn n) s = .next (slDone (activate s n 1 false) .done 0xFF) := by
  change execPowerOn n s = _
  exact slotCmd_eq hopen hnone (.inl hfree) ((if_neg h).trans (if_pos hmay))

end Power

section Custodians
variable {n donor : Fin 4} {ix kind : Fin 256}

theorem exec_custAdd_of_free {name pin pinD : BitVec 128} (h : custAddRefusal s n donor ix.val kind.val = none) :
    exec (.custAdd n donor (.ok (ix, kind, name, pin, pinD))) s
    = .next (slBegin s { op := 4, slot := n, donor := donor, raw := custRaw ix.val kind.val name.toNat, stage := 0, pin := pin,
                         donorPin := pinD } donor pinD) := by
  change execCustAdd n donor (.ok (ix, kind, name, pin, pinD)) s = _
  refine slotCmd_eq hopen hnone (.inl hfree) ?_
  simp only [h]

theorem exec_custAdd_of_refused {name : BitVec 128 × BitVec 128 × BitVec 128} {st : Status}
    (h : custAddRefusal s n donor ix.val kind.val = some st) :
    exec (.custAdd n donor (.ok (ix, kind, name))) s = .next (slDone s st 0xFF) := by
  change execCustAdd n donor (.ok (ix, kind, name)) s = _
  refine slotCmd_eq hopen hnone (.inl hfree) ?_
  simp only [h]

theorem exec_custDel_of_pair {name : BitVec 128} {j : Nat} {c : Custodian} {t : Held × Held}
    (hentry : ((custUsed s).find? fun p => p.1 == ix.val) = some (j, c))
    (hpair : ticketPair s 0x10 (custArgs ix.val 0 c.keyId.toNat) = some t)
    (hother : ((custUsed s).filter fun p => p.1 != ix.val && p.2.kindB == c.kindB).isEmpty = false) :
    exec (.custDel (.ok (ix, kind, name))) s
    = .next (slDone (writeEntry64 (consumePair s t) ix.val
        { pub := 0, keyId := 0, kindB := false, name := 0, serial := c.serial + 1 } t) .done 0xFF) := by
  change execCustDel (.ok (ix, kind, name)) s = _
  refine slotCmd_eq hopen hnone (.inl hfree) ?_
  simp only [hentry, hpair, if_neg (Bool.eq_false_iff.mp hother)]

end Custodians

section SigningKeys

theorem exec_signkeySet_of_pair {raw : BitVec 16512} {t : Held × Held} (hlo : 0 < byteOf raw.toNat 0) (hhi : byteOf raw.toNat 0 ≤ 8)
    (hpair : ticketPair s 0x08 (byteOf raw.toNat 0 + fld (sha384 2064 raw.toNat) 128) = some t) : exec (.signkeySet (.ok raw)) s
    = (let s1 := unloadSigner (consumePair s t) (byteOf raw.toNat 0)
       let l1 := { s1.ld with keys := tins s1.ld.keys (byteOf raw.toNat 0) (BitVec.ofNat 16384 (bytesOf raw.toNat 16 2048)) }
       .next (slDone { s1 with ld := l1 } .done 0xFF)) := by
  have hslot : ¬ (byteOf raw.toNat 0 = 0 ∨ 8 < byteOf raw.toNat 0) := by omega
  change execSignkeySet (.ok raw) s = _
  refine slotCmd_eq hopen hnone (.inl hfree) ?_
  simp only [if_neg hslot, hpair]

theorem exec_signkeySet_of_no_slot {raw : BitVec 16512} (h : byteOf raw.toNat 0 = 0 ∨ 8 < byteOf raw.toNat 0) :
    exec (.signkeySet (.ok raw)) s = .next (slDone s .malformed 0xFF) := by
  change execSignkeySet (.ok raw) s = _
  exact slotCmd_eq hopen hnone (.inl hfree) (if_pos h)

theorem exec_signkeyRevoke_of_pair {k : Fin 256} {t : Held × Held} (hlo : 0 < k.val) (hhi : k.val ≤ 8)
    (hpair : ticketPair s 0x09 k.val = some t) : exec (.signkeyRevoke (.ok k)) s
    = (let s1 := unloadSigner (consumePair s t) k.val
       let l1 := { s1.ld with keys := tdel s1.ld.keys k.val }
       .next (slDone { s1 with ld := l1 } .done 0xFF)) := by
  have hslot : ¬ (k.val = 0 ∨ 8 < k.val) := by omega
  change execSignkeyRevoke (.ok k) s = _
  refine slotCmd_eq hopen hnone (.inl hfree) ?_
  simp only [if_neg hslot, hpair]

theorem exec_signkeyRevoke_of_no_slot {k : Fin 256} (h : k.val = 0 ∨ 8 < k.val) :
    exec (.signkeyRevoke (.ok k)) s = .next (slDone s .malformed 0xFF) := by
  change execSignkeyRevoke (.ok k) s = _
  exact slotCmd_eq hopen hnone (.inl hfree) (if_pos h)

end SigningKeys

end Unlocked

end Idle

/-! ## Held tickets -/

theorem exec_ticketExpiry_of_held {s : State} {t : Fin 16} {h : Held} {r : List Held} (hheld : s.sl.held.drop t.val = h :: r) :
    exec (.ticketExpiry t) s = if lapsed s (tkNotAfter h.raw) h.lapse = true
      then .next { s with sl := { s.sl with held := s.sl.held.erase h } } else .next s := by
  change execTicketExpiry t s = _
  simp only [execTicketExpiry, hheld, go]

/-- Settles O58: slots split on their state, slot commands on the gate and then on their checks. -/
theorem foyerSlotsAndCommands : Obligations.FoyerSlotsAndCommands := by
  refine ⟨fun s n => ⟨exec_cardInsert_of_empty, exec_cardInsert_of_seated, exec_slotDebounceDone_of_usable, fun hstate hpps hhigher =>
      ⟨fun a => exec_answerToReset_of_no_class hstate hpps hhigher, fun a i => exec_answerToReset_of_included hstate hpps hhigher,
        fun a i k hclass hexcludes => exec_answerToReset_of_higher hstate hpps hhigher hclass hexcludes, fun a i => exec_answerToReset_of_neither hstate hpps hhigher,
        exec_atrTimeout_of_waiting hstate hpps hhigher⟩, exec_classRetry_of_higher, fun hstate hpps =>
      ⟨exec_ppsResponse_of_waiting hstate hpps true, exec_ppsResponse_of_waiting hstate hpps false,
        exec_ppsTimeout_of_waiting hstate hpps⟩, fun hstate =>
      ⟨exec_cardBlockTimeout_of_active hstate, exec_cardBlockReceive_of_badEdc hstate, exec_cardBlockReceive_of_unsupported hstate,
        fun a => exec_cardBlockReceive_of_good hstate⟩, exec_cardRemove_of_seated, exec_sealBreak_of_sealed,
      exec_slotOvercurrent_of_powered⟩,
    fun s n donor m hopen => ⟨fun hbusy => ⟨exec_sign_of_busy hopen hbusy, exec_drop_of_busy hopen hbusy, exec_powerOn_of_busy hopen hbusy,
        exec_custDel_of_busy hopen hbusy⟩,
      fun hnone hlocked => ⟨exec_powerOff_of_locked hopen hnone hlocked, exec_powerOn_of_locked hopen hnone hlocked,
        exec_custAdd_of_locked hopen hnone hlocked, exec_custDel_of_locked hopen hnone hlocked,
        exec_signkeySet_of_locked hopen hnone hlocked, exec_signkeyRevoke_of_locked hopen hnone hlocked⟩,
      fun hnone => ⟨exec_sign_of_unread hopen hnone, fun raw pin => exec_sign_of_ready hopen hnone, fun raw pin =>
        exec_sign_of_unready hopen hnone, exec_hold_of_unread hopen hnone, fun t s1 order st => exec_hold_of_refused hopen hnone,
        fun t s1 => exec_hold_of_held hopen hnone, fun t => exec_relay_of_unenrolled hopen hnone,
        fun t => exec_relay_of_member hopen hnone, exec_drop_of_idle hopen hnone⟩,
      fun hnone hfree => ⟨fun hactive => ⟨?offActive, exec_powerOn_of_active hopen hnone hfree hactive⟩, fun hinactive => ?offInactive,
        exec_powerOn_of_usable hopen hnone hfree, fun ix kind name pin pinD => exec_custAdd_of_free hopen hnone hfree,
        fun ix kind name st => exec_custAdd_of_refused hopen hnone hfree, fun ix kind name j c t => exec_custDel_of_pair hopen hnone hfree,
        fun raw t => exec_signkeySet_of_pair hopen hnone hfree, fun k t => exec_signkeyRevoke_of_pair hopen hnone hfree,
        fun k => exec_signkeyRevoke_of_no_slot hopen hnone hfree, fun raw => exec_signkeySet_of_no_slot hopen hnone hfree⟩⟩,
    fun s t h r hheld => ⟨fun hlapsed => ?lapsed, fun hvalid => ?valid⟩, fun _ _ => rfl⟩
  case offActive => rw [exec_powerOff_of_unlocked hopen hnone hfree, if_pos hactive]
  case offInactive => rw [exec_powerOff_of_unlocked hopen hnone hfree, if_neg hinactive]
  case lapsed => rw [exec_ticketExpiry_of_held hheld, if_pos hlapsed]
  case valid => rw [exec_ticketExpiry_of_held hheld, if_neg (Bool.eq_false_iff.mp hvalid)]

end Machine
end Sys2Proof
end

section
/-! PROOF. The shutters and the hearth: alarms, the tamper clock, the tamper commands, noise sources, raw bits and captures. -/

namespace Sys2Proof
namespace Machine

/-! ## Alarms and the tamper clock -/

section Shutters
variable {s : State}

theorem exec_alarmLevelExit_of_past {n : Fin 24} {now : Nat} (hlevel : (tsrc s n.val).level = true)
    (hpast : (tsrc s n.val).last + srcWindow s n.val ≤ now) : exec (.alarmLevelExit n now) s
    = (let v1 := { tsrc s n.val with level := false }
       .next (if n.val = 0x0F then withTp (setTsrc s n.val v1) fun t => { t with batteryOk := true } else setTsrc s n.val v1)) := by
  change execAlarmLevelExit n now s = _
  exact if_pos (by rw [hlevel, decide_eq_true hpast]; decide)

theorem exec_alarmPulseEnd_of_pulse (h : s.tp.pulse = true) :
    exec .alarmPulseEnd s = .next (followAlarm (withTp s fun t => { t with pulse := false })) := by
  change execAlarmPulseEnd s = _
  exact if_pos h

/-- The state in which the failure of the tamper clock is recorded. -/
def clockFailed (s : State) : State :=
  report (setBit (withTp s fun t => { t with tclkOk := false }) 0x90008 9) 0x249 (srcWord 0 0) 0

section ClockFail
variable (hpower : s.pwrOk = true) (hclock : s.tp.tclkOk = true)
include hpower hclock

theorem clock_may_fail : ¬ (!s.pwrOk || !s.tp.tclkOk) = true := by rw [hpower, hclock]; decide

theorem exec_tamperClockFail_of_late (hlc : s.mode.lc = .analysis ∨ s.mode.lc = .retired) :
    exec .tamperClockFail s = .next (clockFailed s) := by
  change execTamperClockFail s = _
  refine (if_neg (clock_may_fail hpower hclock)).trans ?_
  rcases hlc with hlc | hlc <;> simp only [hlc, clockFailed, go]

theorem exec_tamperClockFail_of_early (hlc : s.mode.lc = .blank ∨ s.mode.lc = .test) :
    exec .tamperClockFail s = .next (sendMsix (clockFailed s) true 9) := by
  change execTamperClockFail s = _
  refine (if_neg (clock_may_fail hpower hclock)).trans ?_
  rcases hlc with hlc | hlc <;> simp only [hlc, clockFailed, go]

theorem exec_tamperClockFail_of_production (hlc : s.mode.lc = .production) : exec .tamperClockFail s
    = (let s3 := lockOrders (withTp (sendMsix (clockFailed s) true 9) fun t => { t with lockPend := true, keyUse := false })
       .next (lockTaken (setMode s3 fun m => { m with lock := true }) false (min 0xFFFFFFFF (s.bbram.lockCount.toNat + 1)) 0xFF)) := by
  change execTamperClockFail s = _
  refine (if_neg (clock_may_fail hpower hclock)).trans ?_
  simp only [hlc, clockFailed, go]

end ClockFail

theorem exec_tamperClockReturn_of_failed (h : s.tp.tclkOk = false) : exec .tamperClockReturn s
    = (let s1 := withTp s fun t => { t with tclkOk := true, lockPend := false }
       .next (if s.tp.lockPend then lockBbram s1 0xFF else s1)) := by
  change execTamperClockReturn s = _
  exact if_neg (Bool.eq_false_iff.mp h)

theorem exec_tamperClockTrim_of_due (hpower : s.pwrOk = true) (hdue : s.tp.trims + beatsPerSec ≤ runNow s) :
    exec .tamperClockTrim s = .next (withTp s fun t => { t with trims := runNow s }) := by
  change execTamperClockTrim s = _
  exact if_pos (by rw [hpower, decide_eq_true hdue]; decide)

theorem exec_vbatRetentionLost_of_off (h : s.pwrOk = false) :
    exec .vbatRetentionLost s = .next (withBb s fun b => { b with retentionLost := true }) := by
  change execVbatRetentionLost s = _
  exact if_neg (Bool.eq_false_iff.mp h)

/-! ## Tamper commands -/

section Command
variable (hopen : managerOpen s) (hidle : rdF s 0x90018 24 24 ≠ 1)
include hopen hidle

/-- A tamper command that is not turned away has its effect on the state as it stands. -/
theorem tamperCmd_eq {f : State → State} {r : State} (hf : f s = r) : managerWrite s 0x90010 (fun s => tpGate s f) = .next r :=
  (managerWrite_of_managerOpen hopen 0x90010 fun s => tpGate s f).trans (congrArg go ((if_neg hidle).trans hf))

theorem exec_unlock_of_idle : exec .unlock s = .next (unlockCmd s) := by
  change execUnlock s = _
  exact tamperCmd_eq hopen hidle rfl

theorem exec_policyOverride_of_idle (b : HostRead (List Byte)) : exec (.policyOverride b) s = .next (policyCmd s b) := by
  change execPolicyOverride b s = _
  exact tamperCmd_eq hopen hidle rfl

theorem exec_inject_of_idle (n : Fin 32) (now : Nat) : exec (.inject n now) s = .next (injectCmd s n.val now) := by
  change execInject n now s = _
  exact tamperCmd_eq hopen hidle rfl

end Command

section Unlock

theorem unlockCmd_of_other (h : s.mode.lc ≠ .production) : unlockCmd s = unlockRefused s .policy 0x30 0xFF := if_pos h

section Production
variable (hlc : s.mode.lc = .production)
include hlc

theorem unlockCmd_of_no_flag (h : s.bbram.lockFlag = false) : unlockCmd s = unlockRefused s .policy 0x31 0xFF :=
  (if_neg (not_not_intro hlc)).trans (if_pos (by simp [h]))

section Flag
variable (hflag : s.bbram.lockFlag = true)
include hflag

theorem unlockCmd_of_no_tickets (h : (ticketPair s 4 (unlockArgs s)).isNone = true) : unlockCmd s = unlockRefused s .policy 0x32 0xFF :=
  (if_neg (not_not_intro hlc)).trans ((if_neg (by simp [hflag])).trans (if_pos h))

section Tickets
variable (hpair : (ticketPair s 4 (unlockArgs s)).isNone = false)
include hpair

theorem unlockCmd_of_blocked {n : Nat} (h : blocking s = some n) : unlockCmd s = unlockRefused s .policy 0x33 n := by
  refine (if_neg (not_not_intro hlc)).trans ((if_neg (by simp [hflag])).trans ((if_neg (Bool.eq_false_iff.mp hpair)).trans ?_))
  simp only [h]

theorem unlockCmd_of_clear (h : blocking s = none) : unlockCmd s
    = wrF (withTp s fun t => { t with e2 := t.e2 ++ [(Decision.unlock, s.bbram.lockCount.toNat)] }) 0x90018 24 24 1 := by
  refine (if_neg (not_not_intro hlc)).trans ((if_neg (by simp [hflag])).trans ((if_neg (Bool.eq_false_iff.mp hpair)).trans ?_))
  simp only [h]

end Tickets

end Flag

end Production

end Unlock

section Policy

theorem policyCmd_of_locked {b : HostRead (List Byte)} (h : isLocked s = true) : policyCmd s b = tpDone s .locked 0x40 0xFF := if_pos h

section Unlocked
variable {l : List Byte} (hfree : isLocked s = false) (hok : policyOk (l.take 256) = true)
include hfree hok

theorem policyCmd_of_test (hlc : s.mode.lc = .test)
    (hpair : ticketPair s 0x0D (sha256 256 (packBytes ((l.take 256).map BitVec.toNat))) = none) :
    policyCmd s (.ok l) = tpDone (setPolicy s (policyOf (l.take 256)) true) .done 0xFF 0xFF := by
  have hstate : ¬ (s.mode.lc ≠ .test ∧ s.mode.lc ≠ .production) := by simp [hlc]
  have htickets : ¬ (s.mode.lc = .production ∧ (none : Option (Held × Held)).isNone = true) := by simp [hlc]
  simp only [policyCmd, hfree, hpair, hok, if_neg hstate, if_neg htickets, Bool.not_true, Bool.false_eq_true, if_false]

theorem policyCmd_of_tickets {p : Held × Held} (hlc : s.mode.lc = .production)
    (hpair : ticketPair s 0x0D (sha256 256 (packBytes ((l.take 256).map BitVec.toNat))) = some p) :
    policyCmd s (.ok l) = tpDone (setPolicy (consumePair s p) (policyOf (l.take 256)) true) .done 0xFF 0xFF := by
  have hstate : ¬ (s.mode.lc ≠ .test ∧ s.mode.lc ≠ .production) := by simp [hlc]
  have htickets : ¬ (s.mode.lc = .production ∧ (some p).isNone = true) := by simp
  simp only [policyCmd, hfree, hpair, hok, if_neg hstate, if_neg htickets, if_pos hlc, Bool.not_true, Bool.false_eq_true, if_false]

end Unlocked

end Policy

section Inject
variable {n now : Nat}

theorem injectCmd_of_early (hlc : s.mode.lc = .blank ∨ s.mode.lc = .test) (hsource : n < 0x13) :
    injectCmd s n now = tpDone (tamperEvents s [n] now) .done 0xFF 0xFF := by
  have hstate : ¬ (s.mode.lc ≠ .blank ∧ s.mode.lc ≠ .test) := by
    rcases hlc with hlc | hlc <;> simp [hlc]
  exact (if_neg hstate).trans (if_neg (Nat.not_le.mpr hsource))

theorem injectCmd_of_late (hblank : s.mode.lc ≠ .blank) (htest : s.mode.lc ≠ .test) :
    injectCmd s n now = tpDone s .policy 0x50 0xFF := if_pos ⟨hblank, htest⟩

end Inject

end Shutters

/-! ## Noise sources -/

section Sources
variable {s : State} {r : Room}

theorem exec_healthTestFail_of_code {code : TestCode} (hlo : 1 ≤ code.val) (hhi : code.val ≤ 5) :
    exec (.healthTestFail r code) s = .next (healthFail s r.val code.val) := by
  change execHealthTestFail r code s = _
  exact if_pos ⟨hlo, hhi⟩

theorem sourceReturn_of_out (hout : (hsrc s r.val).inService = false) (hfree : capturing s r.val = false) :
    sourceReturn s r.val = setHsrc s r.val { hsrc s r.val with testing := true } := if_neg (by rw [hout, hfree]; decide)

theorem captureStart_of_idle (hanalysis : s.mode.lc ≠ .analysis) (hretired : s.mode.lc ≠ .retired) (hidle : s.ns.capBusy = false) :
    captureStart s r.val = { s with ns := { s.ns with
      capBusy := true, capRoom := r.val, capWasIn := (hsrc s r.val).inService, capFail := 0, cap := [], capBits := 0, capStop := false } } :=
  if_neg (by simp [hanalysis, hretired, hidle])

theorem captureStart_of_busy (hbusy : s.ns.capBusy = true) : captureStart s r.val = evt s 11 4 := if_pos (.inr (.inr hbusy))

section Commands
variable (hopen : managerOpen s)
include hopen

theorem exec_sourceTakeOut_of_managerOpen : exec (.sourceTakeOut r) s = .next (sourceOut s r.val) :=
  managerWrite_of_managerOpen hopen 0xB0020 fun s => sourceOut s r.val

theorem exec_sourceReturn_of_managerOpen : exec (.sourceReturn r) s = .next (sourceReturn s r.val) :=
  managerWrite_of_managerOpen hopen 0xB0018 fun s => sourceReturn s r.val

theorem exec_captureStart_of_managerOpen : exec (.captureStart r) s = .next (captureStart s r.val) :=
  managerWrite_of_managerOpen hopen 0xB0028 fun s => captureStart s r.val

theorem exec_nsCfgWrite_of_managerOpen (val : Word) : exec (.nsCfgWrite val) s = .next (nsCfg s val) :=
  managerWrite_of_managerOpen hopen 0xB0010 fun s => nsCfg s val

theorem exec_captureAbort_of_managerOpen : exec .captureAbort s = .next (captureAbort s) :=
  managerWrite_of_managerOpen hopen 0xB0028 captureAbort

end Commands

/-! ## Raw bits and captures -/

section RawBit
variable {b : Bool}

theorem exec_rawBit_of_out (hfree : capturing s r.val = false) (hout : (hsrc s r.val).inService = false) :
    exec (.rawBit r b 0) s = .next s := by
  change execRawBit r b 0 s = _
  exact if_pos (by rw [hfree, hout]; decide)

/-- The continuous tests' answer on a raw bit of a source. -/
def rawTests (s : State) (r : Room) (b : Bool) : Hsrc × Nat := bitTests (hsrc s r.val) b (rdF s 0xB0010 31 24) (rdF s 0xB0010 41 32)

theorem exec_rawBit_of_shared (hfree : capturing s r.val = false) (hin : (hsrc s r.val).inService = true) : exec (.rawBit r b 0) s
    = if (rawTests s r b).2 = 0 then .next (shareBit (countBit s r.val (rawTests s r b).1) r.val b)
      else .next (healthFail (countBit s r.val (rawTests s r b).1) r.val (rawTests s r b).2) := by
  have hdelivers : ¬ (!((hsrc s r.val).inService || capturing s r.val)) = true := by rw [hin, hfree]; decide
  change execRawBit r b 0 s = _
  exact (if_neg hdelivers).trans (if_neg (Bool.eq_false_iff.mp hfree))

theorem exec_rawBit_of_captured (hcapture : capturing s r.val = true) (hpass : (rawTests s r b).2 = 0) :
    exec (.rawBit r b 0) s = .next (captureBit (countBit s r.val (rawTests s r b).1) b) := by
  have hdelivers : ¬ (!((hsrc s r.val).inService || capturing s r.val)) = true := by rw [hcapture, Bool.or_true]; decide
  change execRawBit r b 0 s = _
  exact (if_neg hdelivers).trans ((if_pos hcapture).trans (congrArg (fun t => go (captureBit t b)) (if_pos hpass)))

end RawBit

section Configure
variable {val : Word}

theorem nsCfg_of_allowed (hlc : s.mode.lc = .blank ∨ s.mode.lc = .test) (hrct : bits val 31 24 ≤ 0x29) (hapt : bits val 41 32 ≤ 0x320)
    (hlive : 0x100 ≤ bits val 9 0) (hlock : 0x10 ≤ bits val 23 16) : nsCfg s val = wr s 0xB0010 (val &&& 0x000003FFFFFF03FF) :=
  if_pos ⟨hlc, hrct, hapt, hlive, hlock⟩

theorem nsCfg_of_late (hblank : s.mode.lc ≠ .blank) (htest : s.mode.lc ≠ .test) : nsCfg s val = evt s 11 5 :=
  if_neg fun h => h.1.elim hblank htest

end Configure

section Capture
variable (hbusy : s.ns.capBusy = true)
include hbusy

theorem captureAbort_of_boundary (h : s.ns.capBits % 64 = 0) : captureAbort s = captureEnd s :=
  (if_neg (by simp [hbusy])).trans (if_pos h)

theorem captureAbort_of_inside (h : s.ns.capBits % 64 ≠ 0) : captureAbort s = { s with ns := { s.ns with capStop := true } } :=
  (if_neg (by simp [hbusy])).trans (if_neg h)

theorem exec_captureDone_of_full (h : s.ns.capBits = captureSize) : exec .captureDone s = .next (captureEnd s) := by
  change execCaptureDone s = _
  exact if_pos (by rw [hbusy, h, beq_self_eq_true]; decide)

end Capture

theorem exec_captureDataRead_of_few (h : s.ns.cap.length < 64) : exec .captureDataRead s = .next (wr s 0xB0038 0) := by
  change go (captureRead s) = _
  exact congrArg go (if_pos h)

theorem exec_captureDataRead_of_many (h : 64 ≤ s.ns.cap.length) : exec .captureDataRead s
    = .next (wr { s with ns := { s.ns with cap := s.ns.cap.drop 64 } } 0xB0038 (BitVec.ofNat 64 (bitsNum (s.ns.cap.take 64)))) := by
  change go (captureRead s) = _
  exact congrArg go (if_neg (Nat.not_lt.mpr h))

end Sources

/-- Settles O59: the shutters split on power and life cycle, the hearth on what is in service and what is captured. -/
theorem tamperResponsesAndNoise : Obligations.TamperResponsesAndNoise := by
  intro s
  refine ⟨fun _ _ => rfl, fun n now => exec_alarmLevelExit_of_past, exec_alarmPulseEnd_of_pulse, fun hpower hclock =>
      ⟨exec_tamperClockFail_of_late hpower hclock, exec_tamperClockFail_of_early hpower hclock,
        exec_tamperClockFail_of_production hpower hclock⟩, exec_tamperClockReturn_of_failed, exec_tamperClockTrim_of_due,
    exec_vbatRetentionLost_of_off, fun hopen hidle => ?commands, fun r => ⟨fun code => exec_healthTestFail_of_code, fun hopen => ?sources,
      fun b => ⟨fun hfree hin => ⟨fun hpass => ?pass, fun hfail => ?fail⟩, exec_rawBit_of_captured, exec_rawBit_of_out⟩⟩,
    fun hopen val => ?hearth, exec_captureDone_of_full, exec_captureDataRead_of_few, exec_captureDataRead_of_many⟩
  case commands =>
    have hunlock := exec_unlock_of_idle hopen hidle
    have hpolicy := exec_policyOverride_of_idle hopen hidle
    have hinject := exec_inject_of_idle hopen hidle
    exact ⟨fun hlc => hunlock.trans (congrArg _ (unlockCmd_of_other hlc)), fun hlc hflag =>
        hunlock.trans (congrArg _ (unlockCmd_of_no_flag hlc hflag)), fun hlc hflag hpair =>
        hunlock.trans (congrArg _ (unlockCmd_of_no_tickets hlc hflag hpair)), fun hlc hflag hpair =>
        ⟨fun n h => hunlock.trans (congrArg _ (unlockCmd_of_blocked hlc hflag hpair h)),
          fun h => hunlock.trans (congrArg _ (unlockCmd_of_clear hlc hflag hpair h))⟩,
      fun hlocked b => (hpolicy b).trans (congrArg _ (policyCmd_of_locked hlocked)), fun hfree hlc l hok hpair =>
        (hpolicy _).trans (congrArg _ (policyCmd_of_test hfree hok hlc hpair)), fun hfree hlc l p hok hpair =>
        (hpolicy _).trans (congrArg _ (policyCmd_of_tickets hfree hok hlc hpair)), fun n now =>
        ⟨fun hlc hsource => (hinject n now).trans (congrArg _ (injectCmd_of_early hlc hsource)),
          fun hblank htest => (hinject n now).trans (congrArg _ (injectCmd_of_late hblank htest))⟩⟩
  case sources =>
    exact ⟨fun hin => (exec_sourceTakeOut_of_managerOpen hopen).trans (congrArg _ (if_pos hin)), fun hout =>
        (exec_sourceTakeOut_of_managerOpen hopen).trans (congrArg _ (if_neg (Bool.eq_false_iff.mp hout))), fun hout hfree =>
        (exec_sourceReturn_of_managerOpen hopen).trans (congrArg _ (sourceReturn_of_out hout hfree)), fun hanalysis hretired hidle =>
        (exec_captureStart_of_managerOpen hopen).trans (congrArg _ (captureStart_of_idle hanalysis hretired hidle)), fun hbusy =>
        (exec_captureStart_of_managerOpen hopen).trans (congrArg _ (captureStart_of_busy hbusy))⟩
  case pass => exact (exec_rawBit_of_shared hfree hin).trans (if_pos hpass)
  case fail => exact (exec_rawBit_of_shared hfree hin).trans (if_neg hfail)
  case hearth =>
    exact ⟨fun hlc hrct hapt hlive hlock => (exec_nsCfgWrite_of_managerOpen hopen val).trans
        (congrArg _ (nsCfg_of_allowed hlc hrct hapt hlive hlock)), fun hblank htest =>
        (exec_nsCfgWrite_of_managerOpen hopen val).trans (congrArg _ (nsCfg_of_late hblank htest)), fun hbusy h =>
        (exec_captureAbort_of_managerOpen hopen).trans (congrArg _ (captureAbort_of_boundary hbusy h)), fun hbusy h =>
        (exec_captureAbort_of_managerOpen hopen).trans (congrArg _ (captureAbort_of_inside hbusy h))⟩

end Machine
end Sys2Proof
end

section
/-! PROOF. Upkeep and the attic: the scrubber, vault flash, reports and buckets, the mirror, reading, copying and clearing. -/

namespace Sys2Proof
namespace Machine

/-! ## The scrubber and vault flash -/

section Scrub
variable {s : State} {w : Nat} {h : ScrubHolds}

/-- Only word 0 of class 0 ends a pass of the scrubber. -/
theorem scrubPass_of_inside {m : Nat} (hinside : ¬ (m = 0 ∧ w = 0)) : scrubPass s m w = s := if_neg hinside

theorem exec_scrubRead_of_inside {cls : Fin 10} (hinside : ¬ (cls.val = 0 ∧ w = 0)) (ecc : Ecc) :
    exec (.scrubRead cls w h ecc) s = .next (scrubWord s cls.val w h ecc) := by
  change execScrubRead cls w h ecc s = _
  rw [execScrubRead, scrubPass_of_inside hinside]

/-- A word of the rooms' memories counts for its class and for its room. -/
theorem wordCE_of_room : ∀ {m : Nat}, m ≤ 2 → wordCE s m w h = roomCE (memCE s m 1) (wordRoom m w)
  | 0, _ => rfl
  | 1, _ => rfl
  | 2, _ => rfl

theorem wordCE_of_larder {m : Nat} (hm : m = 6) : wordCE s m w h = larderCE s := by
  subst hm
  rfl

/-- A word of the remaining classes but 9 counts for its class alone. -/
theorem wordCE_of_class {m : Nat} (hm : m = 3 ∨ m = 4 ∨ m = 5 ∨ m = 7 ∨ m = 8) : wordCE s m w h = memCE s m 1 := by
  rcases hm with rfl | rfl | rfl | rfl | rfl <;> rfl

end Scrub

section Flash
variable {s : State}

theorem exec_programStoreRewrite_of_listed {w : Nat} (hlisted : (s.ec.rewrite.any fun r => r.1 == w) = true) :
    exec (.programStoreRewrite w) s
    = .next (clearPoison { s with ec := { s.ec with rewrite := s.ec.rewrite.filter fun r => r.1 != w } } 3 [w]) := by
  change execProgramStoreRewrite w s = _
  exact if_pos hlisted

section Block
variable {block a : Nat} {ok : Bool} (harea : vfArea block = some a)
include harea

theorem exec_vfProgramDone_of_area : exec (.vfProgramDone block ok) s = .next (programDone s block a ok) := by
  change execVfProgramDone block ok s = _
  simp only [execVfProgramDone, harea, go]

theorem exec_vfEraseDone_of_area : exec (.vfEraseDone block ok) s = .next (eraseDone s block a ok) := by
  change execVfEraseDone block ok s = _
  simp only [execVfEraseDone, harea, go]

end Block

section Refresh
variable {area : Fin 9} {n : Nat}

theorem exec_vfPageRefresh_of_many (hlo : 24 < n) (hhi : n ≤ 32) : exec (.vfPageRefresh area n) s = .next (pageRefresh s area.val) := by
  change execVfPageRefresh area n s = _
  exact if_pos ⟨hlo, hhi⟩

theorem exec_vfPageRefresh_of_few (hfew : n ≤ 24) : exec (.vfPageRefresh area n) s = .next s := by
  change execVfPageRefresh area n s = _
  exact if_neg fun h => Nat.not_lt.mpr hfew h.1

end Refresh

end Flash

/-! ## Reports and buckets -/

section Reports
variable {s : State}

section Loaded
variable (hloaded : s.ev.loaded = true)
include hloaded

theorem exec_atticReport_of_prio {r : Report} {rest : List Report} (hprio : s.ev.prio = r :: rest) :
    exec .atticReport s = .next (judge { s with ev := { s.ev with prio := rest } } r) := by
  change execAtticReport s = _
  simp only [execAtticReport, hloaded, hprio, Bool.not_true, Bool.false_eq_true, if_false, withEv, go]

theorem exec_atticReport_of_general {r : Report} {rest : List Report} (hprio : s.ev.prio = []) (hgeneral : s.ev.general = r :: rest) :
    exec .atticReport s = .next (judge { s with ev := { s.ev with general := rest } } r) := by
  change execAtticReport s = _
  simp only [execAtticReport, hloaded, hprio, hgeneral, Bool.not_true, Bool.false_eq_true, if_false, withEv, go]

theorem exec_bucketRefill_of_due {code : Fin 1024} (hlimited : exempt code.val = false)
    (hroom : (bucketOf s code.val).tokens < (bucketOf s code.val).depth)
    (hperiod : runNow s % 2 ^ (bucketOf s code.val).period = 0) (honce : (bucketOf s code.val).gained ≠ runNow s + 1) :
    exec (.bucketRefill code) s = .next (refill s code.val) := by
  have hdue : refillDue s (bucketOf s code.val) = true := by
    rw [refillDue, decide_eq_true hroom, hperiod, bne_iff_ne.mpr honce]
    decide
  change execBucketRefill code s = _
  exact if_pos (by rw [hloaded, hlimited, hdue]; decide)

theorem exec_queueRoomLostEntry_of_room (hdropped : s.ev.dropped ≠ 0) (hroom : s.ev.general.length < 256) :
    exec .queueRoomLostEntry s = .next (trimSram (lostEntry { s with ev := { s.ev with dropped := 0 } } s.ev.dropped 1)) := by
  change execQueueRoomLostEntry s = _
  exact if_pos (by rw [hloaded, bne_iff_ne.mpr hdropped, decide_eq_true hroom]; decide)

theorem exec_mirrorProgram_of_due {page : Nat} (hkey : s.keys.vault = true) (hdue : mirrorDue s page = true)
    (hjournal : pageDue s = false ∨ journalPages s ≤ s.ks.durable.length) : exec (.mirrorProgram page) s
    = (let v1 := { s.ev with
         mirror := (s.ev.entries.filter fun p => pageOf p.1 == page && !s.ev.poisoned.contains p.1).foldl (fun t p => tins t p.1 p.2)
           s.ev.mirror
         pageRun := tdel s.ev.pageRun page }
       .next { s with ev := v1 }) := by
  have hfirst : (pageDue s && decide (s.ks.durable.length < journalPages s)) = false := by
    rcases hjournal with h | h
    · rw [h, Bool.false_and]
    · rw [decide_eq_false (Nat.not_lt.mpr h), Bool.and_false]
  change execMirrorProgram page s = _
  exact if_pos (by rw [hkey, hloaded, hdue, hfirst]; decide)

end Loaded

section Judge
variable {r : Report}

theorem judge_of_exempt (hexempt : exempt r.code = true) : judge s r = writeEntry s r.code r.src r.data := if_pos hexempt

section Limited
variable (hlimited : exempt r.code = false)
include hlimited

theorem judge_of_token (htokens : (bucketOf s r.code).tokens ≠ 0) : judge s r
    = writeEntry (setBucket s r.code { bucketOf s r.code with tokens := (bucketOf s r.code).tokens - 1 }) r.code r.src r.data :=
  (if_neg (Bool.eq_false_iff.mp hlimited)).trans (if_neg htokens)

theorem judge_of_no_token (htokens : (bucketOf s r.code).tokens = 0) : judge s r
    = setBucket s r.code { bucketOf s r.code with
        suppressed := min 0xFFFFFFFF ((bucketOf s r.code).suppressed + 1)
        firstSec := if (bucketOf s r.code).suppressed = 0 then secNow s else (bucketOf s r.code).firstSec } :=
  (if_neg (Bool.eq_false_iff.mp hlimited)).trans (if_pos htokens)

end Limited

end Judge

theorem rateWrite_of_limited {val : Word} (hlimited : exempt (rdF s 0xD0080 9 0) = false) : rateWrite s val
    = setBucket s (rdF s 0xD0080 9 0)
        { tokens := max 1 (bits val 23 16), depth := max 1 (bits val 23 16), period := bits val 12 8, suppressed := 0, firstSec := 0 } :=
  if_neg (Bool.eq_false_iff.mp hlimited)

theorem rateWrite_of_exempt {val : Word} (hexempt : exempt (rdF s 0xD0080 9 0) = true) : rateWrite s val = s := if_pos hexempt

end Reports

/-! ## Copying, clearing and reading -/

section Commands
variable {s : State}

section Open
variable (hopen : managerOpen s)
include hopen

theorem exec_rateWrite_of_managerOpen (val : Word) : exec (.rateWrite val) s = .next (rateWrite s val) :=
  managerWrite_of_managerOpen hopen 0xD0088 fun s => rateWrite s val

theorem exec_copy_of_managerOpen : exec .copy s = .next (copyCmd s) := managerWrite_of_managerOpen hopen 0xD0010 copyCmd

theorem exec_clear_of_managerOpen : exec .clear s = .next (clearCmd s) := managerWrite_of_managerOpen hopen 0xD0010 clearCmd

theorem exec_atticRead_of_managerOpen (seq : BitVec 32) : exec (.atticRead seq) s = .next (atticRead s seq.toNat) :=
  managerWrite_of_managerOpen hopen 0xD0038 fun s => atticRead s seq.toNat

end Open

section Copying
variable (hcopying : s.ev.copying = true)
include hcopying

theorem copyCmd_of_copying : copyCmd s = evt s 13 2 := if_pos hcopying
theorem clearCmd_of_copying : clearCmd s = evt s 13 2 := if_pos hcopying

theorem exec_atticCopyDone_of_unread :
    exec (.atticCopyDone false) s = .next (evDone { s with ev := { s.ev with copying := false } } .aborted 0xFF) := by
  change execAtticCopyDone false s = _
  exact if_neg (by simp [hcopying])

theorem exec_atticCopyDone_of_read (hissue : canIssue s true = true) : exec (.atticCopyDone true) s
    = (let r := copyEntries { s with ev := { s.ev with copying := false } }
         ((List.range (rdF s 0xD0028 16 0)).map fun i => keyOfSeq s (rdF s 0xD0028 63 32 + i))
       .next (evDone { r.1 with out := .atticCopy (rd s 0xD0020) r.2 :: r.1.out } .done 0xFF)) := by
  change execAtticCopyDone true s = _
  exact (if_neg (by simp [hcopying])).trans (if_pos hissue)

end Copying

section Idle
variable (hidle : s.ev.copying = false)
include hidle

theorem evBusy_of_idle : ¬ evBusy s = true := by simp [evBusy, hidle]

theorem copyCmd_of_bad_count (hcount : rdF s 0xD0028 16 0 = 0 ∨ 69632 < rdF s 0xD0028 16 0) :
    copyCmd s = evDone s .malformed 0xFF := (if_neg (evBusy_of_idle hidle)).trans (if_pos hcount)

theorem copyCmd_of_count (hlo : 0 < rdF s 0xD0028 16 0) (hhi : rdF s 0xD0028 16 0 ≤ 69632) :
    copyCmd s = wrF { s with ev := { s.ev with copying := true } } 0xD0018 24 24 1 :=
  (if_neg (evBusy_of_idle hidle)).trans (if_neg fun h => h.elim hlo.ne' (Nat.not_lt.mpr hhi))

theorem clearCmd_of_locked (hlocked : isLocked s = true) : clearCmd s = clearRefused s .locked 0x90 :=
  (if_neg (evBusy_of_idle hidle)).trans (if_pos hlocked)

section Unlocked
variable (hfree : isLocked s = false)
include hfree

theorem clearCmd_of_other (hlc : s.mode.lc ≠ .production) : clearCmd s = clearRefused s .policy 0x91 :=
  (if_neg (evBusy_of_idle hidle)).trans ((if_neg (Bool.eq_false_iff.mp hfree)).trans (if_pos hlc))

section Production
variable (hlc : s.mode.lc = .production) (hquota : clearsOf s < 255)
include hlc hquota

theorem clearCmd_of_no_tickets (hpair : ticketPair s 0x0B (clearsOf s + 1) = none) : clearCmd s = clearRefused s .policy 0x93 := by
  refine (if_neg (evBusy_of_idle hidle)).trans ((if_neg (Bool.eq_false_iff.mp hfree)).trans ((if_neg (not_not_intro hlc)).trans
    ((if_neg (Nat.not_le.mpr hquota)).trans ?_)))
  simp only [hpair]

theorem clearCmd_of_tickets {t : Held × Held} (hpair : ticketPair s 0x0B (clearsOf s + 1) = some t) : clearCmd s = clearNow s t := by
  refine (if_neg (evBusy_of_idle hidle)).trans ((if_neg (Bool.eq_false_iff.mp hfree)).trans ((if_neg (not_not_intro hlc)).trans
    ((if_neg (Nat.not_le.mpr hquota)).trans ?_)))
  simp only [hpair]

end Production

end Unlocked

end Idle

section ReadDone
variable {key : Nat} (hreading : s.ev.reading = some key)
include hreading

theorem exec_atticReadDone_of_held {e : Entry} (hentry : tfind (readable s) key = some e) :
    exec .atticReadDone s = .next (readSts (setData { s with ev := { s.ev with reading := none } } e) false true) := by
  change execAtticReadDone s = _
  simp only [execAtticReadDone, hreading, hentry, withEv, go]

theorem exec_atticReadDone_of_gone (hnone : tfind (readable s) key = none) :
    exec .atticReadDone s = .next (readSts (setData { s with ev := { s.ev with reading := none } } 0) false false) := by
  change execAtticReadDone s = _
  simp only [execAtticReadDone, hreading, hnone, withEv, go]

end ReadDone

end Commands

/-- Settles O60: upkeep splits on the class of the word and the area of the block, the attic on its queues, its tokens and the copy
under way. -/
theorem upkeepAndTheAttic : Obligations.UpkeepAndTheAttic := by
  intro s
  refine ⟨fun cls w h hinside => ⟨exec_scrubRead_of_inside hinside .ok, ⟨exec_scrubRead_of_inside hinside .corrected, wordCE_of_room,
      wordCE_of_larder, wordCE_of_class⟩, exec_scrubRead_of_inside hinside .uncorrectable⟩, fun w => exec_programStoreRewrite_of_listed,
    fun block a ok harea => ⟨exec_vfProgramDone_of_area harea, exec_vfEraseDone_of_area harea⟩, fun _ _ => ⟨rfl, rfl⟩,
    fun area n => ⟨exec_vfPageRefresh_of_many, exec_vfPageRefresh_of_few⟩, fun hloaded => ⟨fun r rest => exec_atticReport_of_prio hloaded,
      fun r rest => exec_atticReport_of_general hloaded, fun code => exec_bucketRefill_of_due hloaded,
      exec_queueRoomLostEntry_of_room hloaded⟩, fun r => ⟨judge_of_exempt, judge_of_token, judge_of_no_token⟩,
    fun page hkey hloaded => exec_mirrorProgram_of_due hloaded hkey, fun hopen val => ?commands, fun key hreading =>
      ⟨fun e => exec_atticReadDone_of_held hreading, exec_atticReadDone_of_gone hreading⟩, fun hcopying =>
      ⟨exec_atticCopyDone_of_unread hcopying, exec_atticCopyDone_of_read hcopying⟩⟩
  case commands =>
    have hrate := exec_rateWrite_of_managerOpen hopen val
    have hcopy := exec_copy_of_managerOpen hopen
    have hclear := exec_clear_of_managerOpen hopen
    exact ⟨fun hlimited => hrate.trans (congrArg _ (rateWrite_of_limited hlimited)), fun hexempt =>
        hrate.trans (congrArg _ (rateWrite_of_exempt hexempt)), fun hcopying =>
        ⟨hcopy.trans (congrArg _ (copyCmd_of_copying hcopying)), hclear.trans (congrArg _ (clearCmd_of_copying hcopying))⟩, fun hidle =>
        ⟨fun hcount => hcopy.trans (congrArg _ (copyCmd_of_bad_count hidle hcount)), fun hlo hhi =>
          hcopy.trans (congrArg _ (copyCmd_of_count hidle hlo hhi)), fun hlocked =>
          hclear.trans (congrArg _ (clearCmd_of_locked hidle hlocked)), fun hfree hlc =>
          hclear.trans (congrArg _ (clearCmd_of_other hidle hfree hlc)), fun hfree hlc hquota =>
          ⟨fun hpair => hclear.trans (congrArg _ (clearCmd_of_no_tickets hidle hfree hlc hquota hpair)),
            fun t hpair => hclear.trans (congrArg _ (clearCmd_of_tickets hidle hfree hlc hquota hpair))⟩⟩,
      fun seq => exec_atticRead_of_managerOpen hopen seq⟩

end Machine
end Sys2Proof
end
